-- ==== Sys2Proof/Word.lean ====
section
/-! DEFINITION. The word types of the model and their plainest reading. Everything in the block is little-endian
and bit 0 of a field is its least significant bit (R2). -/

namespace Sys2Proof

/-- One byte. -/
abbrev Byte := BitVec 8

/-- A byte string, byte 0 first. -/
abbrev Bytes := List Byte

/-- A line of memory: 128 bytes, byte i in bits [8i+7:8i] (R2, R31). -/
abbrev Line := BitVec 1024

/-- The data of one beat at `mreq_*`, `mctl_*`, `lreq_*` or `lphy_*`: 256 bytes (R28, R36, R40, R42). -/
abbrev Beat := BitVec 2048

/-- A 64-byte unit of a packet's payload (R170). -/
abbrev Unit64 := BitVec 512

/-- A 64-bit register. -/
abbrev Reg := BitVec 64

end Sys2Proof
end

