-- ==== Sys2Proof/Syntax.lean ====
section
/-! DEFINITION. The commands of the block, one constructor per row of the table of operations and events, and the
data each command carries. The table gives no bits and no operand fields, so a command carries what crosses the port
at it: the signals of the port tables, the packet, the descriptor, the bytes that the host chip or the memory
controller returns, or the number of the work item the event belongs to (log 1). -/

namespace Sys2Proof

/-- The status codes of R325. -/
inductive Status where
  | ok | retryLater | notReady | timeout | quiesced | engineReset
  | badOpcode | badOperand | translationFault | fenceRegression
  | noKey | keyOrphaned | keyCorrupt | keyUsage | keyEngine | ctrExhausted
  | integrityFail | poisoned | jobTorn | licenseExhausted
  | locked | deniedLifecycle | debugOpen
  deriving DecidableEq, Repr

/-- What the host chip returns to a read at `hcp_*`: bytes, or `hcp_i_d_err` (R46, R321). -/
inductive HostRead where
  | data (b : Bytes)
  | err
  deriving DecidableEq, Repr

/-- A counter node as the controller returns it: the error flag and the 64 bytes (R36, R140); `late` when its read passed
its deadline (R205). -/
structure NodeReturn where
  err : Bool := false
  node : BitVec 512 := 0
  late : Bool := false
  deriving DecidableEq, Repr

/-- What the memory controller returns for one line: the stored data, the tag sector of 32 bytes that holds the
line's tag slot, that of the companion line's slot, and the counter nodes fetched, leaf first (R36, R137, R138, R141);
`late` when its data or tag read passed its deadline (R205). -/
structure LineReturn where
  err : Bool := false
  data : Line := 0
  tagErr : Bool := false
  tag : BitVec 256 := 0
  tag2Err : Bool := false
  tag2 : BitVec 256 := 0
  nodes : List NodeReturn := []
  late : Bool := false
  deriving DecidableEq, Repr

/-- The sealed accesses made inside one step: the lines the controller returns, in the order read, and how the
accesses to the block's own records ended when they did not succeed (R127, R158 to R163, R207). -/
structure Access where
  rets : List LineReturn := []
  fail : Option Status := none
  deriving DecidableEq, Repr

/-- A source line of a DMA descriptor, from memory or from the host, with the bytes of its scale stream (R250). -/
inductive SourceLine where
  | mem (r : LineReturn) (scale : Bytes)
  | host (r : HostRead) (scale : Bytes)
  deriving DecidableEq, Repr

/-- A request at the `mreq_*` port of one MCE, with its sideband (R28, R29). -/
structure MemReq where
  mce : Nat
  op : BitVec 2 := 0
  len : BitVec 2 := 1
  addr : BitVec 37
  tag : BitVec 10 := 0
  keyIdx : BitVec 14 := 0
  ctx : BitVec 16 := 0
  cls : BitVec 4 := 0
  rqid : BitVec 6 := 0
  narrow : Bool := false
  deriving DecidableEq, Repr

/-- A request at the `lreq_*` port of one LPE (R40). -/
structure LinkReq where
  lpe : Nat
  ty : BitVec 4 := 0
  dst : BitVec 12 := 0
  job : BitVec 16 := 0
  ctx : BitVec 16 := 0
  pclass : BitVec 2 := 0
  addr : BitVec 56 := 0
  len : BitVec 6 := 0
  tag : BitVec 12 := 0
  deriving DecidableEq, Repr

/-- A packet that arrives at `lphy_rx` of one LPE: header, payload as sent (ciphertext unless the class is open), and
tag (R170, R176). -/
structure RxPacket where
  lpe : Nat
  hdr : BitVec 256
  payload : List Unit64 := []
  tag : BitVec 128 := 0
  /-- 16-byte units that the beats carry beyond whole 64-byte units of payload: none in a packet that R170 allows. -/
  extra : BitVec 2 := 0
  deriving DecidableEq, Repr

/-- A time stamp of the LPE: tick and fraction in 1/65,536 ns (R425). -/
structure Stamp where
  tick : BitVec 64
  frac : BitVec 16 := 0
  deriving DecidableEq, Repr

/-- A patch slot as the boot flash returns it (R451, R454). -/
structure FlashRead where
  image : Bytes
  deriving DecidableEq, Repr

/-- A relayed answer at `mgmt_*`: the operation and the frames of its header (R68, R69). -/
structure RpmbAnswer where
  op : BitVec 8 := 1
  frames : List Bytes := []
  deriving DecidableEq, Repr

/-- What kindling step 3 finds of the replay-protected store (R113, R443, R444). -/
inductive StoreAnswer where
  | present | unprogrammed | mismatch | absent
  deriving DecidableEq, Repr

/-- What the world outside gives a kindling step that ends (R443, R444, R450, R455). -/
structure StepReport where
  pass : Bool := true
  store : StoreAnswer := .present
  /-- The STARTUP_DEBUG area, unless it is erased (R441, R450). -/
  startupCert : Option Bytes := none
  slotA : FlashRead := ⟨[]⟩
  slotB : FlashRead := ⟨[]⟩
  /-- The CERTS area of the flash (R450). -/
  certs : Bytes := []
  /-- Whether the Akoirno certificates in it verify to the digests of Ordamund's root keys in the ROM (R389): the spec does not say
  where those keys stand. -/
  rootsOk : Bool := false
  deriving DecidableEq, Repr

/-- What RFC 5280 asks of the peer's two chains beyond the keys and signatures that the block verifies (names, validity,
extensions): whether it holds (R388, R400). -/
structure PeerVerdict where
  pathOk : Bool
  deriving DecidableEq, Repr

/-- The algorithms a requester offers in SPDM NEGOTIATE_ALGORITHMS (R393). -/
structure SpdmAlgs where
  asym : BitVec 32
  hash : BitVec 32
  dhe : BitVec 16
  aead : BitVec 16
  deriving DecidableEq, Repr

/-- The instructions of the `tap_*` port: BYPASS, IDCODE and one for each debug right (R70, R439). -/
inductive TapInstr where
  | bypass | idcode | observe | seqDebug | sramRead | scan | trim | lcRead | bist
  deriving DecidableEq, Repr

/-- A port shell, with its instance where the port has one per engine (R25). -/
inductive Shell where
  | mreq (n : Nat) | mctl (n : Nat) | lreq (n : Nat) | lphy (n : Nat)
  | hcp | kxp | gov | tref | boot | mgmt | tap
  deriving DecidableEq, Repr

/-- A SRAM error that a pass or a read meets: array class of R465, word or entry index, and whether it is
correctable (R464, R465). -/
structure SramError where
  cls : Nat
  index : Nat
  correctable : Bool
  deriving DecidableEq, Repr

/-- One canary's rate and its engine's need per lane, in blocks per second (R420). -/
structure CanaryRate where
  engine : Nat
  rate : Nat
  need : Nat
  deriving DecidableEq, Repr

/-- What the public-key and hash engine answers: a verdict or bytes (R381). -/
inductive PkhResult where
  | verdict (ok : Bool)
  | bytes (b : Bytes)
  deriving DecidableEq, Repr

/-- What the world outside decides of one request of a traffic generator run: the lines that the controller returns, and
the ticks that the request took (R169). -/
structure GenOutcome where
  rets : List LineReturn := []
  latency : Nat := 0
  deriving DecidableEq, Repr

/-- A descriptor: 64 bytes, byte i in bits [8i+7:8i] (R316). -/
abbrev Descriptor := BitVec 512


/-- The commands of the block: one constructor per row of the table. -/
inductive Instr where
  /-- POR_ASSERT (R62). por_n falls: all shells reset, block_safe goes high, and an unwarned loss is recorded when the fall is outside the permitted times. -/
  | porAssert
  /-- KINDLING (R443). With por_n and pwr_good both high, kindling starts from step 1: ROM self-test, life-cycle decode and trim load. -/
  | kindling
  /-- KINDLING_STEP_DONE (R443). A timed kindling step ends; the next step starts, or kindling stops as R444 states. -/
  | kindlingStepDone (r : StepReport)
  /-- PWR_GOOD_FALL (R62). pwr_good falls without a warning: an unwarned loss. -/
  | pwrGoodFall
  /-- PWR_FAIL_WARN (R447). Shut-down: credits are withheld, meters are queued, keys are dropped and zeroised, and block_safe is raised. -/
  | pwrFailWarn (supplyBack : Bool)
  /-- MREQ_READ (R127). A read request at mreq_* is checked, its region and key are looked up, and the reads are issued at mctl_*. -/
  | mreqRead (r : MemReq)
  /-- MREQ_WRITE (R127). A write request and its beat at mreq_* are checked, sealed and written at mctl_* with tag and counters. -/
  | mreqWrite (r : MemReq) (data : Beat) (sibs : List LineReturn)
  /-- MCTL_READ_RETURN (R38). Read data returns from the controller; the MCE verifies the tag and counters and answers on D, or poisons the line. -/
  | mctlReadReturn (mce : Nat) (tag : BitVec 12) (err : Bool) (data : Beat) (sibs : List LineReturn)
  /-- KEY_FILL_ARRIVAL (R106). A key fill reaches an engine's cache; it is installed, or it is discarded when its sequence number is stale. -/
  | keyFillArrival (engine : Nat) (slot : Nat) (sibs : List LineReturn)
  /-- DROP_ORDER (R105). An engine receives a key-cache drop order, drops the matching schedules and acknowledges. -/
  | dropOrder (engine : Nat)
  /-- DROP_ACK (R105). An engine's drop acknowledgement reaches the sequencer, which may then complete the invalidation. -/
  | dropAck (engine : Nat)
  /-- KXP_DONE (R52). An export destination answers its last order with kxp_done. -/
  | kxpDone (dest : Nat)
  /-- LREQ_LOAD (R188). A LOAD request at lreq_* is sealed and sent as a LOAD packet. -/
  | lreqLoad (r : LinkReq) (acc : Access)
  /-- LREQ_LOAD_CACHE (R194). A LOAD_CACHE request for one line is sent at a port of that line. -/
  | lreqLoadCache (r : LinkReq) (acc : Access)
  /-- LREQ_STORE (R188). A STORE request and its beats are split into sealed STORE packets. -/
  | lreqStore (r : LinkReq) (beats : List Beat) (acc : Access)
  /-- LREQ_ATOMIC (R41). An ATOMIC request with its parameter beat is sealed and sent. -/
  | lreqAtomic (r : LinkReq) (beats : List Beat) (acc : Access)
  /-- LREQ_COPY (R192). A COPY request is sent as COPY packets and completes once the last packet has left. -/
  | lreqCopy (r : LinkReq) (beats : List Beat) (acc : Access)
  /-- LREQ_REDUCE (R226). A REDUCE request is sealed in pair class and completes once its last packet has left. -/
  | lreqReduce (r : LinkReq) (beats : List Beat) (acc : Access)
  /-- LREQ_INVALIDATE (R197). An INVALIDATE request for one line is sent to the home's directory port. -/
  | lreqInvalidate (r : LinkReq) (acc : Access)
  /-- RX_LOAD (R189). An inbound LOAD passes R181 and the job check, and it is served through the MCE with CPL_DATA. -/
  | rxLoad (p : RxPacket) (acc : Access)
  /-- RX_LOAD_CACHE (R196). The home records a sharer or answers uncached, as the directory entry allows. -/
  | rxLoadCache (p : RxPacket) (acc : Access)
  /-- RX_STORE (R191). An inbound STORE is written through the MCE and answered with CPL. -/
  | rxStore (p : RxPacket) (acc : Access)
  /-- RX_ATOMIC (R190). An inbound ATOMIC makes an indivisible read and write of one line and returns the old value. -/
  | rxAtomic (p : RxPacket) (acc : Access)
  /-- RX_COPY (R192). An inbound COPY is written, and CNT_ADDR is raised after every line is acknowledged. -/
  | rxCopy (p : RxPacket) (acc : Access)
  /-- RX_REDUCE (R228). A REDUCE payload is checked and its anchor bytes are combined or its elements accumulated. -/
  | rxReduce (p : RxPacket) (acc : Access)
  /-- WINDOW_RETIRED (R231). The last slice is written; the window retires, GX is raised and KILN_SUM completes. -/
  | windowRetired (slot : Nat) (acc : Access)
  /-- RX_INVALIDATE (R197). The home sends INVAL to the sharers, or to every port of the line under BCAST. -/
  | rxInvalidate (p : RxPacket) (acc : Access)
  /-- RX_CPL (R191). A completion with a status block completes the request, or it is counted as LATE or UNMATCHED. -/
  | rxCpl (p : RxPacket) (acc : Access)
  /-- RX_CPL_DATA (R196). A completion carrying load data is delivered and installed when cacheable; a MULTI response completes every matching group load. -/
  | rxCplData (p : RxPacket) (acc : Access)
  /-- RX_CPL_DATA_NC (R196). A completion carrying uncached load data is delivered without being installed. -/
  | rxCplDataNc (p : RxPacket) (acc : Access)
  /-- RX_INVAL (R198). The reader drops the line or marks its pending load, and answers INVAL_ACK. -/
  | rxInval (p : RxPacket) (acc : Access)
  /-- RX_INVAL_ACK (R200). The home takes an acknowledgement; when all are in, it completes the INVALIDATE and clears the entry. -/
  | rxInvalAck (p : RxPacket) (acc : Access)
  /-- RX_EVICT (R200). The home clears the sharer's slot, or takes the EVICT as the acknowledgement of an outstanding INVAL. -/
  | rxEvict (p : RxPacket) (acc : Access)
  /-- RX_TEAR (R209). A valid TEAR packet tears down its job. -/
  | rxTear (p : RxPacket) (acc : Access)
  /-- RX_AGG (R204). Each record of a switch-aggregated packet is checked and applied in order, and answered with its own CPL. -/
  | rxAgg (p : RxPacket) (acc : Access)
  /-- RX_TIME_REQ (R425). The partner stamps a time request and answers RESP at T3. -/
  | rxTimeReq (p : RxPacket) (stamp : Stamp)
  /-- RX_TIME_RESP (R426). The requester computes the offset and, on its parent port, slews or steps its tick. -/
  | rxTimeResp (p : RxPacket) (stamp : Stamp)
  /-- HELLO (R399). A HELLO starts admission, or it is answered with DEFERRED or REJECT. -/
  | hello (p : RxPacket)
  /-- DEFERRED (R398). A DEFERRED answer arms a retry after HINT ms. -/
  | deferred (p : RxPacket)
  /-- EVIDENCE (R400). Pieces of the peer's link report are gathered and the whole report is checked. -/
  | evidence (p : RxPacket) (v : PeerVerdict)
  /-- KEM (R401). The peer's ciphertext is decapsulated and the link key is derived. -/
  | kem (p : RxPacket)
  /-- FINISH (R399). The peer's FINISH is opened, and the port is admitted when it holds T. -/
  | finish (p : RxPacket)
  /-- READY (R408). The partner's READY is compared, which sets the MEMBER bit or SPLIT, or triggers a CRED. -/
  | ready (p : RxPacket)
  /-- CRED (R406). A WAITING block accepts a matching CRED, commits slot 16 and becomes a MEMBER. -/
  | cred (p : RxPacket)
  /-- REJECT (R402). A received REJECT abandons admission on the port. -/
  | reject (p : RxPacket)
  /-- LEAVE (R410). A partner's LEAVE clears the port's MEMBER bit. -/
  | leave (p : RxPacket)
  /-- LPHY_UP_RISE (R399). The link comes up and HELLO is sent. -/
  | lphyUpRise (lpe : Nat)
  /-- LPHY_UP_FALL (R402). The link goes down: admission is abandoned, the link key erased and membership lapses. -/
  | lphyUpFall (lpe : Nat)
  /-- CTX_KILL_NOTICE (R64). A kill notice at ctx_kill_* kills a live context, or it is ignored and recorded as KILL_IGNORED. -/
  | ctxKillNotice (ctx : BitVec 16) (cause : BitVec 4)
  /-- GOV_ACT_REPORT (R414). A partition's operation counts are added to its cord ledger account. -/
  | govActReport (part : BitVec 4) (op : BitVec 6) (count : BitVec 16)
  /-- GOV_TEL_REPORT (R415). Rail telemetry arrives and is integrated while a calibration runs. -/
  | govTelReport (rail : BitVec 3) (mv : BitVec 12) (ca : BitVec 16)
  /-- RAIL_ACK (R56). The regulator answers SET, REFUSED or LIMITED, and RAIL_MV and DEFICIT are updated. -/
  | railAck (code : BitVec 2) (mv : BitVec 10)
  /-- RPMB_RESULT (R69). A relayed RPMB answer frame arrives and continues the operation that waits on it. -/
  | rpmbResult (seq : BitVec 8) (a : RpmbAnswer)
  /-- POWER_CYCLE_ACK (R475). The tray controller acknowledges the power-cycle request, and the repeats stop. -/
  | powerCycleAck
  /-- SPDM_GET_VERSION (R393). SPDM GET_VERSION is answered. -/
  | spdmGetVersion
  /-- SPDM_GET_CAPABILITIES (R393). SPDM GET_CAPABILITIES is answered. -/
  | spdmGetCapabilities (flags : BitVec 32)
  /-- SPDM_NEGOTIATE_ALGORITHMS (R393). SPDM algorithms are negotiated: P-384, secp384r1 and AES-256-GCM only. -/
  | spdmNegotiateAlgorithms (a : SpdmAlgs)
  /-- SPDM_GET_DIGESTS (R393). SPDM GET_DIGESTS is answered. -/
  | spdmGetDigests
  /-- SPDM_GET_CERTIFICATE (R393). The EC chain in certificate slot 0 is returned. -/
  | spdmGetCertificate (slot : BitVec 8) (offset : Nat) (length : Nat)
  /-- SPDM_CHALLENGE (R393). SPDM CHALLENGE is answered. -/
  | spdmChallenge (slot : BitVec 8) (nonce : BitVec 256)
  /-- SPDM_GET_MEASUREMENTS (R393). A block report carrying the request's nonce is returned as measurement block 0xFD. -/
  | spdmGetMeasurements (index : BitVec 8) (nonce : BitVec 256)
  /-- SPDM_KEY_EXCHANGE (R393). An SPDM secured session key exchange is carried out. -/
  | spdmKeyExchange (point : Bytes)
  /-- SPDM_FINISH (R393). SPDM FINISH completes the session handshake. -/
  | spdmFinish (macOk : Bool)
  /-- SPDM_HEARTBEAT (R393). SPDM HEARTBEAT is answered. -/
  | spdmHeartbeat
  /-- SPDM_END_SESSION (R393). SPDM END_SESSION ends the secured session. -/
  | spdmEndSession
  /-- SPDM_CHUNK_GET (R393). SPDM CHUNK_GET returns a chunk of a large response. -/
  | spdmChunkGet (handle : BitVec 8) (chunk : Nat)
  /-- TAP_INSTRUCTION (R70). An IEEE 1149.1 instruction is offered only as the debug rights in force allow. -/
  | tapInstruction (t : TapInstr)
  /-- HCP_WRITE_RESPONSE (R49). A write response returns at hcp_*; for a completion record it allows the interrupt. -/
  | hcpWriteResponse (tag : Nat) (err : Bool)
  /-- HCP_READ_RETURN (R321). Read data returns at hcp_* for a command's host buffer or a DMA transfer. -/
  | hcpReadReturn (tag : Nat) (r : HostRead)
  /-- DESCRIPTOR_FETCH (R323). A fetched descriptor is checked in order and dispatched as its command. -/
  | descriptorFetch (qp : Nat) (desc : Descriptor)
  /-- DESCRIPTOR_FETCH_FAULT (R322). A descriptor fetch returns an error and a TRANSLATION_FAULT record with zero fields is written. -/
  | descriptorFetchFault (qp : Nat)
  /-- DOORBELL_WRITE (R299). A doorbell write moves the SQ tail or the CQ head, or is counted and reported when invalid. -/
  | doorbellWrite (fn : Nat) (qp : Nat) (val : BitVec 64)
  /-- FN_ALLOC_WRITE (R294). A write to CX_FN_ALLOC sets or clears ENABLE only when its conditions hold, else it is counted. -/
  | fnAllocWrite (fn : Nat) (page : Nat) (val : BitVec 64)
  /-- QP_ENABLE (R298). CX_FN_QP_CTL enable reads the queue table entry and resets the indices and phase. -/
  | qpEnable (fn : Nat) (page : Nat) (qp : BitVec 16)
  /-- QP_DISABLE (R298). CX_FN_QP_CTL disable stops fetching from the SQ. -/
  | qpDisable (fn : Nat) (page : Nat) (qp : BitVec 16)
  /-- QP_DISABLE_DONE (R298). The last fetched command has written its record, and BUSY clears. -/
  | qpDisableDone (page : Nat)
  /-- UP_SET (R296). The VF posts MBOX_UP, which raises UP_VEC of the PF. -/
  | upSet (fn : Nat) (page : Nat)
  /-- UP_CLR (R296). The PF clears UP_POST. -/
  | upClr (fn : Nat) (page : Nat)
  /-- DOWN_SET (R296). The PF posts MBOX_DOWN, which raises DOWN_VEC of the VF. -/
  | downSet (fn : Nat) (page : Nat)
  /-- DOWN_CLR (R296). The VF clears DOWN_POST. -/
  | downClr (fn : Nat) (page : Nat)
  /-- FAULTQ_CTL_WRITE (R309). A write to CX_FN_FAULTQ_CTL sets LOG2, ENABLE, VECTOR and HEAD, or clears OVERFLOW. -/
  | faultqCtlWrite (fn : Nat) (page : Nat) (val : BitVec 64)
  /-- ASH_ENABLE (R310). Setting ENABLE frees both buffers and starts filling buffer A. -/
  | ashEnable (fn : Nat) (page : Nat) (val : BitVec 64)
  /-- ASH_RELEASE (R312). Writing 1 to A_HELD or B_HELD releases a buffer and filling resumes there. -/
  | ashRelease (fn : Nat) (page : Nat) (val : BitVec 64)
  /-- FLUSH (R312). The open packet closes and the active buffer is handed over if it holds a packet. -/
  | flush (fn : Nat) (page : Nat)
  /-- ASH_RECORD (R311). An event record is written into the open ash packet, or is ignored and counted while both buffers are held. -/
  | ashRecord (fn : Nat)
  /-- CIPHER_GO (R376). GO starts a cipher page operation: checks, key fill and duplicate computation. -/
  | cipherGo (fn : Nat) (page : Nat) (val : BitVec 64)
  /-- CIPHER_DONE (R377). The two cores finish; DATA_OUT is released, or CHECK_FAIL raises the alarm. -/
  | cipherDone (fn : Nat) (agree : Bool)
  /-- CIP_IV_WRITE (R375). A write to CX_CIP_IV loads the chaining or counter block and clears CTR_END. -/
  | cipIvWrite (fn : Nat) (page : Nat) (high : Bool) (val : BitVec 64)
  /-- DOMAIN_LOAD (R405). LOAD fetches and checks the manifest, takes the block id and sends READY. -/
  | domainLoad (fn : Nat) (len : BitVec 19) (manifest : HostRead)
  /-- DOMAIN_LEAVE (R410). The block leaves its domain: jobs torn down, slot 16 invalidated, LEAVE sent. -/
  | domainLeave (fn : Nat) (acc : Access)
  /-- CALIBRATION_START (R415). A write of CAL starts a 100 ms calibration, or it is ignored while one runs. -/
  | calibrationStart (fn : Nat)
  /-- CALIBRATION_END (R415). After 100 ms the calibration factor s is set and clamped. -/
  | calibrationEnd
  /-- CC_WAY_WRITE (R491). A write to CX_CC_WAY_g sets BUSY, and each MCE starts draining the way group. -/
  | ccWayWrite (fn : Nat) (g : BitVec 3) (val : BitVec 64)
  /-- CC_WAY_APPLIED (R491). Every MCE has drained the group; the new assignment takes effect and BUSY clears. -/
  | ccWayApplied (g : BitVec 3) (sibs : List (List LineReturn))
  /-- RING_SELECT (R494). A write to CX_OBS_RING_SEL takes a copy of the selected ash ring for the window. -/
  | ringSelect (fn : Nat) (val : BitVec 64)
  /-- ALARM_CLEAR (R72). The PF clears CX_ALARM_STATUS bits, and alarm_sec falls when none remain. -/
  | alarmClear (fn : Nat) (val : BitVec 64)
  /-- REGISTER_WRITE (R486). A write to a register with no behaviour of its own updates it, or is ignored and counted. -/
  | registerWrite (fn : Nat) (off : Nat) (val : BitVec 64)
  /-- KEY_GENERATE (R327). A new key is drawn from the DRBG under a parent with usage V. -/
  | keyGenerate (cmd : Nat)
  /-- KEY_DERIVE (R329). A new key is derived by one label of R99 from a parent. -/
  | keyDerive (cmd : Nat)
  /-- KEY_IMPORT (R102). A key is imported by KWP unwrap, by ML-KEM decapsulation, or restored from a persistent blob. -/
  | keyImport (cmd : Nat)
  /-- KEY_EXPORT (R102). An exportable key is wrapped by KWP under a W key of the same function and written out. -/
  | keyExport (cmd : Nat)
  /-- KEY_INVALIDATE (R105). The generation is bumped, the slot emptied, and drop orders and kxp drops are sent. -/
  | keyInvalidate (cmd : Nat)
  /-- KEY_QUERY (R331). Slot bytes 64 to 87 and the blob version are written to DST. -/
  | keyQuery (cmd : Nat)
  /-- KEY_PUSH (R104). A decrypt-only SYM256 key is loaded into an export destination slot and recorded in the export table. -/
  | keyPush (cmd : Nat)
  /-- REGION_BIND (R150). A region's entry is set and its zero-fill line writes start in the background. -/
  | regionBind (cmd : Nat)
  /-- REGION_UNBIND (R151). A region and its companion are cleared, and the command completes when every region cache has dropped the entry. -/
  | regionUnbind (cmd : Nat)
  /-- REGION_REKEY (R153). A rekey from OLD to NEW starts with a progress pointer in each MCE. -/
  | regionRekey (cmd : Nat)
  /-- REGION_QUERY (R155). The 32-byte region table entry is written to DST. -/
  | regionQuery (cmd : Nat)
  /-- CTX_OPEN (R304). The context number that has been free longest is allocated to the function. -/
  | ctxOpen (cmd : Nat)
  /-- CTX_CLOSE (R334). A context's bindings, slots and regions are removed and its number is freed. -/
  | ctxClose (cmd : Nat)
  /-- CTX_KILL (R476). A context is killed: marked not live, its work ended, records written, cleanup started. -/
  | ctxKill (cmd : Nat) (acc : Access)
  /-- JOB_JOIN (R337). The tagged context joins a job with its state region. -/
  | jobJoin (cmd : Nat)
  /-- JOB_LEAVE (R338). The context leaves a job, and the last leaver invalidates the job key. -/
  | jobLeave (cmd : Nat)
  /-- JOB_KEYS (R336). The job key is installed from a bundle, or a new epoch is started. -/
  | jobKeys (cmd : Nat)
  /-- PROG_LOAD (R263). A lane program image is fetched, checked, costed and stored. -/
  | progLoad (cmd : Nat)
  /-- PROG_BIND (R265). A program is bound to the tagged context. -/
  | progBind (cmd : Nat)
  /-- PROG_UNLOAD (R265). A program image and every binding of it are removed. -/
  | progUnload (cmd : Nat)
  /-- KILN_SETUP (R220). A reduction is opened and slot, accumulators and program frames are allocated. -/
  | kilnSetup (cmd : Nat) (acc : Access)
  /-- KILN_EXPONENT (R223). The owner's local anchor bytes of a window are computed and combined. -/
  | kilnExponent (cmd : Nat) (acc : Access)
  /-- KILN_SUM (R224). The owner's local elements of a window are accumulated. -/
  | kilnSum (cmd : Nat) (acc : Access)
  /-- KILN_FINISH (R225). A reduction is ended, its resources released and its counts reported. -/
  | kilnFinish (cmd : Nat)
  /-- DMA_COPY (R362). A copy, with an optional lane program, is translated and queued on its stream. -/
  | dmaCopy (cmd : Nat)
  /-- DMA_INGEST (R365). A licensed shard ingest into sealed memory is translated and queued. -/
  | dmaIngest (cmd : Nat)
  /-- INGEST_CHUNK (R279). One chunk is checked against the allowance, decrypted, verified, counted and written. -/
  | ingestChunk (desc : Nat) (chunk : HostRead) (acc : Access)
  /-- LANE_INVOCATION (R251). A lane program invocation runs on its input lines and releases its output at END. -/
  | laneInvocation (desc : Nat) (src : List SourceLine) (acc : Access)
  /-- DMA_LINE (R364). A running descriptor moves one line, and the first failing line ends it. -/
  | dmaLine (desc : Nat) (src : SourceLine) (acc : Access)
  /-- DMA_MAP (R356). Device virtual pages are mapped in the translation table, all or nothing. -/
  | dmaMap (cmd : Nat) (acc : Access)
  /-- DMA_UNMAP (R357). Pages are unmapped, and the command completes after descriptors holding the old translations finish. -/
  | dmaUnmap (cmd : Nat) (acc : Access)
  /-- ADDR_CONVERT (R361). The device virtual address of a host pointer is returned from the host runs. -/
  | addrConvert (cmd : Nat)
  /-- TRANSLATION_WALK_DONE (R358). A walker finishes a descriptor's translations, or a translation fault completes the command. -/
  | translationWalkDone (desc : Nat) (header : HostRead) (acc : Access)
  /-- ATTEST_REPORT (R392). A dual-signed block or context report is written. -/
  | attestReport (cmd : Nat)
  /-- MEASURE_LOAD (R366). A copy is made and hashed, and a measured-load record is made against the context. -/
  | measureLoad (cmd : Nat)
  /-- LICENSE_INSTALL (R273). A licence is checked, its meter record written and its content key placed in a slot. -/
  | licenseInstall (cmd : Nat)
  /-- LICENSE_REVOKE (R276). A signed revocation marks the record or the list and invalidates the content key. -/
  | licenseRevoke (cmd : Nat)
  /-- METER_REPORT (R291). A signed usage report is written and the pending flags are cleared. -/
  | meterReport (cmd : Nat)
  /-- SHUFFLE_EPOCH (R282). A range of an epoch's sample permutation is written to sealed memory. -/
  | shuffleEpoch (cmd : Nat)
  /-- TIME_ANCHOR (R285). A wall-time anchor is set, and a clock regression is recorded when there is one. -/
  | timeAnchor (cmd : Nat)
  /-- SIGNAL (R306). FENCE_SIGNAL raises a live fence's value and releases the waits it satisfies. -/
  | signal (cmd : Nat) (acc : Access)
  /-- CREATE (R306). FENCE_SIGNAL CREATE makes a free fence live with a value. -/
  | create (cmd : Nat) (acc : Access)
  /-- DESTROY (R306). FENCE_SIGNAL DESTROY frees a fence and fails its pending waits. -/
  | destroy (cmd : Nat) (acc : Access)
  /-- FENCE_WAIT (R307). An SQ is held until a fence reaches a value. -/
  | fenceWait (cmd : Nat) (acc : Access)
  /-- EVENT_NOTIFY (R303). Completes after the earlier commands of its SQ and raises VECTOR at once. -/
  | eventNotify (cmd : Nat)
  /-- PARTITION_SET (R418). Matrix engines are mapped to a partition, its cap is set and its bucket filled. -/
  | partitionSet (cmd : Nat)
  /-- LEDGER_READ (R346). A partition's counted energy, limit and cap are returned. -/
  | ledgerRead (cmd : Nat)
  /-- SCRUB_RANGE (R466). A rake memory pass starts over a range. -/
  | scrubRange (cmd : Nat)
  /-- SCRUB_SRAM (R469). A rake pass over every word of SRAM classes 0 to 9 starts. -/
  | scrubSram (cmd : Nat) (found : List SramError)
  /-- RAKE_LINE (R466). The rake checks one line in a background slot, and the pass completes after its last line. -/
  | rakeLine (cmd : Nat) (ret : LineReturn)
  /-- ENGINE_RESET (R478). An engine reset starts: credits withheld, pending requests failed, drain begun. -/
  | engineReset (cmd : Nat)
  /-- ENGINE_RESET_COMPLETE (R478). The drain ends; the engine zeroises and reloads, and ENGINE_RESET is reported. -/
  | engineResetComplete (engine : Nat) (sibs : List LineReturn)
  /-- FUNCTION_QUIESCE (R314). Fetching from every SQ of a VF stops, and commands in flight run on to the deadline. -/
  | functionQuiesce (cmd : Nat)
  /-- FUNCTION_RESUME (R314). QUIESCED is cleared and fetching restarts. -/
  | functionResume (cmd : Nat)
  /-- FUNCTION_RESET (R315). A quiesced VF's jobs, keys, regions, programs, contexts and queues are removed. -/
  | functionReset (cmd : Nat)
  /-- HEARTBEAT_CONFIG (R347). Sets whether ember beats reach the PF's ash stream and whether watchdog resets raise a vector. -/
  | heartbeatConfig (cmd : Nat)
  /-- LC_TRANSITION (R436). A life-cycle transition, or the completion of an interrupted one, is programmed into OTP and the block restarts. -/
  | lcTransition (cmd : Nat) (acc : Access)
  /-- DEBUG_CHALLENGE (R440). A 160-byte debug challenge is written. -/
  | debugChallenge (cmd : Nat)
  /-- DEBUG_RESPONSE (R440). A vendor response to the outstanding challenge opens Production debug. -/
  | debugResponse (cmd : Nat) (acc : Access)
  /-- DEBUG_CERT (R441). A debug certificate opens debug. -/
  | debugCert (cmd : Nat) (acc : Access)
  /-- PATCH_WRITE_FIRST (R454). A new download begins: the inactive slot is marked DOWNLOADING and erased. -/
  | patchWriteFirst (cmd : Nat)
  /-- PATCH_WRITE (R454). A piece of a bundle is programmed into the inactive slot. -/
  | patchWrite (cmd : Nat)
  /-- PATCH_VERIFY (R454). The inactive slot's bundle is checked and recorded VERIFIED. -/
  | patchVerify (cmd : Nat) (flash : FlashRead)
  /-- PATCH_ACTIVATE (R454). The trial marker is written and the block restarts. -/
  | patchActivate (cmd : Nat)
  /-- PATCH_CONFIRM (R454). The committed marker is written and the OTP security version is raised. -/
  | patchConfirm (cmd : Nat)
  /-- TRAFFIC_GEN (R166). Synthetic load runs through one MCE's sealing path and its results are reported. -/
  | trafficGen (cmd : Nat) (g : GenOutcome)
  /-- SELFTEST (R350). Known-answer, entropy health and canary tests run in the background. -/
  | selftest (cmd : Nat) (failed : BitVec 4)
  /-- BIND_LINE_WRITE (R150). A background slot writes a bound region's line, and the bind completes after its last line. -/
  | bindLineWrite (region : Nat) (mce : Nat) (sibs : List LineReturn)
  /-- REKEY_LINE (R120). A background slot re-seals the line at P under NEW and advances P. -/
  | rekeyLine (region : Nat) (mce : Nat) (ret : LineReturn) (sibs : List LineReturn)
  /-- KEY_SWEEP (R109). The background sweep visits a slot and frees it when it is orphaned. -/
  | keySweep (slot : Nat)
  /-- EMBER (R473). The firmware beats the ember every 1 ms. -/
  | ember
  /-- WATCHDOG (R474). 8 ms pass without a beat and the sequencer alone is reset. -/
  | watchdog
  /-- SEQUENCER_RESTART (R474). The sequencer restarts: slot reload, meter write, in-flight commands completed, held doorbells taken. -/
  | sequencerRestart (digestSame : Bool)
  /-- ALARM_FATAL_TIMEOUT (R73). por_n has not fallen 10 ms after alarm_fatal, so POWER_CYCLE is sent. -/
  | alarmFatalTimeout
  /-- POWER_CYCLE_RETRY (R475). POWER_CYCLE is sent again every 1 s until acknowledged. -/
  | powerCycleRetry
  /-- CONTEXT_KILL_TIMEOUT (R475). A kill misses its 50 µs bound, and each engine still holding work of the context is reset. -/
  | contextKillTimeout (ctx : BitVec 16)
  /-- ENGINE_ACK_TIMEOUT (R105). An engine has not acknowledged a control ring order within 20 µs and is reset at rung 2. -/
  | engineAckTimeout (engine : Nat)
  /-- ENGINE_DRAIN_TIMEOUT (R478). An MCE cannot finish a line within the 100 µs drain and takes rung 4. -/
  | engineDrainTimeout (engine : Nat)
  /-- FAB_TIMEOUT (R206). A fabric deadline passes: TIMEOUT is answered and the RTAG is quarantined. -/
  | fabTimeout (lpe : Nat) (rtag : BitVec 12)
  /-- T1_TIMEOUT (R207). A tier-1 read deadline passes and the request ends with TIMEOUT. -/
  | t1Timeout (mce : Nat) (tag : BitVec 12)
  /-- RTAG_QUARANTINE_EXPIRY (R206). An RTAG leaves quarantine 4 ms after its deadline. -/
  | rtagQuarantineExpiry (engine : Nat) (tag : BitVec 12) (acc : Access)
  /-- LEASE_EXPIRY (R280). LEASE_MS after a push, the decoder key is dropped at kxp_*. -/
  | leaseExpiry (dest : Nat) (dslot : Nat)
  /-- COALESCE_TIMEOUT (R303). COAL_NS after the first uncovered record, the queue pair's interrupt is raised. -/
  | coalesceTimeout (qp : Nat)
  /-- ASH_PACKET_TIMEOUT (R312). 10 µs after its first record an ash packet closes. -/
  | ashPacketTimeout (fn : Nat)
  /-- XLATE_BATCH_TIMEOUT (R360). 20 µs after the first pending translation fault, the batch is written. -/
  | xlateBatchTimeout (fn : Nat)
  /-- PERIOD_BOUNDARY (R284). PERIOD_TICKS pass and a billing period closes, a new one opens and the record is written. -/
  | periodBoundary (record : Nat)
  /-- FENCE_WAIT_TIMEOUT (R307). A fence wait's timeout passes and it completes with TIMEOUT. -/
  | fenceWaitTimeout (cmd : Nat)
  /-- QUIESCE_DEADLINE (R314). At the quiesce deadline the remaining work ends with QUIESCED and the quiesce completes. -/
  | quiesceDeadline (fn : Nat)
  /-- RAIL_REQUEST_TIMEOUT (R58). A rail request unanswered for 200 µs is taken as REFUSED and counted. -/
  | railRequestTimeout
  /-- RPMB_RELAY_TIMEOUT (R119). No result frame within 40 ms: the new slot is invalidated and the command fails with TIMEOUT. -/
  | rpmbRelayTimeout (seq : BitVec 8)
  /-- ADMISSION_TIMEOUT (R402). 50 ms without progress abandons admission on a port. -/
  | admissionTimeout (lpe : Nat)
  /-- DEFERRED_RETRY (R398). HINT has passed after DEFERRED, and HELLO is sent again. -/
  | deferredRetry (lpe : Nat)
  /-- REJECT_RETRY (R402). 1 s after a rejection the port sends HELLO again. -/
  | rejectRetry (lpe : Nat)
  /-- SEED_WAIT_EXPIRY (R407). The seed's conditions have held for 10 ms, so it draws the domain key and becomes a MEMBER. -/
  | seedWaitExpiry
  /-- GOVERNOR_TICK (R418). Each microsecond, the ledger accounts, partition buckets and limits are updated and ramped. -/
  | governorTick
  /-- BANDWIDTH_WINDOW (R422). At each 2,048 ns window a port resets its capacity, minimums and class arbitration. -/
  | bandwidthWindow (engine : Nat) (capacity : Nat)
  /-- CANARY_MEASURE (R420). Every 10 µs canaries measure their rate, NEED_MV is recomputed and a higher voltage may be requested. -/
  | canaryMeasure (rates : List CanaryRate)
  /-- RAIL_LOWER_REQUEST (R420). After 10 ms with ample margin, a lower rail voltage is requested. -/
  | railLowerRequest
  /-- TIME_EXCHANGE (R425). Every 250 µs each admitted member port sends a time REQ. -/
  | timeExchange (lpe : Nat) (stamp : Stamp)
  /-- ENTROPY_TEST_FAIL (R387). A continuous health test fails: output stops, the alarm is raised and new DRBG output fails. -/
  | entropyTestFail (test : BitVec 2)
  /-- ENTROPY_RESTART (R387). 10 ms after a failure, the start-up tests rerun and service resumes when they pass. -/
  | entropyRestart (pass : Bool)
  /-- DRBG_RESEED (R385). After 65,536 requests or 1 s the DRBG reseeds. -/
  | drbgReseed
  /-- MASK_REKEY (R386). At least once every 1 ms each mask expander is rekeyed from the DRBG. -/
  | maskRekey
  /-- ECC_LEAK (R464). Each LEAK_US period, every array class bucket loses 1. -/
  | eccLeak
  /-- SHELL_CLOCK_STOP (R26). A shell whose clock stops withholds its credits and holds its outputs. -/
  | shellClockStop (shell : Shell)
  /-- SHELL_CLOCK_RETURN (R26). A stopped shell clock returns and the shell resumes without loss. -/
  | shellClockReturn (shell : Shell)
  /-- CONTROLLER_CREDIT (R37). The memory controller returns an A or W credit at mctl_a_crd or mctl_w_crd, letting the MCE present a held request or beat. -/
  | controllerCredit (mce : Nat) (write : Bool)
  /-- LINK_TX_CREDIT (R212). The link controller returns a beat credit at lphy_tx_crd, and the LPE may send and grant lreq_* credit again. -/
  | linkTxCredit (lpe : Nat)
  /-- MCTL_QOCC_UPDATE (R39). The controller updates mctl_qocc, which starts or stops the MCE presenting requests from the remainder against QHIGH. -/
  | mctlQoccUpdate (mce : Nat) (occ : BitVec 8)
  /-- REFUSED_READ (R47). A refused read at hcp_* returns zero, raises hcp_t_err and records REG_REFUSED. -/
  | refusedRead (fn : Nat) (off : Nat)
  /-- MALFORMED_PACKET (R181). An inbound packet with an unassigned TYPE, or with a reserved lphy_rx_len16, is discarded and counted as MALFORMED. -/
  | malformedPacket (lpe : Nat) (p : RxPacket) (len16 : BitVec 5)
  /-- PAIR_KEY_DERIVATION (R179). The LPE key-derivation lane finishes a pair key into the key cache, and the waiting request or inbound packet proceeds. -/
  | pairKeyDerivation (lpe : Nat) (acc : Access)
  /-- PKH_REQUEST_DONE (R382). The public-key and hash engine completes a queued signature, verification, KEM or hash request, and the next request in order starts. -/
  | pkhRequestDone (lattice : Bool) (r : PkhResult)
  /-- REGION_CACHE_DROP_ACK (R151). An MCE acknowledges that it has dropped a region entry for an unbind, trip or rekey start, and the unbind completes when all have done so. -/
  | regionCacheDropAck (mce : Nat)
  /-- FUNCTION_BOUND_MISSED (R475). A quiesce or function reset has not finished 1 ms after its deadline, and the block takes rung 4. -/
  | functionBoundMissed (fn : Nat)
  deriving DecidableEq, Repr

end Sys2Proof
end

