-- ==== Sys2Proof/Decode.lean ====
section
/-! DEFINITION. The words of the table: no row of it gives bits. -/

namespace Sys2Proof

/-- The command that a word spells. No row of the table of operations and events gives bits or a mask, so no word
spells a command (log 1). -/
def decodeTableWord (_nbits _w : Nat) : Option Instr := none

end Sys2Proof
end

