-- ==== Sys2Proof/Config.lean ====
section
/-! DEFINITION. The free values: what the spec, or a standard it names, leaves open. None has a body, so a statement
that mentions one holds whatever its value is (log 3). -/

namespace Sys2Proof

/-- The i-th output of the entropy source and DRBG, n bits (R383 to R386). -/
opaque Config.drbg : Nat → (n : Nat) → BitVec n

/-- How far the i-th edge of `tref_clk` takes the domain tick beyond 9 ns, taken modulo 3 (R60: 9 to 11 ns). -/
opaque Config.tickJitter : Nat → Nat

/-- The destination port index of a packet for which no rule fixes DPORT (R170, R172). -/
opaque Config.dport : Nat → BitVec 5

/-- The counter-cache set that a node of a level and index falls into (R144 fixes no mapping). -/
opaque Config.counterCacheSet : Nat → Nat → Nat

/-- The parts of an alias certificate that R388 leaves open, of its chain (true: PQ) and subject key: the serial number; the
issuer, validity and subject; further extensions. -/
opaque Config.certSerial : Bool → Bytes → Bytes
opaque Config.certNames : Bool → Bytes → Bytes
opaque Config.certExtensions : Bool → Bytes → Bytes
/-- The body of an SPDM response that SPDM 1.3 (DSP0274) fixes: request code, and the draw's number (R393). -/
opaque Config.spdmBody : Nat → Nat → Bytes
/-- The AEAD key of the block's side of an SPDM session, of its shared secret and of whether the session is established: the
key schedule of DSP0274 hashes messages whose bodies stay open (R67, R393). -/
opaque Config.spdmKey : Bytes → Bool → BitVec 256
/-- The IV that goes with it. -/
opaque Config.spdmIv : Bytes → Bool → BitVec 96
/-- The digests of the vendor keys in the ROM: 0 of the life-cycle key, 1 of the debug key, 2 and 3 of the patch keys, ML-DSA-87
and P-384 (R435, R454). -/
opaque Config.romDigest : Nat → Bytes
/-- The value that a result takes where the spec states none: which point, and the operand (log 4). -/
opaque Config.open64 : Nat → Nat → BitVec 64

end Sys2Proof
end

