-- ==== Sys2Proof/Machine/Crypto.lean ====
section
/-! DEFINITION. The symmetric algorithms that the spec takes from named standards: AES-256 (FIPS 197), CBC, CTR,
CFB-128 and OFB (SP 800-38A), GHASH and GCM (SP 800-38D), XTS (IEEE 1619), KW and KWP (SP 800-38F), SHA-384
(FIPS 180-4), KMAC256 and ParallelHash256 (SP 800-185). Log 2: the standards stand outside the spec's text. Blocks are
numbers: `le` reads byte 0 as the least significant byte, `be` as the most significant. -/

namespace Sys2Proof.Machine.Crypto

open Sys2Proof

/-- The number whose byte 0 is the first byte. -/
def le (b : Bytes) : Nat := b.foldr (fun x a => x.toNat + 256 * a) 0

/-- The number whose most significant byte is the first byte. -/
def be (b : Bytes) : Nat := b.foldl (fun a x => 256 * a + x.toNat) 0

/-- The n low bytes of x, least significant first. -/
def toLe : Nat → Nat → Bytes
  | 0, _ => []
  | n + 1, x => BitVec.ofNat 8 x :: toLe n (x / 256)

/-- The n low bytes of x, most significant first. -/
def toBe (n x : Nat) : Bytes := (toLe n x).reverse

/-- Splits a list into pieces of n; the last may be short. `fuel` is at least the number of pieces. -/
def pieces {α : Type} (n : Nat) : Nat → List α → List (List α)
  | 0, _ => []
  | fuel + 1, b => if b.isEmpty then [] else b.take n :: pieces n fuel (b.drop n)

/-- The pieces of n of a list, n at least 1. -/
def split {α : Type} (n : Nat) (b : List α) : List (List α) := pieces n b.length b

def xorBytes (a b : Bytes) : Bytes := List.zipWith (· ^^^ ·) a b

/-! ## AES-256. A block is a number with byte 0 of the block least significant. -/

def sboxTable : Nat := 0x16bb54b00f2d99416842e6bf0d89a18cdf2855cee9871e9b948ed9691198f8e19e1dc186b95735610ef6034866b53e708a8bbd4b1f74dde8c6b4a61c2e2578ba08ae7a65eaf4566ca94ed58d6d37c8e779e4959162acd3c25c2406490a3a32e0db0b5ede14b8ee4688902a22dc4f816073195d643d7ea7c41744975fec130ccdd2f3ff1021dab6bcf5389d928f40a351a89f3c507f02f94585334d43fbaaefd0cf584c4a39becb6a5bb1fc20ed00d153842fe329b3d63b52a05a6e1b1a2c830975b227ebe28012079a059618c323c7041531d871f1e5a534ccf73f362693fdb7c072a49cafa2d4adf04759fa7dc982ca76abd7fe2b670130c56f6bf27b777c63
def invSboxTable : Nat := 0x7d0c2155631469e126d677ba7e042b17619953833cbbebc8b0f52aae4d3be0a0ef9cc9939f7ae52d0d4ab519a97f51605fec8027591012b131c7078833a8dd1ff45acd78fec0db9a2079d2c64b3e56fc1bbe18aa0e62b76f89c5291d711af1476edf751ce837f9e28535ade72274ac9673e6b4f0cecff297eadc674f4111913a6b8a130103bdafc1020f3fca8f1e2cd00645b3b80558e4f70ad3bc8c00abd890849d8da75746155edab9edfd5048706c92b6655dcc5ca4d41698688664f6f87225d18b6d49a25b76b224d92866a12e084ec3fa420b954cee3d23c2a632947b54cbe9dec444438e3487ff2f9b8239e37cfbd7f3819ea340bf38a53630d56a0952

/-- SubBytes of n bytes by a packed table. -/
def subBytes (table : Nat) : Nat → Nat → Nat
  | 0, _ => 0
  | n + 1, x => (table >>> (8 * (x % 256))) % 256 + 256 * subBytes table n (x / 256)

/-- The source byte of each byte under ShiftRows, byte r + 4c of a block being row r of column c. -/
def shiftSrc : List Nat := [0, 5, 10, 15, 4, 9, 14, 3, 8, 13, 2, 7, 12, 1, 6, 11]
def invShiftSrc : List Nat := [0, 13, 10, 7, 4, 1, 14, 11, 8, 5, 2, 15, 12, 9, 6, 3]

def permute (src : List Nat) (x : Nat) : Nat :=
  src.foldr (fun i a => (x >>> (8 * i)) % 256 + 256 * a) 0

/-- Multiplies every byte of a block by 2 in the field of AES. -/
def xtime (x : Nat) : Nat :=
  ((x &&& 0x7f7f7f7f7f7f7f7f7f7f7f7f7f7f7f7f) <<< 1) ^^^
    (((x >>> 7) &&& 0x01010101010101010101010101010101) * 0x1b)

/-- Every column of a block rotated by one row: byte r takes byte r + 1. -/
def rotCol (x : Nat) : Nat :=
  ((x >>> 8) &&& 0x00ffffff00ffffff00ffffff00ffffff) |||
    ((x <<< 24) &&& 0xff000000ff000000ff000000ff000000)

def mixColumns (x : Nat) : Nat :=
  let y := rotCol x
  xtime (x ^^^ y) ^^^ y ^^^ rotCol y ^^^ rotCol (rotCol y)

def invMixColumns (x : Nat) : Nat :=
  mixColumns (x ^^^ xtime (xtime (x ^^^ rotCol (rotCol x))))

def rotWord (w : Nat) : Nat := (w >>> 8) ||| ((w <<< 24) &&& 0xff000000)

/-- The key schedule from word i on, with the last eight words newest first; newest first. -/
def keyWords : Nat → Nat → Nat → List Nat → List Nat
  | 0, _, _, ws => ws
  | n + 1, i, rcon, ws =>
    let t := ws.headD 0
    let u := if i % 8 = 0 then subBytes sboxTable 4 (rotWord t) ^^^ rcon
      else if i % 8 = 4 then subBytes sboxTable 4 t else t
    keyWords n (i + 1) (if i % 8 = 0 then rcon * 2 else rcon) ((ws.getD 7 0 ^^^ u) :: ws)

/-- Groups words, oldest first, into round keys of four words. -/
def roundKeysOf : Nat → List Nat → List Nat
  | n + 1, a :: b :: c :: d :: rest =>
    (a + (b <<< 32) + (c <<< 64) + (d <<< 96)) :: roundKeysOf n rest
  | _, _ => []

/-- The 15 round keys of AES-256 from a 32-byte key (byte 0 least significant). -/
def roundKeys (key : Nat) : List Nat :=
  let ws := (List.range 8).reverse.map fun i => (key >>> (32 * i)) % 2 ^ 32
  roundKeysOf 15 (keyWords 52 8 1 ws).reverse

def encRounds : List Nat → Nat → Nat
  | [], x => x
  | [k], x => permute shiftSrc (subBytes sboxTable 16 x) ^^^ k
  | k :: ks, x => encRounds ks (mixColumns (permute shiftSrc (subBytes sboxTable 16 x)) ^^^ k)

/-- AES-256 encryption of one block under expanded round keys. -/
def aesEncWith (rk : List Nat) (x : Nat) : Nat :=
  encRounds rk.tail (x ^^^ rk.headD 0)

def decRounds : List Nat → Nat → Nat
  | [], x => x
  | [k], x => subBytes invSboxTable 16 (permute invShiftSrc x) ^^^ k
  | k :: ks, x => decRounds ks (invMixColumns (subBytes invSboxTable 16 (permute invShiftSrc x) ^^^ k))

/-- AES-256 decryption of one block under the round keys in encryption order. -/
def aesDecWith (rk : List Nat) (x : Nat) : Nat :=
  let r := rk.reverse
  decRounds r.tail (x ^^^ r.headD 0)

def aesEnc (key x : Nat) : Nat := aesEncWith (roundKeys key) x
def aesDec (key x : Nat) : Nat := aesDecWith (roundKeys key) x

/-- One block of bytes enciphered. -/
def aesBlock (rk : List Nat) (b : Bytes) : Bytes := toLe 16 (aesEncWith rk (le b))
def aesBlockInv (rk : List Nat) (b : Bytes) : Bytes := toLe 16 (aesDecWith rk (le b))

/-! ## XTS -/

/-- Multiplication of the tweak by alpha (IEEE 1619). -/
def xtsNext (t : Nat) : Nat :=
  let d := (t <<< 1) % 2 ^ 128
  if t / 2 ^ 127 = 1 then d ^^^ 0x87 else d

def xtsBlocks (f : Nat → Nat) : Nat → Nat → Nat → Nat
  | 0, _, _ => 0
  | n + 1, t, x => (f (x % 2 ^ 128 ^^^ t) ^^^ t) + 2 ^ 128 * xtsBlocks f n (xtsNext t) (x / 2 ^ 128)

/-- AES-256-XTS of a data unit of n whole blocks: K1 the data key, K2 the tweak key (R131). -/
def xtsEnc (k1 k2 : Nat) (tweak n x : Nat) : Nat :=
  xtsBlocks (aesEncWith (roundKeys k1)) n (aesEnc k2 tweak) x
def xtsDec (k1 k2 : Nat) (tweak n x : Nat) : Nat :=
  xtsBlocks (aesDecWith (roundKeys k1)) n (aesEnc k2 tweak) x

/-! ## GHASH, GCM -/

/-- Multiplication in GF(2^128) with SP 800-38D's bit order, operands big-endian numbers. -/
def gmulGo : Nat → Nat → Nat → Nat → Nat
  | 0, _, _, z => z
  | n + 1, x, v, z =>
    gmulGo n x (if v % 2 = 1 then (v >>> 1) ^^^ (0xe1 <<< 120) else v >>> 1)
      (if x.testBit n then z ^^^ v else z)
def gmul (x y : Nat) : Nat := gmulGo 128 x y 0

/-- GHASH over bytes padded with zeros to whole blocks. -/
def ghashOver (h : Nat) (y : Nat) (b : Bytes) : Nat :=
  (split 16 b).foldl (fun y p => gmul (y ^^^ be (p ++ List.replicate (16 - p.length) 0)) h) y

/-- The GHASH of SP 800-38D over additional data and ciphertext with their bit lengths. -/
def ghash (h : Nat) (aad ct : Bytes) : Nat :=
  let y := ghashOver h (ghashOver h 0 aad) ct
  gmul (y ^^^ (8 * aad.length * 2 ^ 64 + 8 * ct.length)) h

/-- A number in big-endian order as AES reads it, and back. -/
def swap16 (x : Nat) : Nat := le (toBe 16 x)

/-- Keystream blocks from counter value c under a 12-byte IV, n blocks (SP 800-38D). -/
def ctrStream (rk : List Nat) (iv : Bytes) : Nat → Nat → Bytes
  | 0, _ => []
  | n + 1, c => aesBlock rk (iv ++ toBe 4 c) ++ ctrStream rk iv n (c + 1)

/-- CTR from the counter value c: the text xor the keystream. -/
def ctrFrom (rk : List Nat) (iv : Bytes) (c : Nat) (text : Bytes) : Bytes :=
  xorBytes text (ctrStream rk iv ((text.length + 15) / 16) c)

/-- The 16-byte GCM tag. -/
def gcmTag (rk : List Nat) (iv aad ct : Bytes) : Bytes :=
  let h := swap16 (aesEncWith rk 0)
  xorBytes (toBe 16 (ghash h aad ct)) (aesBlock rk (iv ++ toBe 4 1))

/-- AES-256-GCM: ciphertext and tag. -/
def gcmSeal (key : Nat) (iv aad pt : Bytes) : Bytes × Bytes :=
  let rk := roundKeys key
  let ct := ctrFrom rk iv 2 pt
  (ct, gcmTag rk iv aad ct)

/-- AES-256-GCM: the plaintext when the tag verifies. -/
def gcmOpen (key : Nat) (iv aad ct tag : Bytes) : Option Bytes :=
  let rk := roundKeys key
  if gcmTag rk iv aad ct = tag then some (ctrFrom rk iv 2 ct) else none

/-! ## KW and KWP (SP 800-38F) -/

/-- The wrapping function W over semiblocks: n steps from step t. -/
def kwGo (rk : List Nat) : Nat → Nat → Bytes → List Bytes → Bytes × List Bytes
  | 0, _, a, rs => (a, rs)
  | n + 1, t, a, rs =>
    let b := aesBlock rk (a ++ rs.headD [])
    kwGo rk n (t + 1) (xorBytes (b.take 8) (toBe 8 t)) (rs.tail ++ [b.drop 8])

def kwWrapRaw (rk : List Nat) (a : Bytes) (body : Bytes) : Bytes :=
  let rs := split 8 body
  let (a', rs') := kwGo rk (6 * rs.length) 1 a rs
  a' ++ rs'.flatten

/-- The inverse of W: n steps down from step t. -/
def kwBack (rk : List Nat) : Nat → Nat → Bytes → List Bytes → Bytes × List Bytes
  | 0, _, a, rs => (a, rs)
  | n + 1, t, a, rs =>
    let b := aesBlockInv rk (xorBytes a (toBe 8 t) ++ rs.getLastD [])
    kwBack rk n (t - 1) (b.take 8) (b.drop 8 :: rs.dropLast)

def kwUnwrapRaw (rk : List Nat) (w : Bytes) : Bytes × Bytes :=
  let rs := split 8 (w.drop 8)
  let (a, rs') := kwBack rk (6 * rs.length) (6 * rs.length) (w.take 8) rs
  (a, rs'.flatten)

/-- KW's initial value. -/
def kwIv : Bytes := List.replicate 8 0xA6
/-- KWP's initial value: the constant and the length in bytes. -/
def kwpIv (len : Nat) : Bytes := [0xA6, 0x59, 0x59, 0xA6] ++ toBe 4 len

def kwWrap (key : Nat) (pt : Bytes) : Bytes := kwWrapRaw (roundKeys key) kwIv pt
def kwUnwrap (key : Nat) (w : Bytes) : Option Bytes :=
  let (a, b) := kwUnwrapRaw (roundKeys key) w
  if a = kwIv then some b else none

def kwpWrap (key : Nat) (pt : Bytes) : Bytes :=
  let rk := roundKeys key
  let padded := pt ++ List.replicate ((8 - pt.length % 8) % 8) 0
  if padded.length ≤ 8 then aesBlock rk (kwpIv pt.length ++ padded)
  else kwWrapRaw rk (kwpIv pt.length) padded

def kwpUnwrap (key : Nat) (w : Bytes) : Option Bytes :=
  let rk := roundKeys key
  let (a, b) := if w.length ≤ 16 then let p := aesBlockInv rk w; (p.take 8, p.drop 8) else kwUnwrapRaw rk w
  let len := be (a.drop 4)
  if a.take 4 = [0xA6, 0x59, 0x59, 0xA6] ∧ len ≤ b.length ∧ b.length < len + 8 ∧ (b.drop len).all (· == 0)
  then some (b.take len) else none

/-! ## SP 800-38A modes over whole pieces -/

def cbcEnc (rk : List Nat) : List Bytes → Bytes → Bytes × Bytes
  | [], iv => ([], iv)
  | p :: ps, iv =>
    let c := aesBlock rk (xorBytes p iv)
    let (r, iv') := cbcEnc rk ps c
    (c ++ r, iv')
def cbcDec (rk : List Nat) : List Bytes → Bytes → Bytes × Bytes
  | [], iv => ([], iv)
  | c :: cs, iv =>
    let (r, iv') := cbcDec rk cs c
    (xorBytes (aesBlockInv rk c) iv ++ r, iv')
/-- CFB-128 in either direction: `dec` chains on the input instead of the output. -/
def cfb (rk : List Nat) (dec : Bool) : List Bytes → Bytes → Bytes × Bytes
  | [], iv => ([], iv)
  | p :: ps, iv =>
    let o := xorBytes p (aesBlock rk iv)
    let (r, iv') := cfb rk dec ps (if dec then p else o)
    (o ++ r, iv')
def ofb (rk : List Nat) : List Bytes → Bytes → Bytes × Bytes
  | [], iv => ([], iv)
  | p :: ps, iv =>
    let k := aesBlock rk iv
    let (r, iv') := ofb rk ps k
    (xorBytes p k ++ r, iv')

/-! ## Keccak -/

def rotl64 (x n : Nat) : Nat := ((x <<< n) ||| (x >>> (64 - n))) % 2 ^ 64

def keccakRc : List Nat :=
    [0x1, 0x8082, 0x800000000000808a, 0x8000000080008000, 0x808b, 0x80000001, 0x8000000080008081, 0x8000000000008009] ++
    [0x8a, 0x88, 0x80008009, 0x8000000a, 0x8000808b, 0x800000000000008b, 0x8000000000008089, 0x8000000000008003] ++
    [0x8000000000008002, 0x8000000000000080, 0x800a, 0x800000008000000a, 0x8000000080008081, 0x8000000000008080, 0x80000001, 0x8000000080008008]

/-- For each lane after rho and pi: its source lane and rotation. -/
def rhoPi : List (Nat × Nat) :=
    [(0, 0), (6, 44), (12, 43), (18, 21), (24, 14)] ++
    [(3, 28), (9, 20), (10, 3), (16, 45), (22, 61)] ++
    [(1, 1), (7, 6), (13, 25), (19, 8), (20, 18)] ++
    [(4, 27), (5, 36), (11, 10), (17, 15), (23, 56)] ++
    [(2, 62), (8, 55), (14, 39), (15, 41), (21, 2)]

/-- Field i of 64 bits of a number: a lane of a Keccak state, or a word of a SHA state. -/
def word (x i : Nat) : Nat := (x >>> (64 * i)) % 2 ^ 64

/-- n ones, one at every w-th bit. -/
def every (n w : Nat) : Nat := (2 ^ (n * w) - 1) / (2 ^ w - 1)

/-- Theta, on a state whose lane (x, y) is field x + 5 y. -/
def theta (a : Nat) : Nat :=
  let c := (a ^^^ (a >>> 320) ^^^ (a >>> 640) ^^^ (a >>> 960) ^^^ (a >>> 1280)) % 2 ^ 320
  let before := ((c <<< 64) ||| (c >>> 256)) % 2 ^ 320
  let after := ((c >>> 64) ||| (c <<< 256)) % 2 ^ 320
  let turned := ((after <<< 1) % 2 ^ 320 &&& (0xfffffffffffffffe * every 5 64)) ||| ((after >>> 63) &&& every 5 64)
  a ^^^ ((before ^^^ turned) * every 5 320)

/-- Rho and pi. -/
def rhoThenPi (a : Nat) : Nat := rhoPi.foldr (fun e x => rotl64 (word a e.1) e.2 + x <<< 64) 0

/-- Chi: every row of five lanes with its neighbours one and two lanes on. -/
def chi (b : Nat) : Nat :=
  let one := ((b >>> 64) &&& ((2 ^ 256 - 1) * every 5 320)) ||| ((b <<< 256) &&& (((2 ^ 64 - 1) <<< 256) * every 5 320))
  let two := ((b >>> 128) &&& ((2 ^ 192 - 1) * every 5 320)) ||| ((b <<< 192) &&& (((2 ^ 128 - 1) <<< 192) * every 5 320))
  b ^^^ ((2 ^ 1600 - 1 - one) &&& two)

def keccakRound (a rc : Nat) : Nat := chi (rhoThenPi (theta a)) ^^^ rc

def keccakF (a : Nat) : Nat := keccakRc.foldl keccakRound a

def absorbBlock (a : Nat) (block : Bytes) : Nat := keccakF (a ^^^ le block)

def squeeze : Nat → Nat → Bytes
  | 0, _ => []
  | n + 1, a => toLe 136 a ++ squeeze n (keccakF a)

/-- The Keccak sponge with rate 136 bytes, a domain byte and output of n bytes. -/
def sponge136 (domain : Byte) (m : Bytes) (n : Nat) : Bytes :=
  let fill := 136 - m.length % 136
  let padded := if fill = 1 then m ++ [domain ||| 0x80]
    else m ++ [domain] ++ List.replicate (fill - 2) 0 ++ [0x80]
  ((squeeze ((n + 135) / 136) ((split 136 padded).foldl absorbBlock 0)).take n)

/-- The least number of bytes, at least 1, that hold x (x below 2^64). -/
def byteCount (x : Nat) : Nat := ((List.range 8).filter fun i => 0 < i ∧ 2 ^ (8 * i) ≤ x).length + 1

def leftEncode (x : Nat) : Bytes := BitVec.ofNat 8 (byteCount x) :: toBe (byteCount x) x
def rightEncode (x : Nat) : Bytes := toBe (byteCount x) x ++ [BitVec.ofNat 8 (byteCount x)]
def encodeString (b : Bytes) : Bytes := leftEncode (8 * b.length) ++ b
def bytepad (b : Bytes) (w : Nat) : Bytes :=
  let z := leftEncode w ++ b
  z ++ List.replicate ((w - z.length % w) % w) 0

/-- The ASCII bytes of a label, without terminator. -/
def ascii (s : String) : Bytes := s.toList.map fun c => BitVec.ofNat 8 c.toNat

/-- cSHAKE256 with output of n bytes. -/
def cshake256 (x : Bytes) (n : Nat) (name custom : String) : Bytes :=
  if name = "" ∧ custom = "" then sponge136 0x1F x n
  else sponge136 0x04 (bytepad (encodeString (ascii name) ++ encodeString (ascii custom)) 136 ++ x) n

/-- KMAC256 with an output of `bits` bits (a multiple of 8). -/
def kmac256 (key x : Bytes) (bits : Nat) (custom : String) : Bytes :=
  cshake256 (bytepad (encodeString key) 136 ++ x ++ rightEncode bits) (bits / 8) "KMAC" custom

/-- ParallelHash256 with blocks of `block` bytes and an output of `bits` bits. -/
def parallelHash256 (x : Bytes) (block bits : Nat) (custom : String) : Bytes :=
  let ps := split block x
  cshake256 (leftEncode block ++ (ps.map fun p => cshake256 p 64 "" "").flatten ++ rightEncode ps.length ++
    rightEncode bits) (bits / 8) "ParallelHash" custom

/-! ## SHA-384 -/

def sha512K : List Nat :=
    [0x428a2f98d728ae22, 0x7137449123ef65cd, 0xb5c0fbcfec4d3b2f, 0xe9b5dba58189dbbc, 0x3956c25bf348b538, 0x59f111f1b605d019, 0x923f82a4af194f9b, 0xab1c5ed5da6d8118] ++
    [0xd807aa98a3030242, 0x12835b0145706fbe, 0x243185be4ee4b28c, 0x550c7dc3d5ffb4e2, 0x72be5d74f27b896f, 0x80deb1fe3b1696b1, 0x9bdc06a725c71235, 0xc19bf174cf692694] ++
    [0xe49b69c19ef14ad2, 0xefbe4786384f25e3, 0xfc19dc68b8cd5b5, 0x240ca1cc77ac9c65, 0x2de92c6f592b0275, 0x4a7484aa6ea6e483, 0x5cb0a9dcbd41fbd4, 0x76f988da831153b5] ++
    [0x983e5152ee66dfab, 0xa831c66d2db43210, 0xb00327c898fb213f, 0xbf597fc7beef0ee4, 0xc6e00bf33da88fc2, 0xd5a79147930aa725, 0x6ca6351e003826f, 0x142929670a0e6e70] ++
    [0x27b70a8546d22ffc, 0x2e1b21385c26c926, 0x4d2c6dfc5ac42aed, 0x53380d139d95b3df, 0x650a73548baf63de, 0x766a0abb3c77b2a8, 0x81c2c92e47edaee6, 0x92722c851482353b] ++
    [0xa2bfe8a14cf10364, 0xa81a664bbc423001, 0xc24b8b70d0f89791, 0xc76c51a30654be30, 0xd192e819d6ef5218, 0xd69906245565a910, 0xf40e35855771202a, 0x106aa07032bbd1b8] ++
    [0x19a4c116b8d2d0c8, 0x1e376c085141ab53, 0x2748774cdf8eeb99, 0x34b0bcb5e19b48a8, 0x391c0cb3c5c95a63, 0x4ed8aa4ae3418acb, 0x5b9cca4f7763e373, 0x682e6ff3d6b2b8a3] ++
    [0x748f82ee5defb2fc, 0x78a5636f43172f60, 0x84c87814a1f0ab72, 0x8cc702081a6439ec, 0x90befffa23631e28, 0xa4506cebde82bde9, 0xbef9a3f7b2c67915, 0xc67178f2e372532b] ++
    [0xca273eceea26619c, 0xd186b8c721c0c207, 0xeada7dd6cde0eb1e, 0xf57d4f7fee6ed178, 0x6f067aa72176fba, 0xa637dc5a2c898a6, 0x113f9804bef90dae, 0x1b710b35131c471b] ++
    [0x28db77f523047d84, 0x32caab7b40c72493, 0x3c9ebe0a15c9bebc, 0x431d67c49c100d4c, 0x4cc5d4becb3e42b6, 0x597f299cfc657e2a, 0x5fcb6fab3ad6faec, 0x6c44198c4a475817]
def sha384Iv : List Nat :=
    [0xcbbb9d5dc1059ed8, 0x629a292a367cd507, 0x9159015a3070dd17, 0x152fecd8f70e5939] ++
    [0x67332667ffc00b31, 0x8eb44a8768581511, 0xdb0c2e0d64f98fa7, 0x47b5481dbefa4fa4]

def rotr64 (x n : Nat) : Nat := ((x >>> n) ||| (x <<< (64 - n))) % 2 ^ 64

/-- The sixteen words of the message schedule from some round on, the first lowest, moved on by one round. -/
def shaSlide (w : Nat) : Nat :=
  let a := word w 14
  let b := word w 1
  let s1 := rotr64 a 19 ^^^ rotr64 a 61 ^^^ (a >>> 6)
  let s0 := rotr64 b 1 ^^^ rotr64 b 8 ^^^ (b >>> 7)
  (w >>> 64) + ((s1 + word w 9 + s0 + word w 0) % 2 ^ 64) <<< 960

/-- One round on the working variables a to h, a lowest, with the sum of the round's constant and word. -/
def shaStep (s kw : Nat) : Nat :=
  let a := word s 0
  let e := word s 4
  let t1 := word s 7 + (rotr64 e 14 ^^^ rotr64 e 18 ^^^ rotr64 e 41) +
    ((e &&& word s 5) ^^^ ((2 ^ 64 - 1 - e) &&& word s 6)) + kw
  let t2 := (rotr64 a 28 ^^^ rotr64 a 34 ^^^ rotr64 a 39) +
    ((a &&& word s 1) ^^^ (a &&& word s 2) ^^^ (word s 1 &&& word s 2))
  (s <<< 64) % 2 ^ 512 - (word s 3) <<< 256 + ((word s 3 + t1) % 2 ^ 64) <<< 256 + (t1 + t2) % 2 ^ 64

def shaRounds : List Nat → Nat → Nat → Nat
  | [], s, _ => s
  | k :: ks, s, w => shaRounds ks (shaStep s (k + word w 0)) (shaSlide w)

/-- Words side by side, the first lowest. -/
def words : List Nat → Nat
  | [] => 0
  | x :: r => x % 2 ^ 64 + words r <<< 64

/-- n words added, each modulo 2^64. -/
def addWords : Nat → Nat → Nat → Nat
  | 0, _, _ => 0
  | n + 1, a, b => (a + b) % 2 ^ 64 + addWords n (a >>> 64) (b >>> 64) <<< 64

def shaBlock (s : Nat) (block : Bytes) : Nat := addWords 8 s (shaRounds sha512K s (words ((split 8 block).map be)))

/-- SHA-384 of a byte string: 48 bytes. -/
def sha384 (m : Bytes) : Bytes :=
  let zeros := (128 - (m.length + 17) % 128) % 128
  let padded := m ++ [0x80] ++ List.replicate zeros 0 ++ toBe 16 (8 * m.length)
  let s := (split 128 padded).foldl shaBlock (words sha384Iv)
  ((List.range 6).map fun i => toBe 8 (word s i)).flatten

end Sys2Proof.Machine.Crypto
end

