-- ==== Sys2Proof/Machine/State.lean ====
section
/-! DEFINITION. The state of the block as plain data: every register, buffer, counter, mode and pin the spec gives it,
and the queue of waiting commands. Tables are lists of key and value with rising keys; a key that a table does not
list holds the value named where the table is read. Each field's docstring names its rule. -/

namespace Sys2Proof.Machine

open Sys2Proof

/-- A sparse table: keys strictly rising. -/
abbrev Tab (α : Type) := List (Nat × α)

/-- The numbers of a pool that have never been given out since kindling are those from `next` on; the others that are
free stand in `freed`, longest free first (R95, R304, R356; log 5). -/
structure FreeList where
  next : Nat
  freed : List Nat := []
  deriving DecidableEq, Repr

/-! ## What the integrator fixes -/

/-- The built configuration (R22, R135, R313). -/
structure Build where
  t0 : Nat := 32
  t1 : Nat := 16
  lpes : Nat := 16
  t0Base : Nat := 0
  t0Size : Nat := 0x80_0000_0000
  t0GranLog : Nat := 9
  t1Base : Nat := 0x80_0000_0000
  t1Size : Nat := 0x300_0000_0000
  t1GranLog : Nat := 12
  /-- The manufacturer code that the integrator ties at `tap_mfr`, which no rule gives: the model's 0 is a choice (R71; DESIGN CHOICE,
  log 132). -/
  tapMfr : BitVec 11 := 0
  deriving DecidableEq, Repr

/-! ## OTP and the replay-protected store -/

/-- The OTP of the block (R111, R414, R420, R429, R432, R452, R492). -/
structure Otp where
  lc0 : BitVec 64 := 0
  lc1 : BitVec 64 := 0
  lc2 : BitVec 64 := 0
  rootA : BitVec 512 := 0
  rootB : BitVec 512 := 0
  checkA : BitVec 64 := 0
  checkB : BitVec 64 := 0
  svn0 : BitVec 128 := 0
  svn1 : BitVec 128 := 0
  svn2 : BitVec 128 := 0
  serial : BitVec 64 := 0
  pen : BitVec 32 := 0
  /-- Trimmed coefficients of `gov_act_op`, in 1/256 pJ per operation; unlisted 0. -/
  coef : Tab Nat := []
  /-- Rate slope of the lanes, blocks per second per mV. -/
  slope : Nat := 0
  deriving DecidableEq, Repr

/-- Patch slots (R450). -/
inductive SlotName where
  | a | b
  deriving DecidableEq, Repr

/-- State of a patch slot in the record (R453). -/
inductive SlotState where
  | empty | downloading | verified
  deriving DecidableEq, Repr

/-- A patch slot's fields in the record (R453). -/
structure SlotRecord where
  state : SlotState := .empty
  version : BitVec 32 := 0
  svn : BitVec 16 := 0
  digest : BitVec 384 := 0
  deriving DecidableEq, Repr

/-- The patch state record, half-sector 0x0000 (R453). -/
structure PatchRecord where
  active : Option SlotName := none
  trial : Option SlotName := none
  trialBoots : Bool := false
  slotA : SlotRecord := {}
  slotB : SlotRecord := {}
  deriving DecidableEq, Repr

/-- The boot record, half-sector 0x0001 (R446). -/
structure BootRecord where
  running : Bool := false
  meterEpoch : BitVec 32 := 0
  tick : BitVec 64 := 0
  deriving DecidableEq, Repr

/-- Four counts of a licence: bytes, shards, pushes, epochs (R284, R287). -/
structure Counts where
  bytes : Nat := 0
  shards : Nat := 0
  pushes : Nat := 0
  epochs : Nat := 0
  deriving DecidableEq, Repr

/-- STATE of a meter record (R287). -/
inductive MeterState where
  | free | live | revoked | ended
  deriving DecidableEq, Repr

/-- A meter record, half-sector 0x0100 + s (R287). -/
structure MeterRecord where
  licence : BitVec 32 := 0
  state : MeterState := .free
  regressed : Bool := false
  unwarned : Bool := false
  function : Nat := 0
  maxPeriods : BitVec 32 := 0
  leaseMs : BitVec 32 := 0
  periodTicks : Nat := 0
  issuer : BitVec 160 := 0
  openNumber : Nat := 0
  licenceDigest : BitVec 160 := 0
  regEpoch : BitVec 32 := 0
  lifeMarks : Counts := {}
  openEpoch : BitVec 32 := 0
  closedEpoch : BitVec 32 := 0
  openTick : Nat := 0
  openWall : Nat := 0
  openMarks : Counts := {}
  closedOpenTick : Nat := 0
  closedCloseTick : Nat := 0
  closedOpenWall : Nat := 0
  closedCloseWall : Nat := 0
  closedCounts : Counts := {}
  regTick : Nat := 0
  regOldWall : Nat := 0
  regNewWall : Nat := 0
  lastWrite : Nat := 0
  deriving DecidableEq, Repr

/-- The pointer of a persistent key (R115): location 0 A, 1 B, 0xFF deleted or unused. -/
structure Pointer where
  version : BitVec 32 := 0
  persistId : BitVec 32 := 0
  location : BitVec 8 := 0xFF
  blobTag : BitVec 128 := 0
  deriving DecidableEq, Repr

/-- A sealed blob (R116). -/
structure Blob where
  version : BitVec 32
  persistId : BitVec 32
  mask : BitVec 16
  attr : BitVec 16
  parentLevel : BitVec 8
  material : BitVec 512
  tag : BitVec 128
  deriving DecidableEq, Repr

/-- What the replay-protected store holds for the block (R113, R114, R287, R288, R446, R453). The device stands
outside; its authenticated content changes only by the block's accepted writes, so the model keeps it here (log 6). -/
structure Store where
  patch : PatchRecord := {}
  boot : BootRecord := {}
  meters : Tab MeterRecord := []
  revoked : List (BitVec 32 × BitVec 160) := []
  pointers : Tab Pointer := []
  /-- Blob at location l of index n under key 2n + l. -/
  blobs : Tab Blob := []
  /-- The device's write counter (R68, R443; log 120). -/
  writes : Nat := 0
  deriving DecidableEq, Repr

/-! ## Keys -/

/-- A slot of the key store (R88, R89). -/
structure KeySlot where
  material : BitVec 512 := 0
  mask : BitVec 16 := 0
  attr : BitVec 16 := 0
  ownerFn : BitVec 8 := 0
  ownerCtx : BitVec 16 := 0
  parentSlot : BitVec 16 := 0
  parentGen : BitVec 16 := 0
  gen : BitVec 16 := 1
  persistIdx : BitVec 16 := 0
  created : BitVec 64 := 0
  mac : BitVec 64 := 0
  /-- The slot reads KEY_CORRUPT by an uncorrectable error (R101). -/
  eccBad : Bool := false
  /-- A persistent key whose pointer write has not committed is not yet usable (R118). -/
  usable : Bool := true
  deriving DecidableEq, Repr

/-- A generation chain: slots from the key up to slot 0 with their generations (R104, R105). -/
abbrev Chain := List (Nat × BitVec 16)

/-- What distinguishes a level-6 key in a cache from its parent's schedule (R98, R99). -/
inductive Derived where
  | plain
  | pair (src dst : BitVec 12) (epoch : BitVec 32)
  | group (epoch : BitVec 32)
  | shuffle (epoch licence : BitVec 32)
  | line (region : Nat)
  deriving DecidableEq, Repr

/-- A schedule in an engine key cache with what the fill recorded (R14, R100). -/
structure CachedKey where
  slot : Nat
  what : Derived := .plain
  key : BitVec 512
  mask : BitVec 16
  attr : BitVec 16
  ownerFn : BitVec 8
  ownerCtx : BitVec 16
  chain : Chain
  deriving DecidableEq, Repr

/-- A drop order of the control ring (R105, R106). -/
structure DropOrder where
  seq : Nat
  slot : Nat
  gen : BitVec 16
  deriving DecidableEq, Repr

/-- A key fill on its way to an engine (R106). -/
structure Fill where
  key : CachedKey
  seq : Nat
  deriving DecidableEq, Repr

/-- The key cache of one engine: schedules most recently used first, fills under way, orders not yet taken, the value
of the last order taken, and acknowledgements not yet delivered (R14, R16, R105, R106). -/
structure KeyCache where
  keys : List CachedKey := []
  fills : List Fill := []
  orders : List DropOrder := []
  lastDrop : Nat := 0
  acks : List Nat := []
  deriving DecidableEq, Repr

/-- An invalidation that waits for engines and for drop orders at `kxp_*`, by their numbers; then the command, if any,
completes with its RES0 (R105, R117). -/
structure Inval where
  seq : Nat
  slot : Nat
  cmd : Option Nat
  res0 : Nat := 0
  engines : List Nat
  exports : List Nat
  isLate : Bool := false
  deriving DecidableEq, Repr

/-- An entry of the export table, under 256 d + slot (R104); the licence record of a leased push, the tick of its load and
LEASE_MS (R280). -/
structure ExportEntry where
  chain : Chain
  lease : Option Nat := none
  loaded : BitVec 64 := 0
  leaseMs : Nat := 0
  deriving DecidableEq, Repr

/-- An order at `kxp_*`: operation 0 load, 1 drop one slot, 2 drop all (R50); its number, and the slots and
generations under the keys that it erases (R52, R104, R105). -/
structure KxpOrder where
  id : Nat := 0
  chain : Chain := []
  dest : Nat
  op : Nat
  slot : Nat
  shareA : BitVec 256
  shareB : BitVec 256
  cmd : Option Nat
  deriving DecidableEq, Repr

/-- The key store (R88 to R110). -/
structure KeyStore where
  /-- Slots; unlisted EMPTY at generation 1 (R110). -/
  slots : Tab KeySlot := []
  free : FreeList := { next := 64 }
  /-- The slot-protection key (R91). -/
  spk : BitVec 256 := 0
  /-- The invalidation sequence number (R105). -/
  invSeq : Nat := 0
  invals : List Inval := []
  lateInvals : Nat := 0
  exports : Tab ExportEntry := []
  /-- Orders at `kxp_*` not yet answered; the first of each destination is out (R50, R51). -/
  kxp : List KxpOrder := []
  nextKxp : Nat := 0
  /-- Directory indices of persistent keys under an operation whose result is outstanding (R118, R119). -/
  dirBusy : List Nat := []
  /-- Directory indices whose pointer must be read again before their next use (R119). -/
  dirDoubt : List Nat := []
  deriving DecidableEq, Repr

/-! ## Regions and the memory channel engines -/

/-- Sealing modes (R123). -/
inductive Mode where
  | none | sealed | narrow | replay | scramble | companion
  deriving DecidableEq, Repr

/-- A region table entry (R122, R124, R125); `binding` while its line writes run (R150). -/
structure RegionEntry where
  mode : Mode := .none
  ownerFn : BitVec 8 := 0
  ownerCtx : BitVec 16 := 0
  threshold : BitVec 8 := 0
  failCount : BitVec 8 := 0
  tripped : Bool := false
  ctxwide : Bool := false
  generator : Bool := false
  keyset : List (BitVec 16) := []
  old : BitVec 3 := 0
  new : BitVec 3 := 0
  rekeying : Bool := false
  redirect : Bool := false
  binding : Bool := false
  deriving DecidableEq, Repr

/-- A bind whose line writes run: the next line of each MCE, by MCE (R150). -/
structure BindJob where
  cmd : Nat
  next : Tab Nat
  deriving DecidableEq, Repr

/-- A rekey: progress pointer of each MCE, counts, and whether it has stopped (R120, R121, R153, R154). -/
structure RekeyJob where
  cmd : Option Nat
  next : Tab Nat
  resealed : Nat := 0
  left : Nat := 0
  poisoned : Nat := 0
  stopped : Bool := false
  deriving DecidableEq, Repr

/-- An unbind, trip or rekey start that waits for region caches to drop the entry (R151, R152). -/
structure RegionDrop where
  region : Nat
  cmd : Option Nat
  mces : List Nat
  deriving DecidableEq, Repr

/-- A run of the traffic generator: its target, whether that was bound before, the drawn key, requests and writes done,
the units of the slice taken in the present pass, and its results (R166 to R169). -/
structure GenRun where
  mce : Nat
  region : Nat
  mode : Mode
  own : Bool
  key : BitVec 512
  done : Nat := 0
  writes : Nat := 0
  taken : List Nat := []
  mismatches : Nat := 0
  integrity : Nat := 0
  poisoned : Nat := 0
  overflows : Nat := 0
  latMin : Nat := 0
  latSum : Nat := 0
  latMax : Nat := 0
  deriving DecidableEq, Repr

/-- The region table and the passes over it (R122, R150 to R154). -/
structure Regions where
  /-- The region table; unlisted entries are unbound (R122). -/
  table : Tab RegionEntry := []
  binds : Tab BindJob := []
  rekeys : Tab RekeyJob := []
  drops : List RegionDrop := []
  /-- Runs of the traffic generator, by command. -/
  gens : Tab GenRun := []
  deriving DecidableEq, Repr

/-- A counter node: MAJOR and 64 minors of 6 bits (R140). -/
structure Node where
  major : BitVec 49 := 0
  minors : BitVec 384 := 0
  deriving DecidableEq, Repr

/-- A cached counter node: level and index, whether it is dirty, its way group, whether its way is withheld, and the
counter of the tree it belongs to: none for tier 1, a region for a tier-0 tree (R143, R144, R145, R149). -/
structure CachedNode where
  tree : Option Nat
  level : Nat
  index : Nat
  node : Node
  dirty : Bool
  group : Nat
  withheld : Bool := false
  deriving DecidableEq, Repr

/-- A buffered tag sector: its address, 32 bytes, whether it is dirty, and its 4-byte slots whose tags an error of the
controller has lost (R149, R162). -/
structure TagSector where
  addr : Nat
  data : BitVec 256
  dirty : Bool
  lost : BitVec 8 := 0
  deriving DecidableEq, Repr

/-- What a controller read was issued for (R36, R141, R149). -/
inductive Part where
  | data (line : Nat)
  | tag (line : Nat)
  | tag2 (line : Nat)
  | node (level : Nat) (index : Nat)
  deriving DecidableEq, Repr

/-- What a controller read has returned (R36, R141). -/
structure PartReturn where
  part : Part
  addr : Nat
  len : Nat
  err : Bool
  data : Beat
  deriving DecidableEq, Repr

/-- Where a request stands in its MCE (R34, R164, R165). -/
inductive ReqStage where
  | ingress | pool | fill | reading
  deriving DecidableEq, Repr

/-- A request held by an MCE: the entry and serving key it was checked under (R127, R152), and what has returned. -/
structure MceReq where
  id : Nat
  req : MemReq
  data : Beat := 0
  stage : ReqStage
  /-- The serving key's slot of each line, and the schedules once the lookup has finished (R16, R129). -/
  slots : List Nat := []
  keys : List (BitVec 512) := []
  /-- A tier-1 read for the second line of a length-2 request has timed out (R500). -/
  cut : Bool := false
  entry : RegionEntry := {}
  back : List PartReturn := []
  deriving DecidableEq, Repr

/-- A read outstanding at `mctl_*` (R36, R205). -/
structure MctlRead where
  /-- The request it serves; none once what it reads has been overwritten and it must be read again. -/
  req : Option Nat
  part : Part
  addr : Nat
  len : Nat
  deriving DecidableEq, Repr

/-- An access that waits for controller credit, and the answer that its acceptance allows (R37, R38). -/
structure MctlOut where
  write : Bool
  addr : Nat
  len : Nat
  tag : Nat := 0
  data : Beat := 0
  answer : Option (BitVec 10 × Status) := none
  deriving DecidableEq, Repr

/-- One memory channel engine (R28 to R39, R134, R142, R144, R149, R164, R422). -/
structure Mce where
  /-- Credits granted and held by the host chip (R34). -/
  aCrd : Nat := 0
  wCrd : Nat := 0
  /-- Credits due but withheld (R21, R478). -/
  aOwed : Nat := 0
  wOwed : Nat := 0
  /-- The ingress has stopped after a credit violation (R34). -/
  halted : Bool := false
  /-- Credits of the controller (R37). -/
  ctlA : Nat := 16
  ctlW : Nat := 16
  qocc : BitVec 8 := 0
  /-- Requests held, oldest first. -/
  reqs : List MceReq := []
  nextReq : Nat := 0
  reads : Tab MctlRead := []
  quarantine : List Nat := []
  held : List MctlOut := []
  regions : List (Nat × RegionEntry) := []
  regionDrops : List Nat := []
  tags : List TagSector := []
  nodes : List CachedNode := []
  /-- Nodes of levels 0 and 1 whose changed contents an SRAM error has lost: tree, level, index (R163, R465). -/
  lost : List (Option Nat × Nat × Nat) := []
  /-- Root nodes: 0 of tier 1, region + 1 of a tier-0 tree (R139, R143). -/
  roots : Tab Node := []
  treeKey : BitVec 256 := 0
  k0 : BitVec 64 := 0
  k1 : BitVec 64 := 0
  /-- Window state: minimums left by requester, deficits by class, last requester served, MIN_SHORT (R422). -/
  minLeft : Tab Nat := []
  deficit : Tab Nat := []
  lastReq : Nat := 0
  lastClass : Nat := 0
  minShort : Nat := 0
  capacity : Nat := 0
  misrouted : Nat := 0
  timeouts : Nat := 0
  discarded : Nat := 0
  short : Bool := false
  deriving DecidableEq, Repr

/-! ## Link port engines -/

/-- A request that awaits completion packets, under its RTAG (R188, R191, R205, R206). -/
structure Outstanding where
  req : LinkReq
  /-- The function of the requesting context. -/
  fn : Nat
  /-- SEQ of the packets sent and not yet answered. -/
  seqs : List Nat := []
  /-- Packets not yet sealed. -/
  unsent : Nat := 1
  /-- TOKEN and home of a group load (R201, R202). -/
  token : Option (BitVec 64) := none
  status : Status := .ok
  /-- What the completion has brought: load data, or the old value of an ATOMIC. -/
  data : Bytes := []
  /-- An INVAL met this LOAD_CACHE (R198). -/
  marked : Bool := false
  /-- A go counter raise of a reduction slot: nothing is answered at `lreq_*` (R222). -/
  kiln : Option Nat := none
  deriving DecidableEq, Repr

/-- A quarantined RTAG with the REQSEQs that it may still meet (R206). -/
structure Quarantined where
  rtag : Nat
  seqs : List Nat
  deriving DecidableEq, Repr

/-- A frame of a remote line cache: a line of another block, or a line of a job's state region of this block (`own`),
whose plaintext stands in memory as seen through the block (R183, R194, R199). -/
structure RemoteLine where
  own : Bool := false
  home : BitVec 12 := 0
  job : BitVec 16
  line : Nat
  data : Line := 0
  dirty : Bool := false
  /-- The chain of the key that brought the line, for drop orders (R210). -/
  chain : Chain := []
  deriving DecidableEq, Repr

/-- An INVALIDATE at the home: who asked, and the readers (block, LPE) whose answer it awaits; one that waits behind
another has not `begun` (R197, R200). -/
structure HomeInval where
  line : Nat
  job : BitVec 16
  hdr : BitVec 256
  begun : Bool := false
  readers : List (Nat × Nat) := []
  deriving DecidableEq, Repr

/-- The message of a link admission that a side has reached (R399). -/
inductive AdmStage where
  | idle | helloSent | evidence | kem | finish | admitted
  deriving DecidableEq, Repr

/-- The peer's link report: the fields of R391 that R400 and R406 look at, and whether its chains and its signatures verify. -/
structure PeerReport where
  kind : Nat
  nonce : Bytes
  lifecycle : Nat
  debug : Nat
  blockId : Nat
  devid : Bytes
  bundle : Bytes
  svn : Nat
  kemKey : Bytes
  chains : Bool
  sigs : Bool
  deriving DecidableEq, Repr

/-- An admission session of a port (R394 to R402). -/
structure Admission where
  stage : AdmStage := .idle
  myRandom : BitVec 256 := 0
  peerRandom : BitVec 256 := 0
  low : Bool := false
  myHello : Bytes := []
  peerHello : Bytes := []
  myReport : Bytes := []
  peerReport : Bytes := []
  myKem : Bytes := []
  peerKem : Bytes := []
  mySecret : BitVec 256 := 0
  peerSecret : BitVec 256 := 0
  partner : Option PeerReport := none
  linkKey : Option (BitVec 256) := none
  transcript : Bytes := []
  finishSent : Bool := false
  rejected : Bool := false
  rejects : Nat := 0
  /-- A DEFERRED answer has come, and HELLO is due once its HINT has passed (R398). -/
  deferred : Bool := false
  /-- The body of the partner's last READY (R408). -/
  ready : Bytes := []
  deriving DecidableEq, Repr

/-- A packet that an LPE sends: clear header, payload as it crosses, tag (R170, R176). -/
structure TxPacket where
  hdr : BitVec 256
  payload : List Unit64
  tag : BitVec 128
  deriving DecidableEq, Repr

/-- A packet that waits to be sealed and sent: `req` when it belongs to the outstanding request of its RTAG, `answer`
for the `lreq_*` tag that is answered once the packet has left (R172, R188, R192). -/
structure Outgoing where
  ty : Nat
  pclass : Nat
  multi : Bool := false
  dst : Nat
  job : Nat
  dport : Nat
  rtag : Nat := 0
  opd : Nat := 0
  payload : Bytes
  req : Bool := false
  answer : Option (BitVec 12) := none
  deriving DecidableEq, Repr

/-- A go counter raise that waits for an RTAG: slot, member, address, operand (R222). -/
structure Raise where
  slot : Nat
  job : Nat
  dst : Nat
  addr : Nat
  value : Nat
  deriving DecidableEq, Repr

/-- A pair key that the derivation lane has been asked for (R179). -/
structure LaneJob where
  job : Nat
  src : BitVec 12
  dst : BitVec 12
  epoch : BitVec 32
  deriving DecidableEq, Repr

/-- One link port engine (R40 to R44, R178, R194 to R213, R397, R422). -/
structure Lpe where
  up : Bool := false
  aCrd : Nat := 0
  wCrd : Nat := 0
  aOwed : Nat := 0
  wOwed : Nat := 0
  halted : Bool := false
  rxCrd : Nat := 0
  /-- Beat credits due to the link controller but withheld (R213). -/
  rxOwed : Nat := 0
  /-- Beat credits of the link controller (R42, R212). -/
  txCrd : Nat := 0
  /-- Sealed packets that wait for beat credit, each with the `lreq_*` tag that its departure answers. -/
  txHeld : List (TxPacket × Option (BitVec 12)) := []
  rtags : Tab Outstanding := []
  quarantine : List Quarantined := []
  /-- Requests that wait for an RTAG. -/
  ingress : List (LinkReq × List Beat) := []
  raises : List Raise := []
  /-- Packets that wait for a pair key. -/
  outWait : List Outgoing := []
  lane : List LaneJob := []
  rxWait : List (RxPacket × Access) := []
  remote : List RemoteLine := []
  invals : List HomeInval := []
  adm : Admission := {}
  member : Bool := false
  partnerHops : BitVec 8 := 0xFF
  /-- Sequence numbers and replay window of the link class (R397). -/
  linkSeq0 : Nat := 1
  linkSeq1 : Nat := 1
  linkHigh : Nat := 0
  linkMap : BitVec 4096 := 0
  exchange : BitVec 32 := 0
  reqTick : BitVec 64 := 0
  reqFrac : BitVec 16 := 0
  offsets : List Int := []
  minLeft : Tab Nat := []
  deficit : Tab Nat := []
  lastReq : Nat := 0
  lastClass : Nat := 0
  minShort : Nat := 0
  capacity : Nat := 0
  evicts : Nat := 0
  short : Bool := false
  deriving DecidableEq, Repr

/-! ## Reductions and lane programs -/

/-- One window of a reduction: blocks counted by kiln in each phase, and slices retired (R229 to R231). -/
structure Window where
  expCount : Tab Nat := []
  expDone : Bool := false
  expGiven : Bool := false
  sumCount : Tab Nat := []
  sumGiven : Bool := false
  /-- Kilns whose slice of the window has retired (R231). -/
  slices : List Nat := []
  retired : Bool := false
  deriving DecidableEq, Repr

/-- A live reduction (R220 to R231). -/
structure Reduction where
  fn : Nat
  ctx : BitVec 16
  job : BitVec 16
  call : BitVec 24
  rank : Nat
  n : Nat
  elems : Nat
  window : Nat
  inFmt : Nat
  scaled : Bool
  a64 : Bool
  outFmt : Nat
  sr : Bool
  seed : Nat
  prog : Nat
  srcAddr : Nat
  srcKey : Nat
  resAddr : Nat
  resKey : Nat
  anchor : Nat
  goBase : Nat
  gx : Nat := 0
  gs : Nat := 0
  windows : Tab Window := []
  /-- Accumulators of the window being summed, by element; unlisted 0 (R218). -/
  acc : Tab (BitVec 64) := []
  /-- Blocks of the window marked non-finite (R230). -/
  bad : List Nat := []
  expWait : List (Nat × Nat) := []
  sumWait : List (Nat × Nat) := []
  /-- The reduction has ended and holds its slot until KILN_FINISH (R228, R238). -/
  ended : Bool := false
  cntRetired : Nat := 0
  cntBlocks : Nat := 0
  cntNonFinite : Nat := 0
  cntViolations : Nat := 0
  cntSaturated : Nat := 0
  cntDiscarded : Nat := 0
  deriving DecidableEq, Repr

/-- A stored lane program (R262, R263, R269). -/
structure Program where
  fn : Nat
  target : Nat
  rate : Nat
  inl : Nat
  outl : Nat
  inFmt : Nat
  inScaled : Bool
  outFmt : Nat
  outScaled : Bool
  consts : List (BitVec 64)
  text : List (BitVec 32)
  digest : BitVec 384
  worst : Nat
  deriving DecidableEq, Repr

/-! ## Functions, queues, commands -/

/-- The cipher register page of a function (R368 to R375). -/
structure CipherPage where
  mode : BitVec 3 := 0
  dir : Bool := false
  ctrw : BitVec 2 := 0
  key : BitVec 16 := 0
  len : BitVec 9 := 0
  busy : Bool := false
  done : Bool := false
  checkFail : Bool := false
  ctrEnd : Bool := false
  code : Status := .ok
  outLen : Nat := 0
  iv : BitVec 128 := 0
  blocks : Nat := 0
  vector : BitVec 11 := 0
  irq : Bool := false
  dataIn : BitVec 2048 := 0
  dataOut : BitVec 2048 := 0
  /-- The running operation: its result, the next IV and CTR_END, released by CIPHER_DONE (R377). -/
  running : Option (Bytes × BitVec 128 × Bool × Nat) := none
  /-- The generation chain of the key of the running operation (R379). -/
  chain : Chain := []
  /-- FUNCTION_RESET came while it ran (R380). -/
  discard : Bool := false
  deriving DecidableEq, Repr

/-- An event record (R460). -/
structure Event where
  tick : BitVec 64
  code : BitVec 16
  engine : BitVec 8
  alarm : Bool
  blockwide : Bool
  redacted : Bool
  fn : BitVec 8
  ctx : BitVec 16
  data : BitVec 128
  deriving DecidableEq, Repr

/-- Where an ash stream stands: filling; a packet closes once its record writes have returned; its header is out; the
buffer is handed over once its last write has returned (R311, R312). `flush` hands the buffer over after the packet. -/
inductive AshPhase where
  | filling
  | closing (flush : Bool)
  | header (flush : Bool)
  | handing
  deriving DecidableEq, Repr

/-- The ash stream of a function: CX_FN_ASH_CTL, the open packet, and the records on their way (R310 to R312). -/
structure AshStream where
  sizeLog2 : BitVec 5 := 0
  enable : Bool := false
  aHeld : Bool := false
  bHeld : Bool := false
  overrun : Bool := false
  /-- Buffer being filled: false A, true B. -/
  active : Bool := false
  vector : BitVec 11 := 0
  baseA : BitVec 52 := 0
  baseB : BitVec 52 := 0
  /-- Offset of the open packet or of free space in the active buffer. -/
  offset : Nat := 0
  /-- Records of the open packet; the packet is open when there are any. -/
  records : Nat := 0
  firstTick : BitVec 64 := 0
  seq : BitVec 32 := 0
  dropped : Nat := 0
  /-- Of them, those that the header on its way reports. -/
  told : Nat := 0
  phase : AshPhase := .filling
  /-- Writes at `hcp_*` not yet answered. -/
  writes : Nat := 0
  transit : List Event := []
  deriving DecidableEq, Repr

/-- A record on its way to a fault queue: whether the vector of CX_ALARM_IRQ follows it (R490), and whether it is one of a
batch and not the last, so that VECTOR waits for the others (R360). -/
structure FaultRec where
  event : Event
  alarm : Bool := false
  more : Bool := false
  /-- The record is one of a batch (R360). -/
  batch : Bool := false
  deriving DecidableEq, Repr

/-- A function's fault queue: CX_FN_FAULTQ_CTL and its base (R309); `queue` holds the records on their way, the first
one's write being out. -/
structure FaultQueue where
  base : BitVec 52 := 0
  log2 : BitVec 5 := 0
  enable : Bool := false
  overflow : Bool := false
  vector : BitVec 11 := 0
  head : BitVec 16 := 0
  tail : BitVec 16 := 0
  queue : List FaultRec := []
  deriving DecidableEq, Repr

/-- A run of host pages kept for ADDR_CONVERT (R361): VA, target, pages, and 64 GiB pages or 256 MiB ones. -/
structure HostRun where
  va : Nat
  target : Nat
  count : Nat
  big : Bool
  deriving DecidableEq, Repr

/-- A translation fault waiting for its batch (R360). -/
structure XlateFault where
  dva : BitVec 64
  qp : BitVec 16
  sqIdx : BitVec 16
  stream : BitVec 8
  kind : BitVec 8
  ctx : BitVec 16
  deriving DecidableEq, Repr

/-- A function's page and what else belongs to it (R292 to R315, R353 to R361, R496). -/
structure FnPage where
  qpBase : BitVec 16 := 0
  qpCount : BitVec 17 := 0
  msix : BitVec 12 := 0
  enabled : Bool := false
  quiesced : Bool := false
  resetting : Bool := false
  /-- A function reset that waits for drops: its command, the last invalidation it made, the regions it unbound (R315). -/
  resetWait : Option (Nat × Nat × List Nat) := none
  /-- A quiesce that runs: its command (R314). -/
  quiescing : Option Nat := none
  keyQuota : BitVec 14 := 0
  regionLo : BitVec 14 := 0x3FFF
  regionHi : BitVec 14 := 0
  qtable : BitVec 52 := 0
  qpCtlQp : BitVec 16 := 0
  qpCtlOp : BitVec 2 := 0
  qpCtlBusy : Bool := false
  qpCtlStatus : Status := .ok
  fenceRegion : BitVec 14 := 0
  upPost : Bool := false
  downPost : Bool := false
  upVec : BitVec 11 := 0
  downVec : BitVec 11 := 0
  mboxUp : Tab Reg := []
  mboxDown : Tab Reg := []
  faultq : FaultQueue := {}
  ash : AshStream := {}
  cipher : CipherPage := {}
  runs : List HostRun := []
  leaves : FreeList := { next := 0 }
  faults : List XlateFault := []
  /-- The submission queue that was served last (R302). -/
  lastSq : Nat := 0xFFFF
  deriving DecidableEq, Repr

/-- A completion record whose slot it has not yet taken (R319): `irq` as the descriptor's flag, `force` for EVENT_NOTIFY. -/
structure Rec where
  cookie : BitVec 64 := 0
  res0 : BitVec 64 := 0
  res1 : BitVec 64 := 0
  status : Status
  sqIdx : Nat
  opcode : BitVec 16 := 0
  rblock : Bool := false
  irq : Bool
  force : Bool := false
  /-- The block restarts once this record has been written (R436, R454). -/
  restart : Bool := false
  deriving DecidableEq, Repr

/-- A queue pair (R297 to R303). Indices count modulo the ring. -/
structure QueuePair where
  enabled : Bool := false
  fn : Nat := 0
  sqBase : BitVec 64 := 0
  cqBase : BitVec 64 := 0
  sqLog2 : Nat := 6
  cqLog2 : Nat := 6
  vector : BitVec 11 := 0
  coalCount : Nat := 0
  coalNs : Nat := 0
  sqHead : Nat := 0
  sqTail : Nat := 0
  cqHead : Nat := 0
  cqTail : Nat := 0
  phase : Bool := true
  /-- CQ slots reserved for descriptors fetched or being fetched (R300). -/
  reserved : Nat := 0
  /-- Completed commands in completion order; the write of the first one's record is out (R301). -/
  done : List Rec := []
  /-- Records with the interrupt flag since the last interrupt (R303). -/
  uncovered : Nat := 0
  /-- Disable in progress (R298). -/
  closing : Bool := false
  deriving DecidableEq, Repr

/-- Where a command stands (R301, R321, R324). -/
inductive CmdStage where
  /-- Fetched; an earlier command holds it (R301). -/
  | fetched
  /-- Waits for its host buffer. -/
  | reading
  /-- Its buffer, if any, is here; it has not committed. -/
  | ready
  /-- Committed, or waiting as its rule says; its record follows a later event. -/
  | waiting
  deriving DecidableEq, Repr

/-- A command in flight (R316, R323). -/
structure Cmd where
  qp : Nat
  fn : Nat
  sqIdx : Nat
  desc : Descriptor
  stage : CmdStage
  buf : Bytes := []
  /-- Requests of this command at the public-key and hash engine not yet answered, and the answers. -/
  pkhLeft : Nat := 0
  pkh : List PkhResult := []
  /-- A 32-bit progress figure of commands that run in pieces. -/
  count : Nat := 0
  deriving DecidableEq, Repr

/-- What one write at `hcp_*` was for (`part`: a piece of the access in that group, R46), and what follows its response (R49, R309, R311, R320, R321, R322). -/
inductive WriteFor where
  | record (qp : Nat)
  | block (cmd : Nat) (status : Status) (res0 res1 : BitVec 64)
  | meter (cmd record : Nat) (r : MeterRecord) (res0 : BitVec 64)
  | fault (fn : Nat)
  | ash (fn : Nat)
  | dma (desc : Nat)
  | part (group : Nat)
  /-- Nothing waits for the answer any more; the tag is not free before it. -/
  | void
  deriving DecidableEq, Repr

/-- What a read at `hcp_*` was for; `part` as for a write, with the piece's place. -/
inductive ReadFor where
  | queueEntry (fn : Nat) (qp : BitVec 16)
  | buffer (cmd : Nat)
  | part (group place : Nat)
  | void
  deriving DecidableEq, Repr

/-- An access of at most 4,096 bytes at `hcp_*` (R46). -/
inductive HostAccess where
  | read (fn addr len : Nat) (why : ReadFor)
  | write (fn addr : Nat) (data : Bytes) (why : WriteFor)
  deriving DecidableEq, Repr

/-- A host access of more than 4,096 bytes: pieces not yet answered, whether one failed, and what the reads have brought by
place (R46). -/
structure HostGroup where
  left : Nat
  err : Bool := false
  back : Tab Bytes := []
  read : Option ReadFor := none
  write : Option WriteFor := none
  deriving DecidableEq, Repr

/-- A live context (R304, R265, R337, R367). -/
structure Ctx where
  fn : Nat
  jobs : List Nat := []
  progs : List Nat := []
  /-- Measured-load records by object id: digest, protected address, length (R367). -/
  measured : Tab (BitVec 384 × Nat × Nat) := []
  deriving DecidableEq, Repr

/-- A job on this block (R180, R183, R336, R337). -/
structure Job where
  fn : Nat
  slot : Nat
  /-- The generation of the job key's slot: the function holds the job's key while the slot has it. -/
  gen : BitVec 16
  epoch : BitVec 32
  /-- The epoch before, while its packets are accepted. -/
  prev : Option (BitVec 32) := none
  members : List (BitVec 12 × BitVec 14) := []
  stateRegion : Option Nat := none
  torn : Bool := false
  lastCall : Option (BitVec 24) := none
  deriving DecidableEq, Repr

/-- A pending fence wait, by its command (R307). -/
structure FenceWaiter where
  cmd : Nat
  fn : Nat
  fence : Nat
  value : BitVec 64
  deriving DecidableEq, Repr

/-- What a DMA descriptor does (R362, R365, R366, R281). -/
inductive DmaKind where
  | copy | ingest | measure | shuffle
  deriving DecidableEq, Repr

/-- Where a DMA descriptor stands (R351, R358). -/
inductive DmaStage where
  | walking | queued | running
  deriving DecidableEq, Repr

/-- A translated page of a descriptor: DVA page base, size, target, host or protected (R358). -/
structure Page where
  va : Nat
  size : Nat
  target : Nat
  host : Bool
  deriving DecidableEq, Repr

/-- A DMA descriptor (R351, R358 to R367). -/
structure DmaDesc where
  cmd : Nat
  fn : Nat
  ctx : BitVec 16
  kind : DmaKind
  stream : Nat
  stage : DmaStage := .walking
  src : Nat
  dst : Nat
  sscale : Nat := 0
  dscale : Nat := 0
  len : Nat
  sfmt : Nat := 0
  dfmt : Nat := 0
  sscaled : Bool := false
  dscaled : Bool := false
  skey : Nat := 0
  dkey : Nat := 0
  prog : Option Nat := none
  pages : List Page := []
  /-- Source bytes read and destination bytes written (R364). -/
  read : Nat := 0
  written : Nat := 0
  /-- INGEST: licence record, shard header, chunks taken, plaintext that the program has not yet read. COPY: `chunk` counts the
  destination scale bytes written, `taken` holds those not yet written. MEASURE: object, bytes read. SHUFFLE: record, epoch
  (`object`), n, f. -/
  record : Nat := 0
  header : Bytes := []
  chunk : Nat := 0
  object : BitVec 32 := 0
  taken : Bytes := []
  shufN : Nat := 0
  shufFirst : Nat := 0
  rdst : Nat := 0
  /-- Plaintext not yet moved to the destination. -/
  buf : Bytes := []
  /-- SHUFFLE: the licence of the installation, as submitted (R282). -/
  licence : BitVec 32 := 0
  /-- The descriptor has ended with this status and waits for the answers of its writes (R359, R364). -/
  ending : Option Status := none
  deriving DecidableEq, Repr

/-! ## Licences, governor, time, observation, start-up -/

/-- A live installation, under its meter record (R273, R274). -/
structure Install where
  licence : BitVec 32
  fn : Nat
  slot : Nat
  gen : BitVec 16
  uses : BitVec 8
  destMask : BitVec 8
  allowBytes : Nat
  allowPushes : Nat
  samples : Nat
  deriving DecidableEq, Repr

/-- Counts of a record as the block holds them, at or below the marks (R289); `ended` once its last period has been reported,
so that it goes to the revocation list (R291). -/
structure Meter where
  life : Counts := {}
  period : Counts := {}
  ended : Bool := false
  deriving DecidableEq, Repr

/-- The wall-clock anchor (R285). -/
structure Anchor where
  tick : Nat
  wall : Nat
  deriving DecidableEq, Repr

/-- What the answer to a relayed operation continues (R68, R119, R274, R276, R289, R454). -/
inductive RelayFor where
  | boot (r : BootRecord)
  | patch (cmd : Option Nat) (r : PatchRecord)
  | meter (record : Nat) (r : MeterRecord)
  | install (cmd record : Nat) (r : MeterRecord) (i : Install) (material : BitVec 256) (parent : Nat) (mask : BitVec 16)
  | revokeRecord (cmd record : Nat) (r : MeterRecord)
  | revokeList (cmd : Option Nat) (licence : BitVec 32) (issuer : BitVec 160) (freeRecord : Option Nat)
  | blob (cmd : Option Nat) (index : Nat) (b : Blob) (p : Pointer) (slot : Nat × BitVec 16) (old : Option (Nat × BitVec 16))
  | pointer (cmd : Option Nat) (index : Nat) (p : Pointer) (slot old : Option (Nat × BitVec 16))
  /-- A pointer read again before its index is used; the command then runs anew (R119). -/
  | readPointer (cmd index : Nat)
  /-- The meter records, after kindling step 7 (R290). -/
  | readMeters
  deriving DecidableEq, Repr

/-- A relayed operation waiting for its answer (R68, R69). -/
structure Relay where
  seq : BitVec 8
  what : RelayFor
  /-- The write counter of a write's frame, and the nonce of a read's (R68, log 120). -/
  count : Nat := 0
  nonce : BitVec 128 := 0
  /-- The boot that asked for it still runs (R63, R118). -/
  live : Bool := true
  deriving DecidableEq, Repr

/-- A power partition (R418). -/
structure Partition where
  cap : Nat := 0
  owner : Nat := 0
  /-- In 1/256 pJ with 30 fraction bits. -/
  level : Int := 0
  limit : Nat := 1024
  deriving DecidableEq, Repr

/-- The governor (R53 to R58, R414 to R421). -/
structure Governor where
  railMask : BitVec 8 := 0
  /-- Calibration factor with 30 fraction bits. -/
  scale : Nat := 0x4000_0000
  /-- The factor that the last calibration set, until the next microsecond boundary (R415). -/
  nextScale : Option Nat := none
  /-- A calibration under way: telemetry integral and counted energy before calibration, both in 1/256 pJ (R415). -/
  cal : Option (Nat × Nat) := none
  calClamp : Bool := false
  /-- Accounts 0 to 16, in 1/256 pJ with 30 fraction bits (R414). -/
  accounts : Tab Nat := []
  /-- Energy counted in the present microsecond by partition, before calibration, in 1/256 pJ. -/
  now : Tab Nat := []
  parts : Tab Partition := []
  /-- Matrix engine to partition; unlisted 0 (R414). -/
  engineMap : Tab Nat := []
  railMv : Nat := 0
  /-- The need that each engine's canary last showed, in mV (R420). -/
  needs : Tab Nat := []
  needMv : Nat := 0
  deficit : Bool := false
  deficitSeen : Bool := false
  deficits : Nat := 0
  /-- The request that the regulator has not answered (R56). -/
  railReq : Option Nat := none
  railTimeouts : Nat := 0
  telemetry : Tab (Nat × Nat) := []
  deriving DecidableEq, Repr

/-- CX_TIME_STATUS.STATE (R428). -/
inductive TimeState where
  | root | locked | holdover
  deriving DecidableEq, Repr

/-- The time unit (R60, R425 to R428). -/
structure TimeUnit where
  tick : BitVec 64 := 0
  valid : Bool := false
  step : Bool := false
  state : TimeState := .root
  parent : Nat := 0
  hops : BitVec 8 := 0
  offset : BitVec 32 := 0
  /-- Slew in force, in 1/65,536 ns to remove over the next 250 us (R426). -/
  slew : Int := 0
  locked : Bool := false
  /-- The block has joined a domain since kindling (R427). -/
  joined : Bool := false
  /-- `dtick_valid` is low for one edge and rises at the next (R426, R478). -/
  dropped : Bool := false
  asym : Tab (BitVec 32) := []
  deriving DecidableEq, Repr

/-- An ash ring: the last 256 events, newest first, and how many were ever written (R481). -/
structure Ring where
  events : List Event := []
  total : Nat := 0
  deriving DecidableEq, Repr

/-- The observation unit and the fault machinery (R464, R473, R480 to R483, R490, R494). -/
structure Observe where
  events : Tab Nat := []
  ops : Tab Nat := []
  rings : Tab Ring := []
  ringSel : BitVec 8 := 0
  window : Ring := {}
  eccThreshold : BitVec 8 := 16
  eccLeak : BitVec 16 := 10000
  eccVector : BitVec 11 := 0
  eccEnable : Bool := false
  eccOverflow : BitVec 10 := 0
  buckets : Tab Nat := []
  beats : BitVec 32 := 0
  watchdogs : BitVec 16 := 0
  /-- Ticks of the watchdog resets within the last second (R474). -/
  recentDogs : List (BitVec 64) := []
  hbAsh : Bool := false
  hbIrq : Bool := false
  hbVector : BitVec 11 := 0
  alarm : BitVec 7 := 0
  alarmVector : BitVec 11 := 0
  alarmEnable : Bool := false
  deriving DecidableEq, Repr

/-- Life-cycle states (R429, R430). -/
inductive LifeCycle where
  | blank | test | production | endOfLife | invalid
  deriving DecidableEq, Repr

/-- Start-up, shut-down and the sequencer's own condition (R430 to R457, R473, R474). -/
structure Boot where
  lc : LifeCycle := .blank
  /-- Kindling runs step `step + 1`; READY after step 7 (R443, R445). -/
  running : Bool := false
  step : Nat := 0
  ready : Bool := false
  failed : Bool := false
  unwarned : Bool := false
  code : Status := .ok
  recovery : Bool := false
  debugOpen : Bool := false
  rights : BitVec 32 := 0
  challenge : Option Bytes := none
  /-- The LC_TRANSITION whose groups are being programmed (R436). -/
  lcJob : Option Nat := none
  storeOk : Bool := false
  /-- The meter records have been read (R290). -/
  metersRead : Bool := false
  meterEpoch : BitVec 32 := 0
  /-- The tick at which the meter epoch started (R284). -/
  epochTick : BitVec 64 := 0
  /-- What kindling chose to run (R8, R455). -/
  version : BitVec 32 := 0
  svn : BitVec 16 := 0
  slot : Option SlotName := none
  onTrial : Bool := false
  digest : BitVec 384 := 0
  /-- The certificates DEVID_PQ, Akoirno PQ, DEVID_EC and Akoirno EC as the flash gave them, and whether Akoirno's verify to the
  ROM (R389, R450). -/
  flashCerts : List Bytes := []
  rootsOk : Bool := false
  /-- The block offers its chains (R388, R389). -/
  certs : Bool := false
  /-- The draw with which the alias certificates of this boot are signed (R388). -/
  certDraw : Nat := 0
  entropyFails : Nat := 0
  entropyDown : Bool := false
  drbgRequests : Nat := 0
  /-- Draw number of the last rekey of the mask expanders (R386). -/
  maskDraw : Nat := 0
  /-- Neither OTP bank was valid or empty: the block derives nothing (R112). -/
  noRoot : Bool := false
  /-- Start-up certificates refused (R441). -/
  certRefused : Nat := 0
  /-- The security version read at kindling (R454). -/
  otpSvn : BitVec 16 := 0
  /-- The sequencer is in reset (R19, R474). -/
  seqReset : Bool := false
  blockId : BitVec 12 := 0
  assigned : Bool := false
  /-- POWER_CYCLE has been sent and not acknowledged (R475). -/
  powerCycling : Bool := false
  /-- Instructions of `tap_*` taken, newest first (R70). -/
  tap : List TapInstr := []
  deriving DecidableEq, Repr

/-- SPDM at `mgmt_*` (R393). -/
structure Spdm where
  versioned : Bool := false
  capable : Bool := false
  negotiated : Bool := false
  session : Bool := false
  established : Bool := false
  secret : Bytes := []
  /-- The session's number, and secured messages sent in its present phase (R67). -/
  id : BitVec 32 := 0
  sent : Nat := 0
  large : Bytes := []
  deriving DecidableEq, Repr

/-- A domain manifest (R403). -/
structure Manifest where
  id : BitVec 64
  seed : BitVec 12
  minSvn : BitVec 16
  bundles : List (BitVec 384)
  members : List (BitVec 384 × BitVec 12)
  digest : BitVec 384
  deriving DecidableEq, Repr

/-- CX_DOM_STATUS.STATE (R404). -/
inductive DomState where
  | none | loading | waiting | member
  deriving DecidableEq, Repr

/-- Domain membership (R404 to R410). -/
structure Domain where
  src : BitVec 64 := 0
  len : BitVec 19 := 0
  state : DomState := .none
  split : Bool := false
  seed : Bool := false
  err : Status := .ok
  manifest : Option Manifest := none
  credSeen : Bool := false
  splits : Nat := 0
  deriving DecidableEq, Repr

/-- The pins that are not part of an engine's port (R60, R61, R62, R72, R73). -/
structure Pins where
  porN : Bool := false
  pwrGood : Bool := false
  warn : Bool := false
  blockSafe : Bool := true
  alarmFatal : Bool := false
  deriving DecidableEq, Repr

/-- One of the last crossings at the ports, from the block's side (R28, R36, R40, R42, R46, R50, R53, R56, R65, R68,
R70). -/
inductive Cross where
  | mreqD (mce : Nat) (tag : BitVec 10) (status : Status) (data : Beat)
  | mreqACrd (mce : Nat)
  | mreqWCrd (mce : Nat)
  | mctlRead (mce : Nat) (addr : Nat) (len : Nat) (tag : Nat)
  | mctlWrite (mce : Nat) (addr : Nat) (len : Nat) (tag : Nat) (data : Beat)
  /-- The writes that make a tier-1 tree at kindling, one for each node of levels 0 to 4: all hold this MAJOR, minors 0 and the
  MAC of `Tier.firstNode` (R148). -/
  | mctlTree (mce : Nat) (major : BitVec 49)
  | lreqD (lpe : Nat) (tag : BitVec 12) (status : Status) (last : Bool) (data : Beat)
  | lreqACrd (lpe : Nat)
  | lreqWCrd (lpe : Nat)
  | lphyRxCrd (lpe : Nat) (beats : Nat)
  | lphyTx (lpe : Nat) (sop eop : Bool) (len16 : BitVec 5) (data : Beat)
  | hcpT (data : Reg) (err : Bool)
  | hcpRead (fn : Nat) (addr : BitVec 64) (len : Nat) (tag : Nat)
  | hcpWrite (fn : Nat) (addr : BitVec 64) (data : Bytes) (tag : Nat)
  | irq (fn : Nat) (vec : BitVec 11)
  | kxp (dest : Nat) (op : Nat) (slot : Nat) (shareA shareB : BitVec 256)
  | govMap (engine : Nat) (part : Nat)
  | govLim (part : Nat) (rate : Nat)
  | railReq (mv : Nat)
  | relay (message : Bytes)
  | spdm (code : Nat) (body : Bytes)
  /-- A secured message of a session: its number, sequence number, and the encrypted record with its tag (R67). -/
  | secured (session : BitVec 32) (seq : BitVec 16) (data : Bytes)
  | tap (t : TapInstr) (value : BitVec 32)
  | flashErase (slot : SlotName)
  | flashWrite (slot : SlotName) (offset : Nat) (data : Bytes)
  /-- The SFDP read in 1S-1S-1S mode; the change to 8D-8D-8D mode; a read in it (R65). -/
  | flashSfdp
  | flashOctal
  | flashRead (offset : Nat) (len : Nat)
  deriving DecidableEq, Repr

/-- An engine in reset: why, and the commands that wait for its end (R478). -/
structure EngineReset where
  cause : Nat
  cmds : List Nat := []
  deriving DecidableEq, Repr

/-- A rake pass: its command, the next address and the end, and what it has counted (R466, R469). -/
structure Rake where
  cmd : Nat
  next : Nat
  stop : Nat
  fn : Nat
  vf : Bool
  checked : Nat := 0
  poisoned : Nat := 0
  integrity : Nat := 0
  deriving DecidableEq, Repr

/-- The deadlines and bandwidth registers (R205, R424, R489). -/
structure Limits where
  fabUs : BitVec 16 := 0xC8
  t1Us : BitVec 16 := 0x14
  minLines : Tab (BitVec 16) := []
  weights : Tab (BitVec 11) := []
  qhigh : BitVec 8 := 192
  deriving DecidableEq, Repr

/-- A counter-cache way group (R491). -/
structure WayGroup where
  fn : BitVec 8 := 0
  assigned : Bool := false
  shared : Bool := false
  busy : Bool := false
  /-- What BUSY will bring into force. -/
  next : Option (BitVec 8 × Bool × Bool) := none
  deriving DecidableEq, Repr

/-- The sequencer and everything a command can name (R302, R316 to R324). -/
structure Sequencer where
  cmds : Tab Cmd := []
  nextCmd : Nat := 0
  /-- Writes and reads at `hcp_*` not yet answered, by tag (R46). -/
  writes : Tab WriteFor := []
  reads : Tab ReadFor := []
  /-- Accesses that wait for a tag. -/
  hostWait : List HostAccess := []
  groups : Tab HostGroup := []
  nextGroup : Nat := 0
  relays : List Relay := []
  nextRelay : BitVec 8 := 0
  relayStrays : Nat := 0
  waits : List FenceWaiter := []
  dma : Tab DmaDesc := []
  nextDma : Nat := 0
  /-- DMA_UNMAPs that wait: command and the descriptors it waits for (R357). -/
  unmaps : List (Nat × List Nat) := []
  rakes : List Rake := []
  /-- The function served last, the queue pair whose turn it is, and how many descriptors the turn still has (R302). -/
  lastFn : Nat := 0xFF
  turnQp : Nat := 0
  turnLeft : Nat := 0
  /-- Register and doorbell writes taken while the sequencer was in reset: function, offset, value (R19). -/
  heldWrites : List (Nat × Nat × Reg) := []
  /-- Kill notices accepted while the sequencer was in reset (R64). -/
  kills : List (BitVec 16 × BitVec 4) := []
  /-- Contexts being cleaned up after a kill (R476). -/
  killing : List Nat := []
  deriving DecidableEq, Repr

/-- Everything the block holds but memory and the queue. `out` holds the port crossings of the last command and
`fresh` counts the free values drawn: both are the model's own (log 7, log 3). -/
structure Block where
  build : Build := {}
  otp : Otp := {}
  store : Store := {}
  pins : Pins := {}
  boot : Boot := {}
  keys : KeyStore := {}
  /-- Key caches by engine id (R12, R14). -/
  caches : Tab KeyCache := []
  regions : Regions := {}
  mces : Tab Mce := []
  lpes : Tab Lpe := []
  /-- Engines in reset, by id (R478). -/
  resets : Tab EngineReset := []
  reductions : Tab Reduction := []
  programs : Tab Program := []
  /-- Program frames by engine id: programs, most recently used first (R268). -/
  frames : Tab (List Nat) := []
  fns : Tab FnPage := []
  qps : Tab QueuePair := []
  ctxs : Tab Ctx := []
  ctxFree : FreeList := { next := 1 }
  jobs : Tab Job := []
  seq : Sequencer := {}
  installs : Tab Install := []
  meters : Tab Meter := []
  anchor : Option Anchor := none
  /-- Requests at the public-key and hash engine, by datapath, lattice and elliptic curve or hash: the command and the
  row of R381 (R382). -/
  pkhLattice : List (Nat × Nat) := []
  pkhCurve : List (Nat × Nat) := []
  /-- Requests that wait at their issuers because the engine holds 128, in order of arrival (R382). -/
  pkhIssuers : List (Nat × Nat) := []
  /-- The function whose page operation cores 2 and 3 took last (R377). -/
  cipherAt : Nat := 0xFF
  ways : Tab WayGroup := []
  limits : Limits := {}
  gov : Governor := {}
  time : TimeUnit := {}
  obs : Observe := {}
  spdm : Spdm := {}
  domain : Domain := {}
  /-- Shells whose clock stands (R26). -/
  stopped : List Shell := []
  out : List Cross := []
  /-- Crossings held at a shell whose clock stands (R26). -/
  held : List Cross := []
  fresh : Nat := 0
  deriving DecidableEq, Repr

/-- The whole machine: the block, protected memory as seen through it in plaintext (R458; canonical, unlisted bytes are
zero, log 8), and the queue of waiting commands, first in, first out. -/
structure State where
  blk : Block := {}
  mem : List Host.Cell := []
  pending : List Instr := []
  deriving DecidableEq, Repr

/-- Why the machine stops with a fault. -/
inductive Fault where
  /-- Raised by every command that names an instance of a port or engine that the built configuration lacks (R11, R22):
  there is no hardware at which the event could occur. Safe: nothing is claimed of it. -/
  | portNotBuilt
  deriving DecidableEq, Repr

/-- Why the machine has no answer for a command. -/
inductive Refusal where
  /-- Raised by no command that has its meaning: it stands for a row whose meaning is not written. Safe. -/
  | notModelled (mnemonic : String)
  deriving DecidableEq, Repr

/-- The PF's page after reset (R293, R295, R496). -/
def FnPage.pfReset : FnPage :=
  { qpCount := 64, msix := 64, enabled := true, keyQuota := 0x3FC0, regionLo := 0, regionHi := 0x3FFF }

/-- The machine right after reset: `por_n` low, `block_safe` high (R60, R62), every register at its Reset column
(R488), OTP blank as it leaves wafer test (R429), no engine brought up, nothing listed in memory, no command waiting. -/
def State.reset : State := { blk := { fns := [(0, FnPage.pfReset)] } }

end Sys2Proof.Machine
end

