-- ==== Sys2Proof/Machine/Bits.lean ====
section
/-! DEFINITION. Bit fields, tables with rising keys, free lists, and the numbering of status codes. -/

namespace Sys2Proof

/-- The 16-bit value of a status (R325). -/
def Status.code : Status → BitVec 16
  | .ok => 0x0000
  | .retryLater => 0x0101
  | .notReady => 0x0102
  | .timeout => 0x0103
  | .quiesced => 0x0104
  | .engineReset => 0x0105
  | .badOpcode => 0x0201
  | .badOperand => 0x0202
  | .translationFault => 0x0203
  | .fenceRegression => 0x0204
  | .noKey => 0x0301
  | .keyOrphaned => 0x0302
  | .keyCorrupt => 0x0303
  | .keyUsage => 0x0304
  | .keyEngine => 0x0305
  | .ctrExhausted => 0x0306
  | .integrityFail => 0x0401
  | .poisoned => 0x0402
  | .jobTorn => 0x0403
  | .licenseExhausted => 0x0404
  | .locked => 0x0501
  | .deniedLifecycle => 0x0502
  | .debugOpen => 0x0503

/-- Every status. -/
def Status.all : List Status :=
  [.ok, .retryLater, .notReady, .timeout, .quiesced, .engineReset, .badOpcode, .badOperand, .translationFault,
   .fenceRegression, .noKey, .keyOrphaned, .keyCorrupt, .keyUsage, .keyEngine, .ctrExhausted, .integrityFail,
   .poisoned, .jobTorn, .licenseExhausted, .locked, .deniedLifecycle, .debugOpen]

/-- The status of a 16-bit value; none for a reserved one (R325). -/
def Status.ofCode (c : Nat) : Option Status := Status.all.find? fun s => s.code.toNat = c

end Sys2Proof

namespace Sys2Proof.Machine

open Sys2Proof Sys2Proof.Machine.Crypto

/-! ## Fields -/

/-- Field of `w` bits from bit `lo` of a number (R2). -/
def fld (x lo w : Nat) : Nat := (x >>> lo) % 2 ^ w

/-- Field of `w` bits from bit `lo` of a register value. -/
def rfld (x : Reg) (lo w : Nat) : Nat := fld x.toNat lo w

/-- Bit `k` of a register value. -/
def rbit (x : Reg) (k : Nat) : Bool := x.toNat.testBit k

/-- Field of `n` bytes from byte `off` of a descriptor (R316). -/
def dfld (d : Descriptor) (off n : Nat) : Nat := fld d.toNat (8 * off) (8 * n)

/-- The bytes `off` to `off + n - 1` of a descriptor. -/
def dbytes (d : Descriptor) (off n : Nat) : Bytes := toLe n (dfld d off n)

/-- A truth value as a bit. -/
def bit (b : Bool) : Nat := if b then 1 else 0

/-- Bytes `off` to `off + n - 1` of a byte string, zero past its end. -/
def slice (b : Bytes) (off n : Nat) : Bytes :=
  let t := (b.drop off).take n
  t ++ List.replicate (n - t.length) 0

/-- The little-endian number in bytes `off` to `off + n - 1` of a byte string. -/
def bfld (b : Bytes) (off n : Nat) : Nat := le (slice b off n)

/-- Whether every byte is zero. -/
def allZero (b : Bytes) : Bool := b.all fun x => x = 0

/-- The first half-open interval meets the second. -/
def overlaps (a n b m : Nat) : Bool := a < b + m ∧ b < a + n

/-- ceil(a / b). -/
def ceilDiv (a b : Nat) : Nat := (a + b - 1) / b

/-- A saturating 64-bit count (R480). -/
def satAdd64 (a n : Nat) : Nat := min (a + n) (2 ^ 64 - 1)

/-- A saturating 32-bit count. -/
def satAdd32 (a n : Nat) : Nat := min (a + n) (2 ^ 32 - 1)

/-! ## Tables -/

def Tab.get? {α : Type} : Tab α → Nat → Option α
  | [], _ => none
  | (k, v) :: t, x => if k = x then some v else Tab.get? t x

def Tab.getD {α : Type} (t : Tab α) (k : Nat) (d : α) : α := (Tab.get? t k).getD d

/-- Puts a value, keeping the keys rising. -/
def Tab.put {α : Type} : Tab α → Nat → α → Tab α
  | [], x, a => [(x, a)]
  | (k, v) :: t, x, a =>
    if x < k then (x, a) :: (k, v) :: t else if x = k then (x, a) :: t else (k, v) :: Tab.put t x a

def Tab.del {α : Type} (t : Tab α) (k : Nat) : Tab α := t.filter fun e => e.1 ≠ k

/-- Changes the value of a key that is listed. -/
def Tab.upd {α : Type} (t : Tab α) (k : Nat) (f : α → α) : Tab α := t.map fun e => if e.1 = k then (e.1, f e.2) else e

/-- Changes the value of a key, listed or not. -/
def Tab.mod {α : Type} (t : Tab α) (k : Nat) (d : α) (f : α → α) : Tab α := Tab.put t k (f (Tab.getD t k d))

def Tab.has {α : Type} (t : Tab α) (k : Nat) : Bool := (Tab.get? t k).isSome

def Tab.keys {α : Type} (t : Tab α) : List Nat := t.map (·.1)

/-- Every value. -/
def Tab.vals {α : Type} (t : Tab α) : List α := t.map (·.2)

/-- The lowest number below `n` that the table does not list. -/
def Tab.lowest {α : Type} (t : Tab α) (n : Nat) : Option Nat := (List.range n).find? fun k => !Tab.has t k

/-! ## Free lists -/

/-- The number that has been free longest, below `limit` (R95, R304, R356; log 5). -/
def FreeList.take (f : FreeList) (limit : Nat) : Option (Nat × FreeList) :=
  if f.next < limit then some (f.next, { f with next := f.next + 1 })
  else match f.freed with
    | [] => none
    | n :: r => some (n, { f with freed := r })

/-- A number becomes free. -/
def FreeList.give (f : FreeList) (n : Nat) : FreeList := { f with freed := f.freed ++ [n] }

/-! ## Sealing modes -/

/-- The code of a mode (R123). -/
def Mode.code : Mode → Nat
  | .none => 0
  | .sealed => 1
  | .narrow => 2
  | .replay => 3
  | .scramble => 4
  | .companion => 5

/-- A mode a command can name (R332). -/
def Mode.ofCode : Nat → Option Mode
  | 1 => some .sealed
  | 2 => some .narrow
  | 3 => some .replay
  | 4 => some .scramble
  | _ => Option.none

/-! ## What is built -/

/-- Kilns: one for each four LPEs (R22). -/
def Build.kilns (b : Build) : Nat := b.lpes / 4

/-- Memory channel engines. -/
def Build.mces (b : Build) : Nat := b.t0 + b.t1

/-- Whether an engine id names a built engine (R12). -/
def Build.engineBuilt (b : Build) (e : Nat) : Bool :=
  (e < b.mces) ∨ (0x40 ≤ e ∧ e < 0x40 + b.lpes) ∨ (0x60 ≤ e ∧ e < 0x60 + b.kilns) ∨ (0x68 ≤ e ∧ e < 0x6A) ∨
  (0x70 ≤ e ∧ e ≤ 0x77)

/-- The engines with a key cache (R14): MCEs, LPEs, kilns, sealed DMA units and the cipher engine (R379). -/
def Build.cacheEngines (b : Build) : List Nat :=
  List.range b.mces ++ (List.range b.lpes).map (· + 0x40) ++ (List.range b.kilns).map (· + 0x60) ++ [0x68, 0x69, 0x70]

/-- The bit of ENGINE_MASK of an engine's class (R91); none for an engine without one. -/
def Build.classBit (b : Build) (e : Nat) : Option Nat :=
  if e < b.t0 then some 0
  else if e < b.mces then some 1
  else if 0x40 ≤ e ∧ e < 0x60 then some 2
  else if 0x60 ≤ e ∧ e < 0x68 then some 3
  else if e = 0x68 ∨ e = 0x69 then some 4
  else if e = 0x70 then some 5
  else if e = 0x71 then some 6
  else if e = 0x74 then some 7
  else none

/-- Schedules that an engine's key cache holds (R14); the cipher engine's depth is not stated and is not bounded. -/
def Build.cacheDepth (b : Build) (e : Nat) : Option Nat :=
  if e < b.mces then some 16
  else if 0x40 ≤ e ∧ e < 0x60 then some 64
  else if 0x60 ≤ e ∧ e < 0x6A then some 8
  else none

end Sys2Proof.Machine
end

