-- ==== Sys2Proof/Machine/Ops.lean ====
section
/-! DEFINITION. The named operations over memory, crossings, random draws, event records, fault queues, ash streams,
interrupts, host accesses and completion records, and the two shapes in which a command acts on the state. -/

namespace Sys2Proof.Machine

open Sys2Proof Sys2Proof.Machine.Crypto

/-! ## Memory -/

/-- Bytes of the protected address space (R23). -/
def memSize : Nat := 2 ^ 42

/-- The byte at an address; an unlisted one is zero (log 8). -/
def Memory.get : List Host.Cell → Nat → Byte
  | [], _ => 0
  | (k, w) :: t, a => if k = a then w else Memory.get t a

/-- Stores one byte and keeps the form of `Memory.wf`. -/
def Memory.set : List Host.Cell → Nat → Byte → List Host.Cell
  | [], a, v => if v = 0 then [] else [(a, v)]
  | (k, w) :: t, a, v =>
    if a < k then (if v = 0 then (k, w) :: t else (a, v) :: (k, w) :: t)
    else if a = k then (if v = 0 then t else (a, v) :: t)
    else (k, w) :: Memory.set t a v

/-- Stores bytes upward from an address; addresses wrap at the end of the protected address space (R23). -/
def Memory.write (m : List Host.Cell) (a : Nat) : Bytes → List Host.Cell
  | [] => m
  | v :: r => Memory.write (Memory.set m (a % memSize) v) (a + 1) r

/-- Bytes read upward from an address. -/
def Memory.read (m : List Host.Cell) (a n : Nat) : Bytes := (List.range n).map fun i => Memory.get m ((a + i) % memSize)

/-- Every listed address is above `lo`, below the end of the space, rising, and none holds zero. -/
def Memory.wfFrom : Nat → List Host.Cell → Bool
  | _, [] => true
  | lo, (k, w) :: t => lo ≤ k && k < memSize && w ≠ 0 && Memory.wfFrom (k + 1) t

/-- The canonical form of memory. -/
def Memory.wf (m : List Host.Cell) : Bool := Memory.wfFrom 0 m

/-- A store: address and bytes. -/
abbrev Store1 := Nat × Bytes

/-- Memory after stores, oldest first. -/
def applyStores (m : List Host.Cell) : List Store1 → List Host.Cell
  | [] => m
  | w :: r => applyStores (Memory.write m w.1 w.2) r

/-! ## Turns -/

/-- Of a list of numbers below n, the first at or after a start, going round. -/
def nextAfter (n start : Nat) (l : List Nat) : Option Nat :=
  let far (x : Nat) : Nat := (x + n - start % n) % n
  l.foldl (fun best x => match best with
    | none => some x
    | some y => some (if far x < far y then x else y)) none

/-! ## How a command acts -/

/-- A command under way that reads and writes protected memory: the block, memory as the command found it, and its
stores so far, oldest first. -/
structure Work where
  blk : Block
  base : List Host.Cell
  stores : List Store1 := []
  /-- An access that must wait at its MCE leaves the whole step to be taken again; and that has happened (R15, R17). -/
  patient : Bool := false
  stuck : Bool := false

/-- Memory as the command sees it now. -/
def Work.mem (w : Work) : List Host.Cell := applyStores w.base w.stores

/-- Reads plaintext through the block. -/
def Work.read (w : Work) (a n : Nat) : Bytes := Memory.read w.mem a n

/-- A little-endian number read through the block. -/
def Work.readLe (w : Work) (a n : Nat) : Nat := le (w.read a n)

/-- Writes plaintext through the block. -/
def Work.write (w : Work) (a : Nat) (b : Bytes) : Work := { w with stores := w.stores ++ [(a, b)] }

/-- Acts on the block alone. -/
def Work.on (w : Work) (f : Block → Block) : Work := { w with blk := f w.blk }

/-- Each command starts with no crossings shown (log 7). -/
def Block.begin (b : Block) : Block := { b with out := [] }

/-- A command that touches no protected memory. -/
def onBlock (s : State) (f : Block → Block) : Host.Outcome State Fault Refusal := .next { s with blk := f s.blk.begin }

/-- A command that reads or writes protected memory. -/
def onMemory (s : State) (f : Work → Work) : Host.Outcome State Fault Refusal :=
  .next { s with blk := (f { blk := s.blk.begin, base := s.mem }).blk
                 mem := applyStores s.mem (f { blk := s.blk.begin, base := s.mem }).stores }

/-- A command that makes accesses over the crossbar: while one of them must wait at its MCE nothing happens, and its row
is taken again (R15, R17, R193). -/
def onMemoryWait (s : State) (f : Work → Work) : Host.Outcome State Fault Refusal :=
  let w := f { blk := s.blk.begin, base := s.mem, patient := true }
  if w.stuck then .next { s with blk := s.blk.begin }
  else .next { s with blk := w.blk, mem := applyStores s.mem w.stores }

/-- Whether an instance of a port exists in the built configuration (R11, R22). -/
def Build.shellBuilt (b : Build) : Shell → Bool
  | .mreq n => n < b.mces
  | .mctl n => n < b.mces
  | .lreq n => n < b.lpes
  | .lphy n => n < b.lpes
  | _ => true

/-- A command that arrives at a port: there is no such port, or its clock stands and nothing can arrive (R26), or it
has its effect. -/
def atPort (sh : Shell) (s : State) (act : Host.Outcome State Fault Refusal) : Host.Outcome State Fault Refusal :=
  if !s.blk.build.shellBuilt sh then .fault .portNotBuilt
  else if s.blk.stopped.contains sh then onBlock s id
  else act

/-- An event inside the engine behind a port: it happens whether or not the shell's clock runs, and what would cross the
port is held (R26). -/
def behindPort (sh : Shell) (s : State) (act : Host.Outcome State Fault Refusal) : Host.Outcome State Fault Refusal :=
  if s.blk.build.shellBuilt sh then act else .fault .portNotBuilt

/-- A command that belongs to an engine of the built configuration. -/
def atEngine (e : Nat) (s : State) (act : Host.Outcome State Fault Refusal) : Host.Outcome State Fault Refusal :=
  if s.blk.build.engineBuilt e then act else .fault .portNotBuilt

/-! ## Crossings -/

/-- The shell at which a crossing takes place (R25). -/
def Cross.shell : Cross → Shell
  | .mreqD n _ _ _ => .mreq n
  | .mreqACrd n => .mreq n
  | .mreqWCrd n => .mreq n
  | .mctlRead n _ _ _ => .mctl n
  | .mctlWrite n _ _ _ _ => .mctl n
  | .mctlTree n _ => .mctl n
  | .lreqD n _ _ _ _ => .lreq n
  | .lreqACrd n => .lreq n
  | .lreqWCrd n => .lreq n
  | .lphyRxCrd n _ => .lphy n
  | .lphyTx n _ _ _ _ => .lphy n
  | .hcpT _ _ => .hcp
  | .hcpRead _ _ _ _ => .hcp
  | .hcpWrite _ _ _ _ => .hcp
  | .irq _ _ => .hcp
  | .kxp _ _ _ _ _ => .kxp
  | .govMap _ _ => .gov
  | .govLim _ _ => .gov
  | .railReq _ => .tref
  | .relay _ => .mgmt
  | .spdm _ _ => .mgmt
  | .secured _ _ _ => .mgmt
  | .tap _ _ => .tap
  | .flashErase _ => .boot
  | .flashWrite _ _ _ => .boot
  | .flashSfdp => .boot
  | .flashOctal => .boot
  | .flashRead _ _ => .boot

/-- Something crosses a port outward; a shell whose clock stands holds it (R26). -/
def Block.emit (b : Block) (c : Cross) : Block :=
  if b.stopped.contains c.shell then { b with held := b.held ++ [c] } else { b with out := b.out ++ [c] }

/-- Several crossings in order. -/
def Block.emits (b : Block) : List Cross → Block
  | [] => b
  | c :: r => Block.emits (b.emit c) r

/-- Raises an interrupt vector of a function (R46). -/
def Block.irq (b : Block) (fn : Nat) (vec : BitVec 11) : Block := b.emit (.irq fn vec)

/-! ## Random values -/

/-- The next output of the DRBG, n bits (R385, log 3). -/
def Block.random (b : Block) (n : Nat) : BitVec n := Config.drbg b.fresh n

/-- Moves past one DRBG output; after 65,536 requests a reseed comes before the next (R385). -/
def Block.drew (b : Block) : Block :=
  { b with fresh := b.fresh + 1
           boot := { b.boot with drbgRequests := if 65536 ≤ b.boot.drbgRequests then 1 else b.boot.drbgRequests + 1 } }

/-- Moves past one DRBG output that asked for prediction resistance: the DRBG has reseeded directly before it (R385). -/
def Block.drewReseeded (b : Block) : Block := { b with fresh := b.fresh + 1, boot := { b.boot with drbgRequests := 1 } }

/-- Moves past one other free value. -/
def Block.freshen (b : Block) : Block := { b with fresh := b.fresh + 1 }

/-- The domain tick (R60). -/
def Block.tick (b : Block) : BitVec 64 := b.time.tick

/-! ## Function pages -/

def Block.fn (b : Block) (f : Nat) : FnPage := b.fns.getD f {}

def Block.setFn (b : Block) (f : Nat) (p : FnPage) : Block := { b with fns := b.fns.put f p }

def Block.modFn (b : Block) (f : Nat) (g : FnPage → FnPage) : Block := b.setFn f (g (b.fn f))

/-- Live contexts of a function (R295). -/
def Block.liveCtx (b : Block) (f : Nat) : Nat := (b.ctxs.filter fun c => c.2.fn = f).length

/-- The function that owns a live context; context 0 and numbers not live have none. -/
def Block.ctxFn (b : Block) (c : Nat) : Option Nat := (b.ctxs.get? c).map (·.fn)

/-! ## Host accesses -/

/-- Tags at `hcp_*`, in each direction (R46). -/
def hcpTags : Nat := 256

/-- The most bytes that one access at `hcp_*` moves (R46). -/
def hcpMax : Nat := 4096

/-- Issues an access of at most 4,096 bytes under a function's translation with the lowest free tag, or keeps it until a tag
is free (R46, R48, log 121). -/
def Block.issue (b : Block) (a : HostAccess) : Block :=
  match a with
  | .read fn addr len why =>
    match b.seq.reads.lowest hcpTags with
    | some t => { b.emit (.hcpRead fn (BitVec.ofNat 64 addr) len t) with seq := { b.seq with reads := b.seq.reads.put t why } }
    | none => { b with seq := { b.seq with hostWait := b.seq.hostWait ++ [a] } }
  | .write fn addr data why =>
    match b.seq.writes.lowest hcpTags with
    | some t => { b.emit (.hcpWrite fn (BitVec.ofNat 64 addr) data t) with seq := { b.seq with writes := b.seq.writes.put t why } }
    | none => { b with seq := { b.seq with hostWait := b.seq.hostWait ++ [a] } }

def Block.issues (b : Block) : List HostAccess → Block
  | [] => b
  | a :: r => (b.issue a).issues r

/-- An access of more than 4,096 bytes goes out in pieces, in order of address (R46). -/
def Block.issueGroup (b : Block) (g : HostGroup) (piece : Nat → Nat → HostAccess) : Block :=
  let k := b.seq.nextGroup
  ({ b with seq := { b.seq with groups := b.seq.groups.put k g, nextGroup := k + 1 } }).issues
    ((List.range g.left).map (piece k))

/-- Reads bytes of the host at `hcp_*` (R46, R48). -/
def Block.hostRead (b : Block) (fn : Nat) (addr : Nat) (len : Nat) (why : ReadFor) : Block :=
  if len ≤ hcpMax then b.issue (.read fn addr len why)
  else
    b.issueGroup { left := ceilDiv len hcpMax, read := some why } fun g i =>
      .read fn (addr + hcpMax * i) (min hcpMax (len - hcpMax * i)) (.part g i)

/-- Writes bytes of the host at `hcp_*` (R46, R48). -/
def Block.hostWrite (b : Block) (fn : Nat) (addr : Nat) (data : Bytes) (why : WriteFor) : Block :=
  if data.length ≤ hcpMax then b.issue (.write fn addr data why)
  else
    b.issueGroup { left := ceilDiv data.length hcpMax, write := some why } fun g i =>
      .write fn (addr + hcpMax * i) ((data.drop (hcpMax * i)).take hcpMax) (.part g)

/-- Reads bytes of the host that return within the same command, in pieces under the lowest free tag (R46, log 121). -/
def Block.hostFetch (b : Block) (fn addr len : Nat) : Block :=
  b.emits ((List.range (ceilDiv len hcpMax)).map fun i =>
    .hcpRead fn (BitVec.ofNat 64 (addr + hcpMax * i)) (min hcpMax (len - hcpMax * i))
      ((b.seq.reads.lowest hcpTags).getD (hcpTags - 1)))

/-- The first waiting access of a direction, and the others. -/
def takeWait (write : Bool) : List HostAccess → Option (HostAccess × List HostAccess)
  | [] => none
  | .read fn a n y :: r =>
    if write then (takeWait write r).map fun x => (x.1, .read fn a n y :: x.2) else some (.read fn a n y, r)
  | .write fn a d y :: r =>
    if write then some (.write fn a d y, r) else (takeWait write r).map fun x => (x.1, .write fn a d y :: x.2)

/-- A tag has come free: the first access that waits for one of its direction goes out. -/
def Block.hostNext (b : Block) (write : Bool) : Block :=
  match takeWait write b.seq.hostWait with
  | none => b
  | some (a, r) => ({ b with seq := { b.seq with hostWait := r } } : Block).issue a

/-! ## Event records -/

/-- DATA of an event from (offset, value) pairs (R460). -/
def evData (l : List (Nat × Nat)) : BitVec 128 := BitVec.ofNat 128 (l.foldl (fun a e => a + e.2 <<< (8 * e.1)) 0)

/-- The 32 bytes of an event record (R460). -/
def Event.bytes (e : Event) : Bytes :=
  toLe 8 e.tick.toNat ++ toLe 2 e.code.toNat ++ toLe 1 e.engine.toNat ++
  toLe 1 (bit e.alarm + 2 * bit e.blockwide + 4 * bit e.redacted) ++ toLe 1 e.fn.toNat ++ [0] ++
  toLe 2 e.ctx.toNat ++ toLe 16 e.data.toNat

/-- The record as the PF sees it (R462). -/
def Event.pfView (e : Event) : Event :=
  if e.fn = 0 ∨ e.blockwide then e
  else if e.code = 0x20 then { e with ctx := 0, redacted := true, data := e.data &&& 0xFFFFFFFF }
  else if e.code = 0x21 ∨ e.code = 0x22 then { e with ctx := 0, redacted := true }
  else { e with ctx := 0, redacted := true, data := 0 }

/-- Adds an event to an ash ring of 256 records, newest first (R481). -/
def Ring.push (r : Ring) (e : Event) : Ring := { events := (e :: r.events).take 256, total := r.total + 1 }

/-- An event enters its counter and its engine's ash ring (R480, R481). -/
def Observe.note (o : Observe) (e : Event) : Observe :=
  { o with events := o.events.mod e.code.toNat 0 fun n => satAdd64 n 1
           rings := o.rings.mod e.engine.toNat {} fun r => r.push e }

/-- Adds to operation counter (g, k) (R480). -/
def Block.count (b : Block) (g k n : Nat) : Block :=
  { b with obs := { b.obs with ops := b.obs.ops.mod (16 * g + k) 0 fun x => satAdd64 x n } }

/-- A record joins a function's ash stream when it is enabled (R310). -/
def Block.stream (b : Block) (f : Nat) (e : Event) : Block :=
  if (b.fn f).ash.enable then b.modFn f fun p => { p with ash := { p.ash with transit := p.ash.transit ++ [e] } } else b

/-- A record goes to the streams that carry it: its function's, and the PF's as R462 shows it (R310, R462). -/
def Block.streams (b : Block) (e : Event) : Block :=
  if e.fn = 0 ∨ e.blockwide then b.stream 0 e else (b.stream e.fn.toNat e).stream 0 e.pfView

/-- Entries of a ring of 2^k (R297, R309). -/
def ringSize (k : Nat) : Nat := 2 ^ k

/-- Whether a fault queue takes another record: enabled and not full, counting records on their way (R309). -/
def FaultQueue.room (q : FaultQueue) : Bool :=
  q.enable ∧ (q.tail.toNat + q.queue.length + 1) % ringSize q.log2.toNat ≠ q.head.toNat % ringSize q.log2.toNat

/-- Writes the first record of a fault queue at its TAIL (R309). -/
def Block.writeFault (b : Block) (f : Nat) : Block :=
  match (b.fn f).faultq.queue with
  | [] => b
  | e :: _ =>
    b.hostWrite f
      ((b.fn f).faultq.base.toNat * 4096 + 32 * ((b.fn f).faultq.tail.toNat % ringSize (b.fn f).faultq.log2.toNat))
      e.event.bytes (.fault f)

/-- Sends a record to a function's fault queue, or loses it with OVERFLOW (R309). `alarm` asks for the vector of
CX_ALARM_IRQ after the write response (R490). -/
def Block.faultRecord (b : Block) (f : Nat) (e : Event) (alarm : Bool) : Block :=
  if (b.fn f).faultq.room then
    let first := (b.fn f).faultq.queue.isEmpty
    let b := b.modFn f fun p => { p with faultq := { p.faultq with queue := p.faultq.queue ++ [({ event := e, alarm := alarm } : FaultRec)] } }
    if first then b.writeFault f else b
  else
    let b := b.modFn f fun p => { p with faultq := { p.faultq with overflow := true } }
    if alarm then b.irq 0 b.obs.alarmVector else b

/-- The record goes to the PF's fault queue as R462 shows it, and to every other function named. -/
def Block.sendTo (b : Block) (e : Event) (alarm : Bool) : List Nat → Block
  | [] => b
  | f :: r => (b.faultRecord f (if f = 0 then e.pfView else e) (alarm ∧ f = 0)).sendTo e alarm r

/-- What an event says of itself (R460). -/
structure Ev where
  code : Nat
  engine : Nat := 0x74
  fn : Nat := 0
  ctx : Nat := 0
  blockwide : Bool := false
  data : List (Nat × Nat) := []

/-- The record of an event raised now. -/
def Block.record (b : Block) (v : Ev) (alarm : Bool) : Event :=
  { tick := b.tick, code := BitVec.ofNat 16 v.code, engine := BitVec.ofNat 8 v.engine, alarm := alarm,
    blockwide := v.blockwide, redacted := false, fn := BitVec.ofNat 8 v.fn, ctx := BitVec.ofNat 16 v.ctx,
    data := evData v.data }

/-- An event record that is already made is raised: counter, ring, streams, fault queues. -/
def Block.raiseRecord (b : Block) (e : Event) (alarm : Bool) (qs : List Nat) : Block :=
  (({ b with obs := b.obs.note e }).streams e).sendTo e alarm qs

/-- Raises an event without alarm and sends it to the fault queues named (R309, R461, R481). -/
def Block.raise (b : Block) (v : Ev) (qs : List Nat) : Block := b.raiseRecord (b.record v false) false qs

/-- A block-wide event to the PF. -/
def Block.raisePf (b : Block) (code engine : Nat) (data : List (Nat × Nat)) : Block :=
  b.raise { code := code, engine := engine, blockwide := true, data := data } [0]

/-- Raises an event with the security alarm bit `k`: the bit is set, and with ENABLE the PF's vector follows the record
if the bit rose (R483, R490). -/
def Block.alarm (b : Block) (k : Nat) (v : Ev) (qs : List Nat) : Block :=
  let rises := !b.obs.alarm.toNat.testBit k && b.obs.alarmEnable
  let b := ({ b with obs := { b.obs with alarm := b.obs.alarm ||| BitVec.ofNat 7 (2 ^ k) } }).raiseRecord
    (b.record v true) (rises && qs.contains 0) qs
  if rises && !qs.contains 0 then b.irq 0 b.obs.alarmVector else b

/-- `alarm_sec` (R72). -/
def Block.alarmSec (b : Block) : Bool := b.obs.alarm ≠ 0

/-- A register write that is ignored and counted (R487). -/
def Block.regIgnored (b : Block) (fn off : Nat) : Block :=
  b.raise { code := 0x0A, fn := fn, data := [(0, off)] } []

/-- A refused access: reads zero, raises `hcp_t_err` and counts an event (R47). -/
def Block.regRefused (b : Block) (fn off : Nat) : Block :=
  (b.emit (.hcpT 0 true)).raise { code := 0x0A, fn := fn, data := [(0, off)] } [fn]

/-! ## Queue pairs and completion records -/

def Block.qp (b : Block) (q : Nat) : QueuePair := b.qps.getD q {}

def Block.modQp (b : Block) (q : Nat) (g : QueuePair → QueuePair) : Block := { b with qps := b.qps.put q (g (b.qp q)) }

/-- The 32 bytes of a completion record (R319). -/
def Rec.bytes (r : Rec) (phase : Bool) : Bytes :=
  toLe 8 r.cookie.toNat ++ toLe 8 r.res0.toNat ++ toLe 8 r.res1.toNat ++ toLe 2 r.status.code.toNat ++
  toLe 2 r.sqIdx ++ toLe 2 r.opcode.toNat ++ toLe 2 (bit phase + 2 * bit r.rblock)

/-- Writes the record of the first completed command of a queue pair (R300, R301). -/
def Block.writeRecord (b : Block) (q : Nat) : Block :=
  match (b.qp q).done with
  | [] => b
  | r :: _ => b.hostWrite (b.qp q).fn ((b.qp q).cqBase.toNat + 32 * (b.qp q).cqTail) (r.bytes (b.qp q).phase) (.record q)

/-- Puts a record behind those of its queue pair; the first one's write goes out at once (R301). A queue pair that has been
lost takes none (R465). -/
def Block.queueRecord (b : Block) (q : Nat) (r : Rec) : Block :=
  if !(b.qp q).enabled then b
  else if (b.qp q).done.isEmpty then (b.modQp q fun p => { p with done := p.done ++ [r] }).writeRecord q
  else b.modQp q fun p => { p with done := p.done ++ [r] }

/-- The CQ tail moves on, PHASE inverting at the wrap, the reservation ends, and the next record's write goes out
(R300, R322). -/
def Block.advanceCq (b : Block) (q : Nat) : Block :=
  (b.modQp q fun p =>
    { p with done := p.done.tail
             cqTail := (p.cqTail + 1) % ringSize p.cqLog2
             phase := if (p.cqTail + 1) % ringSize p.cqLog2 = 0 then !p.phase else p.phase
             reserved := p.reserved - 1 }).writeRecord q

/-! ## Commands in flight -/

def Block.cmd? (b : Block) (id : Nat) : Option Cmd := b.seq.cmds.get? id

def Cmd.opcode (c : Cmd) : Nat := dfld c.desc 0 2
def Cmd.flags (c : Cmd) : Nat := dfld c.desc 2 2
def Cmd.ctx (c : Cmd) : Nat := dfld c.desc 4 2
def Cmd.cookie (c : Cmd) : BitVec 64 := BitVec.ofNat 64 (dfld c.desc 8 8)

def Block.modCmd (b : Block) (id : Nat) (g : Cmd → Cmd) : Block :=
  { b with seq := { b.seq with cmds := b.seq.cmds.upd id g } }

/-- A command ends with a record (R319). -/
def Block.complete (b : Block) (id : Nat) (st : Status) (res0 res1 : BitVec 64) (rblock : Bool) : Block :=
  match b.cmd? id with
  | none => b
  | some c =>
    ({ b with seq := { b.seq with cmds := b.seq.cmds.del id } }).queueRecord c.qp
      { cookie := c.cookie, res0 := res0, res1 := res1, status := st, sqIdx := c.sqIdx,
        opcode := BitVec.ofNat 16 c.opcode, rblock := rblock, irq := c.flags.testBit 0, force := c.opcode = 0x0A03 }

/-- A command fails: its results read zero (R320). -/
def Block.fail (b : Block) (id : Nat) (st : Status) : Block := b.complete id st 0 0 false

/-- A command succeeds with its two results. -/
def Block.succeed (b : Block) (id : Nat) (res0 res1 : Nat) : Block :=
  b.complete id .ok (BitVec.ofNat 64 res0) (BitVec.ofNat 64 res1) false

/-- A command writes bytes to the host address it names, and its record follows the write response (R320, R321). -/
def Block.output (b : Block) (id : Nat) (addr : Nat) (data : Bytes) (st : Status) (res0 res1 : Nat) : Block :=
  match b.cmd? id with
  | none => b
  | some c =>
    (b.modCmd id fun c => { c with stage := .waiting }).hostWrite c.fn addr data
      (.block id st (BitVec.ofNat 64 res0) (BitVec.ofNat 64 res1))

/-- A command waits for a later event. -/
def Block.wait (b : Block) (id : Nat) : Block := b.modCmd id fun c => { c with stage := .waiting }

end Sys2Proof.Machine
end

