-- ==== Sys2Proof/Machine/KeyStore.lean ====
section
/-! DEFINITION. The key store: slots, their protection, use checks, derivation, allocation, fills, invalidation and key
export orders (R88 to R110). -/

namespace Sys2Proof.Machine

open Sys2Proof Sys2Proof.Machine.Crypto

/-! ## Slots -/

/-- The slot; one that nothing has written is EMPTY at generation 1 (R110). -/
def Block.slot (b : Block) (n : Nat) : KeySlot := b.keys.slots.getD n {}

def KeySlot.usage (s : KeySlot) : Nat := fld s.attr.toNat 0 4
def KeySlot.level (s : KeySlot) : Nat := fld s.attr.toNat 4 3
def KeySlot.persistent (s : KeySlot) : Bool := s.attr.toNat.testBit 7
def KeySlot.typ (s : KeySlot) : Nat := fld s.attr.toNat 8 4
def KeySlot.exportable (s : KeySlot) : Bool := s.attr.toNat.testBit 12
def KeySlot.fnWide (s : KeySlot) : Bool := s.attr.toNat.testBit 13
def KeySlot.isEmpty (s : KeySlot) : Bool := s.typ = 0

/-- Bits of the usage field (R89). -/
def useE : Nat := 1
def useD : Nat := 2
def useW : Nat := 4
def useV : Nat := 8

/-- ATTR from its fields (R89). -/
def makeAttr (usage level typ : Nat) (persistent exportable fnWide : Bool) : BitVec 16 :=
  BitVec.ofNat 16 (usage + 16 * level + 128 * bit persistent + 256 * typ + 4096 * bit exportable + 8192 * bit fnWide)

/-- Bytes of material of a TYPE; 0 for a reserved one (R90). -/
def typeLen : Nat → Nat
  | 1 => 32
  | 2 => 64
  | 3 => 64
  | 4 => 32
  | 5 => 48
  | _ => 0

/-- Bytes 64 to 87 of a slot (R88). -/
def KeySlot.head (s : KeySlot) : Bytes :=
  toLe 2 s.mask.toNat ++ toLe 2 s.attr.toNat ++ toLe 1 s.ownerFn.toNat ++ [0] ++ toLe 2 s.ownerCtx.toNat ++
  toLe 2 s.parentSlot.toNat ++ toLe 2 s.parentGen.toNat ++ toLe 2 s.gen.toNat ++ toLe 2 s.persistIdx.toNat ++
  toLe 8 s.created.toNat

/-- SLOT_MAC (R92). -/
def slotMac (spk : BitVec 256) (s : KeySlot) (n : Nat) : BitVec 64 :=
  BitVec.ofNat 64 (le (kmac256 (toLe 32 spk.toNat) (toLe 64 s.material.toNat ++ s.head ++ toLe 2 n) 64 "CX.slotmac"))

/-- The pad that encrypts MATERIAL (R92). -/
def slotPad (spk : BitVec 256) (n : Nat) (gen : BitVec 16) : Nat :=
  le (kmac256 (toLe 32 spk.toNat) (toLe 2 n ++ toLe 2 gen.toNat) 512 "CX.slotenc")

/-- The slot reads without an uncorrectable error and its MAC verifies (R101). -/
def Block.slotOk (b : Block) (n : Nat) : Bool := !(b.slot n).eccBad && (b.slot n).mac = slotMac b.keys.spk (b.slot n) n

/-- The 64 bytes of plain material of a slot, zero past its length. -/
def Block.material64 (b : Block) (n : Nat) : BitVec 512 :=
  (b.slot n).material ^^^ BitVec.ofNat 512 (slotPad b.keys.spk n (b.slot n).gen)

/-- OTP root bank validity (R111). -/
def bankOk (root : BitVec 512) (check : BitVec 64) (bank : Nat) : Bool :=
  BitVec.ofNat 64 (le (kmac256 (toLe 64 root.toNat) [BitVec.ofNat 8 bank] 64 "CX.rootchk")) = check

/-- The root in use (R111). -/
def Otp.root (o : Otp) : Option (BitVec 512) :=
  if bankOk o.rootA o.checkA 0 then some o.rootA else if bankOk o.rootB o.checkB 1 then some o.rootB else none

/-- The full material of a slot as a derivation key; that of slot 0 is the root in OTP (R94, R99). -/
def Block.deriveKey (b : Block) (n : Nat) : Bytes :=
  if n = 0 then toLe 64 ((b.otp.root.getD 0).toNat) else (toLe 64 (b.material64 n).toNat).take (typeLen (b.slot n).typ)

/-- The material of a slot at its TYPE's length. -/
def Block.material (b : Block) (n : Nat) : Bytes := (toLe 64 (b.material64 n).toNat).take (typeLen (b.slot n).typ)

/-! ## Ancestry and use checks -/

/-- The generation chain from a slot up to slot 0 when every ancestor passes check 4 of R100. -/
def Block.chainUp (b : Block) : Nat → Nat → Option Chain
  | 0, _ => none
  | k + 1, n =>
    if n = 0 then some [(0, (b.slot 0).gen)]
    else if (b.slot (b.slot n).parentSlot.toNat).isEmpty || !b.slotOk (b.slot n).parentSlot.toNat
        || (b.slot (b.slot n).parentSlot.toNat).gen ≠ (b.slot n).parentGen then none
    else (b.chainUp k (b.slot n).parentSlot.toNat).map ((n, (b.slot n).gen) :: ·)

/-- The chain of a slot: levels fall strictly, so eight entries always suffice (R96). -/
def Block.chain (b : Block) (n : Nat) : Option Chain := b.chainUp 8 n

/-- Checks 1 and 2 of R100; a persistent key whose pointer has not been written is not yet there (R117). -/
def Block.ownCheck (b : Block) (n fn ctx : Nat) : Status :=
  if (b.slot n).isEmpty || !(b.slot n).usable || (b.slot n).ownerFn.toNat ≠ fn then .noKey
  else if !(b.slot n).fnWide && (b.slot n).ownerCtx.toNat ≠ ctx then .noKey
  else .ok

/-- Checks 3 and 4 of R100. -/
def Block.soundCheck (b : Block) (n : Nat) : Status :=
  if !b.slotOk n then .keyCorrupt else if (b.chain n).isNone then .keyOrphaned else .ok

/-- Checks 5 and 6 of R100: class bit of the using engine and usage bits needed. -/
def useCheck (mask attr : BitVec 16) (cls : Option Nat) (use : Nat) : Status :=
  match cls with
  | some c => if !mask.toNat.testBit c then .keyEngine
    else if fld attr.toNat 0 4 &&& use ≠ use then .keyUsage else .ok
  | none => if fld attr.toNat 0 4 &&& use ≠ use then .keyUsage else .ok

/-- The first status of a list that is not OK. -/
def firstBad : List Status → Status
  | [] => .ok
  | .ok :: r => firstBad r
  | s :: _ => s

/-- R100 in order, after the handle form of R93. -/
def Block.keyCheck (b : Block) (h fn ctx : Nat) (cls : Option Nat) (use : Nat) : Status :=
  if 2 ^ 14 ≤ h then .badOperand
  else firstBad [b.ownCheck h fn ctx, b.soundCheck h, useCheck (b.slot h).mask (b.slot h).attr cls use]

/-- Checks 3 to 6 alone, on a slot found by existence (R318, R330). -/
def Block.keyCheckAny (b : Block) (h : Nat) (cls : Option Nat) (use : Nat) : Status :=
  if 2 ^ 14 ≤ h then .badOperand
  else if (b.slot h).isEmpty || !(b.slot h).usable then .noKey
  else firstBad [b.soundCheck h, useCheck (b.slot h).mask (b.slot h).attr cls use]

/-- The first corrupt slot from a slot upward. -/
def Block.corruptUp (b : Block) : Nat → Nat → Option Nat
  | 0, _ => none
  | k + 1, n =>
    if (b.slot n).isEmpty then none
    else if !b.slotOk n then some n
    else if n = 0 then none
    else b.corruptUp k (b.slot n).parentSlot.toNat

/-- The fault queues of an owner and of the PF. -/
def ownerAndPf (fn : Nat) : List Nat := if fn = 0 then [0] else [fn, 0]

/-- A check that met a corrupt slot reports it: one that reads without an ECC error raises the alarm (R101). -/
def Block.noticeCorrupt (b : Block) (n : Nat) (st : Status) : Block :=
  if st = .keyCorrupt ∨ st = .keyOrphaned then
    match b.corruptUp 8 n with
    | some m =>
      if (b.slot m).eccBad then b
      else b.alarm 2 { code := 0x14, engine := 0x73, fn := (b.slot m).ownerFn.toNat, data := [(0, m), (2, 2)] }
        (ownerAndPf (b.slot m).ownerFn.toNat)
    | none => b
  else b

/-- Slots from 64 upward that a function owns: what its quota limits; the operator slots 8 to 15 stand outside it, and a
creation there asks for no room in it (R95, log 122). -/
def Block.ownedSlots (b : Block) (fn : Nat) : Nat :=
  (b.keys.slots.filter fun e => 64 ≤ e.1 ∧ !e.2.isEmpty ∧ e.2.ownerFn.toNat = fn).length

/-! ## Writing slots -/

/-- Writes a slot at its present generation (R88, R92). -/
def Block.writeSlot (b : Block) (n : Nat) (mat : Bytes) (mask attr : BitVec 16) (fn ctx parent : Nat)
    (parentGen : BitVec 16) (persistIdx : Nat) (usable : Bool) : Block :=
  let s : KeySlot :=
    { material := BitVec.ofNat 512 (le mat) ^^^ BitVec.ofNat 512 (slotPad b.keys.spk n (b.slot n).gen)
      mask := mask, attr := attr, ownerFn := BitVec.ofNat 8 fn, ownerCtx := BitVec.ofNat 16 ctx,
      parentSlot := BitVec.ofNat 16 parent, parentGen := parentGen, gen := (b.slot n).gen,
      persistIdx := BitVec.ofNat 16 persistIdx, created := b.tick, usable := usable }
  { b with keys := { b.keys with slots := b.keys.slots.put n { s with mac := slotMac b.keys.spk s n } } }

/-- Whether a slot's generation lets it be written again before the next kindling (R110). -/
def KeySlot.reusable (s : KeySlot) : Bool := s.gen ≠ 0xFFFF

/-- Empties a slot: its generation rises, its material is zeroed, and it goes to the end of the free list unless its
generation has reached its limit (R95, R105, R110). -/
def Block.emptySlot (b : Block) (n : Nat) : Block :=
  { b with keys := { b.keys with
      slots := b.keys.slots.put n { gen := (b.slot n).gen + 1 }
      free := if 64 ≤ n ∧ (b.slot n).gen + 1 ≠ 0xFFFF then b.keys.free.give n else b.keys.free } }

/-- Takes the slot that has been free longest, within the owner's quota (R95). -/
def Block.takeSlot (b : Block) (fn : Nat) : Option (Nat × Block) :=
  if (b.fn fn).keyQuota.toNat ≤ b.ownedSlots fn then none
  else (b.keys.free.take 0x4000).map fun r => (r.1, { b with keys := { b.keys with free := r.2 } })

/-! ## Key export port -/

/-- Puts an order on `kxp_*`; the first one of a destination goes out at once (R50). -/
def Block.kxpOrder (b : Block) (o : KxpOrder) : Block :=
  let b' := { b with keys := { b.keys with kxp := b.keys.kxp ++ [{ o with id := b.keys.nextKxp }], nextKxp := b.keys.nextKxp + 1 } }
  if b.keys.kxp.any fun p => p.dest = o.dest then b' else b'.emit (.kxp o.dest o.op o.slot o.shareA o.shareB)

/-- A load order with a fresh share; what the destination slot held goes with it (R50, R104). -/
def Block.kxpLoad (b : Block) (dest slot : Nat) (key : BitVec 256) (cmd : Option Nat) (old : Chain) : Block :=
  b.drew.kxpOrder
    { dest := dest, op := 0, slot := slot, shareA := b.random 256, shareB := key ^^^ b.random 256, cmd := cmd, chain := old }

/-- A drop order of one destination slot, whose key has a chain. -/
def Block.kxpDrop (b : Block) (dest slot : Nat) (chain : Chain) : Block :=
  b.kxpOrder { dest := dest, op := 1, slot := slot, shareA := 0, shareB := 0, cmd := none, chain := chain }

/-- The slots and generations under the keys that a destination holds. -/
def Block.exportedTo (b : Block) (d : Nat) : Chain :=
  ((b.keys.exports.filter fun e => e.1 / 256 = d).map fun e => e.2.chain).flatten

/-- Drop-all at every destination (R442); the export table is empty afterwards. -/
def Block.kxpDropAll (b : Block) : Block :=
  let d (b : Block) (k : Nat) :=
    b.kxpOrder { dest := k, op := 2, slot := 0, shareA := 0, shareB := 0, cmd := none, chain := b.exportedTo k }
  let b := d (d (d (d b 0) 1) 2) 3
  { b with keys := { b.keys with exports := [] } }

/-! ## Invalidation -/

/-- A chain holds a slot at a generation. -/
def Chain.holds (c : Chain) (n : Nat) (gen : BitVec 16) : Bool := c.any fun e => e.1 = n ∧ e.2 = gen

/-- Sends a drop order to one engine's key cache. -/
def Block.orderDrop (b : Block) (o : DropOrder) (e : Nat) : Block :=
  { b with caches := b.caches.mod e {} fun c => { c with orders := c.orders ++ [o] } }

def Block.orderDrops (b : Block) (o : DropOrder) : List Nat → Block
  | [] => b
  | e :: r => (b.orderDrop o e).orderDrops o r

/-- Drops at `kxp_*` for export entries (R52, R105). -/
def Block.dropExports (b : Block) : Tab ExportEntry → Block
  | [] => b
  | e :: r => (b.kxpDrop (e.1 / 256) (e.1 % 256) e.2.chain).dropExports r

/-- The orders not yet answered that erase a key whose chain holds a slot (R52, R105). -/
def Block.dropsOf (b : Block) (n : Nat) (gen : BitVec 16) : List Nat :=
  (b.keys.kxp.filter fun o => Chain.holds o.chain n gen).map (·.id)

/-- Rekeys that an invalidation of their key stops (R121). -/
def Block.rekeysOf (b : Block) (n : Nat) : List Nat :=
  Tab.keys (α := RekeyJob) (b.regions.rekeys.filter fun e =>
    !e.2.stopped ∧
    (((b.regions.table.getD e.1 {}).keyset.getD (b.regions.table.getD e.1 {}).old.toNat 0).toNat = n ∨
     ((b.regions.table.getD e.1 {}).keyset.getD (b.regions.table.getD e.1 {}).new.toNat 0).toNat = n))

/-- A rekey ends with a status and the counts reached (R154, R332). -/
def Block.endRekey (b : Block) (r : Nat) (st : Status) : Block :=
  match b.regions.rekeys.get? r with
  | none => b
  | some j =>
    match j.cmd with
    | none => b
    | some id =>
      ({ b with regions := { b.regions with
          rekeys := b.regions.rekeys.put r { j with cmd := none, stopped := true } } }).complete id st
        (BitVec.ofNat 64 (j.resealed % 2 ^ 32 + 2 ^ 32 * (j.left % 2 ^ 32))) (BitVec.ofNat 64 (j.poisoned % 2 ^ 32)) false

def Block.endRekeys (b : Block) (st : Status) : List Nat → Block
  | [] => b
  | r :: rest => (b.endRekey r st).endRekeys st rest

/-- Invalidates a slot: the commit, drop orders to every engine with a key cache, drops at `kxp_*`, and the wait for
their answers; drops of such keys that are already under way are waited for too. `cmd` names the command that completes
with OK and a RES0 then, if any (R105, R106, R121). -/
def Block.invalidateFor (b : Block) (n : Nat) (cmd : Option Nat) (res0 : Nat) : Block :=
  let gen := (b.slot n).gen
  let rek := b.rekeysOf n
  let seq := b.keys.invSeq + 1
  let b := (b.emptySlot n).dropExports (b.keys.exports.filter fun e => Chain.holds e.2.chain n gen)
  let b := { b with keys := { b.keys with
    exports := b.keys.exports.filter fun e => !Chain.holds e.2.chain n gen
    invSeq := seq
    invals := b.keys.invals ++
      [({ seq := seq, slot := n, cmd := cmd, res0 := res0, engines := b.build.cacheEngines, exports := b.dropsOf n gen } : Inval)] } }
  (b.orderDrops { seq := seq, slot := n, gen := gen } b.build.cacheEngines).endRekeys .noKey rek

def Block.invalidate (b : Block) (n : Nat) (cmd : Option Nat) : Block := b.invalidateFor n cmd 0

def Block.invalidateAll (b : Block) : List Nat → Block
  | [] => b
  | n :: r => (b.invalidate n none).invalidateAll r

/-- The invalidations whose every engine and destination has answered complete (R105). -/
def Block.finishInvals (b : Block) : List Inval → List Inval → Block
  | [], keep => { b with keys := { b.keys with invals := keep } }
  | i :: r, keep =>
    if i.engines.isEmpty ∧ i.exports.isEmpty then
      let b := if i.isLate then { b with keys := { b.keys with lateInvals := b.keys.lateInvals + 1 } } else b
      match i.cmd with
      | some id => (b.succeed id i.res0 0).finishInvals r keep
      | none => b.finishInvals r keep
    else b.finishInvals r (keep ++ [i])

/-- A function reset whose invalidations and unbinds have all been answered, and whose page operation has ended, ends: RESETTING, QUIESCED and ENABLE clear
(R315, R380). -/
def Block.endFnReset (b : Block) (e : Nat × FnPage) : Block :=
  match e.2.resetWait with
  | none => b
  | some (id, seq, rs) =>
    if b.keys.invals.any (fun i => i.seq ≤ seq) || b.regions.drops.any (fun d => List.contains rs d.region) ||
        e.2.cipher.running.isSome then b
    else
      (b.modFn e.1 fun p => { p with resetting := false, quiesced := false, enabled := false, resetWait := none }).succeed id 0 0

def Block.settleResets (b : Block) : Block := b.fns.foldl Block.endFnReset b

/-- Completes what can complete. -/
def Block.settleInvals (b : Block) : Block := (b.finishInvals b.keys.invals []).settleResets

/-- The invalidation no longer waits for an engine. -/
def Inval.without (i : Inval) (e : Nat) (byReset : Bool) : Inval :=
  if List.contains i.engines e then { i with engines := i.engines.erase e, isLate := i.isLate || byReset } else i

/-- An engine's cache holds nothing under any order sent so far: every wait for it ends (R105, R478). -/
def Block.engineDropped (b : Block) (e : Nat) (byReset : Bool) : Block :=
  ({ b with keys := { b.keys with invals := b.keys.invals.map (Inval.without · e byReset) } }).settleInvals

/-! ## Derivation -/

/-- KMAC256 of a parent's full material (R99). -/
def derive (key : Bytes) (label : String) (x : Bytes) (bits : Nat) : Bytes := kmac256 key x bits label

/-- CX.line: the tag key of a region key (R99, R130). -/
def lineTagKey (key : BitVec 512) (region : Nat) : Nat :=
  le (derive (toLe 64 key.toNat) "CX.line" (toLe 2 region ++ [1]) 256)

/-! ## Fills -/

def Block.cache (b : Block) (e : Nat) : KeyCache := b.caches.getD e {}

def Block.modCache (b : Block) (e : Nat) (f : KeyCache → KeyCache) : Block :=
  { b with caches := b.caches.put e (f (b.cache e)) }

/-- What a fill of a slot carries (R14, R100). -/
def Block.schedule (b : Block) (n : Nat) : CachedKey :=
  { slot := n, key := BitVec.ofNat 512 (le (b.material n)), mask := (b.slot n).mask, attr := (b.slot n).attr,
    ownerFn := (b.slot n).ownerFn, ownerCtx := (b.slot n).ownerCtx, chain := (b.chain n).getD [] }

/-- The schedule of a slot in an engine's cache. -/
def KeyCache.find (c : KeyCache) (n : Nat) (w : Derived) : Option CachedKey :=
  c.keys.find? fun k => k.slot = n ∧ k.what = w

/-- Puts a schedule first in a cache of the engine's depth, displacing the one unused longest (R14). -/
def KeyCache.install (c : KeyCache) (k : CachedKey) (depth : Option Nat) : KeyCache :=
  let keys := k :: c.keys.filter fun x => !(x.slot = k.slot ∧ x.what = k.what)
  { c with keys := match depth with
      | some d => keys.take d
      | none => keys }

/-- The checks of a use that finds the schedule cached: 1, 2, 5 and 6 of R100 on what the fill recorded. -/
def CachedKey.check (k : CachedKey) (fn ctx : Nat) (cls : Option Nat) (use : Nat) : Status :=
  if k.ownerFn.toNat ≠ fn then .noKey
  else if !k.attr.toNat.testBit 13 && k.ownerCtx.toNat ≠ ctx then .noKey
  else useCheck k.mask k.attr cls use

/-- What a key lookup by an engine ends in. -/
inductive Lookup where
  | hit (k : CachedKey)
  | miss
  | bad (st : Status)
  deriving DecidableEq, Repr

/-- A key lookup by an engine: the cache, or the key store's checks before a fill (R14, R100). -/
def Block.lookup (b : Block) (e n fn ctx use : Nat) : Lookup :=
  match (b.cache e).find n .plain with
  | some k =>
    match k.check fn ctx (b.build.classBit e) use with
    | .ok => .hit k
    | st => .bad st
  | none =>
    match b.keyCheck n fn ctx (b.build.classBit e) use with
    | .ok => .miss
    | st => .bad st

/-- Marks a schedule as used now. -/
def Block.touchKey (b : Block) (e : Nat) (k : CachedKey) : Block := b.modCache e fun c => c.install k none

/-- The key store sends a fill (R106). -/
def Block.sendFill (b : Block) (e n : Nat) : Block :=
  b.modCache e fun c => { c with fills := c.fills ++ [{ key := b.schedule n, seq := b.keys.invSeq }] }

/-- A key that an engine uses inside one step: the cached schedule, or a fill that arrives within the step (R14). -/
def Block.useKey (b : Block) (e n fn ctx use : Nat) : Except Status CachedKey × Block :=
  match b.lookup e n fn ctx use with
  | .hit k => (.ok k, b.touchKey e k)
  | .miss => (.ok (b.schedule n), b.modCache e fun c => c.install (b.schedule n) (b.build.cacheDepth e))
  | .bad st => (.error st, b.noticeCorrupt n st)

/-- Drops from a cache every schedule whose chain holds the slot (R105). -/
def KeyCache.drop (c : KeyCache) (n : Nat) (gen : BitVec 16) : KeyCache :=
  { c with keys := c.keys.filter fun k => !Chain.holds k.chain n gen }

end Sys2Proof.Machine
end

