-- ==== Sys2Proof/Machine/PublicKey.lean ====
section
/-! DEFINITION. The public-key algorithms and the frame code that the spec takes from named standards: SHA3 and SHAKE
(FIPS 202), ML-KEM-1024 (FIPS 203), ML-DSA-87 (FIPS 204), ECDSA and ECDH over P-384 (FIPS 186-5, R381), and HMAC-SHA-256 of
the JEDEC frames (FIPS 180-4, FIPS 198-1, R68). Log 2: the standards stand outside the spec's text. A polynomial is the list
of its 256 coefficients, lowest first, each reduced. -/

namespace Sys2Proof.Machine.Crypto

open Sys2Proof

/-! ## SHA3 and SHAKE -/

def squeezeAt (rate : Nat) : Nat → Nat → Bytes
  | 0, _ => []
  | n + 1, a => toLe rate a ++ squeezeAt rate n (keccakF a)

/-- The Keccak sponge with a rate in bytes, a domain byte and output of n bytes. -/
def sponge (rate : Nat) (domain : Byte) (m : Bytes) (n : Nat) : Bytes :=
  let fill := rate - m.length % rate
  let padded := if fill = 1 then m ++ [domain ||| 0x80] else m ++ [domain] ++ List.replicate (fill - 2) 0 ++ [0x80]
  (squeezeAt rate ((n + rate - 1) / rate) ((split rate padded).foldl absorbBlock 0)).take n

def shake128 (m : Bytes) (n : Nat) : Bytes := sponge 168 0x1F m n
def shake256 (m : Bytes) (n : Nat) : Bytes := sponge 136 0x1F m n
def sha3x256 (m : Bytes) : Bytes := sponge 136 0x06 m 32
def sha3x512 (m : Bytes) : Bytes := sponge 72 0x06 m 64

/-! ## Bits and polynomials -/

/-- Fields of w bits side by side, the first lowest. -/
def packFields (w : Nat) : List Nat → Nat
  | [] => 0
  | x :: r => x % 2 ^ w + packFields w r <<< w

/-- n fields of w bits of a number, the lowest first. -/
def fieldsOf (w : Nat) : Nat → Nat → List Nat
  | 0, _ => []
  | n + 1, x => x % 2 ^ w :: fieldsOf w n (x >>> w)

/-- A polynomial as 32 w bytes (ByteEncode of FIPS 203, SimpleBitPack of FIPS 204). -/
def polyBytes (w : Nat) (p : List Nat) : Bytes := toLe (32 * w) (packFields w p)

/-- The polynomial in 32 w bytes. -/
def polyOf (w : Nat) (b : Bytes) : List Nat := fieldsOf w 256 (le b)

/-- Several polynomials of 32 w bytes each. -/
def polysOf (w : Nat) (b : Bytes) : List (List Nat) := (split (32 * w) b).map (polyOf w)

def addPoly (q : Nat) (a b : List Nat) : List Nat := List.zipWith (fun x y => (x + y) % q) a b
def subPoly (q : Nat) (a b : List Nat) : List Nat := List.zipWith (fun x y => (x + q - y % q) % q) a b
def mulPoly (q : Nat) (a b : List Nat) : List Nat := List.zipWith (fun x y => x * y % q) a b

/-- The w low bits of i in reverse order. -/
def bitRev : Nat → Nat → Nat
  | 0, _ => 0
  | w + 1, i => (i % 2) * 2 ^ w + bitRev w (i / 2)

/-- The number-theoretic transform over d levels, at node i of its tree; node i turns by `zeta i`. -/
def ntt (q : Nat) (zeta : Nat → Nat) : Nat → Nat → List Nat → List Nat
  | 0, _, l => l
  | d + 1, i, l =>
    let a := l.take (l.length / 2)
    let t := (l.drop (l.length / 2)).map fun x => x * zeta i % q
    ntt q zeta d (2 * i) (addPoly q a t) ++ ntt q zeta d (2 * i + 1) (subPoly q a t)

/-- The inverse transform; `back i` is the inverse of `zeta i`. -/
def unNtt (q : Nat) (back : Nat → Nat) : Nat → Nat → List Nat → List Nat
  | 0, _, l => l
  | d + 1, i, l =>
    let a := unNtt q back d (2 * i) (l.take (l.length / 2))
    let b := unNtt q back d (2 * i + 1) (l.drop (l.length / 2))
    (addPoly q a b).map (fun x => x * ((q + 1) / 2) % q) ++
      (subPoly q a b).map fun x => x * ((q + 1) / 2) % q * back i % q

/-! ## ML-KEM-1024 (FIPS 203) -/

def kemQ : Nat := 3329
def kemZeta (i : Nat) : Nat := 17 ^ bitRev 7 i % kemQ
def kemBack (i : Nat) : Nat := 17 ^ (256 - bitRev 7 i) % kemQ
def kemNtt (p : List Nat) : List Nat := ntt kemQ kemZeta 7 1 p
def kemUnNtt (p : List Nat) : List Nat := unNtt kemQ kemBack 7 1 p

/-- The product of two transforms, pair by pair from pair i on. -/
def kemMul : Nat → List Nat → List Nat → List Nat
  | i, a0 :: a1 :: a, b0 :: b1 :: b =>
    let g := 17 ^ (2 * bitRev 7 i + 1) % kemQ
    (a0 * b0 + a1 * b1 % kemQ * g) % kemQ :: (a0 * b1 + a1 * b0) % kemQ :: kemMul (i + 1) a b
  | _, _, _ => []

/-- The scalar product of two vectors of transforms. -/
def kemDot (a b : List (List Nat)) : List Nat :=
  (List.zipWith (kemMul 0) a b).foldl (addPoly kemQ) (List.replicate 256 0)

/-- Candidates of 12 bits, three bytes giving two. -/
def kemCandidates : Bytes → List Nat
  | a :: b :: c :: r => (a.toNat + 256 * (b.toNat % 16)) :: (b.toNat / 16 + 16 * c.toNat) :: kemCandidates r
  | _ => []

/-- SampleNTT, from 840 bytes of output. -/
def kemUniform (seed : Bytes) : List Nat := ((kemCandidates (shake128 seed 840)).filter (· < kemQ)).take 256

/-- SamplePolyCBD with eta 2. -/
def kemNoise (seed : Bytes) (n : Nat) : List Nat :=
  (fieldsOf 4 256 (le (shake256 (seed ++ toLe 1 n) 128))).map fun x =>
    (x % 2 + x / 2 % 2 + kemQ - x / 4 % 2 - x / 8 % 2) % kemQ

/-- Row i of the matrix, or column i when transposed. -/
def kemRow (rho : Bytes) (transposed : Bool) (i : Nat) : List (List Nat) :=
  (List.range 4).map fun j => kemUniform (rho ++ if transposed then toLe 1 i ++ toLe 1 j else toLe 1 j ++ toLe 1 i)

def kemCompress (d x : Nat) : Nat := (2 ^ (d + 1) * x + kemQ) / (2 * kemQ) % 2 ^ d
def kemDecompress (d y : Nat) : Nat := (2 * kemQ * y + 2 ^ d) / 2 ^ (d + 1)

/-- The secret vector and the encapsulation key of a seed d. -/
def kemKey (d : Bytes) : List (List Nat) × Bytes :=
  let g := sha3x512 (d ++ [4])
  let s := (List.range 4).map fun i => kemNtt (kemNoise (g.drop 32) i)
  let t := (List.range 4).map fun i =>
    addPoly kemQ (kemDot (kemRow (g.take 32) false i) s) (kemNtt (kemNoise (g.drop 32) (4 + i)))
  (s, (t.map (polyBytes 12)).flatten ++ g.take 32)

/-- K-PKE encryption of a 32-byte message. -/
def kemEncrypt (ek m r : Bytes) : Bytes :=
  let t := (polysOf 12 (ek.take 1536)).map fun p => p.map (· % kemQ)
  let y := (List.range 4).map fun i => kemNtt (kemNoise r i)
  let u := (List.range 4).map fun i =>
    addPoly kemQ (kemUnNtt (kemDot (kemRow (ek.drop 1536) true i) y)) (kemNoise r (4 + i))
  let v := addPoly kemQ (addPoly kemQ (kemUnNtt (kemDot t y)) (kemNoise r 8)) ((polyOf 1 m).map (kemDecompress 1))
  (u.map fun p => polyBytes 11 (p.map (kemCompress 11))).flatten ++ polyBytes 5 (v.map (kemCompress 5))

/-- K-PKE decryption. -/
def kemDecrypt (s : List (List Nat)) (c : Bytes) : Bytes :=
  let u := (polysOf 11 (c.take 1408)).map fun p => kemNtt (p.map (kemDecompress 11))
  let w := subPoly kemQ ((polyOf 5 (c.drop 1408)).map (kemDecompress 5)) (kemUnNtt (kemDot s u))
  polyBytes 1 (w.map (kemCompress 1))

/-- The encapsulation key of a 64-byte seed d followed by z (R90). -/
@[irreducible] def mlkemPublic (seed : Bytes) : Bytes := (kemKey (seed.take 32)).2

/-- The shared secret and the ciphertext of an encapsulation with 32 random bytes m. -/
@[irreducible] def mlkemEncaps (ek m : Bytes) : BitVec 256 × Bytes :=
  let g := sha3x512 (m ++ sha3x256 ek)
  (BitVec.ofNat 256 (le (g.take 32)), kemEncrypt ek m (g.drop 32))

/-- Decapsulation, which never fails visibly (R273): the shared secret of a ciphertext of 1,568 bytes. -/
@[irreducible] def mlkemDecap (seed c : Bytes) : BitVec 256 :=
  let k := kemKey (seed.take 32)
  let m := kemDecrypt k.1 c
  let g := sha3x512 (m ++ sha3x256 k.2)
  BitVec.ofNat 256 (le (if kemEncrypt k.2 m (g.drop 32) = c then g.take 32 else shake256 (seed.drop 32 ++ c) 32))

/-! ## ML-DSA-87 (FIPS 204) -/

def dsaQ : Nat := 8380417
def dsaGamma1 : Nat := 2 ^ 19
def dsaGamma2 : Nat := (dsaQ - 1) / 32
def dsaZeta (i : Nat) : Nat := 1753 ^ bitRev 8 i % dsaQ
def dsaBack (i : Nat) : Nat := 1753 ^ (512 - bitRev 8 i) % dsaQ
def dsaNtt (p : List Nat) : List Nat := ntt dsaQ dsaZeta 8 1 p
def dsaUnNtt (p : List Nat) : List Nat := unNtt dsaQ dsaBack 8 1 p

/-- The distance of a residue from 0. -/
def dsaAbs (x : Nat) : Nat := min x (dsaQ - x)

/-- Every coefficient is nearer to 0 than a bound. -/
def dsaBelow (bound : Nat) (v : List (List Nat)) : Bool := v.all fun p => p.all fun x => dsaAbs x < bound

def dsaCandidates : Bytes → List Nat
  | a :: b :: c :: r => (a.toNat + 256 * b.toNat + 65536 * (c.toNat % 128)) :: dsaCandidates r
  | _ => []

/-- The matrix of a seed, row by row, from 894 bytes of output an entry. -/
def dsaMatrix (rho : Bytes) : List (List (List Nat)) :=
  (List.range 8).map fun r => (List.range 7).map fun s =>
    ((dsaCandidates (shake128 (rho ++ toLe 1 s ++ toLe 1 r) 894)).filter (· < dsaQ)).take 256

/-- RejBoundedPoly with eta 2, from 481 bytes of output. -/
def dsaSmall (seed : Bytes) (n : Nat) : List Nat :=
  ((((shake256 (seed ++ toLe 2 n) 481).map fun (x : Byte) => [x.toNat % 16, x.toNat / 16]).flatten.filter (· < 15)).take 256).map
    fun x => (dsaQ + 2 - x % 5) % dsaQ

/-- A matrix applied to a vector of transforms, as transforms. -/
def dsaApply (a : List (List (List Nat))) (v : List (List Nat)) : List (List Nat) :=
  a.map fun row => (List.zipWith (mulPoly dsaQ) row v).foldl (addPoly dsaQ) (List.replicate 256 0)

/-- A transform times each of a vector, transformed back. -/
def dsaScale (c : List Nat) (v : List (List Nat)) : List (List Nat) := v.map fun p => dsaUnNtt (mulPoly dsaQ c p)

/-- High and low part of a residue; the low part is a residue. -/
def dsaDecompose (r : Nat) : Nat × Nat :=
  let m := r % (2 * dsaGamma2)
  let low := if dsaGamma2 < m then m + dsaQ - 2 * dsaGamma2 else m
  let high := (r + dsaQ - low) % dsaQ
  if high = dsaQ - 1 then (0, (low + dsaQ - 1) % dsaQ) else (high / (2 * dsaGamma2), low)

def dsaHigh (r : Nat) : Nat := (dsaDecompose r).1
def dsaLow (r : Nat) : Nat := (dsaDecompose r).2

/-- Power2Round: the high part, and the low part as a residue. -/
def dsaRound (r : Nat) : Nat × Nat :=
  let m := r % 8192
  let low := if 4096 < m then m + dsaQ - 8192 else m
  ((r + dsaQ - low) % dsaQ / 8192, low)

/-- Sets one coefficient. -/
def setCoeff : List Nat → Nat → Nat → List Nat
  | [], _, _ => []
  | _ :: t, 0, v => v :: t
  | x :: t, n + 1, v => x :: setCoeff t n v

/-- SampleInBall: places coefficient i from the bytes left, `signs` giving the signs still to come. -/
def dsaBallGo : Nat → Nat → Bytes → Nat → List Nat → List Nat
  | 0, _, _, _, c => c
  | fuel + 1, i, b, signs, c =>
    if 255 < i then c
    else
      match b with
      | [] => c
      | x :: r =>
        if i < x.toNat then dsaBallGo fuel i r signs c
        else
          dsaBallGo fuel (i + 1) r (signs / 2)
            (setCoeff (setCoeff c i (c.getD x.toNat 0)) x.toNat (if signs % 2 = 0 then 1 else dsaQ - 1))

/-- The challenge of 60 nonzero coefficients, from 272 bytes of output. -/
def dsaBall (seed : Bytes) : List Nat :=
  let b := shake256 seed 272
  dsaBallGo 264 196 (b.drop 8) (le (b.take 8)) (List.replicate 256 0)

/-- The high parts as bytes. -/
def dsaHighBytes (w1 : List (List Nat)) : Bytes := (w1.map (polyBytes 4)).flatten

/-- The positions of the ones of a polynomial of hints. -/
def dsaOnes (p : List Nat) : List Nat := (List.range 256).filter fun j => p.getD j 0 = 1

/-- The hints as 83 bytes. -/
def dsaHintBytes (h : List (List Nat)) : Bytes :=
  let pos := (h.map dsaOnes).flatten
  (pos.map (BitVec.ofNat 8) ++ List.replicate (75 - pos.length) 0) ++
    ((List.range 8).map fun i => BitVec.ofNat 8 (((h.take (i + 1)).map fun p => (dsaOnes p).length).foldl (· + ·) 0))

/-- Strictly rising. -/
def rising : List Nat → Bool
  | a :: b :: r => a < b && rising (b :: r)
  | _ => true

/-- The positions of hints, polynomial by polynomial from the end `at0` of the one before; none when the bytes are no
encoding of hints. -/
def dsaHintsOf (pos : List Nat) : List Nat → Nat → Option (List (List Nat))
  | [], at0 => if (pos.drop at0).all (· = 0) then some [] else none
  | e :: r, at0 =>
    let here := (pos.take e).drop at0
    if e < at0 ∨ 75 < e ∨ !rising here then none
    else (dsaHintsOf pos r e).map fun t => ((List.range 256).map fun j => if here.contains j then 1 else 0) :: t

/-- UseHint. -/
def dsaUse (h r : Nat) : Nat :=
  let d := dsaDecompose r
  if h = 0 then d.1 else if 0 < d.2 ∧ d.2 ≤ dsaGamma2 then (d.1 + 1) % 16 else (d.1 + 15) % 16

/-- The signed message: empty context (R381). -/
def dsaMessage (m : Bytes) : Bytes := [0, 0] ++ m

/-- What a 32-byte seed expands to: the public seed and matrix, the signing seed, both secret vectors, and the product. -/
structure DsaKey where
  rho : Bytes
  matrix : List (List (List Nat))
  secret : Bytes
  s1 : List (List Nat)
  s2 : List (List Nat)
  t : List (List Nat)

def dsaExpand (xi : Bytes) : DsaKey :=
  let h := shake256 (xi ++ [8, 7]) 128
  let a := dsaMatrix (h.take 32)
  let s1 := (List.range 7).map (dsaSmall ((h.drop 32).take 64))
  let s2 := (List.range 8).map fun i => dsaSmall ((h.drop 32).take 64) (7 + i)
  { rho := h.take 32, matrix := a, secret := h.drop 96, s1 := s1, s2 := s2,
    t := List.zipWith (addPoly dsaQ) ((dsaApply a (s1.map dsaNtt)).map dsaUnNtt) s2 }

def DsaKey.public (k : DsaKey) : Bytes := k.rho ++ (k.t.map fun p => polyBytes 10 (p.map fun x => (dsaRound x).1)).flatten

/-- The public key of a 32-byte seed. -/
@[irreducible] def mldsaPublic (xi : Bytes) : Bytes := (dsaExpand xi).public

/-- The rounds of signing from the mask counter kappa on; the fuel bounds the rejections. -/
def dsaSignGo (k : DsaKey) (mu mask : Bytes) : Nat → Nat → Bytes
  | 0, _ => []
  | fuel + 1, kappa =>
    let y := (List.range 7).map fun r =>
      (polyOf 20 (shake256 (mask ++ toLe 2 (kappa + r)) 640)).map fun x => (dsaQ + dsaGamma1 - x) % dsaQ
    let w := (dsaApply k.matrix (y.map dsaNtt)).map dsaUnNtt
    let ct := shake256 (mu ++ dsaHighBytes (w.map fun p => p.map dsaHigh)) 64
    let c := dsaNtt (dsaBall ct)
    let z := List.zipWith (addPoly dsaQ) y (dsaScale c (k.s1.map dsaNtt))
    let r := List.zipWith (subPoly dsaQ) w (dsaScale c (k.s2.map dsaNtt))
    let ct0 := dsaScale c (k.t.map fun p => dsaNtt (p.map fun x => (dsaRound x).2))
    let h := List.zipWith (List.zipWith fun a b => if dsaHigh a = dsaHigh b then 0 else 1) r
      (List.zipWith (addPoly dsaQ) r ct0)
    if dsaBelow (dsaGamma1 - 120) z && dsaBelow (dsaGamma2 - 120) (r.map fun p => p.map dsaLow) && dsaBelow dsaGamma2 ct0 &&
        (h.map fun p => (dsaOnes p).length).foldl (· + ·) 0 ≤ 75 then
      ct ++ (z.map fun p => polyBytes 20 (p.map fun x => (dsaQ + dsaGamma1 - x) % dsaQ)).flatten ++ dsaHintBytes h
    else dsaSignGo k mu mask fuel (kappa + 7)

/-- A hedged signature: seed, message, and the 32 bytes rnd (R381). -/
@[irreducible] def mldsaSign (xi m rnd : Bytes) : Bytes :=
  let k := dsaExpand xi
  let mu := shake256 (shake256 k.public 64 ++ dsaMessage m) 64
  dsaSignGo k mu (shake256 (k.secret ++ rnd ++ mu) 64) 814 0

/-- Whether a signature of 4,627 bytes over a message verifies under a public key of 2,592 bytes. -/
@[irreducible] def mldsaVerify (pk m sig : Bytes) : Bool :=
  let z := (polysOf 20 ((sig.drop 64).take 4480)).map fun p => p.map fun x => (dsaQ + dsaGamma1 - x) % dsaQ
  let hint := (sig.drop 4544).map (·.toNat)
  match dsaHintsOf (hint.take 75) (hint.drop 75) 0 with
  | none => false
  | some h =>
    let mu := shake256 (shake256 pk 64 ++ dsaMessage m) 64
    let c := dsaNtt (dsaBall (sig.take 64))
    let t1 := (polysOf 10 (pk.drop 32)).map fun p => dsaNtt (p.map fun x => x * 8192 % dsaQ)
    let w := (List.zipWith (subPoly dsaQ) (dsaApply (dsaMatrix (pk.take 32)) (z.map dsaNtt)) (t1.map (mulPoly dsaQ c))).map dsaUnNtt
    pk.length = 2592 && sig.length = 4627 && dsaBelow (dsaGamma1 - 120) z &&
      shake256 (mu ++ dsaHighBytes (List.zipWith (List.zipWith dsaUse) h w)) 64 = sig.take 64

/-! ## P-384 (FIPS 186-5) -/

def ecP : Nat := 2 ^ 384 - 2 ^ 128 - 2 ^ 96 + 2 ^ 32 - 1
def ecN : Nat := 0xffffffffffffffffffffffffffffffffffffffffffffffffc7634d81f4372ddf581a0db248b0a77aecec196accc52973
def ecB : Nat := 0xb3312fa7e23ee7e4988e056be3f82d19181d9c6efe8141120314088f5013875ac656398d8a2ed19d2a85c8edd3ec2aef
def ecGx : Nat := 0xaa87ca22be8b05378eb1c71ef320ad746e1d3b628ba79b9859f741e082542a385502f25dbf55296c3a545e3872760ab7
def ecGy : Nat := 0x3617de4a96262c6f5d9e98bf9292dc29f8f41dbd289a147ce9da3113b5f0b8c00a60b1ce1d7e819d7a431d7c90ea0e5f

/-- a^e modulo m, over `fuel` bits of the exponent. -/
def powMod (m : Nat) : Nat → Nat → Nat → Nat
  | 0, _, _ => 1
  | fuel + 1, a, e => (if e % 2 = 1 then a else 1) * powMod m fuel (a * a % m) (e / 2) % m

/-- The inverse modulo a prime of 384 bits. -/
def invMod (m a : Nat) : Nat := powMod m 384 (a % m) (m - 2)

/-- A point in Jacobian coordinates; Z 0 at infinity. -/
structure EcPoint where
  x : Nat
  y : Nat
  z : Nat

def ecDouble (a : EcPoint) : EcPoint :=
  let d := a.z * a.z % ecP
  let g := a.y * a.y % ecP
  let b := a.x * g % ecP
  let al := 3 * ((a.x + ecP - d) % ecP * ((a.x + d) % ecP)) % ecP
  let x := (al * al + 8 * (ecP - b)) % ecP
  { x := x, z := 2 * (a.y * a.z) % ecP
    y := (al * ((4 * b + ecP - x) % ecP) + 8 * (ecP - g * g % ecP)) % ecP }

def ecAdd (a b : EcPoint) : EcPoint :=
  if a.z = 0 then b
  else if b.z = 0 then a
  else
    let za := a.z * a.z % ecP
    let zb := b.z * b.z % ecP
    let u := a.x * zb % ecP
    let s := a.y * zb % ecP * b.z % ecP
    let h := (b.x * za % ecP + ecP - u) % ecP
    let r := (b.y * za % ecP * a.z % ecP + ecP - s) % ecP
    if h = 0 then (if r = 0 then ecDouble a else { x := 1, y := 1, z := 0 })
    else
      let hh := h * h % ecP
      let hhh := h * hh % ecP
      let v := u * hh % ecP
      let x := (r * r + (ecP - hhh) + 2 * (ecP - v)) % ecP
      { x := x, z := a.z * b.z % ecP * h % ecP, y := (r * ((v + ecP - x) % ecP) + (ecP - s) * hhh) % ecP }

/-- k times a point, over `fuel` bits of k. -/
def ecMul : Nat → Nat → EcPoint → EcPoint
  | 0, _, _ => { x := 1, y := 1, z := 0 }
  | fuel + 1, k, a => if k % 2 = 1 then ecAdd a (ecMul fuel (k / 2) (ecDouble a)) else ecMul fuel (k / 2) (ecDouble a)

def ecBase : EcPoint := { x := ecGx, y := ecGy, z := 1 }

/-- The affine coordinates of a point. -/
def EcPoint.affine (a : EcPoint) : Nat × Nat :=
  let i := invMod ecP a.z
  (a.x * (i * i % ecP) % ecP, a.y * (i * i % ecP * i % ecP) % ecP)

/-- The point of an uncompressed encoding of 97 bytes; none when it is not on the curve. -/
def ecPointOf (b : Bytes) : Option EcPoint :=
  let x := be ((b.drop 1).take 48)
  let y := be (b.drop 49)
  if b.length = 97 ∧ b.take 1 = [4] ∧ x < ecP ∧ y < ecP ∧ y * y % ecP = (x * x * x + (ecP - 3) * x + ecB) % ecP
  then some { x := x, y := y, z := 1 } else none

/-- The uncompressed encoding. -/
def EcPoint.bytes (a : EcPoint) : Bytes := [4] ++ toBe 48 a.affine.1 ++ toBe 48 a.affine.2

/-- FIPS 186-5 A.2.1 and A.3.1: a number of 448 bits, big-endian, to a scalar. -/
def ecScalar (b : Bytes) : Nat := be b % (ecN - 1) + 1

/-- The 48-byte scalar that 56 bytes reduce to (R90, R99). -/
@[irreducible] def p384Reduce (b : Bytes) : Bytes := toBe 48 (ecScalar b)

/-- The uncompressed public key of a scalar. -/
@[irreducible] def p384Public (d : Bytes) : Bytes := (ecMul 384 (be d) ecBase).bytes

/-- A signature, r then s: scalar, message, and the 56 bytes that give the per-message secret (R381). -/
@[irreducible] def p384Sign (d m k : Bytes) : Bytes :=
  let r := (ecMul 384 (ecScalar k) ecBase).affine.1 % ecN
  toBe 48 r ++ toBe 48 (invMod ecN (ecScalar k) * ((be (sha384 m) + r * be d) % ecN) % ecN)

/-- Whether a signature of 96 bytes verifies under an uncompressed public key. -/
@[irreducible] def p384Verify (pk m sig : Bytes) : Bool :=
  let r := be (sig.take 48)
  let s := be (sig.drop 48)
  match ecPointOf pk with
  | none => false
  | some q =>
    let w := invMod ecN s
    let a := ecAdd (ecMul 384 (be (sha384 m) * w % ecN) ecBase) (ecMul 384 (r * w % ecN) q)
    sig.length = 96 && 0 < r && r < ecN && 0 < s && s < ecN && a.z ≠ 0 && a.affine.1 % ecN = r

/-- The shared secret of ECDH: the x coordinate of the product; none when the point is not on the curve. -/
@[irreducible] def p384Secret (d pk : Bytes) : Option Bytes :=
  (ecPointOf pk).map fun q => toBe 48 (ecMul 384 (be d) q).affine.1

/-! ## HMAC-SHA-256 -/

def sha256K : List Nat :=
    [0x428a2f98, 0x71374491, 0xb5c0fbcf, 0xe9b5dba5, 0x3956c25b, 0x59f111f1, 0x923f82a4, 0xab1c5ed5] ++
    [0xd807aa98, 0x12835b01, 0x243185be, 0x550c7dc3, 0x72be5d74, 0x80deb1fe, 0x9bdc06a7, 0xc19bf174] ++
    [0xe49b69c1, 0xefbe4786, 0x0fc19dc6, 0x240ca1cc, 0x2de92c6f, 0x4a7484aa, 0x5cb0a9dc, 0x76f988da] ++
    [0x983e5152, 0xa831c66d, 0xb00327c8, 0xbf597fc7, 0xc6e00bf3, 0xd5a79147, 0x06ca6351, 0x14292967] ++
    [0x27b70a85, 0x2e1b2138, 0x4d2c6dfc, 0x53380d13, 0x650a7354, 0x766a0abb, 0x81c2c92e, 0x92722c85] ++
    [0xa2bfe8a1, 0xa81a664b, 0xc24b8b70, 0xc76c51a3, 0xd192e819, 0xd6990624, 0xf40e3585, 0x106aa070] ++
    [0x19a4c116, 0x1e376c08, 0x2748774c, 0x34b0bcb5, 0x391c0cb3, 0x4ed8aa4a, 0x5b9cca4f, 0x682e6ff3] ++
    [0x748f82ee, 0x78a5636f, 0x84c87814, 0x8cc70208, 0x90befffa, 0xa4506ceb, 0xbef9a3f7, 0xc67178f2]

def sha256Iv : List Nat :=
    [0x6a09e667, 0xbb67ae85, 0x3c6ef372, 0xa54ff53a, 0x510e527f, 0x9b05688c, 0x1f83d9ab, 0x5be0cd19]

def rotr32 (x n : Nat) : Nat := ((x >>> n) ||| (x <<< (32 - n))) % 2 ^ 32

/-- Word i of the sixteen words of the schedule, or of the eight working variables. -/
def word32 (x i : Nat) : Nat := (x >>> (32 * i)) % 2 ^ 32

def sha256Slide (w : Nat) : Nat :=
  let a := word32 w 14
  let b := word32 w 1
  let s1 := rotr32 a 17 ^^^ rotr32 a 19 ^^^ (a >>> 10)
  let s0 := rotr32 b 7 ^^^ rotr32 b 18 ^^^ (b >>> 3)
  (w >>> 32) + ((s1 + word32 w 9 + s0 + word32 w 0) % 2 ^ 32) <<< 480

def sha256Step (s kw : Nat) : Nat :=
  let a := word32 s 0
  let e := word32 s 4
  let t1 := word32 s 7 + (rotr32 e 6 ^^^ rotr32 e 11 ^^^ rotr32 e 25) +
    ((e &&& word32 s 5) ^^^ ((2 ^ 32 - 1 - e) &&& word32 s 6)) + kw
  let t2 := (rotr32 a 2 ^^^ rotr32 a 13 ^^^ rotr32 a 22) +
    ((a &&& word32 s 1) ^^^ (a &&& word32 s 2) ^^^ (word32 s 1 &&& word32 s 2))
  packFields 32 [t1 + t2, word32 s 0, word32 s 1, word32 s 2, word32 s 3 + t1, word32 s 4, word32 s 5, word32 s 6]

def sha256Rounds : List Nat → Nat → Nat → Nat
  | [], s, _ => s
  | k :: ks, s, w => sha256Rounds ks (sha256Step s (k + word32 w 0)) (sha256Slide w)

def sha256Block (s : Nat) (block : Bytes) : Nat :=
  let t := sha256Rounds sha256K s (packFields 32 ((split 4 block).map be))
  packFields 32 ((List.range 8).map fun i => word32 s i + word32 t i)

def sha256 (m : Bytes) : Bytes :=
  let zeros := (64 - (m.length + 9) % 64) % 64
  let padded := m ++ [0x80] ++ List.replicate zeros 0 ++ toBe 8 (8 * m.length)
  let s := (split 64 padded).foldl sha256Block (packFields 32 sha256Iv)
  ((List.range 8).map fun i => toBe 4 (word32 s i)).flatten

/-- HMAC-SHA-256 under a key of at most 64 bytes. -/
@[irreducible] def hmac256 (key m : Bytes) : Bytes :=
  let k := key ++ List.replicate (64 - key.length) 0
  sha256 (k.map (· ^^^ 0x5C) ++ sha256 (k.map (· ^^^ 0x36) ++ m))

end Sys2Proof.Machine.Crypto
end

