-- ==== Sys2Proof/Machine/Rpmb.lean ====
section
/-! DEFINITION. The replay-protected store as the block reaches it: the blocks of its half-sectors, the RPMB frames and their
authentication, and the messages at `mgmt_*` (R68, R84, R113 to R116, R287, R288, R446, R453). -/

namespace Sys2Proof.Machine

open Sys2Proof Sys2Proof.Machine.Crypto

/-! ## Half-sectors -/

/-- A block of 256 bytes, zero past what is given. -/
def half (b : Bytes) : Bytes := slice b 0 256

def SlotName.code : SlotName → Nat
  | .a => 0
  | .b => 1

/-- A slot in the record; 0xFF none (R453). -/
def slotByte : Option SlotName → Nat
  | some n => n.code
  | none => 0xFF

def SlotState.code : SlotState → Nat
  | .empty => 0
  | .downloading => 1
  | .verified => 2

/-- Half-sector 0x0000 (R453). -/
def PatchRecord.bytes (r : PatchRecord) : Bytes :=
  half (toLe 4 0x53505843 ++ toLe 2 1 ++ toLe 2 0 ++ toLe 1 (slotByte r.active) ++ toLe 1 (slotByte r.trial) ++
    toLe 1 (bit r.trialBoots) ++ [0] ++ toLe 1 r.slotA.state.code ++ toLe 1 r.slotB.state.code ++ toLe 2 0 ++
    toLe 4 r.slotA.version.toNat ++ toLe 4 r.slotB.version.toNat ++ toLe 2 r.slotA.svn.toNat ++ toLe 2 r.slotB.svn.toNat ++
    toLe 4 0 ++ toBe 48 r.slotA.digest.toNat ++ toBe 48 r.slotB.digest.toNat)

/-- Half-sector 0x0001 (R446). -/
def BootRecord.bytes (r : BootRecord) : Bytes :=
  half (toLe 4 0x52425843 ++ toLe 1 (if r.running then 1 else 2) ++ toLe 3 0 ++ toLe 4 r.meterEpoch.toNat ++ toLe 4 0 ++
    toLe 8 r.tick.toNat)

def Counts.bytes8 (c : Counts) : Bytes := toLe 8 c.bytes ++ toLe 8 c.shards ++ toLe 8 c.pushes ++ toLe 8 c.epochs

def MeterState.code : MeterState → Nat
  | .free => 0
  | .live => 1
  | .revoked => 2
  | .ended => 3

/-- Half-sector 0x0100 + s; a free record is zero (R287). -/
def MeterRecord.bytes (r : MeterRecord) : Bytes :=
  if r.state = .free then toLe 256 0
  else
    toLe 4 r.licence.toNat ++ toLe 1 r.state.code ++ toLe 1 (bit r.regressed + 2 * bit r.unwarned) ++ toLe 1 r.function ++ [0] ++
    toLe 4 r.maxPeriods.toNat ++ toLe 4 r.leaseMs.toNat ++ toLe 8 r.periodTicks ++ toLe 20 r.issuer.toNat ++
    toLe 4 r.openNumber ++ toLe 20 r.licenceDigest.toNat ++ toLe 4 r.regEpoch.toNat ++ r.lifeMarks.bytes8 ++
    toLe 4 r.openEpoch.toNat ++ toLe 4 r.closedEpoch.toNat ++ toLe 8 r.openTick ++ toLe 8 r.openWall ++ r.openMarks.bytes8 ++
    toLe 8 r.closedOpenTick ++ toLe 8 r.closedCloseTick ++ toLe 8 r.closedOpenWall ++ toLe 8 r.closedCloseWall ++
    r.closedCounts.bytes8 ++ toLe 8 r.regTick ++ toLe 8 r.regOldWall ++ toLe 8 r.regNewWall ++ toLe 8 r.lastWrite

/-- Entries of one half-sector of the revocation list, and of the whole list (R288). -/
def listPerHalf : Nat := 10
def listEntries : Nat := 511 * listPerHalf

/-- Half-sector 0x0201 + i of a revocation list: its entries, the first filled first, and COUNT (R288). -/
def listHalf (l : List (BitVec 32 × BitVec 160)) (i : Nat) : Bytes :=
  let here := (l.drop (listPerHalf * i)).take listPerHalf
  half (slice ((here.map fun e => toLe 4 e.1.toNat ++ toLe 20 e.2.toNat).flatten) 0 240 ++ toLe 2 here.length)

/-- A pointer block (R115). -/
def Pointer.bytes (p : Pointer) : Bytes :=
  half (toLe 4 0x504B5843 ++ toLe 4 p.version.toNat ++ toLe 4 p.persistId.toNat ++ toLe 1 p.location.toNat ++ toLe 3 0 ++
    toLe 16 p.blobTag.toNat)

/-- The pointer that a block of R115 holds. -/
def pointerOf (b : Bytes) : Pointer :=
  { version := BitVec.ofNat 32 (bfld b 4 4), persistId := BitVec.ofNat 32 (bfld b 8 4), location := BitVec.ofNat 8 (bfld b 12 1),
    blobTag := BitVec.ofNat 128 (bfld b 16 16) }

/-- Bytes 0 to 31 of a blob (R116). -/
def blobHead (version pid mask attr level : Nat) : Bytes :=
  toLe 4 0x424B5843 ++ toLe 4 version ++ toLe 4 pid ++ toLe 2 mask ++ toLe 2 attr ++ toLe 1 level ++ toLe 15 0

/-- A blob block (R116). -/
def Blob.bytes (x : Blob) : Bytes :=
  half (blobHead x.version.toNat x.persistId.toNat x.mask.toNat x.attr.toNat x.parentLevel.toNat ++ toLe 64 x.material.toNat ++
    toLe 16 x.tag.toNat)

/-- The first half-sector that an operation reads or writes (R114, R287, R288, R446, R453). -/
def RelayFor.half (st : Store) : RelayFor → Nat
  | .boot _ => 0x0001
  | .patch _ _ => 0x0000
  | .meter k _ => 0x0100 + k
  | .install _ k _ _ _ _ _ => 0x0100 + k
  | .revokeRecord _ k _ => 0x0100 + k
  | .revokeList _ _ _ _ => 0x0201 + st.revoked.length / listPerHalf
  | .blob _ n _ p _ _ => 0x0401 + 3 * n + p.location.toNat
  | .pointer _ n _ _ _ => 0x0400 + 3 * n
  | .readPointer _ n => 0x0400 + 3 * n
  | .readMeters => 0x0100

/-- The half-sectors that a read asks for; 0 for a write. -/
def RelayFor.reads : RelayFor → Nat
  | .readPointer _ _ => 1
  | .readMeters => 256
  | _ => 0

/-- The 256 bytes that a write writes. -/
def RelayFor.data (st : Store) : RelayFor → Bytes
  | .boot r => r.bytes
  | .patch _ r => r.bytes
  | .meter _ r => r.bytes
  | .install _ _ r _ _ _ _ => r.bytes
  | .revokeRecord _ _ r => r.bytes
  | .revokeList _ l i _ => listHalf (st.revoked ++ [(l, i)]) (st.revoked.length / listPerHalf)
  | .blob _ _ x _ _ _ => x.bytes
  | .pointer _ _ p _ _ => p.bytes
  | .readPointer _ _ => []
  | .readMeters => []

/-! ## Frames (log 120) -/

/-- A JEDEC RPMB data frame without its MAC (R68). -/
structure Frame where
  data : Bytes := []
  nonce : Nat := 0
  count : Nat := 0
  addr : Nat := 0
  blocks : Nat := 0
  result : Nat := 0
  kind : Nat

/-- Bytes 228 to 511 of a frame, which the MAC covers. -/
def Frame.signed (f : Frame) : Bytes :=
  half f.data ++ toBe 16 f.nonce ++ toBe 4 f.count ++ toBe 2 f.addr ++ toBe 2 f.blocks ++ toBe 2 f.result ++ toBe 2 f.kind

/-- The 512 bytes of a frame with what stands in its key or MAC field. -/
def Frame.bytes (f : Frame) (mac : Bytes) : Bytes := toLe 196 0 ++ slice mac 0 32 ++ f.signed

/-- A frame under the RPMB key. -/
def Frame.sealed (f : Frame) (key : Bytes) : Bytes := f.bytes (hmac256 key f.signed)

/-- What a run of 512 bytes holds as a frame. -/
def frameOf (b : Bytes) : Frame :=
  { data := slice b 228 256, nonce := be (slice b 484 16), count := be (slice b 500 4), addr := be (slice b 504 2),
    blocks := be (slice b 506 2), result := be (slice b 508 2), kind := be (slice b 510 2) }

/-- The frames are whole, and the last one's MAC covers them all under the RPMB key (R68, R84). -/
def framesOk (key : Bytes) (l : List Bytes) : Bool :=
  l.all (fun f => f.length = 512) &&
  (match l.getLast? with
    | some f => (f.drop 196).take 32 == hmac256 key ((l.map fun x => x.drop 228).flatten)
    | none => false)

/-- Request and response types of a frame (JEDEC). -/
def kindKey : Nat := 0x0001
def kindCounter : Nat := 0x0002
def kindWrite : Nat := 0x0003
def kindRead : Nat := 0x0004
def kindWritten : Nat := 0x0300
def kindData : Nat := 0x0400

/-- The CID of the RPMB device, which the device gives (R99, log 4). -/
def rpmbCid : Bytes := toLe 8 (Config.open64 15 0).toNat ++ toLe 8 (Config.open64 15 1).toNat

/-- The material of slot 7, under which every frame is authenticated (R84, R99, R113): it needs the root alone, so frames are
made and checked before step 6 writes the slot and after shut-down has emptied it (log 120). -/
def Otp.rpmbKey (o : Otp) : Bytes := derive (toLe 64 ((o.root.getD 0).toNat)) "CX.rpmb" rpmbCid 256

/-- The operation of a relay header (R68). -/
def RelayFor.op (w : RelayFor) : BitVec 8 := if w.reads = 0 then 0x01 else 0x02

/-- The frame of an operation under a write counter or a nonce. -/
def RelayFor.frame (st : Store) (key : Bytes) (w : RelayFor) (count nonce : Nat) : Bytes :=
  if w.reads = 0 then
    ({ data := w.data st, count := count, addr := w.half st, blocks := 1, kind := kindWrite } : Frame).sealed key
  else ({ nonce := nonce, addr := w.half st, blocks := w.reads, kind := kindRead } : Frame).bytes []

/-- A vendor-defined message at `mgmt_*`: type, enterprise number, relay header, frames (R2, R68). -/
def relayMessage (pen : BitVec 32) (op seq : BitVec 8) (frames : List Bytes) : Bytes :=
  [0x7F] ++ toLe 4 pen.toNat ++ [op, seq] ++ toLe 2 frames.length ++ frames.flatten

/-- What an answer says of the operation that waits for it. -/
inductive Answer where
  /-- Nothing that can be relied on: another operation's, or frames that do not verify. -/
  | stray
  | rejected
  | accepted (data : Bytes)
  deriving DecidableEq, Repr

/-- How an answer is read: its operation, its MAC, and the fields that tie it to what was asked (R68, log 120). -/
def Relay.answer (r : Relay) (st : Store) (key : Bytes) (a : RpmbAnswer) : Answer :=
  let f := frameOf (a.frames.getLast?.getD [])
  if a.op ≠ r.what.op || !framesOk key a.frames || f.addr ≠ r.what.half st then .stray
  else if r.what.reads = 0 then
    if f.kind ≠ kindWritten then .stray
    else if f.result ≠ 0 then .rejected
    else if f.count ≠ r.count + 1 then .stray
    else .accepted []
  else if f.kind ≠ kindData || f.nonce ≠ r.nonce.toNat || a.frames.length ≠ r.what.reads then .stray
  else if f.result ≠ 0 then .rejected
  else .accepted ((a.frames.map fun x => (frameOf x).data).flatten)

/-- The result frame of a device that has accepted a write. -/
def Relay.writtenFrame (r : Relay) (st : Store) (key : Bytes) (result : Nat) : Bytes :=
  ({ count := r.count + 1, addr := r.what.half st, result := result, kind := kindWritten } : Frame).sealed key

end Sys2Proof.Machine
end

