-- ==== Sys2Proof/Machine/Escalate.lean ====
section
/-! DEFINITION. The relay to the replay-protected store, meter marks, shut-down, the start of kindling, and the
whole-block rung (R68, R287 to R290, R443, R447 to R449, R475, R479). -/

namespace Sys2Proof.Machine

open Sys2Proof Sys2Proof.Machine.Crypto

/-! ## Relay -/

/-- A message at `mgmt_*` under the next sequence number (R68). -/
def Block.message (b : Block) (op : BitVec 8) (frames : List Bytes) : Block :=
  { b.emit (.relay (relayMessage b.otp.pen op b.seq.nextRelay frames)) with
    seq := { b.seq with nextRelay := b.seq.nextRelay + 1 } }

/-- The write counter of the next write's frame: what the device will count once it has taken the writes on their way
(log 120). -/
def Block.writeCount (b : Block) : Nat := b.store.writes + (b.seq.relays.filter fun r => r.what.reads = 0).length

/-- Sends one relayed operation, an authenticated write of one half-sector or a read under a fresh nonce, over `mgmt_*`
(R68, R287). -/
def Block.relay (b : Block) (what : RelayFor) : Block :=
  let r : Relay := { seq := b.seq.nextRelay, what := what, count := b.writeCount, nonce := b.random 128 }
  let b := if what.reads = 0 then b else b.drew
  let b := b.message what.op [what.frame b.store b.otp.rpmbKey r.count r.nonce.toNat]
  { b with seq := { b.seq with relays := b.seq.relays ++ [r] } }

/-- The device has accepted a write: its counter has risen (log 120). -/
def Store.counted (st : Store) (what : RelayFor) : Store := if what.reads = 0 then { st with writes := st.writes + 1 } else st

/-- What the device holds after it accepts a relayed write (R69, log 6). -/
def Store.accept (st : Store) : RelayFor → Store
  | .boot r => { st with boot := r }
  | .patch _ r => { st with patch := r }
  | .meter k r => { st with meters := if r.state = .free then Tab.del st.meters k else Tab.put st.meters k r }
  | .install _ k r _ _ _ _ => { st with meters := Tab.put st.meters k r }
  | .revokeRecord _ k r => { st with meters := Tab.put st.meters k r }
  | .revokeList _ l i _ => { st with revoked := st.revoked ++ [(l, i)] }
  | .blob _ n bl p _ _ => { st with blobs := Tab.put st.blobs (2 * n + p.location.toNat) bl }
  | .pointer _ n p _ _ => { st with pointers := Tab.put st.pointers n p }
  | .readPointer _ _ => st
  | .readMeters => st

/-! ## Operations that fail -/

/-- A persistent key's directory index is no longer under an operation. -/
def Block.releaseIndex (b : Block) (index : Nat) : Block :=
  { b with keys := { b.keys with dirBusy := b.keys.dirBusy.erase index } }

/-- A slot that still holds the key it held at a generation. -/
def Block.stillHolds (b : Block) (k : Nat × BitVec 16) : Bool := !(b.slot k.1).isEmpty && (b.slot k.1).gen = k.2

/-- A slot that was written before its key's commit goes (R119). -/
def Block.dropNew (b : Block) (k : Nat × BitVec 16) : Block := if b.stillHolds k then b.invalidate k.1 none else b

/-- The pointer of an index is no longer known to the block (R119). -/
def Block.doubt (b : Block) (index : Nat) : Block :=
  { b with keys := { b.keys with dirDoubt := index :: b.keys.dirDoubt.erase index } }

/-- A write of the revocation list is under way. -/
def Block.listBusy (b : Block) : Bool :=
  b.seq.relays.any fun r => r.live && match r.what with
    | .revokeList _ _ _ _ => true
    | _ => false

/-- Writes an entry of the revocation list; an earlier write of it that nobody waits for any more is superseded (R288). -/
def Block.relayList (b : Block) (cmd : Option Nat) (licence : BitVec 32) (issuer : BitVec 160) (record : Option Nat) : Block :=
  ({ b with seq := { b.seq with relays := b.seq.relays.filter fun r => !(!r.live && match r.what with
      | .revokeList _ _ _ _ => true
      | _ => false) } } : Block).relay (.revokeList cmd licence issuer record)

/-- The next record whose last period has been reported goes to the revocation list, when no write of the list is under way
and it has room (R291). -/
def Block.listNext (b : Block) : Block :=
  match b.meters.find? fun e => e.2.ended with
  | none => b
  | some (k, _) =>
    if b.listBusy || listEntries ≤ b.store.revoked.length then b
    else b.relayList none (b.store.meters.getD k {}).licence (b.store.meters.getD k {}).issuer (some k)

def Block.failSome (b : Block) (cmd : Option Nat) (st : Status) : Block :=
  match cmd with
  | some id => b.fail id st
  | none => b

def Block.succeedSome (b : Block) (cmd : Option Nat) (r0 : Nat) : Block :=
  match cmd with
  | some id => b.succeed id r0 0
  | none => b

/-- What follows a write that the device has rejected or the relay has lost. -/
def Block.relayFailed (b : Block) (st : Status) : RelayFor → Block
  | .boot _ => b
  | .patch cmd _ => b.failSome cmd st
  | .meter _ _ => b
  | .install cmd _ _ _ _ _ _ => b.fail cmd st
  | .revokeRecord cmd _ _ => b.fail cmd st
  | .revokeList cmd _ _ _ => (b.failSome cmd st).listNext
  | .blob cmd index _ _ n _ => ((b.releaseIndex index).dropNew n).failSome cmd st
  | .pointer cmd index _ slot _ =>
    let b := b.releaseIndex index
    (match slot with
      | some n => b.dropNew n
      | none => b).failSome cmd st
  | .readPointer cmd _ => b.fail cmd st
  | .readMeters => b

/-- The index whose pointer an operation without an answer leaves in doubt (R119). -/
def RelayFor.doubted : RelayFor → Option Nat
  | .blob _ n _ _ _ _ => some n
  | .pointer _ n _ _ _ => some n
  | _ => none

/-- An operation of the block's own, for which no command waits: it is sent again until it is answered. -/
def RelayFor.owned : RelayFor → Bool
  | .boot _ => true
  | .meter _ _ => true
  | .revokeList none _ _ _ => true
  | .readMeters => true
  | _ => false

/-- An operation of the block's own is sent again, unless a later write of its half-sector is under way. -/
def Block.resend (b : Block) (what : RelayFor) : Block :=
  if b.seq.relays.any fun r => r.live && r.what.half b.store = what.half b.store then b else b.relay what

/-- The command that waits for an operation. -/
def RelayFor.cmd? : RelayFor → Option Nat
  | .patch c _ => c
  | .install c _ _ _ _ _ _ => some c
  | .revokeRecord c _ _ => some c
  | .revokeList c _ _ _ => c
  | .blob c _ _ _ _ _ => c
  | .pointer c _ _ _ _ => c
  | .readPointer c _ => some c
  | _ => none

/-- The command that waits for a relayed operation fails; the device may still take the write, so a pointer is in doubt. -/
def Block.abandonRelay (b : Block) (st : Status) (seq : BitVec 8) (what : RelayFor) : Block :=
  let b := match what.doubted with
    | some n => b.doubt n
    | none => b
  ({ b with seq := { b.seq with relays := b.seq.relays.map fun r => if r.seq = seq then { r with live := false } else r } } : Block).relayFailed
    st what

/-! ## Meters -/

/-- The steps of the marks: bytes, shards, pushes, epochs (R289). -/
def stepBytes : Nat := 2 ^ 32
def stepShards : Nat := 64
def stepPushes : Nat := 16
def stepEpochs : Nat := 1

def Block.meterRecord (b : Block) (k : Nat) : MeterRecord := b.store.meters.getD k {}

/-- How far the counts of a record stand below its marks, each measured in its own step (R290, log 31). -/
def Block.meterSlack (b : Block) (k : Nat) : Nat :=
  let m := (b.meters.getD k {}).life
  let h := (b.meterRecord k).lifeMarks
  (h.bytes - m.bytes) + (h.shards - m.shards) * 2 ^ 26 + (h.pushes - m.pushes) * 2 ^ 28 + (h.epochs - m.epochs) * 2 ^ 32

/-- The record that a relayed operation writes. -/
def RelayFor.record (w : RelayFor) (k : Nat) : Option MeterRecord :=
  match w with
  | .meter j r => if j = k then some r else none
  | .install _ j r _ _ _ _ => if j = k then some r else none
  | .revokeRecord _ j r => if j = k then some r else none
  | _ => none

/-- A record with the writes of it that are still on their way. -/
def Block.latestRecord (b : Block) (k : Nat) : MeterRecord :=
  (((b.seq.relays.filter (·.live)).filterMap fun r => r.what.record k).getLast?).getD (b.meterRecord k)

/-- A record with the exact counts as its marks (R290). -/
def Block.exactRecord (b : Block) (k : Nat) : MeterRecord :=
  { b.latestRecord k with lifeMarks := (b.meters.getD k {}).life
                          openMarks := (b.meters.getD k {}).period
                          lastWrite := b.tick.toNat }

/-- Puts a record number in its place by slack, most first. -/
def Block.bySlack (b : Block) (k : Nat) : List Nat → List Nat
  | [] => [k]
  | x :: r => if b.meterSlack x < b.meterSlack k then k :: x :: r else x :: b.bySlack k r

/-- The 32 records whose counts stand furthest below their marks (R290). -/
def Block.slackest (b : Block) : List Nat := ((b.meters.keys.foldl (fun l k => b.bySlack k l) []).filter fun k => 0 < b.meterSlack k).take 32

def Block.flushMeters (b : Block) : List Nat → Block
  | [] => b
  | k :: r => (b.relay (.meter k (b.exactRecord k))).flushMeters r

/-! ## Shut-down -/

/-- What survives in the block with everything volatile zeroised (R447 step 5): the built configuration, OTP, the
store, the pins, counters and rings (R481), the tick, the frames in the `mgmt_*` shell (R63), the tags of host accesses that
are not answered yet, and shells whose clock stands. -/
def Block.cold (b : Block) : Block :=
  { build := b.build, otp := b.otp, store := b.store, pins := b.pins, obs := b.obs, time := b.time,
    fns := [(0, FnPage.pfReset)], stopped := b.stopped, held := b.held, out := b.out, fresh := b.fresh,
    seq := { relays := b.seq.relays.map fun r => { r with live := false }, nextRelay := b.seq.nextRelay,
             relayStrays := b.seq.relayStrays
             writes := b.seq.writes.map fun w => (w.1, .void), reads := b.seq.reads.map fun r => (r.1, .void) } }

/-- A root bank whose programming a loss of power cuts short: neither empty nor valid, or untouched (R112, log 123). -/
def cutBank (root : BitVec 512) (check : BitVec 64) (bank n : Nat) : BitVec 512 × BitVec 64 :=
  let r := (List.range 8).foldl (fun a i => a + (Config.open64 20 (16 * n + i)).toNat <<< (64 * i)) 0
  let c := Config.open64 20 (16 * n + 8)
  if bankOk (BitVec.ofNat 512 r) c bank then (root, check) else (BitVec.ofNat 512 r, c)

/-- The root is due at this kindling's step 2 and has not been drawn (R112). -/
def Block.rootDue (b : Block) : Bool :=
  b.boot.running && b.boot.step = 1 && (b.boot.lc = .test || b.boot.lc = .production) && b.otp.root.isNone

/-- A bank is empty when all its bits are zero, its check word among them (R111). -/
def Otp.emptyA (o : Otp) : Bool := o.rootA = 0 && o.checkA = 0
def Otp.emptyB (o : Otp) : Bool := o.rootB = 0 && o.checkB = 0

/-- Power goes while step 2 may be programming the root: the first empty bank holds what the cut left (R112). -/
def Block.cutRoot (b : Block) : Block :=
  if !b.rootDue then b
  else if b.otp.emptyA then
    { b.freshen with otp := { b.otp with rootA := (cutBank 0 0 0 b.fresh).1, checkA := (cutBank 0 0 0 b.fresh).2 } }
  else if b.otp.emptyB then
    { b.freshen with otp := { b.otp with rootB := (cutBank 0 0 1 b.fresh).1, checkB := (cutBank 0 0 1 b.fresh).2 } }
  else b

/-- Drop-all goes out to every destination, whatever orders wait (R61, R447 step 4). -/
def Block.kxpClear (b : Block) : Block :=
  b.emits ((List.range 4).map fun d => .kxp d 2 0 0 0)

/-- Shut-down steps 1 to 6 (R447): the records of R290 and CLEAN join the relay, every `kxp_*` destination drops all,
everything volatile is zeroised, `block_safe` rises. -/
def Block.shutDown (b : Block) : Block :=
  let b := b.cutRoot
  let b := if b.boot.storeOk then
      (b.flushMeters b.slackest).relay (.boot { running := false, meterEpoch := b.boot.meterEpoch, tick := b.tick })
    else b
  let b := b.kxpClear.cold
  { b with pins := { b.pins with blockSafe := true } }

/-- Kindling begins at step 1 with every register at its Reset column (R443, R449, R488): `block_safe` falls. -/
def Block.startKindling (b : Block) : Block :=
  let b := b.cold
  { b with pins := { b.pins with blockSafe := false }
           obs := {}, time := {}, boot := { running := true } }

/-- A restart: shut-down followed by a cold kindling (R449). -/
def Block.restart (b : Block) : Block := b.shutDown.startKindling

/-- The value of a byte that the spec does not assign (log 4). -/
def openByte (point x : Nat) : Nat := (Config.open64 point x).toNat % 256

/-- Triggers of the whole-block rung (R475). -/
inductive Rung4 where
  | missedBound | keyStoreState | commandTable | highNode | thirdWatchdog | reloadMismatch | creditViolation
  deriving DecidableEq, Repr

/-- Position of a trigger in the ladder. -/
def Rung4.index : Rung4 → Nat
  | .missedBound => 1
  | .keyStoreState => 2
  | .commandTable => 3
  | .highNode => 4
  | .thirdWatchdog => 5
  | .reloadMismatch => 6
  | .creditViolation => 7

/-- The whole-block rung: BLOCK_RESET to the PF, shut-down with meters, then `alarm_fatal` (R475, R479). The spec gives
the cause byte no numbers (log 4). -/
def Block.blockReset (b : Block) (why : Rung4) (engine : Nat) : Block :=
  let b := (b.raisePf 0x04 0x74 [(0, openByte 4 why.index), (1, engine)]).shutDown
  { b with pins := { b.pins with alarmFatal := true } }

/-! ## Meter marks -/

/-- Whether a count within half a step of its mark calls for a raise (R289). -/
def nearMark (count mark step : Nat) : Bool := mark ≤ count + step / 2

/-- A raised mark. -/
def raisedMark (count mark step : Nat) : Nat := if nearMark count mark step then min (count + step) (2 ^ 64 - 1) else mark

/-- The record that raises every mark that calls for it, the open period's with the life's (R289). -/
def Block.raisedRecord (b : Block) (k : Nat) : MeterRecord :=
  let m := b.meters.getD k {}
  let r := b.latestRecord k
  let up (c h : Counts) : Counts :=
    { bytes := raisedMark c.bytes h.bytes stepBytes, shards := raisedMark c.shards h.shards stepShards,
      pushes := raisedMark c.pushes h.pushes stepPushes, epochs := raisedMark c.epochs h.epochs stepEpochs }
  { r with lifeMarks := up m.life r.lifeMarks, openMarks := up m.period r.openMarks, lastWrite := b.tick.toNat }

/-- A mark raise of the record is under way. -/
def Block.markWriting (b : Block) (k : Nat) : Bool :=
  b.seq.relays.any fun r => r.live && match r.what with
    | .meter j _ => j == k
    | _ => false

/-- Writes the record when a count has come near its mark and no write of it is under way (R289). -/
def Block.raiseMarks (b : Block) (k : Nat) : Block :=
  let r := b.raisedRecord k
  if (r.lifeMarks ≠ (b.meterRecord k).lifeMarks ∨ r.openMarks ≠ (b.meterRecord k).openMarks) ∧ !b.markWriting k
  then b.relay (.meter k r) else b

/-- Adds to the four counts of a record, life and period, saturating (R284). -/
def Counts.add (c d : Counts) : Counts :=
  { bytes := satAdd64 c.bytes d.bytes, shards := satAdd64 c.shards d.shards,
    pushes := satAdd64 c.pushes d.pushes, epochs := satAdd64 c.epochs d.epochs }

/-- Whether every count is at or below its mark (R289). -/
def Counts.le (c d : Counts) : Bool :=
  c.bytes ≤ d.bytes && c.shards ≤ d.shards && c.pushes ≤ d.pushes && c.epochs ≤ d.epochs

/-- Whether consumption can be counted now: it takes no count past its mark (R289). -/
def Block.canConsume (b : Block) (k : Nat) (d : Counts) : Bool :=
  let m := b.meters.getD k {}
  (m.life.add d).le (b.meterRecord k).lifeMarks && (m.period.add d).le (b.meterRecord k).openMarks

/-- Counts consumption and raises marks that it nears (R289). -/
def Block.consume (b : Block) (k : Nat) (d : Counts) : Block :=
  ({ b with meters := b.meters.mod k {} fun m => { m with life := m.life.add d, period := m.period.add d } }).raiseMarks k

end Sys2Proof.Machine
end

