-- ==== Sys2Proof/Machine/Seal.lean ====
section
/-! DEFINITION. Tiers, channels and metadata addresses, the sealing transforms, and counter nodes as data (R130 to
R143, R160). -/

namespace Sys2Proof.Machine

open Sys2Proof Sys2Proof.Machine.Crypto

/-! ## Tiers and channels -/

/-- A tier: base, size, channels, interleave granule, and the engine id of its first channel (R12, R135). -/
structure Tier where
  base : Nat
  size : Nat
  chans : Nat
  gran : Nat
  first : Nat
  one : Bool
  deriving DecidableEq, Repr

def Build.tier0 (b : Build) : Tier :=
  { base := b.t0Base, size := b.t0Size, chans := b.t0, gran := 2 ^ b.t0GranLog, first := 0, one := false }

def Build.tier1 (b : Build) : Tier :=
  { base := b.t1Base, size := b.t1Size, chans := b.t1, gran := 2 ^ b.t1GranLog, first := b.t0, one := true }

def Tier.holds (t : Tier) (a : Nat) : Bool := t.base ≤ a ∧ a < t.base + t.size

/-- The tier of a protected address (R23, R135). -/
def Build.tierOf (b : Build) (a : Nat) : Option Tier :=
  if b.tier0.holds a then some b.tier0 else if b.t1 ≠ 0 ∧ b.tier1.holds a then some b.tier1 else none

/-- The channel of an address (R135). -/
def Tier.chan (t : Tier) (a : Nat) : Nat := ((a - t.base) / t.gran) % t.chans

/-- The engine id of the MCE of an address. -/
def Tier.mce (t : Tier) (a : Nat) : Nat := t.first + t.chan a

/-- The channel-local offset of an address (R136). -/
def Tier.loc (t : Tier) (a : Nat) : Nat := ((a - t.base) / (t.gran * t.chans)) * t.gran + (a - t.base) % t.gran

/-- The protected address of a channel-local offset (R136). -/
def Tier.prot (t : Tier) (u c : Nat) : Nat := t.base + (u / t.gran) * t.gran * t.chans + c * t.gran + u % t.gran

/-- TU: the first channel-local offset of the tag carve-out (R137). -/
def Tier.tu (t : Tier) : Nat := (t.size - t.size / 16) / t.chans

/-- Channel-local lines (R139). -/
def Tier.lines (t : Tier) : Nat := t.size / t.chans / 128

/-- Nodes of level k of a tier-1 tree (R139). -/
def Tier.cnt (t : Tier) : Nat → Nat
  | 0 => ceilDiv t.lines 64
  | k + 1 => ceilDiv (Tier.cnt t k) 64

/-- KC: the counter carve-out of a tier-1 channel in bytes (R139). -/
def Tier.kc (t : Tier) : Nat :=
  if t.one then ceilDiv (64 * (t.cnt 0 + t.cnt 1 + t.cnt 2 + t.cnt 3 + t.cnt 4)) 65536 * 65536 else 0

/-- CU: the first channel-local offset past the data (R139). -/
def Tier.cu (t : Tier) : Nat := t.tu - t.kc

/-- off(k) of a tier-1 tree (R139). -/
def Tier.off (t : Tier) : Nat → Nat
  | 0 => t.cu
  | k + 1 => Tier.off t k + 64 * t.cnt k

/-- An address below the carve-outs of its tier (check 1 of R127). -/
def Build.dataTier (b : Build) (a : Nat) : Option Tier :=
  match b.tierOf a with
  | some t => if t.loc a < t.cu then some t else none
  | none => none

/-- The region of an address (R122). -/
def regionOf (a : Nat) : Nat := a / 2 ^ 28

/-- Whether narrow and tier-0 replay modes are available (R138). -/
def Build.narrowReplay (b : Build) : Bool := 8 ≤ b.t0 ∧ 2 ^ (Nat.log2 b.t0) = b.t0

/-- The first granule of a region in its tier. -/
def Tier.granLo (t : Tier) (r : Nat) : Nat := (r * 2 ^ 28 - t.base) / t.gran

/-- The first row of channel c at or above a granule. -/
def Tier.rowAt (t : Tier) (g c : Nat) : Nat := ceilDiv (g - c) t.chans

/-- Whether a whole region is data of one tier (R150). -/
def Build.regionTier (b : Build) (r : Nat) : Option Tier :=
  match b.tierOf (r * 2 ^ 28) with
  | some t =>
    if r * 2 ^ 28 + 2 ^ 28 ≤ t.base + t.size ∧
      ((t.granLo r + 2 ^ 28 / t.gran - 1) / t.chans) * t.gran + t.gran ≤ t.cu then some t else none
  | none => none

/-- The first channel-local line of a region on channel c, and the one past the last. -/
def Tier.lineLo (t : Tier) (r c : Nat) : Nat := t.rowAt (t.granLo r) c * t.gran / 128
def Tier.lineHi (t : Tier) (r c : Nat) : Nat := t.rowAt (t.granLo r + 2 ^ 28 / t.gran) c * t.gran / 128

/-- The protected address of a channel-local line. -/
def Tier.lineAddr (t : Tier) (n c : Nat) : Nat := t.prot (128 * n) c

/-- The address of the tag slot of a line: that of R137 for the line at `a`. -/
def Tier.tagAddr (t : Tier) (a : Nat) : Nat := t.prot (t.tu + 8 * (t.loc a / 128)) (t.chan a)

/-- The line of the companion region that keeps tags of sectors 2 and 3 (R138). -/
def companionOf (a : Nat) : Nat := a ^^^ 2 ^ 28

/-! ## Sealing transforms -/

/-- The tag of R133: AES key, 12-byte IV, ciphertext; the GMAC form or the counterless form. -/
def tagBlock (kt : Nat) (iv ct : Bytes) (gmac : Bool) : Bytes :=
  if gmac then gcmTag (roundKeys kt) iv ct []
  else
    aesBlock (roundKeys kt)
      (xorBytes (toBe 16 (ghash (swap16 (aesEncWith (roundKeys kt) 0)) ct [])) (iv ++ toBe 4 1))

/-- The 12-byte IV of the counterless forms (R133). -/
def plainIv (index : Nat) (mode : Mode) (poison : Bool) : Bytes :=
  toLe 5 index ++ toLe 1 (mode.code + 128 * bit poison) ++ toLe 6 0

/-- The 12-byte IV of SEALED_REPLAY (R132). -/
def replayIv (index ctr : Nat) (poison : Bool) : Bytes := toLe 5 index ++ toLe 7 (ctr + 2 ^ 55 * bit poison)

/-- What seals a line or sector: mode, region key, address, line counter. -/
structure Sealing where
  mode : Mode
  key : BitVec 512
  addr : Nat
  ctr : Nat := 0
  deriving DecidableEq, Repr

def Sealing.k1 (s : Sealing) : Nat := s.key.toNat % 2 ^ 256
def Sealing.k2 (s : Sealing) : Nat := s.key.toNat / 2 ^ 256
def Sealing.kt (s : Sealing) : Nat := lineTagKey s.key (regionOf s.addr)

/-- Bytes of a data unit: a sector in SEALED_NARROW, else a line (R131). -/
def Sealing.size (s : Sealing) : Nat := if s.mode = .narrow then 32 else 128

/-- The line or sector index of the unit (R131). -/
def Sealing.index (s : Sealing) : Nat := s.addr / s.size

/-- Ciphertext of a unit (R131, R132). -/
def Sealing.enc (s : Sealing) (x : Nat) : Nat :=
  if s.mode = .replay then le (ctrFrom (roundKeys s.k1) (replayIv s.index s.ctr false) 2 (toLe 128 x))
  else xtsEnc s.k1 s.k2 s.index (s.size / 16) x

/-- Plaintext of a unit (R131, R132). -/
def Sealing.dec (s : Sealing) (x : Nat) : Nat :=
  if s.mode = .replay then le (ctrFrom (roundKeys s.k1) (replayIv s.index s.ctr false) 2 (toLe 128 x))
  else xtsDec s.k1 s.k2 s.index (s.size / 16) x

/-- The stored tag of a unit's stored data: 8 bytes, or 4 for a sector (R133, R160). -/
def Sealing.tag (s : Sealing) (ct : Nat) (poison : Bool) : Nat :=
  le ((if s.mode = .replay then tagBlock s.kt (replayIv s.index s.ctr poison) (toLe 128 ct) true
    else tagBlock s.kt (plainIv s.index s.mode poison) (toLe s.size ct) false).take (if s.mode = .narrow then 4 else 8))

/-- How a unit reads: plaintext, poisoned, or neither tag verifies (R158, R161). -/
inductive Opened where
  | plain (x : Nat)
  | poisoned
  | bad
  deriving DecidableEq, Repr

def Sealing.open1 (s : Sealing) (ct tag : Nat) : Opened :=
  if s.tag ct false = tag then .plain (s.dec ct) else if s.tag ct true = tag then .poisoned else .bad

/-- The scramble pad of an 8-byte word (R134). -/
def scramblePad (x k0 k1 : Nat) : Nat :=
  let s := (x >>> 3) ^^^ k0
  let s := ((s ^^^ (s >>> 30)) * (k1 ||| 1)) % 2 ^ 64
  let s := ((s ^^^ (s >>> 27)) * (k0 ||| 1)) % 2 ^ 64
  s ^^^ (s >>> 31)

/-- A run of n words at an address xor their pads (R134). -/
def scramble (a k0 k1 : Nat) : Nat → Nat → Nat
  | 0, _ => 0
  | n + 1, x => ((x % 2 ^ 64) ^^^ scramblePad a k0 k1) + 2 ^ 64 * scramble (a + 8) k0 k1 n (x / 2 ^ 64)

/-! ## Counter nodes -/

/-- Minor i of a node (R140). -/
def Node.minor (n : Node) (i : Nat) : Nat := fld n.minors.toNat (6 * i) 6

/-- The counter of child i (R141). -/
def Node.counter (n : Node) (i : Nat) : Nat := n.major.toNat * 64 + n.minor i

/-- Raises the count of child i: the node after, and whether its minors started over (R146); none when MAJOR would
reach 2^49 (R147). -/
def Node.lift (n : Node) (i : Nat) : Option (Node × Bool) :=
  if n.minor i = 63 then
    if n.major.toNat + 1 = 2 ^ 49 then none else some ({ major := n.major + 1, minors := 0 }, true)
  else some ({ n with minors := n.minors + BitVec.ofNat 384 (2 ^ (6 * i)) }, false)

/-- Bytes 0 to 55 of a node (R140). -/
def Node.body (n : Node) : Bytes := toLe 8 n.major.toNat ++ toLe 48 n.minors.toNat

/-- The MAC of a node (R142). -/
def nodeMac (treeKey : BitVec 256) (u level engine parentCtr : Nat) (n : Node) : Bytes :=
  (tagBlock treeKey.toNat (toLe 5 u ++ toLe 1 level ++ toLe 1 engine ++ toLe 5 0) (toLe 8 parentCtr ++ n.body) true).take 8

/-- The 64 bytes of a node as stored. -/
def Node.stored (n : Node) (mac : Bytes) : BitVec 512 := BitVec.ofNat 512 (le (n.body ++ mac))

/-- A stored node without its MAC; bits [63:49] of MAJOR are zero in every node written (R140). -/
def Node.ofStored (x : BitVec 512) : Node :=
  { major := BitVec.ofNat 49 (fld x.toNat 0 49), minors := BitVec.ofNat 384 (fld x.toNat 64 384) }

/-- A node and its stored MAC agree under the parent's counter (R142). -/
def nodeOk (treeKey : BitVec 256) (u level engine parentCtr : Nat) (x : BitVec 512) : Bool :=
  (Node.ofStored x).stored (nodeMac treeKey u level engine parentCtr (Node.ofStored x)) = x

/-! ## Trees -/

/-- Levels of a tree held in memory: five in tier 1, two in a tier-0 companion (R139, R143). -/
def treeLevels (tree : Option Nat) : Nat := if tree.isNone then 5 else 2

/-- The index of a tree's root among an MCE's roots. -/
def treeRoot (tree : Option Nat) : Nat :=
  match tree with
  | none => 0
  | some r => r + 1

/-- The channel-local offset of the node of level k and index i of a tree on channel c (R141, R143). -/
def Tier.nodeOff (t : Tier) (tree : Option Nat) (c k i : Nat) : Nat :=
  match tree with
  | none => t.off k + 64 * i
  | some r =>
    t.loc ((r ^^^ 1) * 2 ^ 28 + c * t.gran) + (if k = 0 then 0 else 64 * 2 ^ 21 / (64 * t.chans)) + 64 * i

/-- What kindling writes for the node of level k and index i of a tier-1 tree under a MAJOR (R148). -/
def Tier.firstNode (t : Tier) (treeKey : BitVec 256) (e k i : Nat) (major : BitVec 49) : BitVec 512 :=
  let n : Node := { major := major }
  n.stored (nodeMac treeKey (t.nodeOff none (e - t.first) k i) k e (n.counter 0) n)

/-- The tree that counts a SEALED_REPLAY line, and the line's number in it (R141, R143). -/
def Tier.treeOf (t : Tier) (a : Nat) : Option Nat × Nat :=
  if t.one then (none, t.loc a / 128) else (some (regionOf a), t.loc a / 128 - t.lineLo (regionOf a) (t.chan a))

end Sys2Proof.Machine
end

