-- ==== Sys2Proof/Machine/Flags.lean ====
section
/-! DEFINITION. The register window: who reaches which register, and the status and flag fields that each register
reads as (R7, R8, R47, R292 to R299, R309, R310, R313, R368 to R370, R404, R424, R428, R432, R464, R473, R480 to R496). -/

namespace Sys2Proof.Machine

open Sys2Proof Sys2Proof.Machine.Crypto

/-- A register from (lowest bit, value) pairs. -/
def pack (l : List (Nat × Nat)) : Reg := BitVec.ofNat 64 (l.foldl (fun a e => a + e.2 <<< e.1) 0)

/-! ## Codes of states -/

/-- CX_LC_STATUS.STATE (R432). -/
def LifeCycle.code : LifeCycle → Nat
  | .blank => 0
  | .test => 1
  | .production => 2
  | .endOfLife => 3
  | .invalid => 7

/-- CX_DOM_STATUS.STATE (R404). -/
def DomState.code : DomState → Nat
  | .none => 0
  | .loading => 1
  | .waiting => 2
  | .member => 3

/-- CX_TIME_STATUS.STATE (R428). -/
def TimeState.code : TimeState → Nat
  | .root => 0
  | .locked => 1
  | .holdover => 2

/-- Test or Production, the states in which commands and keys are served (R431). -/
def LifeCycle.serves (l : LifeCycle) : Bool := l = .test || l = .production

/-- The number of ones of the bitwise majority of three copies (R452). -/
def majorityOnes (a b c : BitVec 128) : Nat :=
  ((List.range 128).filter fun i => ((a &&& b) ||| (a &&& c) ||| (b &&& c)).getLsbD i).length

/-- The security version held in OTP (R452). -/
def Otp.svn (o : Otp) : Nat := majorityOnes o.svn0 o.svn1 o.svn2

/-! ## Doorbell owners -/

/-- Whether a queue pair lies in a function's range. -/
def FnPage.holdsQp (p : FnPage) (q : Nat) : Bool := p.qpBase.toNat ≤ q && q < p.qpBase.toNat + p.qpCount.toNat

/-- The enabled function that owns a doorbell (R292). -/
def Block.qpOwner (b : Block) (q : Nat) : Option Nat := (b.fns.find? fun e => e.2.enabled && e.2.holdsQp q).map (·.1)

/-! ## Reach -/

/-- What a page offset is. -/
inductive PageArea where
  | up | down | cipher | control | reserved
  deriving DecidableEq, Repr

def pageArea (o : Nat) : PageArea :=
  if o < 0x400 then .up else if o < 0x800 then .down else if o < 0xC00 then .cipher else if o < 0xC70 then .control
  else .reserved

/-- The control registers of a VF page that the PF alone writes (R292). -/
def pfWrites (o : Nat) : Bool := o = 0xC08 || o = 0xC10 || o = 0xC18 || o = 0xC20

/-- Whether BUSY refuses a cipher page access (R371). -/
def CipherPage.shut (c : CipherPage) (o : Nat) (write : Bool) : Bool :=
  c.busy && (if write then o = 0x800 || o = 0x810 || o = 0x818 || (0x900 ≤ o && o < 0xA00) else 0xA00 ≤ o && o < 0xB00)

/-- Whether function `fn` reaches offset `o` of page `f` (R292, R296, R298, R371, R495). -/
def Block.pageReach (b : Block) (fn f o : Nat) (write : Bool) : Bool :=
  match pageArea o with
  | .up => if fn = f then !write || f = 0 || !(b.fn f).upPost else fn = 0 && !write
  | .down => if fn = f then !write || f = 0 else fn = 0 && (!write || !(b.fn f).downPost)
  | .cipher => fn = f && !(b.fn f).cipher.shut o write
  | .control =>
    (fn = f || fn = 0) && !(write && pfWrites o && fn ≠ 0) && !(write && o = 0xC30 && (b.fn f).qpCtlBusy)
  | .reserved => fn = f || fn = 0

/-- Whether an access is answered and not refused (R47, R444, R447, R484). -/
def Block.reach (b : Block) (fn off : Nat) (write : Bool) : Bool :=
  if b.pins.blockSafe || off % 8 ≠ 0 then false
  else if b.boot.failed && (write || 0x02_0000 ≤ off) then false
  else if off < 0x01_0000 then fn = 0
  else if off < 0x02_0000 then true
  else if off < 0x10_0000 then fn = 0
  else if off < 0x20_0000 then b.pageReach fn ((off - 0x10_0000) / 0x1000) (off % 0x1000) write
  else if 0x40_0000 ≤ off && off < 0x48_0000 then b.qpOwner ((off - 0x40_0000) / 8) = some fn
  else false

/-! ## Global control -/

/-- CX_LC_STATUS (R432). -/
def Block.lcStatus (b : Block) : Reg :=
  pack [(0, b.boot.lc.code), (3, bit b.boot.debugOpen), (4, bit b.boot.recovery), (16, b.boot.rights.toNat)]

/-- CX_BOOT_STATUS. -/
def Block.bootStatus (b : Block) : Reg :=
  pack [(0, b.boot.step), (4, bit b.boot.ready), (5, bit b.boot.failed), (6, bit b.boot.unwarned),
        (16, b.boot.code.code.toNat)]

/-- CX_CC_WAY_g (R491). -/
def Block.ccWay (b : Block) (g : Nat) : Reg :=
  if g < 2 then 0x300
  else
    let w := b.ways.getD g {}
    pack [(0, w.fn.toNat), (8, bit w.assigned), (9, bit w.shared), (10, bit w.busy)]

/-- CX_DOM_STATUS (R404). -/
def Block.domStatus (b : Block) : Reg :=
  pack [(0, b.domain.state.code), (3, bit b.domain.split), (4, bit b.domain.seed), (16, b.domain.err.code.toNat)]

/-- An LPE port has been admitted (R401, R404). -/
def Lpe.admitted (l : Lpe) : Bool := l.adm.stage = .admitted

/-- CX_DOM_LINKS (R404). -/
def Block.domLinks (b : Block) : Reg :=
  pack ((b.lpes.map fun e => (e.1, bit e.2.admitted)) ++ b.lpes.map fun e => (32 + e.1, bit e.2.member))

/-- CX_GOV_STATUS. -/
def Block.govStatus (b : Block) : Reg :=
  pack [(0, b.gov.railMv), (10, b.gov.needMv), (20, bit b.gov.deficit), (21, bit b.gov.deficitSeen),
        (22, bit b.gov.cal.isSome), (23, bit b.gov.calClamp), (32, b.gov.scale)]

/-- CX_TIME_STATUS (R428). -/
def Block.timeStatus (b : Block) : Reg :=
  pack [(0, b.time.state.code), (2, b.time.parent), (8, b.time.hops.toNat), (16, b.time.offset.toNat)]

def Block.readGlobal (b : Block) (off : Nat) : Reg :=
  if off = 0x0000 then b.limits.fabUs.zeroExtend 64
  else if off = 0x0008 then b.limits.t1Us.zeroExtend 64
  else if off = 0x0100 then b.lcStatus
  else if off = 0x0108 then b.otp.serial
  else if off = 0x0110 then b.bootStatus
  else if off = 0x0200 then b.obs.alarm.zeroExtend 64
  else if off = 0x0208 then pack [(0, b.obs.alarmVector.toNat), (11, bit b.obs.alarmEnable)]
  else if 0x0300 ≤ off && off < 0x0340 then b.ccWay ((off - 0x0300) / 8)
  else if off = 0x1000 then b.domain.src
  else if off = 0x1008 then b.domain.len.zeroExtend 64
  else if off = 0x1010 then b.domStatus
  else if off = 0x1018 then b.domLinks
  else if off = 0x2000 then b.gov.railMask.zeroExtend 64
  else if off = 0x2008 then b.govStatus
  else if 0x2100 ≤ off && off < 0x2300 then (b.limits.minLines.getD ((off - 0x2100) / 8) 0).zeroExtend 64
  else if 0x2300 ≤ off && off < 0x2380 then (b.limits.weights.getD ((off - 0x2300) / 8) 64).zeroExtend 64
  else if off = 0x2380 then b.limits.qhigh.zeroExtend 64
  else if 0x2400 ≤ off && off < 0x2500 then (b.time.asym.getD ((off - 0x2400) / 8) 0).zeroExtend 64
  else if off = 0x2500 then b.timeStatus
  else 0

/-! ## Capability table -/

/-- CX_CAP_PATCH (R8). While no slot runs, the spec gives BUNDLE_VERSION 0 (R455) and not what SLOT and TRIAL read; the model
reads both as 0 (DESIGN CHOICE, log 132). -/
def Block.capPatch (b : Block) : Reg :=
  if b.boot.step < 5 then 0
  else
    pack [(0, b.boot.version.toNat), (32, b.boot.otpSvn.toNat), (48, bit (b.boot.slot = some .b)), (49, bit b.boot.onTrial)]

/-- Eight bytes of a list of engine ids, from instance `8 i` (R493). -/
def idBytes (first count i : Nat) : Reg :=
  BitVec.ofNat 64 (le ((List.range 8).map fun j =>
    if 8 * i + j < count then BitVec.ofNat 8 (first + 8 * i + j) else 0xFF))

def Block.readCap (b : Block) (off : Nat) : Reg :=
  let c := b.build
  if off = 0x1_0000 then 0x0000_0017_0503_0204
  else if off = 0x1_0008 then b.capPatch
  else if off = 0x1_0010 then
    pack [(0, c.t0), (8, c.t1), (16, c.lpes), (24, c.kilns), (28, 2), (32, bit c.narrowReplay)]
  else if off = 0x1_0018 then pack [(0, b.boot.blockId.toNat), (12, bit b.boot.assigned), (32, b.otp.pen.toNat)]
  else if off = 0x1_0020 then BitVec.ofNat 64 c.t0Base
  else if off = 0x1_0028 then BitVec.ofNat 64 c.t0Size
  else if off = 0x1_0030 then pack [(0, c.t0), (8, c.t0GranLog)]
  else if off = 0x1_0038 then if c.t1 = 0 then 0 else BitVec.ofNat 64 c.t1Base
  else if off = 0x1_0040 then if c.t1 = 0 then 0 else BitVec.ofNat 64 c.t1Size
  else if off = 0x1_0048 then
    if c.t1 = 0 then 0 else pack [(0, c.t1), (8, c.t1GranLog), (16, c.tier1.kc / 65536)]
  else if off = 0x1_0050 then 0x40FF_4000_4000_1000
  else if off = 0x1_0058 then 0x0800_1000_0801_0000
  else if off = 0x1_0060 then 0x0000_0000_0001_020C
  else if 0x1_0100 ≤ off && off < 0x1_0140 then idBytes 0 c.mces ((off - 0x1_0100) / 8)
  else if 0x1_0140 ≤ off && off < 0x1_0160 then idBytes 0x40 c.lpes ((off - 0x1_0140) / 8)
  else 0

/-! ## Observation -/

/-- The record in slot i of a ring: event n lies in slot n mod 256 (R481). -/
def Ring.slot (r : Ring) (i : Nat) : Option Event :=
  if r.total = 0 then none else r.events[(r.total - 1 + 256 - i) % 256]?

/-- The ring window (R481, R494), with records as the PF sees them (R462). -/
def Block.ringWord (b : Block) (o : Nat) : Reg :=
  match b.obs.window.slot (o / 32) with
  | some e => if b.build.engineBuilt b.obs.ringSel.toNat then BitVec.ofNat 64 (bfld e.pfView.bytes (o % 32) 8) else 0
  | none => 0

def Block.readObserve (b : Block) (off : Nat) : Reg :=
  if off = 0x2_0000 then
    pack [(0, b.obs.eccThreshold.toNat), (8, b.obs.eccLeak.toNat), (24, b.obs.eccVector.toNat), (35, bit b.obs.eccEnable)]
  else if off = 0x2_0008 then b.obs.eccOverflow.zeroExtend 64
  else if off = 0x2_0010 then pack [(0, b.obs.beats.toNat), (32, b.obs.watchdogs.toNat)]
  else if off = 0x2_0018 then
    pack [(0, b.obs.ringSel.toNat), (16, b.obs.window.total % 256), (24, bit (256 ≤ b.obs.window.total))]
  else if 0x2_2000 ≤ off && off < 0x2_4000 then b.ringWord (off - 0x2_2000)
  else if 0x4_0000 ≤ off && off < 0x4_4000 then BitVec.ofNat 64 (b.obs.ops.getD ((off - 0x4_0000) / 8) 0)
  else if 0x4_4000 ≤ off && off < 0x4_6000 then BitVec.ofNat 64 (b.obs.events.getD ((off - 0x4_4000) / 8) 0)
  else 0

/-! ## Function pages -/

/-- CX_FN_STATUS (R295). -/
def Block.fnStatus (b : Block) (f : Nat) : Reg :=
  let p := b.fn f
  pack [(0, bit p.enabled), (1, bit p.quiesced), (2, bit p.resetting), (8, f), (16, b.liveCtx f)]

/-- CX_FN_ALLOC (R293). -/
def FnPage.alloc (p : FnPage) : Reg :=
  pack [(0, p.qpBase.toNat), (16, p.qpCount.toNat), (33, p.msix.toNat), (63, bit p.enabled)]

/-- CX_FN_QP_CTL (R298, R496). -/
def FnPage.qpCtl (p : FnPage) : Reg :=
  pack [(0, p.qpCtlQp.toNat), (16, p.qpCtlOp.toNat), (31, bit p.qpCtlBusy), (32, p.qpCtlStatus.code.toNat)]

/-- CX_FN_MBOX of a VF page (R296). -/
def FnPage.mbox (p : FnPage) : Reg :=
  pack [(0, bit p.upPost), (1, bit p.downPost), (16, p.upVec.toNat), (32, p.downVec.toNat)]

/-- CX_FN_FAULTQ_CTL (R309). -/
def FaultQueue.ctl (q : FaultQueue) : Reg :=
  pack [(0, q.log2.toNat), (5, bit q.enable), (6, bit q.overflow), (16, q.vector.toNat), (32, q.head.toNat),
        (48, q.tail.toNat)]

/-- CX_FN_ASH_CTL (R310). -/
def AshStream.ctl (a : AshStream) : Reg :=
  pack [(0, a.sizeLog2.toNat), (5, bit a.enable), (6, bit a.aHeld), (7, bit a.bHeld), (8, bit a.overrun),
        (9, bit a.active), (16, a.vector.toNat)]

/-- CX_CIP_CTL (R368). -/
def CipherPage.ctl (c : CipherPage) : Reg :=
  pack [(0, c.mode.toNat), (3, bit c.dir), (4, c.ctrw.toNat), (16, c.key.toNat), (32, c.len.toNat)]

/-- CX_CIP_STATUS (R369). -/
def CipherPage.status (c : CipherPage) : Reg :=
  pack [(0, bit c.busy), (1, bit c.done), (2, bit c.checkFail), (3, bit c.ctrEnd), (16, c.code.code.toNat), (32, c.outLen)]

def CipherPage.read (c : CipherPage) (o : Nat) : Reg :=
  if o = 0x800 then c.ctl
  else if o = 0x808 then c.status
  else if o = 0x810 then c.iv.truncate 64
  else if o = 0x818 then (c.iv >>> 64).truncate 64
  else if o = 0x820 then BitVec.ofNat 64 c.blocks
  else if o = 0x828 then pack [(0, c.vector.toNat), (11, bit c.irq)]
  else if 0x900 ≤ o && o < 0xA00 then (c.dataIn >>> (8 * (o - 0x900))).truncate 64
  else if 0xA00 ≤ o && o < 0xB00 then (c.dataOut >>> (8 * (o - 0xA00))).truncate 64
  else 0

def Block.readPage (b : Block) (f o : Nat) : Reg :=
  let p := b.fn f
  match pageArea o with
  | .up => if f = 0 then 0 else p.mboxUp.getD (o / 8) 0
  | .down => if f = 0 then 0 else p.mboxDown.getD ((o - 0x400) / 8) 0
  | .cipher => p.cipher.read o
  | .reserved => 0
  | .control =>
    if o = 0xC00 then b.fnStatus f
    else if o = 0xC08 then p.alloc
    else if o = 0xC10 then p.keyQuota.zeroExtend 64
    else if o = 0xC18 then p.regionLo.zeroExtend 64
    else if o = 0xC20 then p.regionHi.zeroExtend 64
    else if o = 0xC28 then pack [(12, p.qtable.toNat)]
    else if o = 0xC30 then p.qpCtl
    else if o = 0xC38 then p.fenceRegion.zeroExtend 64
    else if o = 0xC40 then if f = 0 then 0 else p.mbox
    else if o = 0xC48 then pack [(12, p.faultq.base.toNat)]
    else if o = 0xC50 then p.faultq.ctl
    else if o = 0xC58 then pack [(12, p.ash.baseA.toNat)]
    else if o = 0xC60 then pack [(12, p.ash.baseB.toNat)]
    else if o = 0xC68 then p.ash.ctl
    else 0

/-- A doorbell (R299). -/
def QueuePair.doorbell (q : QueuePair) : Reg :=
  pack [(0, q.sqHead % ringSize q.sqLog2), (16, q.cqTail), (34, bit q.phase)]

/-- What a read of a register that the function reaches returns (R484 to R497). -/
def Block.regRead (b : Block) (off : Nat) : Reg :=
  if off < 0x01_0000 then b.readGlobal off
  else if off < 0x02_0000 then b.readCap off
  else if off < 0x10_0000 then b.readObserve off
  else if off < 0x20_0000 then b.readPage ((off - 0x10_0000) / 0x1000) (off % 0x1000)
  else if 0x40_0000 ≤ off && off < 0x48_0000 then (b.qp ((off - 0x40_0000) / 8)).doorbell
  else 0

/-- A read at `hcp_t_*`: the register, or a refusal (R46, R47). -/
def Block.hostLoad (b : Block) (fn off : Nat) : Option Reg := if b.reach fn off false then some (b.regRead off) else none

end Sys2Proof.Machine
end

