-- ==== Sys2Proof/Machine/Operands.lean ====
section
/-! DEFINITION. Descriptors: the fields of every operand form, the reserved bits, who may issue a command and under which
tag, and checks 1 to 6 of the order in which a command is checked (R5, R80, R82, R316 to R349, R431). -/

namespace Sys2Proof.Machine

open Sys2Proof Sys2Proof.Machine.Crypto

/-- The operand fields of an assigned opcode: byte offset and bits (R328 to R349); none for an opcode that the command
set does not assign. -/
def operandFields : Nat → Option (List (Nat × Nat))
  | 0x0101 => some [(16, 16), (18, 8), (19, 8), (20, 12), (22, 4), (23, 3), (24, 32)]
  | 0x0102 => some [(16, 16), (18, 8), (20, 12), (22, 4), (23, 3), (24, 32), (28, 32), (32, 256)]
  | 0x0103 => some [(16, 16), (18, 8), (19, 8), (20, 12), (22, 4), (23, 3), (24, 32), (28, 8), (32, 64), (40, 32)]
  | 0x0104 => some [(16, 16), (18, 16), (24, 64), (32, 32)]
  | 0x0105 => some [(16, 16), (18, 1)]
  | 0x0106 => some [(16, 16), (24, 64)]
  | 0x0107 => some [(16, 16), (18, 8), (19, 8)]
  | 0x0201 => some [(16, 14), (18, 8), (19, 8), (20, 1), (24, 128)]
  | 0x0202 => some [(16, 14)]
  | 0x0203 => some [(16, 14), (18, 8), (19, 8)]
  | 0x0204 => some [(16, 14), (24, 64)]
  | 0x0301 => some []
  | 0x0302 => some []
  | 0x0303 => some [(16, 16), (18, 1)]
  | 0x0401 => some [(16, 16), (18, 14)]
  | 0x0402 => some [(16, 16)]
  | 0x0403 => some [(16, 16), (18, 16), (20, 32), (24, 64), (32, 32)]
  | 0x0501 => some [(16, 64), (24, 32)]
  | 0x0502 => some [(16, 16)]
  | 0x0503 => some [(16, 16)]
  | 0x0601 => some [(16, 16), (18, 16), (20, 24), (23, 5), (24, 41), (32, 32), (36, 8), (37, 2), (38, 16), (40, 16), (42, 16), (44, 16), (46, 14), (48, 42), (54, 42), (60, 32)]
  | 0x0602 => some [(16, 3), (20, 32)]
  | 0x0603 => some [(16, 3), (20, 32)]
  | 0x0604 => some [(16, 3), (24, 64)]
  | 0x0701 => some [(16, 64), (24, 64), (32, 64), (40, 64), (48, 48), (54, 8), (55, 5), (56, 5), (57, 1), (58, 16), (60, 16), (62, 16)]
  | 0x0702 => some [(16, 64), (24, 64), (32, 64), (40, 16), (42, 16), (44, 16), (46, 1), (47, 8), (48, 8), (49, 8)]
  | 0x0703 => some [(16, 64), (24, 64), (32, 32), (36, 8), (37, 8)]
  | 0x0704 => some [(16, 64), (32, 32), (36, 8)]
  | 0x0705 => some [(16, 64)]
  | 0x0801 => some [(16, 64), (24, 32), (32, 256)]
  | 0x0802 => some [(16, 64), (24, 64), (32, 64), (40, 32), (44, 16), (46, 8), (48, 64)]
  | 0x0901 => some [(16, 64), (24, 32), (28, 16)]
  | 0x0902 => some [(16, 64), (24, 32)]
  | 0x0903 => some [(16, 32), (20, 8), (24, 64), (32, 256)]
  | 0x0904 => some [(16, 16), (18, 16), (20, 32), (24, 64), (32, 64), (40, 64), (48, 64), (56, 16), (58, 8)]
  | 0x0905 => some [(16, 64), (24, 64)]
  | 0x0A01 => some [(16, 16), (18, 8), (24, 64)]
  | 0x0A02 => some [(16, 16), (18, 16), (24, 64)]
  | 0x0A03 => some []
  | 0x0B01 => some [(16, 4), (17, 8), (24, 256), (56, 32)]
  | 0x0B02 => some [(16, 4)]
  | 0x0C01 => some [(16, 42), (24, 64), (32, 64), (40, 8)]
  | 0x0C02 => some [(16, 8)]
  | 0x0C03 => some [(16, 8), (17, 8), (18, 16)]
  | 0x0C04 => some [(16, 8)]
  | 0x0C05 => some [(16, 2), (18, 11)]
  | 0x0D01 => some [(16, 8), (24, 64), (32, 32)]
  | 0x0D02 => some [(16, 64), (24, 32)]
  | 0x0D03 => some [(16, 64), (24, 32)]
  | 0x0D04 => some [(16, 64), (24, 32)]
  | 0x0D05 => some [(16, 64), (24, 32), (28, 32), (32, 1)]
  | 0x0D06 => some []
  | 0x0D07 => some []
  | 0x0D08 => some []
  | 0x0E01 => some [(16, 8), (17, 8), (18, 14), (20, 8), (21, 8), (22, 8), (24, 32), (28, 16), (30, 16), (32, 32), (40, 64), (48, 64)]
  | 0x0E02 => some [(16, 4)]
  | _ => none

/-- Every opcode (R327 to R349). -/
def opcodes : List Nat :=
  [0x0101, 0x0102, 0x0103, 0x0104, 0x0105, 0x0106, 0x0107, 0x0201, 0x0202, 0x0203, 0x0204, 0x0301, 0x0302, 0x0303,
   0x0401, 0x0402, 0x0403, 0x0501, 0x0502, 0x0503, 0x0601, 0x0602, 0x0603, 0x0604, 0x0701, 0x0702, 0x0703, 0x0704,
   0x0705, 0x0801, 0x0802, 0x0901, 0x0902, 0x0903, 0x0904, 0x0905, 0x0A01, 0x0A02, 0x0A03, 0x0B01, 0x0B02, 0x0C01,
   0x0C02, 0x0C03, 0x0C04, 0x0C05, 0x0D01, 0x0D02, 0x0D03, 0x0D04, 0x0D05, 0x0D06, 0x0D07, 0x0D08, 0x0E01, 0x0E02]

/-- The header's fields: OPCODE, FLAGS bits 0 and 1, CTX where the command carries a tag, COOKIE (R316, R317). -/
def headerFields (op : Nat) : List (Nat × Nat) :=
  [(0, 16), (2, 2), (8, 64)] ++ if op = 0x0301 then [] else [(4, 16)]

/-- A 512-bit word with ones in the named fields. -/
def fieldMask (l : List (Nat × Nat)) : Nat := l.foldl (fun a f => a ||| ((2 ^ f.2 - 1) <<< (8 * f.1))) 0

/-- Reserved bits of a descriptor are zero (R5). -/
def reservedZero (d : Descriptor) (op : Nat) : Bool :=
  match operandFields op with
  | some l => d.toNat &&& fieldMask (headerFields op ++ l) = d.toNat
  | none => false

/-- Who may issue a command: the PF, any VF, or both. -/
inductive Issuer where
  | pf | vf | any
  deriving DecidableEq, Repr

/-- The issuers of each command, judged for KEY_DERIVE with its LABEL and for KEY_IMPORT with its METHOD (R80, R327 to
R349). -/
def issuerOf (op : Nat) (d : Descriptor) : Issuer :=
  match op with
  | 0x0101 => .vf
  | 0x0102 => if dfld d 18 1 = 1 then .pf else .vf
  | 0x0103 => if dfld d 18 1 = 2 then .any else .vf
  | 0x0104 => .vf
  | 0x0107 => .vf
  | 0x0201 => .vf
  | 0x0203 => .vf
  | 0x0802 => .vf
  | 0x0901 => .vf
  | 0x0904 => .vf
  | 0x0905 => .pf
  | 0x0B01 => .pf
  | 0x0C02 => .pf
  | 0x0C03 => .pf
  | 0x0C04 => .pf
  | 0x0C05 => .pf
  | _ =>
    if op / 256 = 4 ∨ op / 256 = 5 ∨ op / 256 = 6 then .vf else if op / 256 = 0x0D ∨ op / 256 = 0x0E then .pf else .any

def Issuer.permits (i : Issuer) (fn : Nat) : Bool :=
  match i with
  | .pf => fn = 0
  | .vf => fn ≠ 0
  | .any => true

/-- Commands of the PF that carry context 0 and no other tag (R317). -/
def pfUntagged (op : Nat) : Bool :=
  [0x0102, 0x0103, 0x0105, 0x0106, 0x0202, 0x0204, 0x0303, 0x0801, 0x0903, 0x0905, 0x0B01, 0x0B02, 0x0C01, 0x0C02, 0x0C03,
   0x0C04, 0x0C05].contains op || op / 256 = 0x0D || op / 256 = 0x0E

/-- The context tag meets R317, R304 and R80. -/
def Block.tagOk (b : Block) (op fn ctx : Nat) : Bool :=
  if op = 0x0301 then true
  else if fn = 0 && pfUntagged op then ctx = 0
  else if fn = 0 && op = 0x0902 && ctx = 0 then true
  else b.ctxFn ctx = some fn

/-- Checks 1 to 6 of R323, with the refusals of a block without a root (R112) and of recovery (R456). -/
def Block.firstChecks (b : Block) (fn : Nat) (d : Descriptor) : Status :=
  let op := dfld d 0 2
  if (operandFields op).isNone then .badOpcode
  else if !(issuerOf op d).permits fn then .badOpcode
  else if !reservedZero d op then .badOperand
  else if !b.tagOk op fn (dfld d 4 2) then .badOperand
  else if op / 256 ≤ 0x0B && !b.boot.lc.serves then .deniedLifecycle
  else if op / 256 = 1 && b.boot.noRoot then .deniedLifecycle
  else if op / 256 ≤ 0x0B && b.boot.recovery then .notReady
  else if op / 256 ≤ 9 && b.boot.debugOpen then .debugOpen
  else .ok

/-! ## Host buffers -/

/-- The host buffer that a command reads: address and length (R321); none when it names none, or a length that its rules
refuse. -/
def hostBuffer (d : Descriptor) : Option (Nat × Nat) :=
  match dfld d 0 2 with
  | 0x0103 =>
    if dfld d 18 1 = 0 ∧ typeLen (dfld d 19 1) ≠ 0 ∧ dfld d 40 4 = typeLen (dfld d 19 1) + 8 then
      some (dfld d 32 8, dfld d 40 4)
    else if dfld d 18 1 = 1 ∧ dfld d 40 4 = 1616 then some (dfld d 32 8, 1616) else none
  | 0x0403 => if dfld d 24 8 ≠ 0 ∧ 1664 ≤ dfld d 32 4 ∧ dfld d 32 4 ≤ 1664 + 4 * 4096 then some (dfld d 24 8, dfld d 32 4) else none
  | 0x0501 => if 36 ≤ dfld d 24 4 ∧ dfld d 24 4 ≤ 4640 then some (dfld d 16 8, dfld d 24 4) else none
  | 0x0901 => if dfld d 24 4 = 8851 then some (dfld d 16 8, 8851) else none
  | 0x0902 => if dfld d 24 4 = 7283 then some (dfld d 16 8, 7283) else none
  | 0x0D01 => if dfld d 24 8 ≠ 0 ∧ dfld d 32 4 = 7347 then some (dfld d 24 8, 7347) else none
  | 0x0D03 => if dfld d 24 4 = 7347 then some (dfld d 16 8, 7347) else none
  | 0x0D04 => if dfld d 24 4 = 7347 then some (dfld d 16 8, 7347) else none
  | 0x0D05 => if 0 < dfld d 24 4 ∧ dfld d 24 4 ≤ 2 ^ 20 then some (dfld d 16 8, dfld d 24 4) else none
  | _ => none

/-- The requests that a command makes of the public-key and hash engine once its buffer is here, by row of R381: 0
ML-DSA-87 sign, 1 verify, 2 ML-KEM-1024, 3 ECDSA P-384 sign, 4 verify, 5 SHA-384 (R269). -/
def pkhRows (d : Descriptor) : List Nat :=
  let withBuffer (l : List Nat) : List Nat := if (hostBuffer d).isSome then l else []
  match dfld d 0 2 with
  | 0x0103 => if dfld d 18 1 = 1 then withBuffer [2] else []
  | 0x0403 => withBuffer [2]
  | 0x0501 => withBuffer [5]
  | 0x0801 => [0, 3]
  | 0x0901 => withBuffer [1, 2]
  | 0x0902 => withBuffer [1]
  | 0x0903 => [0, 3]
  | 0x0D01 => withBuffer [1]
  | 0x0D03 => withBuffer [1]
  | 0x0D04 => withBuffer [1]
  | _ => []

end Sys2Proof.Machine
end

