-- ==== Sys2Proof/Machine/Queue.lean ====
section
/-! DEFINITION. Register accesses at `hcp_*`, function pages, queue pairs, the fetch and start of commands, completion
records, interrupts, and fault queues (R46 to R49, R292 to R303, R309, R316 to R325, R381, R382). -/

namespace Sys2Proof.Machine

open Sys2Proof Sys2Proof.Machine.Crypto

/-! ## Register accesses -/

/-- A refused access: it is counted whenever the block runs; with `block_safe` high nothing can be sent to a fault queue,
and with `por_n` low the shell is in reset and answers nothing (R27, R47, R447). -/
def Block.refuse (b : Block) (fn off : Nat) : Block :=
  if !b.pins.blockSafe then b.regRefused fn off
  else if b.pins.porN then (b.emit (.hcpT 0 true)).raise { code := 0x0A, fn := fn, data := [(0, off)] } []
  else b

/-- A write to the register window: acknowledged with its effect, or refused (R46, R47, R447). -/
def Block.regAccess (b : Block) (fn off : Nat) (act : Block → Block) : Block :=
  if b.reach fn off true then (act b).emit (.hcpT 0 false) else b.refuse fn off

/-- The window offset of a register of a function page. -/
def pageOff (page o : Nat) : Nat := 0x10_0000 + 0x1000 * page + o

/-- Registers whose writes the sequencer carries out: deadlines, counter cache ways, the domain, shares of bandwidth,
function control, and doorbells (R19). -/
def sequencerReg (off : Nat) : Bool :=
  off < 0x10 || (0x300 ≤ off && off < 0x340) || (0x1000 ≤ off && off < 0x2000) || (0x2100 ≤ off && off < 0x2400) ||
  (0x10_0000 ≤ off && off < 0x20_0000 && 0xC08 ≤ off % 0x1000 && off % 0x1000 < 0xC40) || 0x40_0000 ≤ off

/-- A write that the sequencer carries out, now or when it has restarted (R19). -/
def Block.bySequencer (b : Block) (fn off : Nat) (val : Reg) (act : Block → Block) : Block :=
  if b.boot.seqReset && sequencerReg off then
    { b with seq := { b.seq with heldWrites := b.seq.heldWrites ++ [(fn, off, val)] } }
  else act b

/-- A register write as a command at `hcp_*`. -/
def atRegister (s : State) (fn off : Nat) (act : Block → Block) : Host.Outcome State Fault Refusal :=
  atPort .hcp s (onBlock s fun b => b.regAccess fn off act)

/-- The same for a register whose writes the sequencer carries out. -/
def atConfig (s : State) (fn off : Nat) (val : Reg) (act : Block → Block) : Host.Outcome State Fault Refusal :=
  atRegister s fn off fun b => b.bySequencer fn off val act

/-- REFUSED_READ: a read that R47 refuses; one that is answered returns its register. -/
def execRefusedRead (fn off : Nat) (s : State) : Host.Outcome State Fault Refusal :=
  atPort .hcp s <| onBlock s fun b =>
    match b.hostLoad fn off with
    | some v => b.emit (.hcpT v false)
    | none => b.refuse fn off

/-! ## CX_FN_ALLOC -/

/-- A job that a function still holds: its key is live or a context has joined it. -/
def Block.holdsJob (b : Block) (id : Nat) (j : Job) : Bool :=
  ((b.slot j.slot).gen = j.gen && !(b.slot j.slot).isEmpty) || b.ctxs.any fun c => c.2.fn = j.fn && List.contains c.2.jobs id

/-- Whether a function owns a key slot, a bound region, a program or a job (R294). -/
def Block.ownsAnything (b : Block) (f : Nat) : Bool :=
  (b.keys.slots.any fun e => !e.2.isEmpty && e.2.ownerFn.toNat = f) ||
  (b.regions.table.any fun e => e.2.ownerFn.toNat = f) ||
  (b.programs.any fun e => e.2.fn = f) || (b.jobs.any fun e => e.2.fn = f && b.holdsJob e.1 e.2)

/-- Whether two queue pair ranges meet; an empty one meets none. -/
def FnPage.meets (p q : FnPage) : Bool :=
  p.qpCount ≠ 0 && q.qpCount ≠ 0 && overlaps p.qpBase.toNat p.qpCount.toNat q.qpBase.toNat q.qpCount.toNat

/-- The conditions under which ENABLE is set (R294). -/
def Block.mayEnable (b : Block) (f : Nat) (p : FnPage) : Bool :=
  p.qpBase.toNat + p.qpCount.toNat ≤ 65536 && p.msix.toNat ≤ 2048 &&
  !(b.fns.any fun e => e.1 ≠ f && e.2.enabled && e.2.meets p) &&
  !p.resetting && !p.quiesced && b.liveCtx f = 0 && !b.ownsAnything f

/-- The low fields of CX_FN_ALLOC. -/
def FnPage.setAlloc (p : FnPage) (v : Reg) : FnPage :=
  { p with qpBase := BitVec.ofNat 16 (rfld v 0 16), qpCount := BitVec.ofNat 17 (rfld v 16 17),
           msix := BitVec.ofNat 12 (rfld v 33 12) }

/-- A write to CX_FN_ALLOC; one that is ignored changes nothing (R293, R294, R487). -/
def Block.writeAlloc (b : Block) (fn f : Nat) (v : Reg) : Block :=
  let p := b.fn f
  if p.enabled then
    let same := rfld v 0 45 = rfld p.alloc 0 45
    let b' := if !rbit v 63 && p.quiesced then b.modFn f fun p => { p with enabled := false } else b
    if same && (rbit v 63 || p.quiesced) then b' else b'.regIgnored fn (pageOff f 0xC08)
  else
    let p := p.setAlloc v
    if !rbit v 63 then b.setFn f p
    else if b.mayEnable f p then b.setFn f { p with enabled := true, cipher := { p.cipher with blocks := 0 } }
    else b.regIgnored fn (pageOff f 0xC08)

/-- FN_ALLOC_WRITE: R292 to R294. -/
def execFnAllocWrite (fn page : Nat) (val : BitVec 64) (s : State) : Host.Outcome State Fault Refusal :=
  atConfig s fn (pageOff page 0xC08) val fun b => b.writeAlloc fn page val

/-! ## Mailboxes -/

/-- What a write to CX_FN_MBOX asks for: the four write-1 bits, and the vectors when the write carries them. -/
structure MboxWrite where
  upSet : Bool := false
  upClr : Bool := false
  downSet : Bool := false
  downClr : Bool := false
  upVec : Option (BitVec 11) := none
  downVec : Option (BitVec 11) := none

/-- The mailbox posts and vectors of a page after a write by function fn: who may set and clear each bit (R296). -/
def FnPage.mboxAfter (p : FnPage) (fn f : Nat) (v : MboxWrite) : FnPage :=
  { p with
    upPost := if fn = f && v.upSet then true else if fn = 0 && v.upClr then false else p.upPost
    downPost := if fn = 0 && v.downSet then true else if fn = f && v.downClr then false else p.downPost
    upVec := if fn = 0 then v.upVec.getD p.upVec else p.upVec
    downVec := if fn = f then v.downVec.getD p.downVec else p.downVec }

/-- A write to CX_FN_MBOX of page f by function fn, and the vector that a rise raises (R296). -/
def Block.setMbox (b : Block) (fn f : Nat) (v : MboxWrite) : Block :=
  if f = 0 then b
  else
    let p := b.fn f
    let q := p.mboxAfter fn f v
    let b := b.setFn f q
    let b := if q.upPost && !p.upPost then b.irq 0 q.upVec else b
    if q.downPost && !p.downPost then b.irq f q.downVec else b

/-- A write of a whole register value to CX_FN_MBOX. -/
def Block.writeMbox (b : Block) (fn f : Nat) (v : Reg) : Block :=
  b.setMbox fn f
    { upSet := rbit v 2, upClr := rbit v 3, downSet := rbit v 4, downClr := rbit v 5
      upVec := some (BitVec.ofNat 11 (rfld v 16 11)), downVec := some (BitVec.ofNat 11 (rfld v 32 11)) }

/-- UP_SET: R296. -/
def execUpSet (fn page : Nat) (s : State) : Host.Outcome State Fault Refusal :=
  atRegister s fn (pageOff page 0xC40) fun b => b.setMbox fn page { upSet := true }

/-- UP_CLR: R296. -/
def execUpClr (fn page : Nat) (s : State) : Host.Outcome State Fault Refusal :=
  atRegister s fn (pageOff page 0xC40) fun b => b.setMbox fn page { upClr := true }

/-- DOWN_SET: R296. -/
def execDownSet (fn page : Nat) (s : State) : Host.Outcome State Fault Refusal :=
  atRegister s fn (pageOff page 0xC40) fun b => b.setMbox fn page { downSet := true }

/-- DOWN_CLR: R296. -/
def execDownClr (fn page : Nat) (s : State) : Host.Outcome State Fault Refusal :=
  atRegister s fn (pageOff page 0xC40) fun b => b.setMbox fn page { downClr := true }

/-! ## Fault queues -/

/-- A write to CX_FN_FAULTQ_CTL (R309). -/
def Block.writeFaultCtl (b : Block) (fn f : Nat) (v : Reg) : Block :=
  if rfld v 0 5 < 6 ∨ 16 < rfld v 0 5 then b.regIgnored fn (pageOff f 0xC50)
  else
    b.modFn f fun p =>
      let q := p.faultq
      { p with
        faultq :=
          { q with log2 := BitVec.ofNat 5 (rfld v 0 5), enable := rbit v 5, overflow := q.overflow && !rbit v 6,
                   vector := BitVec.ofNat 11 (rfld v 16 11), head := BitVec.ofNat 16 (rfld v 32 16) } }

/-- FAULTQ_CTL_WRITE: R309. -/
def execFaultqCtlWrite (fn page : Nat) (val : BitVec 64) (s : State) : Host.Outcome State Fault Refusal :=
  atRegister s fn (pageOff page 0xC50) fun b => b.writeFaultCtl fn page val

/-- The write of the first record of a fault queue has been answered (R309, R490). -/
def Block.faultAnswered (b : Block) (f : Nat) (err : Bool) : Block :=
  match (b.fn f).faultq.queue with
  | [] => b
  | e :: rest =>
    let q := (b.fn f).faultq
    let q' : FaultQueue :=
      if err then { q with queue := rest, overflow := true }
      else { q with queue := rest, tail := BitVec.ofNat 16 ((q.tail.toNat + 1) % ringSize q.log2.toNat) }
    let b := b.modFn f fun p => { p with faultq := q' }
    let b := if e.more || (err && !e.batch) then b else b.irq f q.vector
    let b := if e.alarm then b.irq 0 b.obs.alarmVector else b
    b.writeFault f

/-! ## Queue pairs -/

/-- STATUS of CX_FN_QP_CTL with BUSY clear. -/
def Block.qpCtlDone (b : Block) (f : Nat) (st : Status) : Block :=
  b.modFn f fun p => { p with qpCtlBusy := false, qpCtlStatus := st }

/-- A write to CX_FN_QP_CTL with BUSY clear starts its operation (R298, R445). -/
def Block.writeQpCtl (b : Block) (f q op : Nat) : Block :=
  let b := b.modFn f fun p => { p with qpCtlQp := BitVec.ofNat 16 q, qpCtlOp := BitVec.ofNat 2 op }
  if !b.boot.ready then b.qpCtlDone f .notReady
  else if !(b.fn f).holdsQp q then b.qpCtlDone f .badOperand
  else if op = 1 then
    if (b.qp q).enabled then b.qpCtlDone f .badOperand
    else
      (b.modFn f fun p => { p with qpCtlBusy := true }).hostRead f
        ((b.fn f).qtable.toNat * 4096 + 64 * (q - (b.fn f).qpBase.toNat)) 64 (.queueEntry f (BitVec.ofNat 16 q))
  else if op = 2 then
    if !(b.qp q).enabled then b.qpCtlDone f .badOperand
    else (b.modFn f fun p => { p with qpCtlBusy := true }).modQp q fun p => { p with closing := true }
  else b.qpCtlDone f .badOperand

/-- What a write to CX_FN_QP_CTL carries. -/
def qpCtlWord (qp op : Nat) : Reg := BitVec.ofNat 64 (qp + 2 ^ 16 * op)

/-- QP_ENABLE: R298. -/
def execQpEnable (fn page : Nat) (qp : BitVec 16) (s : State) : Host.Outcome State Fault Refusal :=
  atConfig s fn (pageOff page 0xC30) (qpCtlWord qp.toNat 1) fun b => b.writeQpCtl page qp.toNat 1

/-- QP_DISABLE: R298. -/
def execQpDisable (fn page : Nat) (qp : BitVec 16) (s : State) : Host.Outcome State Fault Refusal :=
  atConfig s fn (pageOff page 0xC30) (qpCtlWord qp.toNat 2) fun b => b.writeQpCtl page qp.toNat 2

/-- A queue table entry meets R297. -/
def entryOk (e : Bytes) (msix : Nat) : Bool :=
  bfld e 0 8 % 4096 = 0 && bfld e 8 8 % 4096 = 0 &&
  6 ≤ bfld e 16 1 && bfld e 16 1 ≤ 16 && 6 ≤ bfld e 17 1 && bfld e 17 1 ≤ 16 &&
  bfld e 18 2 < msix && bfld e 18 2 < 2048 && bfld e 22 2 = 0 && bfld e 24 4 ≤ 1000000 && allZero (slice e 28 36)

/-- The queue pair of an entry, with both indices 0 and the phase 1 (R298). -/
def entryQp (e : Bytes) (f : Nat) : QueuePair :=
  { enabled := true, fn := f, sqBase := BitVec.ofNat 64 (bfld e 0 8), cqBase := BitVec.ofNat 64 (bfld e 8 8),
    sqLog2 := bfld e 16 1, cqLog2 := bfld e 17 1, vector := BitVec.ofNat 11 (bfld e 18 2),
    coalCount := bfld e 20 2, coalNs := bfld e 24 4 }

/-- The read of a queue table entry has returned (R298). -/
def Block.entryRead (b : Block) (f q : Nat) (r : HostRead) : Block :=
  if !(b.fn f).qpCtlBusy then b
  else
    match r with
    | .err => b.qpCtlDone f .translationFault
    | .data e =>
      if entryOk e (b.fn f).msix.toNat then ({ b with qps := b.qps.put q (entryQp e f) }).qpCtlDone f .ok
      else b.qpCtlDone f .badOperand

/-- Whether any command of a queue pair, or any record of it, is still out. -/
def Block.qpIdle (b : Block) (q : Nat) : Bool := (b.qp q).done.isEmpty && !(b.seq.cmds.any fun e => e.2.qp = q)

/-- QP_DISABLE_DONE: R298. -/
def execQpDisableDone (page : Nat) (s : State) : Host.Outcome State Fault Refusal :=
  onBlock s fun b =>
    let q := (b.fn page).qpCtlQp.toNat
    if (b.fn page).qpCtlBusy && (b.fn page).qpCtlOp = 2 && (b.qp q).closing && b.qpIdle q then
      (b.modQp q fun p => { p with enabled := false, closing := false }).qpCtlDone page .ok
    else b

/-! ## Doorbells -/

/-- A valid doorbell write: indices below their rings (R299). -/
def QueuePair.bellOk (p : QueuePair) (v : Reg) : Bool :=
  p.enabled && (!rbit v 32 || rfld v 0 16 < ringSize p.sqLog2) && (!rbit v 33 || rfld v 16 16 < ringSize p.cqLog2)

/-- Moves the indices that a doorbell write sets (R299). -/
def QueuePair.ring (p : QueuePair) (v : Reg) : QueuePair :=
  { p with cqHead := if rbit v 33 then rfld v 16 16 else p.cqHead, sqTail := if rbit v 32 then rfld v 0 16 else p.sqTail }

/-- A doorbell write takes effect, or is counted and reported (R299). -/
def Block.ringBell (b : Block) (fn qp : Nat) (v : Reg) : Block :=
  if (b.qp qp).bellOk v then b.modQp qp fun p => p.ring v
  else b.raise { code := 0x09, fn := fn, data := [(0, qp), (8, v.toNat)] } [fn]

/-- DOORBELL_WRITE: R19, R299. -/
def execDoorbellWrite (fn qp : Nat) (val : BitVec 64) (s : State) : Host.Outcome State Fault Refusal :=
  atConfig s fn (0x40_0000 + 8 * qp) val fun b => b.ringBell fn qp val

/-! ## Fetching and starting commands -/

/-- Free slots of a CQ that no descriptor has reserved (R300). -/
def QueuePair.cqFree (p : QueuePair) : Nat :=
  (p.cqHead + ringSize p.cqLog2 - p.cqTail - 1) % ringSize p.cqLog2 - p.reserved

/-- Whether the sequencer can fetch from a queue pair now (R300, R302, R314, R445). -/
def Block.canFetch (b : Block) (q : Nat) : Bool :=
  let p := b.qp q
  let f := b.fn p.fn
  p.enabled && !p.closing && f.enabled && !f.quiesced && !f.resetting && f.quiescing.isNone && b.boot.ready &&
  !b.boot.seqReset && !b.pins.blockSafe && p.sqHead ≠ p.sqTail && 0 < p.cqFree &&
  b.seq.cmds.length < 1024 && (b.seq.cmds.filter fun e => e.2.fn = p.fn).length < 64

/-- The queue pair that the sequencer fetches from: the one whose turn it is, or the next queue of the next function that
has work (R302, log 130). -/
def Block.turn (b : Block) : Option Nat :=
  if 0 < b.seq.turnLeft && b.canFetch b.seq.turnQp then some b.seq.turnQp
  else
    let able := (Tab.keys b.qps).filter b.canFetch
    (nextAfter 256 (b.seq.lastFn + 1) (able.map fun q => (b.qp q).fn)).bind fun f =>
      nextAfter 65536 ((b.fn f).lastSq + 1) (able.filter fun q => (b.qp q).fn = f)

/-- Whether the sequencer fetches from a queue pair now. -/
def Block.mayFetch (b : Block) (q : Nat) : Bool := b.canFetch q && b.turn = some q

/-- A descriptor of a turn is taken; a turn has up to 8 (R302). -/
def Block.takeTurn (b : Block) (q : Nat) : Block :=
  if 0 < b.seq.turnLeft && b.seq.turnQp = q then { b with seq := { b.seq with turnLeft := b.seq.turnLeft - 1 } }
  else
    let f := (b.qp q).fn
    { b.modFn f fun p => { p with lastSq := q } with seq := { b.seq with lastFn := f, turnQp := q, turnLeft := 7 } }

/-- The SQ head moves past an entry and a CQ slot is reserved (R300, R322). -/
def QueuePair.advanceSq (p : QueuePair) : QueuePair :=
  { p with sqHead := (p.sqHead + 1) % ringSize p.sqLog2, reserved := p.reserved + 1 }

/-- Every earlier command of the SQ has completed: it is neither in flight nor waiting for its record (R301). -/
def Block.firstOfSq (b : Block) (id : Nat) (c : Cmd) : Bool :=
  (b.qp c.qp).done.isEmpty && !(b.seq.cmds.any fun e => e.1 < id && e.2.qp = c.qp)

/-- A FENCE_WAIT of the SQ before a command has not completed (R301). -/
def Block.heldByWait (b : Block) (id : Nat) (c : Cmd) : Bool :=
  (b.seq.cmds.any fun e => e.1 < id && e.2.qp = c.qp && e.2.opcode = 0x0A02) ||
  ((b.qp c.qp).done.any fun r => r.opcode = 0x0A02)

/-- Whether a fetched command may start: its own ORDERED and an earlier FENCE_WAIT hold it (R301). -/
def Block.mayStart (b : Block) (id : Nat) (c : Cmd) : Bool :=
  !b.heldByWait id c && (!c.flags.testBit 1 || b.firstOfSq id c)

/-- Requests that the public-key and hash engine holds. -/
def Block.pkhHeld (b : Block) : Nat := b.pkhLattice.length + b.pkhCurve.length

/-- Whether a request signs a usage report. -/
def Block.signsUsage (b : Block) (r : Nat × Nat) : Bool := (b.cmd? r.1).any fun c => c.opcode = 0x0903

/-- Puts a request behind those of its datapath. Signings of usage reports are served first and among themselves in arrival
order: one goes behind the request under way and the signings that follow it (R382). -/
def pkhPut (usage : Nat × Nat → Bool) (q : List (Nat × Nat)) (r : Nat × Nat) : List (Nat × Nat) :=
  match q with
  | [] => [r]
  | x :: t => if usage r then x :: (t.takeWhile usage ++ r :: t.dropWhile usage) else q ++ [r]

/-- A request enters the datapath that serves its row. -/
def Block.pkhEnter (b : Block) (r : Nat × Nat) : Block :=
  if r.2 < 3 then { b with pkhLattice := pkhPut b.signsUsage b.pkhLattice r }
  else { b with pkhCurve := pkhPut b.signsUsage b.pkhCurve r }

/-- A command's requests enter the public-key and hash engine, which holds up to 128; a further one waits at its issuer
(R381, R382). -/
def Block.pkhAsk (b : Block) (id : Nat) : List Nat → Block
  | [] => b
  | row :: r =>
    (if b.pkhHeld < 128 then b.pkhEnter (id, row) else { b with pkhIssuers := b.pkhIssuers ++ [(id, row)] }).pkhAsk id r

/-- Requests that waited at their issuers enter as room comes, signings of usage reports first (R382). `fuel` is at least
their number. -/
def Block.pkhRefill (b : Block) : Nat → Block
  | 0 => b
  | fuel + 1 =>
    if 128 ≤ b.pkhHeld then b
    else
      match (b.pkhIssuers.find? b.signsUsage).or b.pkhIssuers.head? with
      | none => b
      | some r => (({ b with pkhIssuers := b.pkhIssuers.erase r }).pkhEnter r).pkhRefill fuel

/-- A command has everything that it reads: it is ready, and its signatures and decapsulations are asked for. -/
def Block.makeReady (b : Block) (id : Nat) (c : Cmd) (buf : Bytes) : Block :=
  (b.modCmd id fun c => { c with stage := .ready, buf := buf, pkhLeft := (pkhRows c.desc).length }).pkhAsk id
    (pkhRows c.desc)

/-- A command starts: it meets checks 1 to 6 of R323, then reads its host buffer, or is ready (R301, R321). -/
def Block.startCmd (b : Block) (id : Nat) (c : Cmd) : Block :=
  match b.firstChecks c.fn c.desc with
  | .ok =>
    match hostBuffer c.desc with
    | some (a, n) => (b.modCmd id fun c => { c with stage := .reading }).hostRead c.fn a n (.buffer id)
    | none => b.makeReady id c []
  | st => b.fail id st

/-- Starts the fetched commands of a queue pair in ring order, up to the first that may not start (R301). -/
def Block.kickList (b : Block) : List (Nat × Cmd) → Block
  | [] => b
  | e :: r =>
    if e.2.stage ≠ .fetched then b.kickList r
    else if b.mayStart e.1 e.2 then (b.startCmd e.1 e.2).kickList r
    else b

def Block.kick (b : Block) (q : Nat) : Block := b.kickList (b.seq.cmds.filter fun e => e.2.qp = q)

/-- The read of the next SQ entry of a queue pair, in its turn (R46, R302). -/
def Block.fetchEntry (b : Block) (q : Nat) : Block :=
  let p := b.qp q
  ((b.takeTurn q).hostFetch p.fn (p.sqBase.toNat + 64 * p.sqHead) 64).modQp q fun p => p.advanceSq

/-- A fetched descriptor enters the command table, and starts when its turn in its SQ has come (R301). -/
def Block.takeDescriptor (b : Block) (q : Nat) (d : Descriptor) : Block :=
  let c : Cmd := { qp := q, fn := (b.qp q).fn, sqIdx := (b.qp q).sqHead, desc := d, stage := .fetched }
  let b := b.fetchEntry q
  ({ b with seq := { b.seq with cmds := b.seq.cmds.put b.seq.nextCmd c, nextCmd := b.seq.nextCmd + 1 } }).kick q

/-- DESCRIPTOR_FETCH: R300 to R302, R316, R323. -/
def execDescriptorFetch (qp : Nat) (desc : Descriptor) (s : State) : Host.Outcome State Fault Refusal :=
  atPort .hcp s (onBlock s fun b => if b.mayFetch qp then b.takeDescriptor qp desc else b)

/-- DESCRIPTOR_FETCH_FAULT: R322. -/
def execDescriptorFetchFault (qp : Nat) (s : State) : Host.Outcome State Fault Refusal :=
  atPort .hcp s <| onBlock s fun b =>
    if b.mayFetch qp then
      (b.fetchEntry qp).queueRecord qp
        { status := .translationFault, sqIdx := (b.qp qp).sqHead, irq := true }
    else b

/-! ## Records -/

/-- The interrupt of a record whose write returned (R49, R303). -/
def Block.recordIrq (b : Block) (q : Nat) (r : Rec) : Block :=
  if r.force then (b.modQp q fun p => { p with uncovered := 0 }).irq (b.qp q).fn (b.qp q).vector
  else if !r.irq then b
  else if max 1 (b.qp q).coalCount ≤ (b.qp q).uncovered + 1 ∨ (b.qp q).coalNs = 0 then
    (b.modQp q fun p => { p with uncovered := 0 }).irq (b.qp q).fn (b.qp q).vector
  else b.modQp q fun p => { p with uncovered := p.uncovered + 1 }

/-- The write of a completion record has been answered (R49, R303, R322). -/
def Block.recordAnswered (b : Block) (q : Nat) (err : Bool) : Block :=
  match (b.qp q).done with
  | [] => b
  | r :: _ =>
    let b :=
      if err then
        b.raise { code := 0x08, fn := (b.qp q).fn
                  data := [(0, q), (2, r.sqIdx), (4, r.opcode.toNat), (6, r.status.code.toNat)] } [(b.qp q).fn]
      else b.recordIrq q r
    let b := (b.advanceCq q).kick q
    if r.restart then b.restart else b

/-- COALESCE_TIMEOUT: R303. -/
def execCoalesceTimeout (qp : Nat) (s : State) : Host.Outcome State Fault Refusal :=
  onBlock s fun b =>
    if 0 < (b.qp qp).uncovered then
      (b.modQp qp fun p => { p with uncovered := 0 }).irq (b.qp qp).fn (b.qp qp).vector
    else b

/-! ## The public-key and hash engine -/

/-- Whether the signer's key of a signed object has the digest held in ROM for its kind, and its signature verifies (R434,
R435). -/
def objectSigned (o : Bytes) : Bool :=
  sha384 (slice o 128 2592) = Config.romDigest (if bfld o 4 1 ≤ 2 then 0 else 1) &&
  mldsaVerify (slice o 128 2592) (o.take 2720) (slice o 2720 4627)

/-- The verification that a command asks for: of a licence, a revocation or a signed object (R271, R275, R434). -/
def Cmd.verify (c : Cmd) : Bool :=
  match c.opcode with
  | 0x0901 => mldsaVerify (slice c.buf 1632 2592) (c.buf.take 4224) (slice c.buf 4224 4627)
  | 0x0902 => mldsaVerify (slice c.buf 64 2592) (c.buf.take 2656) (slice c.buf 2656 4627)
  | _ => objectSigned c.buf

/-- The engine's answer to a request of a row: a verification's is what FIPS 204 gives; the others' results are worked out
where they are used, and the operand is kept as it comes. -/
def Cmd.pkhAnswer (c : Cmd) (row : Nat) (r : PkhResult) : PkhResult := if row = 1 then .verdict c.verify else r

/-- PKH_REQUEST_DONE: R381, R382, R480. -/
def execPkhRequestDone (lattice : Bool) (r : PkhResult) (s : State) : Host.Outcome State Fault Refusal :=
  onBlock s fun b =>
    match if Tab.has b.resets 0x71 then [] else if lattice then b.pkhLattice else b.pkhCurve with
    | [] => b
    | (id, row) :: rest =>
      let b := if lattice then { b with pkhLattice := rest } else { b with pkhCurve := rest }
      ((b.count 11 row 1).modCmd id fun c => { c with pkhLeft := c.pkhLeft - 1, pkh := c.pkh ++ [c.pkhAnswer row r] }).pkhRefill
        b.pkhIssuers.length

/-- Every verification that a command asked for succeeded. -/
def Cmd.verified (c : Cmd) : Bool := !(List.contains c.pkh (.verdict false))

/-! ## How a command runs -/

/-- Whether a command of an opcode can run now: it is ready, its requests are answered, and the sequencer is up. -/
def Block.runnable (b : Block) (id op : Nat) : Option Cmd :=
  match b.cmd? id with
  | some c => if c.opcode = op ∧ c.stage = .ready ∧ c.pkhLeft = 0 ∧ !b.boot.seqReset ∧ !b.pins.blockSafe then some c else none
  | none => none

/-- A command of the command set that touches no protected memory. -/
def onCommand (s : State) (id op : Nat) (f : Cmd → Block → Block) : Host.Outcome State Fault Refusal :=
  onBlock s fun b =>
    match b.runnable id op with
    | some c => f c b
    | none => b

/-- A command of the command set that reads or writes protected memory. -/
def onCommandMem (s : State) (id op : Nat) (f : Cmd → Work → Work) : Host.Outcome State Fault Refusal :=
  onMemoryWait s fun w =>
    match w.blk.runnable id op with
    | some c => f c w
    | none => w

/-- EVENT_NOTIFY: R303; it completes once every earlier command of its SQ has, and its record raises the vector at
once. -/
def execEventNotify (cmd : Nat) (s : State) : Host.Outcome State Fault Refusal :=
  onCommand s cmd 0x0A03 fun c b => if b.firstOfSq cmd c then b.succeed cmd 0 0 else b

end Sys2Proof.Machine
end

