-- ==== Sys2Proof/Machine/KeyCommands.lean ====
section
/-! DEFINITION. The key commands, persistent keys, and the sweep of orphans (R95 to R119, R280, R327 to R331). -/

namespace Sys2Proof.Machine

open Sys2Proof Sys2Proof.Machine.Crypto

/-! ## Shared checks -/

/-- A command that failed a check of R100 on a slot: a corrupt slot that the check met is reported (R101). -/
def Block.failKey (b : Block) (id n : Nat) (st : Status) : Block := (b.noticeCorrupt n st).fail id st

/-- A condition of a command, with the status of its failure. -/
def require (p : Bool) (st : Status) : Status := if p then .ok else st

/-- R93 and checks 1 to 4 of R100. -/
def Block.keySound (b : Block) (h fn ctx : Nat) : Status :=
  if 2 ^ 14 ≤ h then .badOperand else firstBad [b.ownCheck h fn ctx, b.soundCheck h]

/-- Checks 5 and 6 of R100 on a slot. -/
def Block.keyFor (b : Block) (h cls use : Nat) : Status := useCheck (b.slot h).mask (b.slot h).attr (some cls) use

/-- A mask lies within another (R97). -/
def maskWithin (m p : BitVec 16) : Bool := m &&& p = m

/-- Fields that KEY_GENERATE, KEY_DERIVE and KEY_IMPORT share (R328). -/
def Cmd.mask (c : Cmd) : BitVec 16 := BitVec.ofNat 16 (dfld c.desc 20 2)
def Cmd.usage (c : Cmd) : Nat := dfld c.desc 22 1
def Cmd.exportable (c : Cmd) : Bool := (dfld c.desc 23 1).testBit 0
def Cmd.fnWide (c : Cmd) : Bool := (dfld c.desc 23 1).testBit 1
def Cmd.persistent (c : Cmd) : Bool := (dfld c.desc 23 1).testBit 2
def Cmd.persistId (c : Cmd) : Nat := dfld c.desc 24 4

/-- TYPE and mask agree: one of the five types, and the public-key types with bit 6 alone (R90); a PERSIST_ID comes with
PERSISTENT alone (R328). -/
def Cmd.shapeOk (c : Cmd) (typ : Nat) : Bool :=
  typeLen typ ≠ 0 && (typ < 3 || c.mask = 0x40) && (c.persistent || c.persistId = 0)

/-! ## Persistent keys -/

/-- The directory index of a persistent id (R114). -/
def pidIndex (pid : Nat) : Nat := pid % 1024

/-- Whether an operation on an index is under way: what would name it waits for the outcome (R324, log 124). -/
def Block.indexBusy (b : Block) (n : Nat) : Bool := List.contains b.keys.dirBusy n

/-- A pointer left in doubt is read again before its index is used; the command waits and then runs anew (R119). -/
def Block.settlePointer (b : Block) (id index : Nat) : Block := (b.wait id).relay (.readPointer id index)

def Store.pointer (st : Store) (n : Nat) : Pointer := st.pointers.getD n {}

/-- An index holds a persistent key (R114, R115). -/
def Pointer.used (p : Pointer) : Bool := p.location ≠ 0xFF

/-- The lowest index that is known to hold no key and is under no operation. -/
def Block.freeIndex (b : Block) : Option Nat :=
  (List.range 1024).find? fun n => !(b.store.pointer n).used && !b.indexBusy n && !List.contains b.keys.dirDoubt n

/-- The wrap key of a blob (R99, R116). -/
def blobKey (parent : Bytes) (index pid version : Nat) : Nat :=
  le (derive parent "CX.blob" (toLe 2 index ++ toLe 4 pid ++ toLe 4 version) 256)

/-- The IV of a blob (R116). -/
def blobIv (pid version location : Nat) : Bytes := toLe 4 pid ++ toLe 4 version ++ toLe 1 location ++ toLe 3 0

/-- Seals material as a blob (R116). -/
def sealBlob (parent : Bytes) (level index pid version location : Nat) (mask attr : BitVec 16) (mat : Bytes) : Blob :=
  let r := gcmSeal (blobKey parent index pid version) (blobIv pid version location)
    (blobHead version pid mask.toNat attr.toNat level) (slice mat 0 64)
  { version := BitVec.ofNat 32 version, persistId := BitVec.ofNat 32 pid, mask := mask, attr := attr,
    parentLevel := BitVec.ofNat 8 level, material := BitVec.ofNat 512 (le r.1), tag := BitVec.ofNat 128 (le r.2) }

/-- Opens a blob at a location under a parent (R116, R117). -/
def openBlob (parent : Bytes) (index location : Nat) (x : Blob) : Option Bytes :=
  gcmOpen (blobKey parent index x.persistId.toNat x.version.toNat) (blobIv x.persistId.toNat x.version.toNat location)
    (blobHead x.version.toNat x.persistId.toNat x.mask.toNat x.attr.toNat x.parentLevel.toNat)
    (toLe 64 x.material.toNat) (toLe 16 x.tag.toNat)

/-- What a persistent id and a parent handle restore (R117): the blob and its material. -/
def Block.restorable (b : Block) (pid parent : Nat) : Option (Blob × Bytes) :=
  let p := b.store.pointer (pidIndex pid)
  if !p.used || p.persistId.toNat ≠ pid then none
  else
    match b.store.blobs.get? (2 * pidIndex pid + p.location.toNat) with
    | none => none
    | some x =>
      if x.tag ≠ p.blobTag || x.persistId ≠ p.persistId then none
      else (openBlob (b.deriveKey parent) (pidIndex pid) p.location.toNat x).map fun m => (x, m)

/-- The caller's slot that holds a persistent key, by the checks of ownership. -/
def Block.liveOf (b : Block) (pid fn ctx : Nat) : Option Nat :=
  (b.keys.slots.find? fun e =>
    e.2.persistent && e.2.persistIdx.toNat = pidIndex pid && b.ownCheck e.1 fn ctx = .ok).map (·.1)

/-- A key about to be created: material, mask, ATTR without PERSISTENT, owner, parent, and a slot fixed by its rule. -/
structure NewKey where
  mat : Bytes
  mask : BitVec 16
  usage : Nat
  level : Nat
  typ : Nat
  exportable : Bool := false
  fnWide : Bool := false
  fn : Nat
  ctx : Nat
  parent : Nat
  fixed : Option Nat := none

def NewKey.attr (k : NewKey) (persistent : Bool) : BitVec 16 :=
  makeAttr k.usage k.level k.typ persistent k.exportable k.fnWide

/-- The slot that a new key goes into: its fixed one, or the one free longest (R94, R95). -/
def Block.slotFor (b : Block) (k : NewKey) : Option (Nat × Block) :=
  match k.fixed with
  | some n => if (b.slot n).reusable then some (n, b) else none
  | none => b.takeSlot k.fn

/-- Writes a new key into a slot. -/
def Block.place (b : Block) (n : Nat) (k : NewKey) (persistent : Bool) (index : Nat) (usable : Bool) : Block :=
  b.writeSlot n k.mat k.mask (k.attr persistent) k.fn k.ctx k.parent (b.slot k.parent).gen index usable

/-- Creates a volatile key and completes with its handle (R327). -/
def Block.createKey (b : Block) (id : Nat) (k : NewKey) : Block :=
  match b.slotFor k with
  | some (n, b) => (b.place n k false 0 true).succeed id n 0
  | none => b.fail id .retryLater

/-- A creation of version v + 1 begins: the slot is written, not yet usable, and the blob's write is relayed (R117). -/
def Block.beginPersist (b : Block) (id : Nat) (k : NewKey) (pid : Nat) (old : Option (Nat × BitVec 16)) : Block :=
  let index := pidIndex pid
  let p := b.store.pointer index
  let version := p.version.toNat + 1
  let location := if p.location = 0 then 1 else 0
  match b.slotFor k with
  | none => b.fail id .retryLater
  | some (n, b) =>
    let x := sealBlob (b.deriveKey k.parent) (b.slot k.parent).level index pid version location k.mask (k.attr true) k.mat
    let q : Pointer := { version := BitVec.ofNat 32 version, persistId := BitVec.ofNat 32 pid,
                         location := BitVec.ofNat 8 location, blobTag := x.tag }
    let b := b.place n k true index false
    (({ b with keys := { b.keys with dirBusy := b.keys.dirBusy ++ [index] } }).wait id).relay
      (.blob (some id) index x q (n, (b.slot n).gen) old)

/-- The status of a PERSISTENT creation's own checks: the store, and the right to replace the id that it names. -/
def Block.persistCheck (b : Block) (k : NewKey) (pid : Nat) : Status :=
  if !b.boot.storeOk then .notReady
  else if pid ≠ 0 ∧ (!(b.store.pointer (pidIndex pid)).used ∨ (b.store.pointer (pidIndex pid)).persistId.toNat ≠ pid ∨
      ((b.liveOf pid k.fn k.ctx).isNone ∧ (b.restorable pid k.parent).isNone)) then .noKey
  else .ok

/-- Creates a key, volatile or persistent (R95, R114, R117, R327, R387). -/
def Block.create (b : Block) (id : Nat) (k : NewKey) (persistent : Bool) (pid : Nat) : Block :=
  if !persistent then b.createKey id k
  else if b.boot.storeOk ∧ pid ≠ 0 ∧ b.indexBusy (pidIndex pid) then b
  else if b.boot.storeOk ∧ pid ≠ 0 ∧ List.contains b.keys.dirDoubt (pidIndex pid) then b.settlePointer id (pidIndex pid)
  else if b.persistCheck k pid ≠ .ok then b.fail id (b.persistCheck k pid)
  else if pid ≠ 0 then b.beginPersist id k pid ((b.liveOf pid k.fn k.ctx).map fun n => (n, (b.slot n).gen))
  else
    match b.freeIndex with
    | none => b.fail id .retryLater
    | some n =>
      if b.boot.entropyDown then b.fail id .notReady
      else b.drew.beginPersist id k (n + 1024 * (b.random 22).toNat) none

/-! ## KEY_GENERATE -/

/-- Checks of order 7 of KEY_GENERATE (R90, R96, R97, R100, R328, R387). -/
def Block.generateCheck (b : Block) (c : Cmd) : Status :=
  let parent := dfld c.desc 16 2
  let level := dfld c.desc 18 1
  firstBad [require ((level = 4 || level = 5) && c.shapeOk (dfld c.desc 19 1)) .badOperand,
    b.keyCheck parent c.fn c.ctx none useV,
    require ((b.slot parent).level < level) .badOperand,
    require (maskWithin c.mask (b.slot parent).mask) .keyEngine,
    require (!b.boot.entropyDown) .notReady]

/-- The key that KEY_GENERATE draws: a scalar of P-384 from 448 bits, or the type's length of DRBG output (R90, R385). -/
def Block.drawMaterial (b : Block) (typ : Nat) : Bytes :=
  if typ = 5 then p384Reduce (toLe 56 (b.random 448).toNat)
  else toLe (typeLen typ) (b.random (8 * typeLen typ)).toNat

/-- KEY_GENERATE: R95 to R97, R103, R327, R328. -/
def execKeyGenerate (cmd : Nat) (s : State) : Host.Outcome State Fault Refusal :=
  onCommand s cmd 0x0101 fun c b =>
    match b.generateCheck c with
    | .ok =>
      b.drew.create cmd
        { mat := b.drawMaterial (dfld c.desc 19 1), mask := c.mask, usage := c.usage, level := dfld c.desc 18 1,
          typ := dfld c.desc 19 1, exportable := c.exportable, fnWide := c.fnWide, fn := c.fn, ctx := c.ctx,
          parent := dfld c.desc 16 2 } c.persistent c.persistId
    | st => b.failKey cmd (dfld c.desc 16 2) st

/-! ## KEY_DERIVE -/

/-- A derivation that a LABEL selects: customisation string, level of the result, bits, INPUT bytes used, and X (R99,
R329). -/
structure Derivation where
  name : String
  level : Nat
  bits : Nat := 256
  used : Nat := 32
  x : Bytes

/-- R329. -/
def Cmd.derivation (c : Cmd) : Option Derivation :=
  let input := dbytes c.desc 32 32
  let arg := dfld c.desc 28 4
  match dfld c.desc 18 1 with
  | 1 => some { name := "CX.operator", level := 2, x := input }
  | 2 => some { name := "CX.tenant", level := 3, x := toLe 1 c.fn ++ input }
  | 3 => some { name := "CX.context", level := 4, x := toLe 2 c.ctx ++ input }
  | 4 => some { name := "CX.region", level := 5, bits := 512, used := 7, x := input.take 7 }
  | 5 => some { name := "CX.queue", level := 5, x := toLe 2 arg ++ input }
  | 6 => some { name := "CX.file", level := 5, x := toLe 4 arg ++ input }
  | 7 => some { name := "CX.group", level := 5, used := 6, x := input.take 6 }
  | 8 => some { name := "CX.seed", level := 5, used := 6, x := input.take 6 }
  | _ => none

/-- ARG is what the label allows (R328, R329). -/
def Block.argOk (b : Block) (c : Cmd) : Bool :=
  let arg := dfld c.desc 28 4
  match dfld c.desc 18 1 with
  | 1 => arg < 8
  | 5 => arg < 65536 && (b.fn c.fn).holdsQp arg
  | 6 => true
  | _ => arg = 0

/-- The job whose key a slot holds, of a function (R329, R336). -/
def Block.jobOfKey (b : Block) (n : Nat) : Option Nat :=
  (b.jobs.find? fun j => j.2.slot = n && j.2.gen = (b.slot n).gen).map (·.1)

/-- The parent is one that the label permits (R96, R329, R330). -/
def Block.parentOk (b : Block) (c : Cmd) (parent : Nat) : Bool :=
  match dfld c.desc 18 1 with
  | 1 => parent = 6
  | 2 => 8 ≤ parent && parent ≤ 15
  | 3 => (b.slot parent).level = 3
  | 7 => b.jobOfKey parent = some (dfld c.desc 32 2)
  | 8 => b.jobOfKey parent = some (dfld c.desc 32 2)
  | _ => (b.slot parent).level = 4

/-- Checks of order 7 of KEY_DERIVE. -/
def Block.deriveCheck (b : Block) (c : Cmd) (d : Derivation) : Status :=
  let parent := dfld c.desc 16 2
  let fixedParent := d.level = 2 || d.level = 3
  firstBad [require (!c.exportable && (c.persistent || c.persistId = 0) && b.argOk c &&
      allZero ((dbytes c.desc 32 32).drop d.used)) .badOperand,
    require (!fixedParent || b.parentOk c parent) .badOperand,
    if d.level = 3 then b.keyCheckAny parent none useV else b.keyCheck parent c.fn c.ctx none useV,
    require (b.parentOk c parent) .badOperand,
    require (d.level ≠ 2 || (b.slot (8 + dfld c.desc 28 4)).isEmpty) .badOperand,
    require (maskWithin c.mask (b.slot parent).mask) .keyEngine]

/-- KEY_DERIVE: R96, R97, R99, R327 to R330. An OPERATOR slot whose key has not committed is waited for (R324). -/
def execKeyDerive (cmd : Nat) (s : State) : Host.Outcome State Fault Refusal :=
  onCommand s cmd 0x0102 fun c b =>
    match c.derivation with
    | none => b.fail cmd .badOperand
    | some d =>
      if d.level = 2 && !(b.slot (8 + dfld c.desc 28 4)).isEmpty && !(b.slot (8 + dfld c.desc 28 4)).usable then b
      else match b.deriveCheck c d with
      | .ok =>
        let parent := dfld c.desc 16 2
        b.create cmd
          { mat := derive (b.deriveKey parent) d.name d.x d.bits, mask := c.mask, usage := c.usage, level := d.level,
            typ := if d.bits = 512 then 2 else 1, fnWide := c.fnWide, fn := c.fn, ctx := c.ctx, parent := parent
            fixed := if d.level = 2 then some (8 + dfld c.desc 28 4) else none } c.persistent c.persistId
      | st => b.failKey cmd (dfld c.desc 16 2) st

/-! ## KEY_IMPORT -/

/-- The operands of an import by unwrapping or decapsulation (R328). -/
def Cmd.importShape (c : Cmd) : Bool :=
  let level := dfld c.desc 28 1
  let typ := dfld c.desc 19 1
  (level = 4 || level = 5) && c.shapeOk typ &&
  if dfld c.desc 18 1 = 0 then dfld c.desc 40 4 = typeLen typ + 8 else typ = 1 && dfld c.desc 40 4 = 1616

/-- The checks on the unwrapping key, and the rules of R96 and R97 that it puts on the result (R102). -/
def Block.importCheck (b : Block) (c : Cmd) : Status :=
  let h := dfld c.desc 16 2
  let kwp := dfld c.desc 18 1 = 0
  firstBad [require c.importShape .badOperand,
    b.keySound h c.fn c.ctx,
    require ((b.slot h).typ = if kwp then 1 else 3) .badOperand,
    if kwp then b.keyFor h 5 useW else b.keyFor h 6 useD,
    require ((b.slot h).level < dfld c.desc 28 1) .badOperand,
    require (maskWithin c.mask (b.slot h).mask) .keyEngine]

/-- The material that an import yields (R99, R102). -/
def Block.imported (b : Block) (c : Cmd) : Except Status Bytes :=
  let h := dfld c.desc 16 2
  if dfld c.desc 18 1 = 0 then
    match kwpUnwrap (le (b.material h)) c.buf with
    | none => .error .integrityFail
    | some m => if m.length = typeLen (dfld c.desc 19 1) then .ok m else .error .badOperand
  else
    .ok (derive (toLe 32 (mlkemDecap (b.material h) (c.buf.take 1568)).toNat) "CX.kem" (slice c.buf 1568 48) 256)

/-- The fields that RESTORE leaves zero (R328). -/
def Cmd.restoreShape (c : Cmd) : Bool :=
  allZero (dbytes c.desc 19 5) && dfld c.desc 28 1 = 0 && allZero (dbytes c.desc 32 12)

/-- The OPERATOR slot that a restored level-2 key takes: R117 names none, and the model takes the lowest that is EMPTY
(log 122). -/
def Block.operatorSlot (b : Block) : Option Nat :=
  ((List.range 8).map (· + 8)).find? fun n => (b.slot n).isEmpty && (b.slot n).reusable

/-- Places a restored key (R96, R97, R117, R327). -/
def Block.restoreKey (b : Block) (id : Nat) (c : Cmd) (x : Blob) (mat : Bytes) : Block :=
  let level := fld x.attr.toNat 4 3
  let parent := dfld c.desc 16 2
  let slot := if level = 2 then b.operatorSlot.map fun n => (n, b) else b.takeSlot c.fn
  match slot with
  | none => b.fail id .retryLater
  | some (n, b) =>
    (b.writeSlot n (mat.take (typeLen (fld x.attr.toNat 8 4))) x.mask x.attr c.fn c.ctx parent (b.slot parent).gen
      (pidIndex c.persistId) true).succeed id (n + 2 ^ 32 * c.persistId) x.version.toNat

/-- RESTORE (R79, R96, R97, R113, R117, R119, R327): to the PF a key that is not of level 2 answers as one that does not
exist. -/
def Block.restore (b : Block) (id : Nat) (c : Cmd) : Block :=
  let parent := dfld c.desc 16 2
  match firstBad [require c.restoreShape .badOperand, require b.boot.storeOk .notReady,
      b.keyCheck parent c.fn c.ctx none useV] with
  | .ok =>
    if b.indexBusy (pidIndex c.persistId) then b
    else if List.contains b.keys.dirDoubt (pidIndex c.persistId) then b.settlePointer id (pidIndex c.persistId)
    else
      match b.restorable c.persistId parent with
      | none => b.fail id .noKey
      | some (x, mat) =>
        if c.fn = 0 ∧ fld x.attr.toNat 4 3 ≠ 2 then b.fail id .noKey
        else if fld x.attr.toNat 4 3 ≤ (b.slot parent).level then b.fail id .badOperand
        else if !maskWithin x.mask (b.slot parent).mask then b.fail id .keyEngine
        else b.restoreKey id c x mat
  | st => b.failKey id parent st

/-- KEY_IMPORT: R90, R96, R97, R99, R102, R117, R327, R328. -/
def execKeyImport (cmd : Nat) (s : State) : Host.Outcome State Fault Refusal :=
  onCommand s cmd 0x0103 fun c b =>
    if dfld c.desc 18 1 = 2 then b.restore cmd c
    else if 2 < dfld c.desc 18 1 then b.fail cmd .badOperand
    else
      match b.importCheck c with
      | .ok =>
        match b.imported c with
        | .error st => b.fail cmd st
        | .ok mat =>
          b.create cmd
            { mat := mat, mask := c.mask, usage := c.usage, level := dfld c.desc 28 1, typ := dfld c.desc 19 1,
              exportable := c.exportable, fnWide := c.fnWide, fn := c.fn, ctx := c.ctx, parent := dfld c.desc 16 2 }
            c.persistent c.persistId
      | st => b.failKey cmd (dfld c.desc 16 2) st

/-! ## KEY_EXPORT -/

/-- Checks on the key to export (R102). -/
def Block.exportCheck (b : Block) (c : Cmd) : Status :=
  let h := dfld c.desc 16 2
  firstBad [b.keySound h c.fn c.ctx, require (b.slot h).exportable .keyUsage,
    require (3 ≤ (b.slot h).level && (b.slot h).level ≤ 5) .badOperand]

/-- Checks on the wrap key, and the room at DST (R102, R328). -/
def Block.wrapCheck (b : Block) (c : Cmd) : Status :=
  let w := dfld c.desc 18 2
  firstBad [b.keySound w c.fn c.ctx, require ((b.slot w).typ = 1) .badOperand, b.keyFor w 5 useW,
    require (typeLen (b.slot (dfld c.desc 16 2)).typ + 8 ≤ dfld c.desc 32 4) .badOperand]

/-- KEY_EXPORT: R102, R327, R328. -/
def execKeyExport (cmd : Nat) (s : State) : Host.Outcome State Fault Refusal :=
  onCommand s cmd 0x0104 fun c b =>
    if b.exportCheck c ≠ .ok then b.failKey cmd (dfld c.desc 16 2) (b.exportCheck c)
    else if b.wrapCheck c ≠ .ok then b.failKey cmd (dfld c.desc 18 2) (b.wrapCheck c)
    else
      let out := kwpWrap (le (b.material (dfld c.desc 18 2))) (b.material (dfld c.desc 16 2))
      b.output cmd (dfld c.desc 24 8) out .ok out.length 0

/-! ## KEY_INVALIDATE -/

/-- Whether the issuer may invalidate or query a slot: its owner by checks 1 and 2 of R100, or the PF under context 0
for its own level-2 keys and, to invalidate, any level-3 key (R94, R318, R327). -/
def Block.mayName (b : Block) (c : Cmd) (h : Nat) (level3 : Bool) : Bool :=
  if c.fn = 0 ∧ c.ctx = 0 then
    !(b.slot h).isEmpty && (b.slot h).usable &&
    ((8 ≤ h && h ≤ 31) || (level3 && 64 ≤ h && (b.slot h).level = 3))
  else 64 ≤ h && b.ownCheck h c.fn c.ctx = .ok

/-- Deletes a persistent key: the pointer's write is the commit (R114, R119). -/
def Block.deleteKey (b : Block) (id h : Nat) : Block :=
  let index := (b.slot h).persistIdx.toNat
  let p := b.store.pointer index
  if !b.boot.storeOk then b.fail id .notReady
  else if b.indexBusy index then b
  else if List.contains b.keys.dirDoubt index then b.settlePointer id index
  else
    (({ b with keys := { b.keys with dirBusy := b.keys.dirBusy ++ [index] } }).wait id).relay
      (.pointer (some id) index { p with version := p.version + 1, location := 0xFF } none (some (h, (b.slot h).gen)))

/-- A deletion of the slot's key waits for the device: the slot's other invalidations wait for its outcome (R324, log 124). -/
def Block.deleting (b : Block) (h : Nat) : Bool :=
  b.seq.relays.any fun r => r.live && match r.what with
    | .pointer _ _ _ none (some k) => k.1 == h
    | _ => false

/-- KEY_INVALIDATE: R105 to R108, R119, R318, R324, R327, R328. -/
def execKeyInvalidate (cmd : Nat) (s : State) : Host.Outcome State Fault Refusal :=
  onCommand s cmd 0x0105 fun c b =>
    let h := dfld c.desc 16 2
    if 2 ^ 14 ≤ h then b.fail cmd .badOperand
    else if !b.mayName c h true then b.fail cmd .noKey
    else if b.deleting h then b
    else if dfld c.desc 18 1 = 0 then (b.wait cmd).invalidate h (some cmd)
    else if !(b.slot h).persistent then b.fail cmd .badOperand
    else b.deleteKey cmd h

/-! ## KEY_QUERY -/

/-- The 32 bytes of a query (R331). -/
def Block.queryBytes (b : Block) (h : Nat) : Bytes :=
  (b.slot h).head ++
  toLe 4 (if (b.slot h).persistent then (b.store.pointer (b.slot h).persistIdx.toNat).version.toNat else 0) ++ toLe 4 0

/-- KEY_QUERY: R119, R327, R331. -/
def execKeyQuery (cmd : Nat) (s : State) : Host.Outcome State Fault Refusal :=
  onCommand s cmd 0x0106 fun c b =>
    let h := dfld c.desc 16 2
    if 2 ^ 14 ≤ h then b.fail cmd .badOperand
    else if !b.mayName c h false then b.fail cmd .noKey
    else if (b.slot h).persistent && List.contains b.keys.dirDoubt (b.slot h).persistIdx.toNat then
      b.settlePointer cmd (b.slot h).persistIdx.toNat
    else b.output cmd (dfld c.desc 24 8) (b.queryBytes h) .ok 0 0

/-! ## KEY_PUSH -/

/-- Checks of KEY_PUSH: DEST, checks 1 to 4, the class of the destination, TYPE, usage D alone, and the share that the
order draws (R50, R100, R102, R387). R102 puts TYPE before usage and leaves its place beside the class open: the model makes
the class check first (log 122). -/
def Block.pushCheck (b : Block) (c : Cmd) : Status :=
  let h := dfld c.desc 16 2
  firstBad [require (dfld c.desc 18 1 < 4) .badOperand, b.keySound h c.fn c.ctx,
    useCheck (b.slot h).mask (b.slot h).attr (some (8 + dfld c.desc 18 1)) 0,
    require ((b.slot h).typ = 1) .badOperand, require ((b.slot h).usage = useD) .keyUsage,
    require (!b.boot.entropyDown) .notReady]

/-- The live installation whose content key a slot holds, with its meter record (R274). -/
def Block.installOf (b : Block) (n : Nat) : Option (Nat × Install) :=
  b.installs.find? fun e => e.2.slot = n && e.2.gen = (b.slot n).gen && !(b.slot n).isEmpty

/-- Records a push in the export table and sends the load, whose `kxp_done` completes the command (R52, R104). -/
def Block.pushKey (b : Block) (id h dest dslot : Nat) (lease : Option Nat) : Block :=
  let entry : ExportEntry :=
    { chain := (b.chain h).getD [], lease := lease, loaded := b.tick
      leaseMs := (lease.map fun k => (b.meterRecord k).leaseMs.toNat).getD 0 }
  let old := ((b.keys.exports.get? (256 * dest + dslot)).map (·.chain)).getD []
  let b := { b with keys := { b.keys with exports := b.keys.exports.put (256 * dest + dslot) entry } }
  (b.wait id).kxpLoad dest dslot (BitVec.ofNat 256 (le (b.material h))) (some id) old

/-- KEY_PUSH: R50 to R52, R102, R104, R280. A push of a content key whose count has reached its mark waits (R289). -/
def execKeyPush (cmd : Nat) (s : State) : Host.Outcome State Fault Refusal :=
  onCommand s cmd 0x0107 fun c b =>
    let h := dfld c.desc 16 2
    match b.pushCheck c with
    | .ok =>
      match b.installOf h with
      | none => b.pushKey cmd h (dfld c.desc 18 1) (dfld c.desc 19 1) none
      | some (k, i) =>
        if i.allowPushes ≤ (b.meters.getD k {}).life.pushes then b.fail cmd .licenseExhausted
        else if !b.canConsume k { pushes := 1 } then b.raiseMarks k
        else (b.consume k { pushes := 1 }).pushKey cmd h (dfld c.desc 18 1) (dfld c.desc 19 1) (some k)
    | st => b.failKey cmd h st

/-! ## The sweep -/

/-- KEY_SWEEP: R109, R110. A slot that fails check 4 of R100 is freed, without an event. -/
def execKeySweep (slot : Nat) (s : State) : Host.Outcome State Fault Refusal :=
  onBlock s fun b =>
    if slot < 2 ^ 14 ∧ !b.pins.blockSafe ∧ !(b.slot slot).isEmpty ∧ (b.slot slot).usable ∧ (b.chain slot).isNone then
      b.emptySlot slot
    else b

end Sys2Proof.Machine
end

