-- ==== Sys2Proof/Machine/Region.lean ====
section
/-! DEFINITION. Region entries, the checks on a request, serving keys, trips, and the host-chip regions that `mreq_*`
may not reach (R122 to R129, R151, R152, R158, R159, R184, R221, R305). -/

namespace Sys2Proof.Machine

open Sys2Proof Sys2Proof.Machine.Crypto

def Block.mce (b : Block) (e : Nat) : Mce := b.mces.getD e {}

def Block.modMce (b : Block) (e : Nat) (f : Mce → Mce) : Block := { b with mces := b.mces.put e (f (b.mce e)) }

/-! ## Region table -/

def Block.region (b : Block) (r : Nat) : RegionEntry := b.regions.table.getD r {}

def Block.setRegion (b : Block) (r : Nat) (e : RegionEntry) : Block :=
  { b with
    regions :=
      { b.regions with
        table := if e.mode = .none ∧ !e.binding then Tab.del b.regions.table r else Tab.put b.regions.table r e } }

/-- Whether requests find a region bound (R127 check 1, R150). -/
def RegionEntry.bound (e : RegionEntry) : Bool := e.mode ≠ .none ∧ e.mode ≠ .companion ∧ !e.binding

/-- The KEYSET handle at an index; 0 is empty (R122). -/
def RegionEntry.key (e : RegionEntry) (i : Nat) : Nat := (e.keyset.getD i 0).toNat

/-- The 32 bytes of an entry (R122, R155). -/
def RegionEntry.bytes (e : RegionEntry) : Bytes :=
  toLe 1 e.mode.code ++ toLe 1 e.ownerFn.toNat ++ toLe 2 e.ownerCtx.toNat ++ toLe 1 e.threshold.toNat ++
  toLe 1 e.failCount.toNat ++ toLe 2 (bit e.tripped + 2 * bit e.ctxwide + 4 * bit e.generator) ++
  ((List.range 8).map fun i => toLe 2 (e.key i)).flatten ++
  toLe 1 (e.old.toNat + 8 * e.new.toNat + 64 * bit e.rekeying + 128 * bit e.redirect) ++ toLe 7 0

/-- A region can hold a function's fences: a tier-0 SEALED region of the function, CTXWIDE (R305). -/
def Block.fenceHome (b : Block) (fn r : Nat) : Bool :=
  let e := b.region r
  e.bound && e.mode = .sealed && (b.build.regionTier r).any (fun t => !t.one) && e.ownerFn.toNat = fn && e.ctxwide

/-- A region is a fence region of its owner: it can hold its fences, KEYSET entry 0 is present, and the owner's
CX_FN_FENCE_REGION names it (R305). -/
def Block.fenceOk (b : Block) (fn r : Nat) : Bool := b.fenceHome fn r && (b.region r).key 0 ≠ 0

/-- A byte of a fence region shows a live fence, or a page that is mapped (R305, R354, R355). -/
def fenceInUse (r : Nat) (c : Host.Cell) : Bool :=
  let o := c.1 % 2 ^ 28
  c.1 / 2 ^ 28 = r &&
  ((o < 0x10_0000 && o % 16 = 8 && c.2 = 1) || (0x10_0000 ≤ o && o < 0x90_0000 && o % 8 = 0 && c.2.getLsbD 0))

/-- A fence of the function is live, or a page of it is mapped: CX_FN_FENCE_REGION keeps its value (R305, R354). -/
def Block.fenceLocked (b : Block) (mem : List Host.Cell) (f : Nat) : Bool :=
  b.fenceHome f (b.fn f).fenceRegion.toNat && mem.any (fenceInUse (b.fn f).fenceRegion.toNat)

def Block.isFenceRegion (b : Block) (r : Nat) : Bool :=
  b.fenceOk (b.region r).ownerFn.toNat r && (b.fn (b.region r).ownerFn.toNat).fenceRegion.toNat = r

/-- A region is the state region of a job (R183). -/
def Block.isStateRegion (b : Block) (r : Nat) : Bool := b.jobs.any fun j => j.2.stateRegion = some r

/-- A region holds the anchor banks of a reduction that has not finished (R221, R225). -/
def Block.isAnchorRegion (b : Block) (r : Nat) : Bool := b.reductions.any fun k => k.2.anchor = r

/-- `mreq_*` fails check 2 for these regions (R167, R184, R221, R305). -/
def Block.hostShut (b : Block) (r : Nat) : Bool :=
  (b.region r).generator || b.isFenceRegion r || b.isStateRegion r || b.isAnchorRegion r

/-- Whether a context passes check 2 of R127 for an entry. -/
def Block.ctxOk (b : Block) (e : RegionEntry) (ctx : Nat) : Bool :=
  b.ctxFn ctx = some e.ownerFn.toNat && (e.ctxwide || e.ownerCtx.toNat = ctx)

/-! ## Region caches -/

/-- The entry as an MCE sees it: its cache, or the table (R152). Unbound entries are not cached. -/
def Block.mceEntry (b : Block) (e r : Nat) : RegionEntry :=
  match (b.mce e).regions.find? fun x => x.1 = r with
  | some x => x.2
  | none => b.region r

/-- A region cache takes an entry, displacing beyond 64 the one unused longest. -/
def Block.cacheRegion (b : Block) (e r : Nat) : Block :=
  if (b.mceEntry e r).bound then
    b.modMce e fun m => { m with regions := ((r, b.mceEntry e r) :: m.regions.filter fun x => x.1 ≠ r).take 64 }
  else b

/-- Orders every MCE to drop a region entry, for an unbind, trip or rekey start (R151, R152). -/
def Block.dropRegion (b : Block) (r : Nat) (cmd : Option Nat) : Block :=
  { b with
    mces := (List.range b.build.mces).foldl
      (fun t e => Tab.mod t e {} fun m => { m with regionDrops := m.regionDrops ++ [r] }) b.mces
    regions :=
      { b.regions with
        drops := b.regions.drops ++ [({ region := r, cmd := cmd, mces := List.range b.build.mces } : RegionDrop)] } }

/-- Entries in region caches follow the table without an order (a rekey's end). -/
def Block.refreshRegion (b : Block) (r : Nat) : Block :=
  { b with
    mces := (Tab.keys b.mces).foldl
      (fun t e => Tab.upd t e fun m => { m with regions := m.regions.filter fun x => x.1 ≠ r }) b.mces }

/-! ## Serving keys -/

/-- The KEYSET handle that serves a request naming a handle, for channel-local line n of MCE e (R120, R129). -/
def Block.servingSlot (b : Block) (entry : RegionEntry) (r e n h : Nat) : Nat :=
  let old := entry.key entry.old.toNat
  let new := entry.key entry.new.toNat
  if entry.rekeying ∧ (h = old ∨ h = new) then
    if n < (((b.regions.rekeys.getD r { cmd := none, next := [] }).next).getD e 0) then new else old
  else if entry.redirect ∧ h = old then new else h

/-- The handles to try on a line that no request names: the KEYSET in index order, each as it serves (R146, R466). -/
def Block.tryKeys (b : Block) (entry : RegionEntry) (r e n : Nat) : List Nat :=
  (((List.range 8).map entry.key).filter (· ≠ 0)).map (b.servingSlot entry r e n) |>.eraseDups

/-! ## Trips and integrity failures -/

/-- A region trips: every MCE drops its entry, and TRIP goes to the owner (R159, R461, R465). -/
def Block.trip (b : Block) (r engine : Nat) : Block :=
  let e := b.region r
  ((b.setRegion r { e with tripped := true }).dropRegion r none).raise
    { code := 0x12, engine := engine, fn := e.ownerFn.toNat, ctx := e.ownerCtx.toNat, data := [(0, r)] }
    [e.ownerFn.toNat]

/-- FAIL_COUNT rises, holding at 255, and the region trips when it reaches the threshold (R158, R159). -/
def Block.countFailure (b : Block) (r engine : Nat) : Block :=
  let e := b.region r
  let n := min (e.failCount.toNat + 1) 255
  let b := b.setRegion r { e with failCount := BitVec.ofNat 8 n }
  if n = e.threshold.toNat ∧ !e.tripped ∧ e.bound then b.trip r engine else b

/-- The alarm and event of an integrity failure (R158, R466). -/
def Block.integrity (b : Block) (engine a fn ctx byRake : Nat) : Block :=
  b.alarm 0 { code := 0x10, engine := engine, fn := fn, ctx := ctx,
              data := [(0, a), (8, regionOf a), (10, byRake)] } (ownerAndPf fn)

/-! ## Checks -/

/-- R127 in order, up to check 5. `host` is set for `mreq_*`; a remote access makes its job check in place of check 2
(R128). -/
def Block.regionCheck (b : Block) (entry : RegionEntry) (host : Bool) (remote : Bool) (a ctx : Nat) (narrow : Bool)
    (key : Nat) : Status :=
  if (b.build.dataTier a).isNone || !entry.bound then .badOperand
  else if host && b.hostShut (regionOf a) then .badOperand
  else if !remote && !b.ctxOk entry ctx then .badOperand
  else if entry.tripped then .locked
  else if narrow ≠ (entry.mode = .narrow) then .badOperand
  else if key = 0 || !((List.range 8).any fun i => entry.key i = key) then .noKey
  else .ok

/-- A request that failed check 5 raises the alarm (R127, R461). -/
def Block.keysetMiss (b : Block) (e a fn ctx key : Nat) : Block :=
  b.alarm 1 { code := 0x13, engine := e, fn := fn, ctx := ctx, data := [(0, a), (8, key)] } (ownerAndPf fn)

end Sys2Proof.Machine
end

