-- ==== Sys2Proof/Machine/Channel.lean ====
section
/-! DEFINITION. What one memory channel engine does to lines: controller accesses under credit, the tag sector buffer,
the counter caches and trees, reading, writing and poisoning a line (R36 to R38, R137 to R149, R158 to R163, R467). -/

namespace Sys2Proof.Machine

open Sys2Proof Sys2Proof.Machine.Crypto

/-! ## Controller accesses -/

/-- The tag that the next command at the controller carries: the lowest that no read holds (R36; log 121). -/
def Mce.freeTag (m : Mce) : Nat :=
  ((List.range 4096).find? fun k => !Tab.has m.reads k && !List.contains m.quarantine k).getD 0

/-- The code of a controller length is its position; here it is the byte count (R36). -/
def Block.mctlIssue (b : Block) (e : Nat) (o : MctlOut) : Block :=
  let b := b.modMce e fun m => { m with ctlA := m.ctlA - 1, ctlW := if o.write then m.ctlW - 1 else m.ctlW }
  let b := if o.write then b.emit (.mctlWrite e o.addr o.len (b.mce e).freeTag o.data) else b.emit (.mctlRead e o.addr o.len o.tag)
  match o.answer with
  | some (tag, st) => b.emit (.mreqD e tag st 0)
  | none => b

/-- Presents an access, or holds it behind those that wait for controller credit (R37). -/
def Block.mctlPresent (b : Block) (e : Nat) (o : MctlOut) : Block :=
  if (b.mce e).held.isEmpty && 0 < (b.mce e).ctlA && (!o.write || 0 < (b.mce e).ctlW) then b.mctlIssue e o
  else b.modMce e fun m => { m with held := m.held ++ [o] }

/-- A read that is issued and answered within one step takes an A credit, if there is one (R36, R37; log 121). -/
def Block.mctlFetch (b : Block) (e a len : Nat) : Block :=
  (b.modMce e fun m => { m with ctlA := m.ctlA - 1 }).emit (.mctlRead e a len (b.mce e).freeTag)

/-- What was read from bytes that are written is out of date: it is read again (R38). -/
def Mce.voidAddr (m : Mce) (a len : Nat) : Mce :=
  { m with
    reqs := m.reqs.map fun q => { q with back := q.back.filter fun p => !overlaps p.addr p.len a len }
    reads := m.reads.map fun r => if overlaps r.2.addr r.2.len a len then (r.1, { r.2 with req := none }) else r }

/-- A write of `len` bytes at a protected address. -/
def Block.mctlWrite (b : Block) (e a len data : Nat) : Block :=
  (b.modMce e fun m => m.voidAddr a len).mctlPresent e { write := true, addr := a, len := len, data := BitVec.ofNat 2048 (data % 2 ^ (8 * len)) }

/-! ## Tag sectors -/

def Mce.sector (m : Mce) (a : Nat) : Option TagSector := m.tags.find? fun t => t.addr = a

/-- Changes the buffered sector at an address. -/
def Mce.modSector (m : Mce) (a : Nat) (f : TagSector → TagSector) : Mce :=
  { m with tags := m.tags.map fun t => if t.addr = a then f t else t }

/-- Writes out the sectors beyond the sixteenth that have changed (R149). -/
def Block.spillTags (b : Block) (e : Nat) : List TagSector → Block
  | [] => b
  | t :: r =>
    (if t.dirty then b.mctlWrite e t.addr 32 t.data.toNat else b).spillTags e r

/-- The tag sector at an address is in the buffer: it was, or it enters the buffer of the last 16 as the controller returned
it; one that the controller could not correct has lost its tags (R149, R162). -/
def Block.takeSector (b : Block) (e a : Nat) (err : Bool) (data : BitVec 256) : Block :=
  if ((b.mce e).sector a).isSome then b
  else
    let t : TagSector := if err then { addr := a, data := 0, dirty := false, lost := 0xFF } else { addr := a, data := data, dirty := false }
    (b.modMce e fun m => { m with tags := t :: m.tags.take 15 }).spillTags e ((b.mce e).tags.drop 15)

/-- A tag of n bytes in a sector. -/
def sectorTag (s : BitVec 256) (off n : Nat) : Nat := fld s.toNat (8 * off) (8 * n)

/-- A sector with a tag of n bytes replaced. -/
def setSectorTag (s : BitVec 256) (off n v : Nat) : BitVec 256 :=
  BitVec.ofNat 256 (s.toNat - (sectorTag s off n) <<< (8 * off) + (v % 2 ^ (8 * n)) <<< (8 * off))

/-- The marks of the 4-byte slots under a tag of n bytes. -/
def slotMarks (off n : Nat) : Nat := (2 ^ (n / 4) - 1) <<< (off / 4)

/-- The tag of n bytes at a slot address in its buffered sector. -/
def Mce.tagOf (m : Mce) (slot n : Nat) : Nat := ((m.sector (slot / 32 * 32)).map fun t => sectorTag t.data (slot % 32) n).getD 0

/-- Whether the tag at a slot address is lost (R162). -/
def Mce.tagLost (m : Mce) (slot n : Nat) : Bool :=
  (m.sector (slot / 32 * 32)).any fun t => t.lost.toNat &&& slotMarks (slot % 32) n ≠ 0

/-- Stores a tag of n bytes at a slot address in its buffered sector (R149). -/
def Block.putTag (b : Block) (e slot n v : Nat) : Block :=
  b.modMce e fun m => m.modSector (slot / 32 * 32) fun t =>
    { t with data := setSectorTag t.data (slot % 32) n v, dirty := true
             lost := BitVec.ofNat 8 (t.lost.toNat - (t.lost.toNat &&& slotMarks (slot % 32) n)) }

/-! ## An access under way -/

/-- Lines of a channel being read or written: the engine, the region's owner, who asks, counter nodes that have been
fetched by level and index, lines and nodes still to come from the controller inside this step, stores of plaintext,
and how a lookup failed. -/
structure Nx where
  b : Block
  e : Nat
  t : Tier
  fn : Nat
  ctx : Nat := 0
  /-- The entry of the region, for the keys under which a poison tag may verify (R468). -/
  entry : RegionEntry := {}
  /-- Failures of a traffic generator's region raise nothing (R168). -/
  quiet : Bool := false
  given : List ((Nat × Nat) × NodeReturn) := []
  feed : List LineReturn := []
  stores : List Store1 := []
  status : Status := .ok
  highNode : Bool := false
  /-- A read made for siblings or an eviction has passed its deadline. -/
  late : Bool := false
  /-- Lines poisoned in this access, whose returned data is no longer what memory holds. -/
  poisoned : List Nat := []
  /-- Counters that started their minors over (R169). -/
  overflows : Nat := 0

def Nx.chan (x : Nx) : Nat := x.e - x.t.first

/-- The next line that the controller returns inside this step. -/
def Nx.nextLine (x : Nx) : LineReturn × Nx := (x.feed.headD {}, { x with feed := x.feed.tail })

/-- The access continues for another owner (R86, R158). -/
def Nx.actFor (x : Nx) (entry : RegionEntry) : Nx :=
  { x with fn := entry.ownerFn.toNat, ctx := entry.ownerCtx.toNat, entry := entry, quiet := entry.generator }

/-- The access goes on as it was after it acted for another owner. -/
def Nx.actAs (x y : Nx) : Nx := { x with fn := y.fn, ctx := y.ctx, entry := y.entry, quiet := y.quiet, status := y.status }

/-- A tier-1 read made inside this step passed its deadline: its tag is quarantined, and T1_TIMEOUT goes to the functions
named (R205, R207). -/
def Nx.tooLate (x : Nx) (a : Nat) (fns : List Nat) : Nx :=
  { x with
    late := true
    b := (x.b.modMce x.e fun m => { m with quarantine := m.quarantine ++ [m.freeTag], timeouts := m.timeouts + 1 }).raise
      { code := 0x24, engine := x.e, fn := x.fn, ctx := x.ctx, data := [(0, a)] } fns }

/-! ## Counter nodes -/

/-- The way groups that may hold a node of a tier-1 tree: 0 and 1 for levels 2 to 4; for leaves and level 1 the owner's
own groups, or else the shared ones (R86, R144, R491). -/
def Block.wayGroups (b : Block) (fn level : Nat) : List Nat :=
  if 2 ≤ level then [0, 1]
  else
    let use := b.ways.filter fun w => w.2.assigned
    let own := use.filter fun w => !w.2.shared ∧ w.2.fn.toNat = fn
    ((if own.isEmpty then use.filter fun w => w.2.shared else own).filter fun w => !w.2.busy).map (·.1)

def CachedNode.same (n : CachedNode) (tree : Option Nat) (k i : Nat) : Bool := n.tree = tree && n.level = k && n.index = i

def Mce.cached (m : Mce) (tree : Option Nat) (k i : Nat) : Option CachedNode := m.nodes.find? fun n => n.same tree k i

/-- Changes a cached node. -/
def Mce.modNode (m : Mce) (tree : Option Nat) (k i : Nat) (f : CachedNode → CachedNode) : Mce :=
  { m with nodes := m.nodes.map fun y => if y.same tree k i then f y else y }

/-- A node leaves the cache. -/
def Mce.dropNode (m : Mce) (tree : Option Nat) (k i : Nat) : Mce :=
  { m with nodes := m.nodes.filter fun y => !y.same tree k i }

/-- A node is put first. -/
def Mce.frontNode (m : Mce) (n : CachedNode) : Mce :=
  { m with nodes := n :: m.nodes.filter fun y => !y.same n.tree n.level n.index }

/-- Whether two nodes fall into one set (R144). -/
def sameSet (k i k' i' : Nat) : Bool := Config.counterCacheSet k i % 2048 = Config.counterCacheSet k' i' % 2048

/-- Nodes of a way group in the set of a node. -/
def Mce.inWays (m : Mce) (g k i : Nat) : List CachedNode :=
  m.nodes.filter fun n => n.tree.isNone && n.group = g && sameSet n.level n.index k i

/-- The way group that takes a node: the first with a free way, or else the first with a node to evict. The spec names no
policy (R144, R145; log 125). -/
def Mce.place (m : Mce) (groups : List Nat) (k i : Nat) : Option Nat :=
  match groups.find? fun g => (m.inWays g k i).length < 2 with
  | some g => some g
  | none => groups.find? fun g => (m.inWays g k i).any fun n => !n.withheld

/-- Puts a verified node into the cache, or the buffer of 16 for a tier-0 tree (R144, R149). -/
def Nx.install (x : Nx) (tree : Option Nat) (k i : Nat) (n : Node) : Nx :=
  match tree with
  | some _ =>
    { x with
      b := x.b.modMce x.e fun m =>
        m.frontNode { tree := tree, level := k, index := i, node := n, dirty := false, group := 8 } }
  | none =>
    match (x.b.mce x.e).place (x.b.wayGroups x.fn k) k i with
    | some g =>
      { x with
        b := x.b.modMce x.e fun m =>
          m.frontNode { tree := tree, level := k, index := i, node := n, dirty := false, group := g } }
    | none => x

/-- A lookup fails: with INTEGRITY_FAIL on a MAC, with POISONED on an uncorrectable error, which at level 2 or above
takes the whole-block rung (R158, R163). -/
def Nx.lose (x : Nx) (st : Status) (k : Nat) : Nx :=
  { x with status := st, highNode := x.highNode || (st = .poisoned && 2 ≤ k) }

/-- The protected address of a node. -/
def Nx.nodeAddr (x : Nx) (tree : Option Nat) (k i : Nat) : Nat := x.t.prot (x.t.nodeOff tree x.chan k i) x.chan

/-- What the controller returned for a node, or returns for it inside this step. -/
def Nx.fetchNode (x : Nx) (tree : Option Nat) (k i : Nat) : NodeReturn × Nx :=
  match x.given.find? fun g => g.1 = (k, i) with
  | some g => (g.2, x)
  | none =>
    let r := x.nextLine
    (r.1.nodes.headD {}, { r.2 with b := r.2.b.mctlFetch x.e (x.nodeAddr tree k i) 64 })

/-- The entry of the region of the first line that a node counts (R141, R143). -/
def Nx.entryUnder (x : Nx) (tree : Option Nat) (k i : Nat) : Nat × RegionEntry :=
  let a := x.t.lineAddr (((tree.map fun r => x.t.lineLo r x.chan).getD 0) + i * 64 ^ (k + 1)) x.chan
  (a, x.b.region (regionOf a))

/-- A node outside any request's own path fails its MAC: the alarm, the event and FAIL_COUNT go to the region of the first
line beneath it (R145, R146, R158; log 125). -/
def Nx.nodeFailed (x : Nx) (tree : Option Nat) (k i : Nat) : Nx :=
  let u := x.entryUnder tree k i
  if u.2.generator then x
  else
    { x with
      b := (x.b.integrity x.e u.1 u.2.ownerFn.toNat u.2.ownerCtx.toNat 0).countFailure (regionOf u.1) x.e }

/-- A node cannot be read: the controller returned it with an error, or its changed contents were lost (R163, R465). -/
def Nx.unreadable (x : Nx) (tree : Option Nat) (k i : Nat) (r : NodeReturn) : Bool :=
  r.err || List.contains (x.b.mce x.e).lost (tree, k, i)

/-- The node of level k and index i, verified from the root down as far as it is not cached; `f` levels lie above it
(R141, R145). -/
def Nx.get (tree : Option Nat) : Nat → Nx → Nat → Nat → Option Node × Nx
  | 0, x, _, _ => (some ((x.b.mce x.e).roots.getD (treeRoot tree) {}), x)
  | f + 1, x, k, i =>
    match (x.b.mce x.e).cached tree k i with
    | some n =>
      (some n.node, if tree.isSome then x else { x with b := x.b.modMce x.e fun m => m.frontNode n })
    | none =>
      match Nx.get tree f x (k + 1) (i / 64) with
      | (none, x) => (none, x)
      | (some p, x) =>
        let r := x.fetchNode tree k i
        if r.1.late && x.t.one then (none, r.2.lose .timeout k)
        else if r.2.unreadable tree k i r.1 then (none, r.2.lose .poisoned k)
        else if !nodeOk (x.b.mce x.e).treeKey (x.t.nodeOff tree x.chan k i) k x.e (p.counter (i % 64)) r.1.node then
          (none, r.2.lose .integrityFail k)
        else (some (Node.ofStored r.1.node), r.2.install tree k i (Node.ofStored r.1.node))

/-- The node of level k: all levels above it. -/
def Nx.node (x : Nx) (tree : Option Nat) (k i : Nat) : Option Node × Nx := Nx.get tree (treeLevels tree - k) x k i

/-- Writes a node with its MAC under its parent's counter (R142); a node written anew is lost no longer (R163). -/
def Nx.writeNode (x : Nx) (tree : Option Nat) (k i : Nat) (n : Node) (parentCtr : Nat) : Nx :=
  let u := x.t.nodeOff tree x.chan k i
  let s := n.stored (nodeMac (x.b.mce x.e).treeKey u k x.e parentCtr n)
  { x with
    b := (x.b.mctlWrite x.e (x.t.prot u x.chan) 64 s.toNat).modMce x.e fun m =>
      { m with lost := m.lost.filter fun l => l ≠ (tree, k, i) }
    given := ((k, i), { node := s }) :: x.given.filter fun g => g.1 ≠ (k, i) }

/-- A sibling node after its parent started its minors over: re-MACed under its new count, or left and reported
(R146). -/
def Nx.remac (x : Nx) (tree : Option Nat) (k i : Nat) (oldCtr newCtr : Nat) : Nx :=
  match (x.b.mce x.e).cached tree k i with
  | some n =>
    { x.writeNode tree k i n.node newCtr with
      b := (x.writeNode tree k i n.node newCtr).b.modMce x.e fun m =>
        m.modNode tree k i fun y => { y with dirty := false } }
  | none =>
    let r := x.fetchNode tree k i
    let x := r.2
    if r.1.late && x.t.one then { x with late := true }
    else if x.unreadable tree k i r.1 then { x with highNode := x.highNode || 2 ≤ k }
    else if !nodeOk (x.b.mce x.e).treeKey (x.t.nodeOff tree x.chan k i) k x.e oldCtr r.1.node then x.nodeFailed tree k i
    else x.writeNode tree k i (Node.ofStored r.1.node) newCtr

/-- Nodes that a level of a tree has. -/
def Tier.levelCount (t : Tier) (tree : Option Nat) (k : Nat) : Nat :=
  if tree.isNone then t.cnt k else ceilDiv (2 ^ 28 / t.chans / 128) (64 ^ (k + 1))

/-- Re-MACs the siblings of child i0 of the node of index pi at level k + 1 (R146). -/
def Nx.remacAll (tree : Option Nat) (k pi i0 : Nat) (old : Node) (new : Node) : List Nat → Nx → Nx
  | [], x => x
  | j :: r, x =>
    if j = i0 ∨ x.t.levelCount tree k ≤ 64 * pi + j then Nx.remacAll tree k pi i0 old new r x
    else Nx.remacAll tree k pi i0 old new r (x.remac tree k (64 * pi + j) (old.counter j) (new.counter j))

/-- Puts a changed node: into the cache as dirty, or, when it is not cached, to memory at once with its count raised in
its parent. Else the status that stops it: CTR_EXHAUSTED when a MAJOR would reach its limit, or how a node above failed
(R145 to R147). -/
def Nx.put (tree : Option Nat) : Nat → Nx → Nat → Nat → Node → Except (Status × Nx) Nx
  | 0, x, _, _, n => .ok { x with b := x.b.modMce x.e fun m => { m with roots := Tab.put m.roots (treeRoot tree) n } }
  | f + 1, x, k, i, n =>
    match (x.b.mce x.e).cached tree k i with
    | some y =>
      .ok { x with
        b := x.b.modMce x.e fun m =>
          if tree.isSome then m.modNode tree k i fun z => { z with node := n, dirty := true }
          else m.frontNode { y with node := n, dirty := true } }
    | none =>
      match Nx.get tree f x (k + 1) (i / 64) with
      | (none, y) => .error (y.status, y)
      | (some p, x) =>
        match p.lift (i % 64) with
        | none => .error (.ctrExhausted, x)
        | some (p', again) =>
          match Nx.put tree f x (k + 1) (i / 64) p' with
          | .error e => .error e
          | .ok x =>
            let x := x.writeNode tree k i n (p'.counter (i % 64))
            .ok (if again then
                { Nx.remacAll tree k (i / 64) (i % 64) p p' (List.range 64) x with overflows := x.overflows + 1 }
              else x)

/-- Whether a cached node must leave: its ways hold more than two, or the tier-0 buffer more than sixteen. -/
def Mce.overfull (m : Mce) (n : CachedNode) : Bool :=
  !n.withheld &&
    (if n.tree.isNone then 2 < (m.inWays n.group n.level n.index).length
     else 16 < (m.nodes.filter fun y => y.tree.isSome).length)

/-- The eviction of a dirty node in the name of its lines' owner: its count rises in its parent, whose loss drops it unwritten
and whose exhaustion withholds its way; while a read for it is late the node stays as it was (R86, R145). -/
def Nx.writeBack (x : Nx) (v : CachedNode) : Nx :=
  let out (y : Nx) : Nx := { y with b := y.b.modMce y.e fun m => m.dropNode v.tree v.level v.index }
  let up := treeLevels v.tree - v.level - 1
  let stop (y : Nx) : Status → Nx
    | .timeout => { x with feed := y.feed }.tooLate (x.nodeAddr v.tree (v.level + 1) (v.index / 64)) [0]
    | .ctrExhausted =>
      { y with b := y.b.modMce y.e fun m => m.modNode v.tree v.level v.index fun z => { z with withheld := true } }
    | .integrityFail => (out y).nodeFailed v.tree v.level v.index
    | _ => out y
  match Nx.get v.tree up x (v.level + 1) (v.index / 64) with
  | (none, y) => stop y y.status
  | (some p, y) =>
    match p.lift (v.index % 64) with
    | none => stop y .ctrExhausted
    | some (p', again) =>
      match Nx.put v.tree up y (v.level + 1) (v.index / 64) p' with
      | .error (st, y) => stop y st
      | .ok y =>
        let y := (out y).writeNode v.tree v.level v.index v.node (p'.counter (v.index % 64))
        let y := if again then Nx.remacAll v.tree v.level (v.index / 64) (v.index % 64) p p' (List.range 64) y else y
        if y.late then stop y .timeout else y

/-- Takes a node out of the caches (R145). -/
def Nx.evict (x : Nx) (v : CachedNode) : Nx :=
  if v.dirty then
    (({ x with status := .ok, late := false }.actFor (x.entryUnder v.tree v.level v.index).2).writeBack v).actAs x
  else { x with b := x.b.modMce x.e fun m => m.dropNode v.tree v.level v.index }

/-- Evicts nodes, least recently used first, until every set fits or a read for an eviction is late; a later access tries
that one again (R144, R145, R149; log 125). -/
def Nx.trim : Nat → Nx → Nx
  | 0, x => x
  | f + 1, x =>
    match if x.late then none else (x.b.mce x.e).nodes.reverse.find? (x.b.mce x.e).overfull with
    | none => x
    | some v => Nx.trim f (x.evict v)

/-! ## Poison -/

/-- POISON goes to the owner and the PF (R467). -/
def Nx.poisonEvent (x : Nx) (a byRake : Nat) : Nx :=
  if x.quiet then x
  else { x with b := x.b.raise { code := 0x11, engine := x.e, fn := x.fn, ctx := x.ctx,
                                 data := [(0, a), (8, regionOf a), (10, byRake)] } (ownerAndPf x.fn) }

/-- The address of the tag slot of sector s of the line at `a` (R137, R138). -/
def Tier.sectorSlot (t : Tier) (a s : Nat) : Nat :=
  (if s < 2 then t.tagAddr a else t.tagAddr (companionOf a)) + 4 * (s % 2)

/-- Stores a tag; its sector is fetched inside this step when the buffer lacks it (R149). -/
def Nx.putTag (x : Nx) (slot n v : Nat) : Nx :=
  let a := slot / 32 * 32
  if ((x.b.mce x.e).sector a).isSome then { x with b := x.b.putTag x.e slot n v }
  else
    let r := x.nextLine
    { r.2 with b := ((r.2.b.mctlFetch x.e a 32).takeSector x.e a r.1.tagErr r.1.tag).putTag x.e slot n v }

/-- A unit's stored data is written, with its tag. -/
def Nx.putData (x : Nx) (a len data slot n v : Nat) : Nx := { x with b := x.b.mctlWrite x.e a len data }.putTag slot n v

/-- Stores a sector as poisoned (R160). -/
def Nx.poisonSector (x : Nx) (key : BitVec 512) (a s : Nat) : Nx :=
  x.putData (a + 32 * s) 32 0 (x.t.sectorSlot a s) 4 (Sealing.tag { mode := .narrow, key := key, addr := a + 32 * s } 0 true)

/-- Stores a line as poisoned, under a given line counter where it has one (R160). -/
def Nx.poisonStore (x : Nx) (mode : Mode) (key : BitVec 512) (a ctr : Nat) : Nx :=
  if mode = .narrow then (((x.poisonSector key a 0).poisonSector key a 1).poisonSector key a 2).poisonSector key a 3
  else x.putData a 128 0 (x.t.tagAddr a) 8 (Sealing.tag { mode := mode, key := key, addr := a, ctr := ctr } 0 true)

/-- How a line stands when its leaf starts its minors over. -/
inductive Seen where
  | none
  | err
  | plain (key : BitVec 512) (x : Nat)
  | poison (key : BitVec 512)

/-- Tries keys on a stored SEALED_REPLAY line (R146). -/
def seenUnder (a ct tag ctr : Nat) : List (BitVec 512) → Seen
  | [] => .none
  | k :: r =>
    match Sealing.open1 { mode := .replay, key := k, addr := a, ctr := ctr } ct tag with
    | .plain x => .plain k x
    | .poisoned => .poison k
    | .bad => seenUnder a ct tag ctr r

/-- The schedules of the keys to try on a line of a region (R146, R466). -/
def Block.tryMaterial (b : Block) (entry : RegionEntry) (r e n : Nat) : List (BitVec 512) :=
  (b.tryKeys entry r e n).filterMap fun h =>
    match (b.useKey e h entry.ownerFn.toNat entry.ownerCtx.toNat 0).1 with
    | .ok k => some k.key
    | .error _ => none

/-- The schedule of KEYSET entry 0, under which a line that no request names is poisoned; none while the entry is empty or
its key is gone (R467). -/
def Nx.firstKey (x : Nx) (entry : RegionEntry) : Option (BitVec 512) × Nx :=
  if entry.key 0 = 0 then (none, x)
  else
    match x.b.useKey x.e (entry.key 0) entry.ownerFn.toNat entry.ownerCtx.toNat 0 with
    | (.ok k, b) => (some k.key, { x with b := b })
    | (.error _, b) => (none, { x with b := b })

/-- Takes a line with its stored data from its old counter to its new one under the key that it verifies under; a line
that verifies under none raises the alarm when `alarm` is set, else it is left (R146, R501). -/
def Nx.carry (x : Nx) (alarm : Bool) (a oldCtr newCtr : Nat) (r : LineReturn) : Nx :=
  let entry := x.b.region (regionOf a)
  let keys := x.b.tryMaterial entry (regionOf a) x.e (x.t.loc a / 128)
  let x := { x with b := x.b.takeSector x.e (x.t.tagAddr a / 32 * 32) r.tagErr r.tag }
  let seen := if r.err || (x.b.mce x.e).tagLost (x.t.tagAddr a) 8 then Seen.err
    else seenUnder a r.data.toNat ((x.b.mce x.e).tagOf (x.t.tagAddr a) 8) oldCtr keys
  match seen with
  | .plain k p =>
    let sl : Sealing := { mode := .replay, key := k, addr := a, ctr := newCtr }
    x.putData a 128 (sl.enc p) (x.t.tagAddr a) 8 (sl.tag (sl.enc p) false)
  | .poison k => x.poisonStore .replay k a newCtr
  | .err =>
    if alarm then
      match x.firstKey entry with
      | (some k, y) => (((y.poisonStore .replay k a newCtr).actFor entry).poisonEvent a 1).actAs y
      | (none, y) => y
    else x
  | .none =>
    if alarm then { x with b := x.b.integrity x.e a entry.ownerFn.toNat entry.ownerCtx.toNat 1 } else x

/-- A line read inside this step: its data, and its tag sector when the buffer lacks it (R36, R149). -/
def Nx.fetchLine (x : Nx) (a : Nat) : LineReturn × Nx :=
  let r := x.nextLine
  let s := x.t.tagAddr a / 32 * 32
  let b := r.2.b.mctlFetch x.e a 128
  (r.1, { r.2 with b := if ((b.mce x.e).sector s).isSome then b else b.mctlFetch x.e s 32
                   late := x.late || (r.1.late && x.t.one) })

/-- Re-seals one sibling line from its old counter to its new one (R146). -/
def Nx.reseal (x : Nx) (a oldCtr newCtr : Nat) : Nx :=
  if (x.b.region (regionOf a)).mode ≠ .replay ∨ x.t.cu ≤ x.t.loc a then x
  else (x.fetchLine a).2.carry true a oldCtr newCtr (x.fetchLine a).1

/-- Re-seals the siblings of line i0 of a leaf (R146). -/
def Nx.resealAll (base i0 : Nat) (old new : Node) (addr : Nat → Nat) : List Nat → Nx → Nx
  | [], x => x
  | j :: r, x =>
    if j = i0 then Nx.resealAll base i0 old new addr r x
    else Nx.resealAll base i0 old new addr r (x.reseal (addr (base + j)) (old.counter j) (new.counter j))

/-- Raises the counter of a SEALED_REPLAY line: the new counter, or the status that stops it; a late read of a sibling stops
it with nothing changed (R146, R147, R207). -/
def Nx.raiseLine (x : Nx) (a : Nat) : Except Status Nat × Nx :=
  let tr := x.t.treeOf a
  match x.node tr.1 0 (tr.2 / 64) with
  | (none, x) => (.error x.status, x)
  | (some leaf, x) =>
    match leaf.lift (tr.2 % 64) with
    | none => (.error .ctrExhausted, x)
    | some (leaf', again) =>
      match Nx.put tr.1 (treeLevels tr.1) x 0 (tr.2 / 64) leaf' with
      | .error (st, y) => (.error st, y)
      | .ok y =>
        let first := x.t.loc a / 128 - tr.2
        let y := if again then
            { Nx.resealAll (tr.2 / 64 * 64) (tr.2 % 64) leaf leaf' (fun n => x.t.lineAddr (first + n) x.chan) (List.range 64) y with
              overflows := y.overflows + 1 }
          else y
        if y.late then (.error .timeout, { x with feed := y.feed }) else (.ok (leaf'.counter (tr.2 % 64)), y)

/-- Poisons a line under a key with its event; a SEALED_REPLAY line whose counter cannot be raised is left unmarked
(R467). -/
def Nx.poisonLine (x : Nx) (mode : Mode) (key : BitVec 512) (a byRake : Nat) : Nx :=
  let x := { x with poisoned := a :: x.poisoned }
  if mode = .replay then
    match x.raiseLine a with
    | (.ok ctr, y) => (y.poisonStore mode key a ctr).poisonEvent a byRake
    | (.error _, y) => y
  else (x.poisonStore mode key a 0).poisonEvent a byRake

/-- The tag slots of a line, or of one sector of a SEALED_NARROW line, each with its bytes (R137, R138). -/
def Tier.slots (t : Tier) (mode : Mode) (a : Nat) (sector : Option Nat) : List (Nat × Nat) :=
  if mode = .narrow then (match sector with
    | some s => [s]
    | none => [0, 1, 2, 3]).map fun s => (t.sectorSlot a s, 4)
  else [(t.tagAddr a, 8)]

/-- Whether a tag that a line needs is lost. -/
def Nx.tagGone (x : Nx) (mode : Mode) (a : Nat) (sector : Option Nat) : Bool :=
  (x.t.slots mode a sector).any fun s => (x.b.mce x.e).tagLost s.1 s.2

/-- Poisons a line whose tag lay in a sector that could not be read: under the key that found the error in that key's region,
elsewhere as the rake does (R162, R467). -/
def Nx.poisonMate (x : Nx) (mode : Mode) (key : BitVec 512) (r byRake a : Nat) : Nx :=
  let entry := x.b.region (regionOf a)
  if x.t.cu ≤ x.t.loc a then x
  else if regionOf a = r then (if x.tagGone mode a none then x.poisonLine mode key a byRake else x)
  else if !entry.bound || entry.mode = .scramble || !x.tagGone entry.mode a none then x
  else
    match x.firstKey entry with
    | (some k, y) => ((y.actFor entry).poisonLine entry.mode k a 1).actAs y
    | (none, y) => y

/-- Poisons every line of a list whose tag is lost (R162). -/
def Nx.poisonGroup (mode : Mode) (key : BitVec 512) (r byRake : Nat) : List Nat → Nx → Nx
  | [], x => x
  | a :: l, x => Nx.poisonGroup mode key r byRake l (x.poisonMate mode key r byRake a)

/-- The four lines whose tag slots share a sector with the line at `a`. -/
def Tier.tagMates (t : Tier) (a : Nat) : List Nat :=
  (List.range 4).map fun j => t.lineAddr (t.loc a / 128 / 4 * 4 + j) (t.chan a)

/-- The lines, each in the region that addresses it, whose tags a buffered sector has lost (R137, R138, R162). -/
def Nx.lostLines (x : Nx) : List Nat :=
  (((x.b.mce x.e).tags.filter fun t => t.lost ≠ 0).map fun t =>
    (List.range 4).map fun j =>
      let a := x.t.lineAddr ((x.t.loc t.addr - x.t.tu) / 8 + j) x.chan
      if (x.b.region (regionOf a)).mode = .companion then companionOf a else a).flatten

/-- Lines whose tags were lost while the access was about others are poisoned as the rake does (R162, R467). -/
def Nx.settleLost (x : Nx) : Nx := x.lostLines.foldl (fun x a => x.poisonMate .none 0 (2 ^ 14) 1 a) x

/-! ## Reading a line or sector -/

/-- A tag or node failed: the alarm, the event, FAIL_COUNT (R158); a read that was late is counted and reported (R207); a
generator's region raises nothing (R168). -/
def Nx.failed (x : Nx) (a : Nat) (st : Status) : Nx :=
  if x.quiet then x
  else if st = .integrityFail then { x with b := (x.b.integrity x.e a x.fn x.ctx 0).countFailure (regionOf a) x.e }
  else if st = .timeout then x.tooLate a (ownerAndPf x.fn)
  else x

/-- Whether sectors j of a SEALED_NARROW line are wanted: all of a line, or one. -/
def narrowUnits (sector : Option Nat) : List Nat :=
  match sector with
  | some s => [s]
  | none => [0, 1, 2, 3]

/-- The schedules of a KEYSET (R468). -/
def Block.keysetMaterial (b : Block) (entry : RegionEntry) (e : Nat) : List (BitVec 512) :=
  (((List.range 8).map entry.key).filter (· ≠ 0)).filterMap fun h =>
    match (b.useKey e h entry.ownerFn.toNat entry.ownerCtx.toNat 0).1 with
    | .ok k => some k.key
    | .error _ => none

/-- A unit opened under its serving key, or found poisoned under any key of the KEYSET (R161, R468). -/
def Nx.openUnit (x : Nx) (s : Sealing) (ct tag : Nat) : Opened :=
  match s.open1 ct tag with
  | .bad =>
    if (x.b.keysetMaterial x.entry x.e).any fun k => ({ s with key := k } : Sealing).tag ct true = tag then .poisoned
    else .bad
  | o => o

/-- Opens the wanted sectors of a SEALED_NARROW line: the first bad one, else their plaintext in place. The spec does not say
which of several bad sectors gives the answer (R161; log 112). -/
def Nx.openSectors (x : Nx) (key : BitVec 512) (a data : Nat) : List Nat → Except (Opened × Nat) Nat
  | [] => .ok 0
  | s :: r =>
    match x.openUnit { mode := .narrow, key := key, addr := a + 32 * s } (fld data (256 * s) 256)
        ((x.b.mce x.e).tagOf (x.t.sectorSlot a s) 4) with
    | .plain p =>
      match x.openSectors key a data r with
      | .ok q => .ok (p <<< (256 * s) + q)
      | .error o => .error o
    | o => .error (o, s)

/-- The tag sectors of a line, or of one sector of it, come into the buffer (R138, R149). -/
def Nx.takeSectors (x : Nx) (mode : Mode) (a : Nat) (sector : Option Nat) (ret : LineReturn) : Nx :=
  let one := !(mode = .narrow && sector.any fun s => 2 ≤ s)
  let two := mode = .narrow && !(sector.any fun s => s < 2)
  let b := if one then x.b.takeSector x.e (x.t.tagAddr a / 32 * 32) ret.tagErr ret.tag else x.b
  { x with b := if two then b.takeSector x.e (x.t.tagAddr (companionOf a) / 32 * 32) ret.tag2Err ret.tag2 else b }

/-- Reads the line at `a`, or one sector of it in SEALED_NARROW, with what the controller returned: the status and the
plaintext in place (R130 to R134, R158 to R163). -/
def Nx.readLine (x : Nx) (mode : Mode) (key : BitVec 512) (a : Nat) (sector : Option Nat) (ret : LineReturn) :
    Status × Nat × Nx :=
  let m := x.b.mce x.e
  let good (p : Nat) (y : Nx) : Status × Nat × Nx := (.ok, p, { y with b := y.b.count 0 mode.code 1 })
  if List.contains x.poisoned a then (.poisoned, 0, x)
  else if ret.late && x.t.one then (.timeout, 0, x.failed a .timeout)
  else if mode = .scramble then
    if ret.err then (.poisoned, 0, x)
    else good (scramble a m.k0.toNat m.k1.toNat 16 ret.data.toNat) x
  else
    let x := x.takeSectors mode a sector ret
    if x.tagGone mode a sector then (.poisoned, 0, Nx.poisonGroup mode key (regionOf a) 0 (x.t.tagMates a) x)
    else if ret.err then (.poisoned, 0, x.poisonLine mode key a 0)
    else if mode = .narrow then
      match x.openSectors key a ret.data.toNat (narrowUnits sector) with
      | .ok p => good p x
      | .error (.poisoned, _) => (.poisoned, 0, x)
      | .error (_, s) => (.integrityFail, 0, x.failed (a + 32 * s) .integrityFail)
    else
      let tr := x.t.treeOf a
      let leaf := if mode = .replay then x.node tr.1 0 (tr.2 / 64) else (some {}, x)
      match leaf with
      | (none, y) => (y.status, 0, y.failed a y.status)
      | (some l, y) =>
        match y.openUnit { mode := mode, key := key, addr := a, ctr := if mode = .replay then l.counter (tr.2 % 64) else 0 }
            ret.data.toNat ((y.b.mce y.e).tagOf (x.t.tagAddr a) 8) with
        | .plain p => good p y
        | .poisoned => (.poisoned, 0, y)
        | .bad => (.integrityFail, 0, y.failed a .integrityFail)

/-! ## Writing a line or sector -/

/-- Writes sectors of a SEALED_NARROW line. -/
def Nx.writeSectors (key : BitVec 512) (a data : Nat) : List Nat → Nx → Nx
  | [], x => x
  | s :: r, x =>
    let sl : Sealing := { mode := .narrow, key := key, addr := a + 32 * s }
    let ct := sl.enc (fld data (256 * s) 256)
    Nx.writeSectors key a data r (x.putData (a + 32 * s) 32 ct (x.t.sectorSlot a s) 4 (sl.tag ct false))

/-- The bytes that a write stores, in plaintext. -/
def lineStore (a data : Nat) (sector : Option Nat) : Store1 :=
  match sector with
  | some s => (a + 32 * s, toLe 32 (fld data (256 * s) 256))
  | none => (a, toLe 128 data)

/-- Makes the tag sectors of a write present; one that could not be read poisons the lines it serves but for a line that is
written whole (R149, R162). -/
def Nx.readySector (x : Nx) (mode : Mode) (key : BitVec 512) (a : Nat) (sector : Option Nat) (ret : LineReturn) : Nx :=
  let x := x.takeSectors mode a sector ret
  Nx.poisonGroup mode key (regionOf a) 0 ((x.t.tagMates a).filter fun m => m ≠ a || sector.isSome) x

/-- Seals and writes the line at `a`, or one sector of it, under a given line counter, with its tag (R131 to R134). -/
def Nx.storeLine (x : Nx) (mode : Mode) (key : BitVec 512) (a : Nat) (sector : Option Nat) (ctr data : Nat)
    (ret : LineReturn) : Nx :=
  let m := x.b.mce x.e
  let done (y : Nx) : Nx :=
    { y with b := y.b.count 1 mode.code 1
             stores := y.stores ++ [lineStore a data sector] }
  if mode = .scramble then
    done { x with b := x.b.mctlWrite x.e a 128 (scramble a m.k0.toNat m.k1.toNat 16 data) }
  else if mode = .narrow then
    done (Nx.writeSectors key a data (narrowUnits sector) (x.readySector mode key a sector ret))
  else
    let sl : Sealing := { mode := mode, key := key, addr := a, ctr := ctr }
    done ((x.readySector mode key a none ret).putData a 128 (sl.enc data) (x.t.tagAddr a) 8 (sl.tag (sl.enc data) false))

/-- Writes the line at `a`, or one sector of it, raising the counter of a SEALED_REPLAY line (R146, R147). A failed write
changes no memory (R158, R207). -/
def Nx.writeLine (x : Nx) (mode : Mode) (key : BitVec 512) (a : Nat) (sector : Option Nat) (data : Nat)
    (ret : LineReturn) : Status × Nx :=
  if ret.late && x.t.one then (.timeout, x.failed a .timeout)
  else if mode = .replay then
    match x.raiseLine a with
    | (.error st, y) => (st, y.failed a st)
    | (.ok ctr, y) => (.ok, y.storeLine mode key a sector ctr data ret)
  else (.ok, x.storeLine mode key a sector 0 data ret)

/-- The end of an access: caches are trimmed, lines whose tags it lost are poisoned, and a lost high node takes the whole-block rung (R145, R163). -/
def Nx.finish (x : Nx) : Nx :=
  let y := (Nx.trim 32 { x with late := false }).settleLost
  if y.highNode then { y with b := y.b.blockReset .highNode y.e } else y

end Sys2Proof.Machine
end

