-- ==== Sys2Proof/Machine/Service.lean ====
section
/-! DEFINITION. How a memory channel engine takes, orders and serves requests, and the sealed accesses that other
engines make over the crossbar (R15, R28 to R34, R127 to R129, R164, R165, R422, R423, R500). -/

namespace Sys2Proof

/-- The first line of a request. -/
def MemReq.base (r : MemReq) : Nat := r.addr.toNat * 32 / 128 * 128

/-- The sector of a sector request. -/
def MemReq.sector (r : MemReq) : Option Nat := if r.len = 0 then some (r.addr.toNat % 4) else none

/-- The lines of a request, lower address first (R31). -/
def MemReq.lines (r : MemReq) : List Nat := if r.len = 2 then [r.base, r.base + 128] else [r.base]

/-- R30; the two lines of an aligned request always lie in one region. -/
def MemReq.formOk (r : MemReq) : Bool :=
  r.op.toNat < 2 && r.len.toNat < 3 && (r.len ≠ 0 || r.narrow) &&
  (r.len ≠ 1 || r.addr.toNat % 4 = 0) && (r.len ≠ 2 || r.addr.toNat % 8 = 0)

/-- The region of a request. -/
def MemReq.region (r : MemReq) : Nat := r.base / 2 ^ 28

/-- Lines that a request takes of the window. -/
def MemReq.cost (r : MemReq) : Nat := r.lines.length

end Sys2Proof

namespace Sys2Proof.Machine

open Sys2Proof Sys2Proof.Machine.Crypto

/-! ## Requests -/

/-- Two requests meet at a line. -/
def MceReq.meets (p q : MceReq) : Bool := p.req.lines.any fun l => List.contains q.req.lines l

/-! ## Credits and answers -/

/-- Credits are withheld: the lanes are short, or the engine is in reset (R21, R478). -/
def Block.withheld (b : Block) (e : Nat) : Bool := (b.mce e).short || Tab.has b.resets e

/-- An A credit returns, or is owed (R34). -/
def Block.giveA (b : Block) (e : Nat) : Block :=
  if b.withheld e then b.modMce e fun m => { m with aOwed := m.aOwed + 1 }
  else (b.modMce e fun m => { m with aCrd := m.aCrd + 1 }).emit (.mreqACrd e)

/-- A W credit returns, or is owed (R34). -/
def Block.giveW (b : Block) (e : Nat) : Block :=
  if b.withheld e then b.modMce e fun m => { m with wOwed := m.wOwed + 1 }
  else (b.modMce e fun m => { m with wCrd := m.wCrd + 1 }).emit (.mreqWCrd e)

def Block.emitTimes (b : Block) (c : Cross) : Nat → Block
  | 0 => b
  | n + 1 => (b.emit c).emitTimes c n

/-- The credits owed return (R21, R478). -/
def Block.payCredits (b : Block) (e : Nat) : Block :=
  let m := b.mce e
  ((b.modMce e fun m => { m with aCrd := m.aCrd + m.aOwed, wCrd := m.wCrd + m.wOwed, aOwed := 0, wOwed := 0 }).emitTimes
    (.mreqACrd e) m.aOwed).emitTimes (.mreqWCrd e) m.wOwed

/-- An answer on D. -/
def Block.answerD (b : Block) (e : Nat) (tag : BitVec 10) (st : Status) (data : Beat) : Block :=
  b.emit (.mreqD e tag st data)

/-- The answer to a write follows the acceptance of its last beat: at once, or with the last access that waits for
controller credit (R38). -/
def Block.answerWrite (b : Block) (e : Nat) (tag : BitVec 10) (st : Status) : Block :=
  match (b.mce e).held.reverse with
  | [] => b.answerD e tag st 0
  | o :: r =>
    if o.answer.isSome then b.answerD e tag st 0
    else b.modMce e fun m => { m with held := r.reverse ++ [{ o with answer := some (tag, st) }] }

/-- A request leaves the MCE; a write's beat has been consumed. -/
def Block.dropReq (b : Block) (e : Nat) (q : MceReq) : Block :=
  let b := b.modMce e fun m => { m with reqs := m.reqs.filter fun x => x.id ≠ q.id }
  if q.req.op = 1 then b.giveW e else b

/-- A request ends with a status and zero data. -/
def Block.refuseReq (b : Block) (e : Nat) (q : MceReq) (st : Status) : Block :=
  (b.dropReq e q).answerD e q.req.tag st 0

def Block.modReq (b : Block) (e id : Nat) (f : MceReq → MceReq) : Block :=
  b.modMce e fun m => { m with reqs := m.reqs.map fun q => if q.id = id then f q else q }

/-! ## The pool (R164) -/

def MceReq.inPool (q : MceReq) : Bool := q.stage ≠ .ingress

/-- Pool entries of a requester. -/
def Mce.poolOf (m : Mce) (r : Nat) : Nat := (m.reqs.filter fun q => q.inPool && q.req.rqid.toNat = r).length

/-- Shared pool entries in use. -/
def Mce.poolShared (m : Mce) : Nat := ((List.range 64).map fun r => m.poolOf r - 2).sum

def Mce.poolRoom (m : Mce) (r : Nat) : Bool := m.poolOf r < 2 || (m.poolShared < 128 && m.poolOf r - 2 < 32)

/-- The oldest request of the ingress queue whose requester has room moves to the pool, and so on. -/
def Block.admitReqs (b : Block) (e : Nat) : Nat → Block
  | 0 => b
  | f + 1 =>
    match (b.mce e).reqs.find? fun q => q.stage = .ingress && (b.mce e).poolRoom q.req.rqid.toNat with
    | none => b
    | some q => ((b.modReq e q.id fun q => { q with stage := .pool }).giveA e).admitReqs e f

/-! ## Arbitration (R15, R422, R423) -/

/-- Requests of the pool that no older request to one of their lines precedes. -/
def eligibleReqs : List MceReq → List MceReq → List MceReq
  | _, [] => []
  | older, q :: r =>
    if q.stage = .pool && !(older.any fun o => o.meets q) then q :: eligibleReqs (older ++ [q]) r
    else eligibleReqs (older ++ [q]) r

/-- A request that waits for its turn: what it is, its requester, its class and its lines (R422). -/
structure Bid (α : Type) where
  what : α
  rq : Nat
  cls : Nat
  cost : Nat

/-- Where the arbitration of a port stands: minimums left by requester, deficits by class, the requester and the class
served last (R422). -/
structure Turns where
  minLeft : Tab Nat
  deficit : Tab Nat
  lastReq : Nat
  lastClass : Nat

/-- The weight of a class in the remainder (R422). -/
def Block.classWeight (b : Block) (classes : List Nat) (c : Nat) : Nat :=
  let w (k : Nat) : Nat := (b.limits.weights.getD k 64).toNat
  max (w c) (ceilDiv (((List.range 16).filter fun k => List.contains classes k).map w).sum 1024)

/-- Deficit round robin over classes: the request served next, with the classes' deficits and the class whose turn it
is. -/
def drr {α : Type} (weight : Nat → Nat) (pending : List (Bid α)) : Nat → Nat → Tab Nat → Option (Bid α × Nat × Tab Nat)
  | 0, _, _ => none
  | f + 1, c, d =>
    match pending.find? fun q => q.cls = c with
    | none => drr weight pending f ((c + 1) % 16) (Tab.del d c)
    | some q =>
      if q.cost ≤ Tab.getD d c 0 then some (q, c, Tab.put d c (Tab.getD d c 0 - q.cost))
      else
        let c' := ((nextAfter 16 (c + 1) (pending.map fun q => q.cls)).getD c)
        drr weight pending f c' (Tab.put d c' (Tab.getD d c' 0 + weight c'))

/-- The request that a port serves next (R422); the remainder is served only where it may be (R423). -/
def Block.arbitrate {α : Type} (b : Block) (t : Turns) (pending : List (Bid α)) (rest : Bool) : Option (α × Turns) :=
  let mins := (pending.filter fun q => 0 < Tab.getD t.minLeft q.rq 0).map fun q => q.rq
  match nextAfter 64 (t.lastReq + 1) mins with
  | some r =>
    (pending.find? fun q => q.rq = r).map fun q =>
      (q.what, { t with minLeft := Tab.mod t.minLeft r 0 fun x => x - q.cost, lastReq := r })
  | none =>
    if rest then
      (drr (b.classWeight (pending.map fun q => q.cls)) pending 64 t.lastClass t.deficit).map fun x =>
        (x.1.what, { t with lastClass := x.2.1, deficit := x.2.2 })
    else none

/-- The request that the MCE serves next. -/
def Block.chooseReq (b : Block) (e : Nat) : Option (MceReq × Block) :=
  let m := b.mce e
  let el := eligibleReqs [] m.reqs
  if Tab.has b.resets e || !m.held.isEmpty || m.ctlA = 0 then none
  else
    let bids := el.map fun q => { what := q, rq := q.req.rqid.toNat, cls := q.req.cls.toNat, cost := q.req.cost : Bid MceReq }
    (b.arbitrate { minLeft := m.minLeft, deficit := m.deficit, lastReq := m.lastReq, lastClass := m.lastClass } bids
      (m.qocc.toNat < b.limits.qhigh.toNat)).map fun x =>
        (x.1, b.modMce e fun m => { m with
          minLeft := x.2.minLeft, deficit := x.2.deficit, lastReq := x.2.lastReq, lastClass := x.2.lastClass })

/-! ## Region and key -/

/-- The schedules of the slots of a request, or the first status, or the slots that must be filled. -/
def Block.findKeys (b : Block) (e fn ctx use : Nat) : List Nat → Except (Nat × Status) (List CachedKey × List Nat)
  | [] => .ok ([], [])
  | n :: r =>
    match b.lookup e n fn ctx use with
    | .bad st => .error (n, st)
    | .hit k => (b.findKeys e fn ctx use r).map fun x => (k :: x.1, x.2)
    | .miss => (b.findKeys e fn ctx use r).map fun x => (x.1, n :: x.2)

def Block.touchKeys (b : Block) (e : Nat) : List CachedKey → Block
  | [] => b
  | k :: r => (b.touchKey e k).touchKeys e r

/-- Sends the fills that are not already on their way. -/
def Block.sendFills (b : Block) (e : Nat) : List Nat → Block
  | [] => b
  | n :: r => (if (b.cache e).fills.any fun f => f.key.slot = n then b else b.sendFill e n).sendFills e r

/-- The key cache of an MCE holds the line key of a region beside the region key that it was derived from (R98, R130). -/
def Block.touchLine (b : Block) (e : Nat) (k : CachedKey) (r : Nat) (mode : Mode) : Block :=
  if mode = .scramble then b
  else
    b.modCache e fun c =>
      c.install { k with what := .line r, key := BitVec.ofNat 512 (lineTagKey k.key r) } (b.build.cacheDepth e)

/-- Looks up the serving keys of a request that has passed its region checks (R100, R127 check 6). -/
def Block.findReqKeys (b : Block) (e : Nat) (q : MceReq) : Block :=
  let use := if q.req.op = 1 then useE else useD
  match b.findKeys e q.entry.ownerFn.toNat q.req.ctx.toNat use q.slots with
  | .error (n, st) => (b.noticeCorrupt n st).refuseReq e q st
  | .ok (ks, []) =>
    (ks.foldl (fun b k => b.touchLine e k q.req.region q.entry.mode) (b.touchKeys e ks)).modReq e q.id fun q =>
      { q with stage := .reading, keys := ks.map (·.key) }
  | .ok (_, ms) => (b.modReq e q.id fun q => { q with stage := .fill }).sendFills e ms.eraseDups

/-- Serves a request: R127 in order. -/
def Block.serveReq (b : Block) (e : Nat) (q : MceReq) : Block :=
  let r := q.req.region
  let entry := b.mceEntry e r
  let st := b.regionCheck entry true false q.req.base q.req.ctx.toNat q.req.narrow q.req.keyIdx.toNat
  if st ≠ .ok then
    let b := if st = .noKey then
        b.keysetMiss e (q.req.addr.toNat * 32) ((b.ctxFn q.req.ctx.toNat).getD 0) q.req.ctx.toNat q.req.keyIdx.toNat
      else b
    b.refuseReq e q st
  else
    match b.build.dataTier q.req.base with
    | none => b.refuseReq e q .badOperand
    | some t =>
      let slots := q.req.lines.map fun a => b.servingSlot entry r e (t.loc a / 128) q.req.keyIdx.toNat
      let q := { q with entry := entry, slots := slots }
      ((b.cacheRegion e r).modReq e q.id fun _ => q).findReqKeys e q

/-! ## Parts -/

/-- Nodes of the path of a leaf that the caches do not hold, from the leaf up to the lowest cached ancestor (R145). -/
def Mce.nodeParts (m : Mce) (t : Tier) (tree : Option Nat) (chan : Nat) : Nat → Nat → Nat → List (Part × Nat × Nat)
  | 0, _, _ => []
  | f + 1, k, i =>
    if (m.cached tree k i).isSome then []
    else (.node k i, t.prot (t.nodeOff tree chan k i) chan, 64) :: m.nodeParts t tree chan f (k + 1) (i / 64)

/-- Tag sectors that an access to a line needs and the buffer does not hold (R149). -/
def Mce.tagParts (m : Mce) (t : Tier) (mode : Mode) (a : Nat) (sector : Option Nat) : List (Part × Nat × Nat) :=
  let own := t.tagAddr a / 32 * 32
  let other := t.tagAddr (companionOf a) / 32 * 32
  (if mode ≠ .scramble && !(mode = .narrow && sector.any fun s => 2 ≤ s) && (m.sector own).isNone then [(.tag a, own, 32)]
    else []) ++
  (if mode = .narrow && !(sector.any fun s => s < 2) && (m.sector other).isNone then [(.tag2 a, other, 32)] else [])

/-- What an access to a line must read. -/
def Mce.lineParts (m : Mce) (t : Tier) (chan : Nat) (mode : Mode) (write : Bool) (sector : Option Nat) (a : Nat) :
    List (Part × Nat × Nat) :=
  let tr := t.treeOf a
  (if write then [] else [match sector with
    | some s => (.data a, a + 32 * s, 32)
    | none => (.data a, a, 128)]) ++
  m.tagParts t mode a sector ++
  (if mode = .replay then m.nodeParts t tr.1 chan (treeLevels tr.1) 0 (tr.2 / 64) else [])

/-- Issues the reads of a list that are not outstanding for the request. -/
def Block.issueReads (b : Block) (e id : Nat) : List (Part × Nat × Nat) → Block
  | [] => b
  | p :: r =>
    if (b.mce e).reads.any fun x => x.2.req = some id && x.2.addr = p.2.1 then b.issueReads e id r
    else
      match (List.range 4096).find? fun k => !Tab.has (b.mce e).reads k && !List.contains (b.mce e).quarantine k with
      | none => b
      | some tag =>
        ((b.modMce e fun m =>
          { m with reads := m.reads.put tag { req := some id, part := p.1, addr := p.2.1, len := p.2.2 } }).mctlPresent e
            { write := false, addr := p.2.1, len := p.2.2, tag := tag }).issueReads e id r

/-- The lines of a request that it still works on: the first alone once a read for the second has timed out (R500). -/
def MceReq.lines (q : MceReq) : List Nat := if q.cut then q.req.lines.take 1 else q.req.lines

/-- Parts of a request that have not returned. -/
def Block.missingParts (b : Block) (e : Nat) (t : Tier) (q : MceReq) : List (Part × Nat × Nat) :=
  (((q.lines.map ((b.mce e).lineParts t (e - t.first) q.entry.mode (q.req.op = 1) q.req.sector)).flatten).filter
    fun p => !(q.back.any fun x => x.addr = p.2.1)).eraseDups

/-- The parts that returned, as one line's return. -/
def MceReq.lineReturn (q : MceReq) (t : Tier) (a : Nat) : LineReturn :=
  let at1 (x : Nat) : Option PartReturn := q.back.find? fun p => p.addr = x
  let tag := at1 (t.tagAddr a / 32 * 32)
  let tag2 := at1 (t.tagAddr (companionOf a) / 32 * 32)
  let data := at1 (match q.req.sector with
    | some s => a + 32 * s
    | none => a)
  { err := data.any (·.err)
    data := BitVec.ofNat 1024 (((data.map fun p => p.data.toNat).getD 0) <<< (256 * (q.req.sector.getD 0)))
    tagErr := tag.any (·.err)
    tag2Err := tag2.any (·.err)
    tag := BitVec.ofNat 256 ((tag.map fun p => p.data.toNat).getD 0)
    tag2 := BitVec.ofNat 256 ((tag2.map fun p => p.data.toNat).getD 0) }

/-- The counter nodes that returned. -/
def MceReq.nodeReturns (q : MceReq) : List ((Nat × Nat) × NodeReturn) :=
  q.back.filterMap fun p =>
    match p.part with
    | .node k i => some ((k, i), { err := p.err, node := BitVec.ofNat 512 p.data.toNat })
    | _ => none

/-! ## Service -/

/-- An engine at work on requests: the command under way and the lines still to come inside this step. -/
structure Serving where
  w : Work
  feed : List LineReturn

/-- The access state that an MCE starts from. -/
def Serving.begin (p : Serving) (e : Nat) (t : Tier) (entry : RegionEntry) (given : List ((Nat × Nat) × NodeReturn)) : Nx :=
  { b := p.w.blk, e := e, t := t, fn := entry.ownerFn.toNat, ctx := entry.ownerCtx.toNat, entry := entry, quiet := entry.generator,
    given := given, feed := p.feed }

/-- The access ends: its block, its stores, and the lines that it left. -/
def Serving.after (p : Serving) (x : Nx) : Serving :=
  { w := { p.w with blk := x.b, stores := p.w.stores ++ x.stores }, feed := x.feed }

/-- Reads the lines of a request in order: the first failing status, and the data upward (R31, R500). -/
def Nx.readLines (mode : Mode) (sector : Option Nat) (ret : Nat → LineReturn) : List (Nat × BitVec 512) → Nx → Status × Nat × Nx
  | [], x => (.ok, 0, x)
  | (a, k) :: r, x =>
    let y := x.readLine mode k a sector (ret a)
    let z := Nx.readLines mode sector ret r y.2.2
    (if y.1 = .ok then z.1 else y.1, y.2.1 + z.2.1 <<< 1024, z.2.2)

/-- Writes the lines of a request in order and stops at the first that fails (R500). -/
def Nx.writeLines (mode : Mode) (sector : Option Nat) (ret : Nat → LineReturn) : List (Nat × BitVec 512) → Nat → Nx → Status × Nx
  | [], _, x => (.ok, x)
  | (a, k) :: r, data, x =>
    let y := x.writeLine mode k a sector (data % 2 ^ 1024) (ret a)
    if y.1 = .ok then Nx.writeLines mode sector ret r (data >>> 1024) y.2 else y

/-- A request whose parts are all here completes. -/
def Serving.finishReq (p : Serving) (e : Nat) (t : Tier) (q : MceReq) : Serving :=
  let x := p.begin e t q.entry q.nodeReturns
  let lines := q.lines.zip q.keys
  let whole (st : Status) : Status := if st = .ok && q.cut then .timeout else st
  if q.req.op = 1 then
    let data := match q.req.sector with
      | some s => (q.data.toNat % 2 ^ 256) <<< (256 * s)
      | none => q.data.toNat
    let y := Nx.writeLines q.entry.mode q.req.sector (q.lineReturn t) lines data x
    p.after { y.2 with b := (y.2.b.dropReq e q).answerWrite e q.req.tag (whole y.1) }.finish
  else
    let y := Nx.readLines q.entry.mode q.req.sector (q.lineReturn t) lines x
    let data := if whole y.1 = .ok then y.2.1 >>> (256 * q.req.sector.getD 0) else 0
    p.after { y.2.2 with b := (y.2.2.b.dropReq e q).answerD e q.req.tag (whole y.1) (BitVec.ofNat 2048 data) }.finish

/-- One move of an MCE, if there is one: a request that has everything completes; one that lacks a part reads it; the
next request in the order of R422 is served. -/
def Serving.move (p : Serving) (e : Nat) : Option Serving :=
  let b := p.w.blk
  let under := (b.mce e).reqs.filter fun q => q.stage = .reading
  let tier (q : MceReq) : Option Tier := b.build.tierOf q.req.base
  match under.find? fun q => (tier q).any fun t => (b.missingParts e t q).isEmpty with
  | some q => (tier q).map fun t => p.finishReq e t q
  | none =>
    match under.find? fun q => (tier q).any fun t => (b.missingParts e t q).any fun x =>
        !((b.mce e).reads.any fun y => y.2.req = some q.id && y.2.addr = x.2.1) with
    | some q => (tier q).map fun t => { p with w := p.w.on fun b => b.issueReads e q.id (b.missingParts e t q) }
    | none => (b.chooseReq e).map fun x => { p with w := { p.w with blk := x.2.serveReq e x.1 } }

/-- Moves while there are any, the pool taking requests as it has room. -/
def Serving.run : Nat → Serving → Nat → Serving
  | 0, p, _ => p
  | f + 1, p, e =>
    let p := { p with w := p.w.on fun b => b.admitReqs e 320 }
    match p.move e with
    | none => p
    | some q => Serving.run f q e

/-- The MCE does all that it can do now. -/
def Work.pump (w : Work) (e : Nat) (feed : List LineReturn) : Work := (Serving.run 2048 { w := w, feed := feed } e).w

/-! ## Arrival -/

/-- A credit violation at a memory request port (R34, R475). -/
def Block.mreqViolation (b : Block) (e : Nat) : Block :=
  (b.blockReset .creditViolation e).modMce e fun m => { m with halted := true }

/-- A request, and its beat for a write, enters an MCE (R28 to R34, R135). -/
def Work.arrive (w : Work) (r : MemReq) (write : Bool) (data : Beat) (feed : List LineReturn) : Work :=
  let b := w.blk
  let m := b.mce r.mce
  if b.pins.blockSafe || m.halted then w
  else if m.aCrd = 0 || (write && m.wCrd = 0) then w.on fun b => b.mreqViolation r.mce
  else
    let b := b.modMce r.mce fun m => { m with aCrd := m.aCrd - 1, wCrd := if write then m.wCrd - 1 else m.wCrd }
    let routed := (b.build.tierOf (r.addr.toNat * 32)).any fun t => t.mce (r.addr.toNat * 32) = r.mce
    if !r.formOk || !routed then
      let b := if routed then b else b.modMce r.mce fun m => { m with misrouted := m.misrouted + 1 }
      let b := (b.giveA r.mce).answerD r.mce r.tag .badOperand 0
      { w with blk := if write then b.giveW r.mce else b }
    else if Tab.has b.resets r.mce then
      let b := (b.giveA r.mce).answerD r.mce r.tag .engineReset 0
      { w with blk := if write then b.giveW r.mce else b }
    else
      let q : MceReq :=
        { id := m.nextReq, req := { r with op := if write then 1 else 0 }, data := data, stage := .ingress }
      { w with
        blk := b.modMce r.mce fun m => { m with reqs := m.reqs ++ [q], nextReq := m.nextReq + 1 } }.pump r.mce feed

/-! ## Accesses over the crossbar -/

/-- Who makes an access and under what: the requester id it is charged to is 62 for LPEs and kilns, 63 for sealed DMA
units and the block's own records (R128, R305, R355). -/
structure Asker where
  fn : Nat
  ctx : Nat
  key : Nat
  rqid : Nat := 62
  /-- A remote access: its job check stands in place of check 2. -/
  remote : Bool := false
  narrow : Bool := false
  deriving DecidableEq, Repr

/-- The checks of R127 on an access to the line at `a`: the tier, the entry and the schedule. -/
def Block.xbarCheck (b : Block) (k : Asker) (a use : Nat) : Except Status (Tier × RegionEntry × CachedKey) × Block :=
  match b.build.dataTier a with
  | none => (.error .badOperand, b)
  | some t =>
    let e := t.mce a
    let entry := b.mceEntry e (regionOf a)
    let st := b.regionCheck entry false k.remote a k.ctx k.narrow k.key
    if Tab.has b.resets e then (.error .engineReset, b)
    else if st ≠ .ok then (.error st, if st = .noKey then b.keysetMiss e a k.fn k.ctx k.key else b)
    else
      let n := b.servingSlot entry (regionOf a) e (t.loc a / 128) k.key
      match (b.cacheRegion e (regionOf a)).useKey e n k.fn k.ctx use with
      | (.error s, b) => (.error s, b)
      | (.ok c, b) => (.ok (t, entry, c), b.touchLine e c (regionOf a) entry.mode)

/-- An access over the crossbar waits behind the requests to its line that reached the MCE before it, and until the MCE has
controller credit (R15, R17, R37, R193). -/
def Block.mustWait (b : Block) (a : Nat) : Bool :=
  (b.build.dataTier a).any fun t =>
    let m := b.mce (t.mce a)
    !Tab.has b.resets (t.mce a) &&
      (m.ctlA = 0 || !m.held.isEmpty || m.reqs.any fun q => List.contains q.req.lines (a / 128 * 128))

/-- What an access reads crosses to the controller, and its line is charged to its requester's minimum (R36, R128, R422). -/
def Block.xbarServe (b : Block) (k : Asker) (t : Tier) (mode : Mode) (write : Bool) (sector : Option Nat) (a : Nat) : Block :=
  (((b.mce (t.mce a)).lineParts t (t.chan a) mode write sector a).foldl (fun b p => b.mctlFetch (t.mce a) p.2.1 p.2.2) b).modMce
    (t.mce a) fun m => { m with minLeft := m.minLeft.upd k.rqid fun n => n - 1 }

/-- The nodes that the controller returned for a line, by level and index. -/
def Block.returnedNodes (b : Block) (t : Tier) (a : Nat) (ret : LineReturn) : List ((Nat × Nat) × NodeReturn) :=
  let tr := t.treeOf a
  (((b.mce (t.mce a)).nodeParts t tr.1 (t.chan a) (treeLevels tr.1) 0 (tr.2 / 64)).filterMap fun p =>
    match p.1 with
    | .node k i => some (k, i)
    | _ => none).zip ret.nodes

/-- The access must wait, and with it all that its command does. -/
def Serving.hold (p : Serving) (a : Nat) : Option Serving :=
  if p.w.patient && p.w.blk.mustWait a then some { p with w := { p.w with stuck := true } } else none

/-- Reads the line at `a` over the crossbar. -/
def Serving.readLine (p : Serving) (k : Asker) (a : Nat) (ret : LineReturn) : Status × Nat × Serving :=
  match p.hold a with
  | some q => (.retryLater, 0, q)
  | none =>
    match p.w.blk.xbarCheck k a useD with
    | (.error st, b) => (st, 0, { p with w := { p.w with blk := b } })
    | (.ok (t, entry, c), b) =>
      let w := { p.w with blk := b.xbarServe k t entry.mode false none a }
      let x := ({ p with w := w } : Serving).begin (t.mce a) t entry (b.returnedNodes t a ret)
      let y := x.readLine entry.mode c.key a none ret
      (y.1, y.2.1, p.after y.2.2.finish)

/-- Writes the whole line at `a`, or one sector of it with its data in place, over the crossbar. -/
def Serving.writeUnit (p : Serving) (k : Asker) (a data : Nat) (sector : Option Nat) (ret : LineReturn) : Status × Serving :=
  match p.hold a with
  | some q => (.retryLater, q)
  | none =>
    match p.w.blk.xbarCheck k a useE with
    | (.error st, b) => (st, { p with w := { p.w with blk := b } })
    | (.ok (t, entry, c), b) =>
      let w := { p.w with blk := b.xbarServe k t entry.mode true sector a }
      let x := ({ p with w := w } : Serving).begin (t.mce a) t entry (b.returnedNodes t a ret)
      let y := x.writeLine entry.mode c.key a sector data ret
      (y.1, p.after y.2.finish)

def Serving.writeLine (p : Serving) (k : Asker) (a data : Nat) (ret : LineReturn) : Status × Serving :=
  p.writeUnit k a data none ret

/-- The next line that the controller returns. -/
def Serving.next (p : Serving) : LineReturn × Serving := (p.feed.headD {}, { p with feed := p.feed.tail })

/-- A line with bytes from `off` replaced. -/
def mergeLine (old off : Nat) (b : Bytes) : Nat :=
  let n := b.length
  old % 2 ^ (8 * off) + le b <<< (8 * off) + (old >>> (8 * (off + n))) <<< (8 * (off + n))

/-- Writes bytes upward from an address, line by line; a part of a line is read first and merged. The first failing
line ends it. -/
def Serving.writeBytes (k : Asker) : Nat → Serving → Nat → Bytes → Status × Serving
  | 0, p, _, _ => (.ok, p)
  | f + 1, p, a, b =>
    if b.isEmpty then (.ok, p)
    else
      let off := a % 128
      let n := min (128 - off) b.length
      let r := p.next
      if n = 128 then
        match r.2.writeLine k a (le (b.take 128)) r.1 with
        | (.ok, q) => Serving.writeBytes k f q (a + n) (b.drop n)
        | (st, q) => (st, q)
      else
        match r.2.readLine k (a - off) r.1 with
        | (.ok, old, q) =>
          match q.writeLine k (a - off) (mergeLine old off (b.take n)) r.1 with
          | (.ok, q) => Serving.writeBytes k f q (a + n) (b.drop n)
          | (st, q) => (st, q)
        | (st, _, q) => (st, q)

/-- Reads n bytes upward from an address, line by line. The first failing line ends it. -/
def Serving.readBytes (k : Asker) : Nat → Serving → Nat → Nat → Status × Bytes × Serving
  | 0, p, _, _ => (.ok, [], p)
  | f + 1, p, a, n =>
    if n = 0 then (.ok, [], p)
    else
      let off := a % 128
      let c := min (128 - off) n
      let r := p.next
      match r.2.readLine k (a - off) r.1 with
      | (.ok, x, q) =>
        let s := Serving.readBytes k f q (a + c) (n - c)
        (s.1, slice (toLe 128 x) off c ++ s.2.1, s.2.2)
      | (st, _, q) => (st, [], q)

end Sys2Proof.Machine
end

