-- ==== Sys2Proof/Machine/Regions.lean ====
section
/-! DEFINITION. Binding, unbinding, rekeying and querying regions, their line passes, counter-cache way groups, and the
traffic generator (R81, R120, R121, R143, R148 to R155, R166 to R169, R332, R349, R491, R501). -/

namespace Sys2Proof.Machine

open Sys2Proof Sys2Proof.Machine.Crypto

/-! ## Tiers -/

/-- The tier of an MCE. -/
def Build.tierOfMce (b : Build) (e : Nat) : Tier := if e < b.t0 then b.tier0 else b.tier1

/-- The MCEs of a tier. -/
def Tier.engines (t : Tier) : List Nat := (List.range t.chans).map (· + t.first)

/-- The mode that a bind of a tier gives, if the tier has it (R81, R123, R138, R150). -/
def Build.bindMode (b : Build) (t : Tier) (code : Nat) : Option Mode :=
  match Mode.ofCode code with
  | some .sealed => some (if t.one then .replay else .sealed)
  | some .replay => if t.one || b.narrowReplay then some .replay else none
  | some .narrow => if !t.one && b.narrowReplay then some .narrow else none
  | some .scramble => if t.one then none else some .scramble
  | _ => none

/-- A mode keeps metadata in the companion of a region of the tier (R138, R143). -/
def needsCompanion (t : Tier) (m : Mode) : Bool := m = .narrow || (m = .replay && !t.one)

/-- A region lies in a function's range (R150, R497). -/
def FnPage.inRange (p : FnPage) (r : Nat) : Bool := p.regionLo.toNat ≤ r && r ≤ p.regionHi.toNat

/-! ## REGION_BIND -/

def Cmd.region (c : Cmd) : Nat := dfld c.desc 16 2

/-- The KEYSET of a bind. -/
def Cmd.keyset (c : Cmd) : List (BitVec 16) := (List.range 8).map fun i => BitVec.ofNat 16 (dfld c.desc (24 + 2 * i) 2)

/-- The checks that a bind makes on one key of its KEYSET (R126, R150). -/
def Block.bindKeyCheck (b : Block) (t : Tier) (fn ctx h : Nat) : Status :=
  if h = 0 then .ok
  else firstBad [b.keySound h fn ctx, require ((b.slot h).typ = 2 && (b.slot h).level = 5) .badOperand,
    b.keyFor h (bit t.one) useE, b.keyFor h (bit t.one) useD]

/-- The checks on the region and its companion (R150). -/
def Block.bindPlaceOk (b : Block) (c : Cmd) (r : Nat) (t : Tier) (m : Mode) : Bool :=
  (b.fn c.fn).inRange r && (b.region r).mode = .none && dfld c.desc 19 1 ≠ 0 &&
  (!needsCompanion t m ||
    ((b.fn c.fn).inRange (r ^^^ 1) && (b.region (r ^^^ 1)).mode = .none && (b.build.regionTier (r ^^^ 1)).isSome))

/-- Tier-0 SEALED_REPLAY regions of the block (R143). -/
def Block.replayRegions (b : Block) : Nat :=
  (b.regions.table.filter fun e => e.2.mode = .replay && (b.build.regionTier e.1).any fun t => !t.one).length

/-- Sets the entry of a region and its companion, and starts the line writes (R150). -/
def Block.startBind (b : Block) (id : Nat) (c : Cmd) (r : Nat) (t : Tier) (m : Mode) : Block :=
  let entry : RegionEntry :=
    { mode := m, ownerFn := BitVec.ofNat 8 c.fn, ownerCtx := BitVec.ofNat 16 c.ctx,
      threshold := BitVec.ofNat 8 (dfld c.desc 19 1), ctxwide := (dfld c.desc 20 1).testBit 0, keyset := c.keyset,
      binding := true }
  let other : RegionEntry := { mode := .companion, ownerFn := entry.ownerFn, ownerCtx := entry.ownerCtx }
  let b := b.setRegion r entry
  let b := if needsCompanion t m then b.setRegion (r ^^^ 1) other else b
  let job : BindJob := { cmd := id, next := t.engines.map fun e => (e, t.lineLo r (e - t.first)) }
  { b.wait id with regions := { b.regions with binds := b.regions.binds.put r job } }

/-- REGION_BIND: R148, R150, R332, R387. -/
def execRegionBind (cmd : Nat) (s : State) : Host.Outcome State Fault Refusal :=
  onCommand s cmd 0x0201 fun c b =>
    let r := c.region
    match (b.build.regionTier r).bind fun t => (b.build.bindMode t (dfld c.desc 18 1)).map fun m => (t, m) with
    | none => b.fail cmd .badOperand
    | some (t, m) =>
      let keys := c.keyset.map fun h => h.toNat
      match firstBad ([require (b.bindPlaceOk c r t m) .badOperand, require (keys.headD 0 ≠ 0) .badOperand] ++
          keys.map (b.bindKeyCheck t c.fn c.ctx) ++
          [require (!(m = .replay && !t.one) || b.replayRegions < 32) .retryLater,
           require (!(m = .replay && !t.one) || !b.boot.entropyDown) .notReady]) with
      | .ok => b.startBind cmd c r t m
      | st => b.fail cmd st

/-! ## Passes over lines -/

/-- Whether a background pass may touch lines of a region at an MCE now: the MCE serves, it has dropped the entry that
stood before, and no request under way holds one of the lines (R120, R152). -/
def Block.passFree (b : Block) (r e : Nat) (lines : List Nat) : Bool :=
  !Tab.has b.resets e && !b.pins.blockSafe && !List.contains (b.mce e).regionDrops r &&
  !((b.mce e).reqs.any fun q =>
      (q.stage = .fill || q.stage = .reading) && q.req.lines.any fun a => List.contains lines a)

/-- The channel-local lines of a region's leaf that holds a channel-local line (R501). -/
def Tier.leafLines (t : Tier) (r e n : Nat) : List Nat :=
  let first := n - (t.treeOf (t.lineAddr n (e - t.first))).2 % 64
  (List.range 64).map (· + first) |>.filter fun k => t.lineLo r (e - t.first) ≤ k && k < t.lineHi r (e - t.first)

/-- The nodes of levels 0 and 1 of a tier-0 tree, all with one MAJOR under a root that matches (R148). -/
def Nx.initTree (x : Nx) (r : Nat) : Nx :=
  let n : Node := { major := BitVec.ofNat 49 (x.b.random 48).toNat }
  let x := { x with b := x.b.drew.modMce x.e fun m =>
    { m with roots := Tab.put m.roots (r + 1) n, nodes := m.nodes.filter fun y => y.tree ≠ some r } }
  let level (k : Nat) (x : Nx) : Nx :=
    (List.range (x.t.levelCount (some r) k)).foldl (fun x i => x.writeNode (some r) k i n (n.counter 0)) x
  { level 1 (level 0 x) with given := [] }

/-- A node's count rises in its parent and the node is written with a new value, or the status that stops it (R145, R146,
R501). -/
def Nx.replaceNode (x : Nx) (tree : Option Nat) (k i : Nat) (n : Node) : Except (Status × Nx) Nx :=
  let up := treeLevels tree - k - 1
  match Nx.get tree up x (k + 1) (i / 64) with
  | (none, y) => .error (y.status, y)
  | (some p, x) =>
    match p.lift (i % 64) with
    | none => .error (.ctrExhausted, x)
    | some (p', again) =>
      (Nx.put tree up x (k + 1) (i / 64) p').map fun x =>
        let x := (x.writeNode tree k i n (p'.counter (i % 64)))
        let x := { x with b := x.b.modMce x.e fun m => m.modNode tree k i fun y => { y with node := n, dirty := false } }
        if again then Nx.remacAll tree k (i / 64) (i % 64) p p' (List.range 64) x else x

/-- A node drawn afresh, minors 0 (R148). -/
def Nx.freshNode (x : Nx) : Node × Nx :=
  ({ major := BitVec.ofNat 49 (x.b.random 48).toNat }, { x with b := x.b.drew })

/-- A bind rewrites a leaf that cannot be read, and its level-1 node when that is lost too (R163). -/
def Nx.rebuildLeaf (x : Nx) (tree : Option Nat) (i : Nat) : Except (Status × Nx) (Node × Nx) :=
  let f := x.freshNode
  let x : Except (Status × Nx) Nx := match f.2.node tree 1 (i / 64) with
    | (some _, y) => .ok y
    | (none, y) => y.freshNode.2.replaceNode tree 1 (i / 64) y.freshNode.1
  (x.bind fun y => y.replaceNode tree 0 i f.1).map fun y => (f.1, y)

/-- A pass moves on a leaf: MAJOR + 1 and minors 0 under a raised count. The leaf before, if it could be read, and the
leaf after (R501); `rebuild` for a bind. Else the status that stops it. -/
def Nx.moveLeaf (x : Nx) (tree : Option Nat) (i : Nat) (rebuild : Bool) : Except (Status × Nx) (Option Node × Node × Nx) :=
  match x.node tree 0 i with
  | (some leaf, y) =>
    if leaf.major.toNat + 1 = 2 ^ 49 then .error (.ctrExhausted, y)
    else (y.replaceNode tree 0 i { major := leaf.major + 1 }).map fun y => (some leaf, { major := leaf.major + 1 }, y)
  | (none, y) =>
    if rebuild && y.status ≠ .timeout then (y.rebuildLeaf tree i).map fun r => (none, r.1, r.2)
    else .error (y.status, y)

/-- What a pass does to one line of the region: its address, its counter before where it is known, and after. -/
abbrev LineWork := Nx → Nat → Option Nat → Nat → Nx

/-- Runs over the lines of a leaf: those of the region by the pass, the others re-sealed (R501). -/
def leafRun (work : LineWork) (r base : Nat) (addr : Nat → Nat) (old : Option Node) (new : Node) : List Nat → Nx → Nx
  | [], x => x
  | j :: rest, x =>
    let a := addr (base + j)
    let x := if regionOf a = r then work x a (old.map fun n => n.counter j) (new.counter j)
      else
        match old with
        | some n => x.reseal a (n.counter j) (new.counter j)
        | none => x
    leafRun work r base addr old new rest x

/-- One slot of a pass over a SEALED_REPLAY region: the leaf of the channel-local line n (R501). -/
def Nx.passLeaf (x : Nx) (work : LineWork) (r n : Nat) (rebuild : Bool) : Except (Status × Nx) Nx :=
  let tr := x.t.treeOf (x.t.lineAddr n x.chan)
  match x.moveLeaf tr.1 (tr.2 / 64) rebuild with
  | .error e => .error e
  | .ok (old, new, y) =>
    .ok (leafRun work r (n - tr.2 % 64) (fun k => y.t.lineAddr k y.chan) old new (List.range 64) y)

/-! ## BIND_LINE_WRITE -/

/-- The access of a pass at line n of an MCE; the first return carries the counter nodes of its path. -/
def Work.passBegin (w : Work) (e n : Nat) (entry : RegionEntry) (feed : List LineReturn) : Nx :=
  let t := w.blk.build.tierOfMce e
  { ({ w := w, feed := feed } : Serving).begin e t entry [] with
    given := w.blk.returnedNodes t (t.lineAddr n (e - t.first)) (feed.headD {}) }

/-- The reads of a pass at a line go out: those of the line, or for a leaf of a SEALED_REPLAY region those of its path alone,
its lines being read one by one (R36, R501). -/
def Nx.passReads (x : Nx) (mode : Mode) (a : Nat) (leaf write : Bool) : Nx :=
  let tr := x.t.treeOf a
  let m := x.b.mce x.e
  let parts := if leaf then m.nodeParts x.t tr.1 x.chan (treeLevels tr.1) 0 (tr.2 / 64)
    else if write then m.tagParts x.t mode a none
    else m.lineParts x.t x.chan mode false none a
  { x with b := parts.foldl (fun b p => b.mctlFetch x.e p.2.1 p.2.2) x.b }

/-- A read of a pass was late: it is counted and reported, and the pass takes the line again (R205, R207; log 126). -/
def Work.passLate (w : Work) (x : Nx) (a : Nat) : Work := { w with blk := (x.tooLate a (ownerAndPf x.fn)).b }

/-- A pass's access ends. -/
def Work.passEnd (w : Work) (x : Nx) : Work := { w with blk := x.finish.b, stores := w.stores ++ x.finish.stores }

/-- Writes one line with zero plaintext (R150). -/
def zeroLine (mode : Mode) (key : BitVec 512) : LineWork := fun x a _ ctr =>
  x.nextLine.2.storeLine mode key a none ctr 0 x.nextLine.1

/-- A bind ends without its last lines: the entries are cleared and the command fails. -/
def Block.abortBind (b : Block) (r : Nat) (j : BindJob) (st : Status) : Block :=
  let b := if (b.region (r ^^^ 1)).mode = .companion then b.setRegion (r ^^^ 1) {} else b
  ({ b.setRegion r {} with regions := { (b.setRegion r {}).regions with binds := Tab.del b.regions.binds r } }).fail j.cmd st

/-- The pass of a bind moves to line n of an MCE; the bind completes after its last line (R150). -/
def Block.bindNext (b : Block) (r e n : Nat) (t : Tier) : Block :=
  let binds := Tab.upd b.regions.binds r fun j => { j with next := Tab.put j.next e n }
  let b := { b with regions := { b.regions with binds := binds } }
  match binds.get? r with
  | none => b
  | some j =>
    if j.next.all fun x => t.lineHi r (x.1 - t.first) ≤ x.2 then
      let b := b.setRegion r { b.region r with binding := false }
      ({ b with regions := { b.regions with binds := Tab.del binds r } }).succeed j.cmd 0 0
    else b

/-- One slot of a bind (R148, R150, R501). -/
def Work.bindSlot (w : Work) (r e n : Nat) (j : BindJob) (feed : List LineReturn) : Work :=
  let entry := w.blk.region r
  let t := w.blk.build.tierOfMce e
  let key := if entry.mode = .scramble then (.ok (w.blk.schedule 0), w.blk)
    else w.blk.useKey e (entry.key 0) entry.ownerFn.toNat entry.ownerCtx.toNat useE
  match key with
  | (.error st, b) => { w with blk := b.abortBind r j st }
  | (.ok k, b) =>
    let a := t.lineAddr n (e - t.first)
    let x := (({ w with blk := b } : Work).passBegin e n entry feed).passReads entry.mode a (entry.mode = .replay && t.one) true
    if (feed.headD {}).late && t.one then ({ w with blk := b } : Work).passLate x a
    else if entry.mode = .replay ∧ t.one then
      match { x with feed := x.feed.tail }.passLeaf (zeroLine .replay k.key) r n true with
      | .error (.timeout, _) => ({ w with blk := b } : Work).passLate x a
      | .error (st, y) => (w.passEnd (y.failed a st)).on fun b => b.abortBind r j st
      | .ok y =>
        if y.late then ({ w with blk := b } : Work).passLate x a
        else (w.passEnd y).on fun b => b.bindNext r e (((t.leafLines r e n).getLast?.getD n) + 1) t
    else
      let x := if entry.mode = .replay ∧ n = t.lineLo r (e - t.first) then x.initTree r else x
      let ctr := if entry.mode = .replay then ((x.b.mce e).roots.getD (r + 1) {}).counter 0 else 0
      (w.passEnd (zeroLine entry.mode k.key x a none ctr)).on fun b => b.bindNext r e (n + 1) t

/-- BIND_LINE_WRITE: R148 to R150, R163, R470, R501. -/
def execBindLineWrite (region mce : Nat) (sibs : List LineReturn) (s : State) : Host.Outcome State Fault Refusal :=
  atPort (.mctl mce) s <| onMemory s fun w =>
    let t := w.blk.build.tierOfMce mce
    match (w.blk.regions.binds.get? region).bind fun j => (j.next.get? mce).map fun n => (j, n) with
    | none => w
    | some (j, n) =>
      if n < t.lineHi region (mce - t.first) ∧ w.blk.passFree region mce [t.lineAddr n (mce - t.first)] then
        w.bindSlot region mce n j sibs
      else w

/-! ## REGION_UNBIND -/

/-- Fence waits that meet a condition end with a status (R307, R314). -/
def Block.endWaits (b : Block) (st : Status) (p : FenceWaiter → Bool) : Block :=
  ((b.seq.waits.filter p).foldl (fun b w => b.fail w.cmd st)
    { b with seq := { b.seq with waits := b.seq.waits.filter fun w => !p w } })

/-- Measured-load records that cover a region end (R367). -/
def Ctx.forgetRegion (c : Ctx) (r : Nat) : Ctx :=
  { c with measured := c.measured.filter fun e => !overlaps e.2.2.1 e.2.2.2 (r * 2 ^ 28) (2 ^ 28) }

/-- Clears a region's entry and its companion's, and stops its bind and its rekey (R151, R154, R307, R324, R367). -/
def Block.clearRegion (b : Block) (r : Nat) : Block :=
  let entry := b.region r
  let owner := entry.ownerFn.toNat
  let fences := b.fenceHome owner r && (b.fn owner).fenceRegion.toNat = r
  let b := b.endRekey r .badOperand
  let b := match b.regions.binds.get? r with
    | some j => b.succeed j.cmd 0 0
    | none => b
  let b := if (entry.mode = .narrow || entry.mode = .replay) && (b.region (r ^^^ 1)).mode = .companion then
      b.setRegion (r ^^^ 1) {}
    else b
  let b := b.setRegion r {}
  let b := { b with
    regions := { b.regions with binds := Tab.del b.regions.binds r, rekeys := Tab.del b.regions.rekeys r }
    ctxs := b.ctxs.map fun c => (c.1, c.2.forgetRegion r)
    lpes := b.lpes.map fun l =>
      (l.1, { l.2 with remote := l.2.remote.filter fun f => !(f.own && f.line / 2 ^ 21 = r) }) }
  if fences then
    (b.endWaits .badOperand fun w => w.fn = owner).modFn owner fun p => { p with runs := [], leaves := { next := 0 } }
  else b

/-- Unbinds a region; a command that asked for it completes once every MCE has dropped the entry (R151). -/
def Block.unbind (b : Block) (r : Nat) (cmd : Option Nat) : Block := (b.clearRegion r).dropRegion r cmd

/-- Unbinds regions for a command that is not about them. -/
def Block.unbindAll (b : Block) : List Nat → Block
  | [] => b
  | r :: rest => (b.unbind r none).unbindAll rest

/-- The issuer may name a bound region: its owner by check 2 of R127, or the PF under context 0 (R79, R318, R332). -/
def Block.mayNameRegion (b : Block) (c : Cmd) : Bool :=
  (b.region c.region).mode ≠ .none &&
  if c.fn = 0 then c.ctx = 0 else b.ctxOk (b.region c.region) c.ctx

/-- REGION_UNBIND: R151, R318, R332. -/
def execRegionUnbind (cmd : Nat) (s : State) : Host.Outcome State Fault Refusal :=
  onCommand s cmd 0x0202 fun c b =>
    if b.mayNameRegion c && (b.region c.region).mode ≠ .companion then (b.wait cmd).unbind c.region (some cmd)
    else b.fail cmd .badOperand

/-- REGION_QUERY: R155, R318, R332. -/
def execRegionQuery (cmd : Nat) (s : State) : Host.Outcome State Fault Refusal :=
  onCommand s cmd 0x0204 fun c b =>
    if b.mayNameRegion c then b.output cmd (dfld c.desc 24 8) (b.region c.region).bytes .ok 0 0
    else b.fail cmd .badOperand

/-! ## REGION_REKEY -/

/-- The KEYSET as it stands after the key of a previous REDIRECT is removed (R153). -/
def RegionEntry.trimmed (e : RegionEntry) : List (BitVec 16) := if e.redirect then e.keyset.set e.old.toNat 0 else e.keyset

/-- Rekeys that run (R153). -/
def Block.runningRekeys (b : Block) : Nat := (b.regions.rekeys.filter fun e => !e.2.stopped).length

/-- Checks of REGION_REKEY (R153). -/
def Block.rekeyCheck (b : Block) (c : Cmd) : Status :=
  let e := b.region c.region
  let old := dfld c.desc 18 1
  let new := dfld c.desc 19 1
  let h (i : Nat) : Nat := (e.trimmed.getD i 0).toNat
  let cls := (b.build.regionTier c.region).map fun t => bit t.one
  firstBad [require (b.mayNameRegion c && e.bound && e.mode ≠ .scramble && !e.rekeying) .badOperand,
    require (old < 8 && new < 8 && old ≠ new && h old ≠ 0 && h new ≠ 0) .badOperand,
    b.keyCheck (h old) c.fn c.ctx cls useD, b.keyCheck (h new) c.fn c.ctx cls useE,
    require (b.runningRekeys < 8) .retryLater]

/-- Starts a rekey: the entry, the drop of the entry from every region cache, and the progress pointers (R152, R153). -/
def Block.startRekey (b : Block) (id : Nat) (c : Cmd) (t : Tier) : Block :=
  let r := c.region
  let e := b.region r
  let e' := { e with keyset := e.trimmed, old := BitVec.ofNat 3 (dfld c.desc 18 1),
                     new := BitVec.ofNat 3 (dfld c.desc 19 1), rekeying := true, redirect := false }
  let job : RekeyJob := { cmd := some id, next := t.engines.map fun e => (e, t.lineLo r (e - t.first)) }
  let b := ((b.setRegion r e').wait id).dropRegion r none
  { b with regions := { b.regions with rekeys := b.regions.rekeys.put r job } }

/-- REGION_REKEY: R152, R153, R332. -/
def execRegionRekey (cmd : Nat) (s : State) : Host.Outcome State Fault Refusal :=
  onCommand s cmd 0x0203 fun c b =>
    match b.rekeyCheck c, b.build.regionTier c.region with
    | .ok, some t => b.startRekey cmd c t
    | st, _ => b.fail cmd st

/-! ## REKEY_LINE -/

/-- Counts of a rekey: re-sealed, left, poisoned (R154). -/
structure Tally where
  resealed : Nat := 0
  left : Nat := 0
  poisoned : Nat := 0

/-- An access of a rekey with its counts. -/
abbrev Tallied := Nx × Tally

/-- Re-seals a unit of plaintext under the new key. -/
def Nx.putUnit (x : Nx) (s : Sealing) (p slot : Nat) : Nx :=
  x.putData s.addr s.size (s.enc p) slot (if s.mode = .narrow then 4 else 8) (s.tag (s.enc p) false)

/-- Decides one unit of a rekey: it verifies under OLD, or it is poisoned in a tripped region, or left (R153). -/
def rekeyUnit (old new : BitVec 512) (tripped : Bool) (s : Sealing) (newCtr : Nat) (ct : Nat) (tag : Option Nat)
    (slot : Nat) (left : Nx → Nx) (y : Tallied) : Tallied :=
  let opened := match tag with
    | some t => ({ s with key := old } : Sealing).open1 ct t
    | none => .bad
  match opened with
  | .plain p =>
    ((y.1.putUnit { s with key := new, ctr := newCtr } p slot), { y.2 with resealed := y.2.resealed + 1 })
  | _ =>
    if tripped then
      (if s.mode = .narrow then y.1.poisonSector new (s.addr / 128 * 128) (s.addr % 128 / 32)
        else y.1.poisonStore s.mode new s.addr newCtr, { y.2 with poisoned := y.2.poisoned + 1 })
    else (left y.1, { y.2 with left := y.2.left + 1 })

/-- The tag of a unit in its buffered sector; none for a data or tag error. -/
def Nx.tagAt (x : Nx) (slot n : Nat) (err : Bool) : Option Nat :=
  if err || (x.b.mce x.e).tagLost slot n then none else some ((x.b.mce x.e).tagOf slot n)

/-- One sector of a rekey (R153). -/
def rekeySector (old new : BitVec 512) (tripped : Bool) (a : Nat) (ret : LineReturn) (y : Tallied) (s : Nat) : Tallied :=
  let slot := y.1.t.sectorSlot a s
  rekeyUnit old new tripped { mode := .narrow, key := old, addr := a + 32 * s } 0 (fld ret.data.toNat (256 * s) 256)
    (y.1.tagAt slot 4 ret.err) slot id y

/-- One line of a rekey, of a mode with one tag a line (R153, R501). -/
def rekeyLineAt (old new : BitVec 512) (tripped : Bool) (mode : Mode) (a : Nat) (oldCtr newCtr : Nat) (ret : LineReturn)
    (y : Tallied) : Tallied :=
  let slot := y.1.t.tagAddr a
  let x := y.1.takeSectors mode a none ret
  rekeyUnit old new tripped { mode := mode, key := old, addr := a, ctr := oldCtr } newCtr ret.data.toNat
    (x.tagAt slot 8 ret.err) slot (fun x => if mode = .replay then x.carry false a oldCtr newCtr ret else x) (x, y.2)

/-- The lines of a leaf under a rekey: those of the region decided one by one, the others re-sealed (R153, R501). -/
def rekeyLeaf (old new : BitVec 512) (tripped : Bool) (r base : Nat) (addr : Nat → Nat) (before after : Node) :
    List Nat → Tallied → Tallied
  | [], y => y
  | j :: rest, y =>
    let a := addr (base + j)
    let y := if regionOf a = r then
        rekeyLineAt old new tripped .replay a (before.counter j) (after.counter j) (y.1.fetchLine a).1 ((y.1.fetchLine a).2, y.2)
      else (y.1.reseal a (before.counter j) (after.counter j), y.2)
    rekeyLeaf old new tripped r base addr before after rest y

/-- One slot of a rekey: a line, or a leaf of a SEALED_REPLAY region; or the status that ends it. The lines of a leaf that fails
its MAC or cannot be read are left and counted (R120, R153, R158, R163, R501). -/
def Nx.rekeySlot (x : Nx) (entry : RegionEntry) (old new : BitVec 512) (r n : Nat) (ret : LineReturn) :
    Except (Status × Nx) Tallied :=
  let a := x.t.lineAddr n x.chan
  match entry.mode with
  | .narrow => .ok ((List.range 4).foldl (rekeySector old new entry.tripped a ret) (x.takeSectors .narrow a none ret, {}))
  | .replay =>
    match x.moveLeaf (x.t.treeOf a).1 ((x.t.treeOf a).2 / 64) false with
    | .ok (some leaf, leaf', y) =>
      .ok (rekeyLeaf old new entry.tripped r (n - (x.t.treeOf a).2 % 64) (fun k => y.t.lineAddr k y.chan) leaf leaf'
        (List.range 64) (y, {}))
    | .ok (none, _, y) => .error (y.status, y)
    | .error (.ctrExhausted, y) => .error (.ctrExhausted, y)
    | .error (.timeout, y) => .error (.timeout, y)
    | .error (st, y) => .ok (y.failed a st, { left := (x.t.leafLines r x.e n).length })
  | m => .ok (rekeyLineAt old new entry.tripped m a 0 0 ret (x, {}))

/-- P moves to line n of an MCE, and the rekey completes after the last line of every MCE (R154). -/
def Block.rekeyNext (b : Block) (r e n : Nat) (t : Tier) (k : Tally) : Block :=
  let rekeys := Tab.upd b.regions.rekeys r fun j =>
    { j with next := Tab.put j.next e n, resealed := j.resealed + k.resealed, left := j.left + k.left
             poisoned := j.poisoned + k.poisoned }
  let b := { b with regions := { b.regions with rekeys := rekeys } }
  match rekeys.get? r with
  | none => b
  | some j =>
    if j.next.all fun x => t.lineHi r (x.1 - t.first) ≤ x.2 then
      let b := b.endRekey r .ok
      let b := b.setRegion r { b.region r with rekeying := false, redirect := true, tripped := false, failCount := 0 }
      ({ b with regions := { b.regions with rekeys := Tab.del b.regions.rekeys r } }).refreshRegion r
    else b

/-- One slot of a rekey at an MCE, under both keys' schedules; a key that a lookup refuses stops the rekey, and so does a MAJOR
at its limit: REKEYING then stays set and P where it stands, as after a stop under R121 (R501; log 36). -/
def Work.rekeySlot (w : Work) (r e n : Nat) (ret : LineReturn) (feed : List LineReturn) : Work :=
  let entry := w.blk.region r
  let t := w.blk.build.tierOfMce e
  match w.blk.useKey e (entry.key entry.old.toNat) entry.ownerFn.toNat entry.ownerCtx.toNat useD with
  | (.error st, b) => { w with blk := b.endRekey r st }
  | (.ok old, b) =>
    match b.useKey e (entry.key entry.new.toNat) entry.ownerFn.toNat entry.ownerCtx.toNat useE with
    | (.error st, b) => { w with blk := b.endRekey r st }
    | (.ok new, b) =>
      let a := t.lineAddr n (e - t.first)
      let x := (({ w with blk := b } : Work).passBegin e n entry (ret :: feed)).passReads entry.mode a (entry.mode = .replay) false
      let late := ({ w with blk := b } : Work).passLate x a
      match { x with feed := feed }.rekeySlot entry old.key new.key r n ret with
      | .error (.timeout, _) => late
      | .error (st, y) => (w.passEnd y).on fun b => b.endRekey r st
      | .ok y =>
        if y.1.late || (ret.late && t.one) then late
        else
        let last := if entry.mode = .replay then (t.leafLines r e n).getLast?.getD n else n
        (w.passEnd y.1).on fun b => b.rekeyNext r e (last + 1) t y.2

/-- REKEY_LINE: R120, R121, R153, R154, R501. -/
def execRekeyLine (region mce : Nat) (ret : LineReturn) (sibs : List LineReturn) (s : State) :
    Host.Outcome State Fault Refusal :=
  atPort (.mctl mce) s <| onMemory s fun w =>
    let t := w.blk.build.tierOfMce mce
    match (w.blk.regions.rekeys.get? region).bind fun j => if j.stopped then none else j.next.get? mce with
    | none => w
    | some n =>
      let lines := if (w.blk.region region).mode = .replay then t.leafLines region mce n else [n]
      if n < t.lineHi region (mce - t.first) ∧
          w.blk.passFree region mce (lines.map fun k => t.lineAddr k (mce - t.first)) then
        w.rekeySlot region mce n ret sibs
      else w

/-! ## Way groups -/

/-- Takes every node of a way group out of a counter cache, lower levels first (R145, R491). -/
def Nx.drainGroup (g : Nat) : Nat → Nx → Nx
  | 0, x => x
  | f + 1, x =>
    let mine := (x.b.mce x.e).nodes.filter fun n => n.tree.isNone && n.group = g && !n.withheld
    match (mine.find? fun n => n.level = 0).or mine.head? with
    | none => x
    | some v => Nx.drainGroup g f (x.evict v)

/-- Every tier-1 MCE drains a way group, with the lines that each controller returns. -/
def Work.drainGroups (g : Nat) : List (Nat × List LineReturn) → Work → Work
  | [], w => w
  | (e, feed) :: r, w =>
    let x := ({ w := w, feed := feed } : Serving).begin e w.blk.build.tier1 {} []
    Work.drainGroups g r (w.passEnd (Nx.drainGroup g 8192 x))

/-- CC_WAY_APPLIED: R86, R145, R491; the change waits while the sequencer is in reset (R19). -/
def execCcWayApplied (g : BitVec 3) (sibs : List (List LineReturn)) (s : State) : Host.Outcome State Fault Refusal :=
  onMemory s fun w =>
    match w.blk.ways.get? g.toNat with
    | none => w
    | some y =>
      match if y.busy && !w.blk.boot.seqReset then y.next else none with
      | none => w
      | some (fn, assigned, shared) =>
        let es := w.blk.build.tier1.engines
        (Work.drainGroups g.toNat (es.zip (sibs ++ List.replicate es.length [])) w).on fun b =>
          { b with ways := b.ways.put g.toNat { fn := fn, assigned := assigned, shared := shared } }

/-! ## The traffic generator -/

/-- The operands of TRAFFIC_GEN (R167, R349). -/
def Cmd.genShape (c : Cmd) : Bool :=
  let stride := dfld c.desc 24 4
  dfld c.desc 48 8 ≠ 0 && dfld c.desc 20 1 < 2 && dfld c.desc 21 1 < 3 && dfld c.desc 22 1 < 3 &&
  (if dfld c.desc 21 1 = 2 then 1 ≤ stride && stride ≤ 2 ^ 20 else stride = 0) &&
  (if dfld c.desc 20 1 = 0 then dfld c.desc 28 2 = 0 else dfld c.desc 28 2 ≤ 256)

/-- The target: a region of the MCE's tier with an available mode, unbound; bound, in its own mode, only in Blank and Test
(R166). That MODE must then be the region's, and that a sector needs SEALED_NARROW, are readings (R30; log 40). -/
def Block.genTarget (b : Block) (c : Cmd) : Option (Tier × Mode × Bool) :=
  let r := dfld c.desc 18 2
  match b.build.regionTier r with
  | none => none
  | some t =>
    if !List.contains t.engines (dfld c.desc 16 1) then none
    else
      match b.build.bindMode t (dfld c.desc 17 1) with
      | none => none
      | some m =>
        let free := (b.region r).mode = .none && (!needsCompanion t m || (b.region (r ^^^ 1)).mode = .none)
        let own := (b.boot.lc = .blank || b.boot.lc = .test) && (b.region r).bound && (b.region r).mode = m
        if m.code = dfld c.desc 17 1 && (free || own) && (dfld c.desc 22 1 ≠ 0 || m = .narrow) then some (t, m, !free) else none

/-- COUNT (R349). -/
def Cmd.genCount (c : Cmd) : Nat := if dfld c.desc 32 4 = 0 then 2 ^ 32 else dfld c.desc 32 4

/-- Bytes of a request. -/
def Cmd.genLen (c : Cmd) : Nat := if dfld c.desc 22 1 = 0 then 32 else if dfld c.desc 22 1 = 1 then 128 else 256

/-- The data pattern of n words at an address (R167). -/
def genData (a seed pass n : Nat) : Nat := scramble a seed pass n 0

/-- The 72-byte result block (R169, R349). -/
def Cmd.genBlock (c : Cmd) (g : GenRun) : Bytes :=
  ([g.done, g.done * c.genLen, g.mismatches, g.integrity, g.poisoned, g.overflows, g.latMin,
    g.latSum / g.done, g.latMax].map fun x => toLe 8 x).flatten

/-- Binds an unbound target to context 0 with GENERATOR set, with its companion and, in tier 0, its tree on this MCE, and draws
the key of the run (R167). -/
def Work.genStart (w : Work) (id : Nat) (c : Cmd) (t : Tier) (m : Mode) (own : Bool) : Work :=
  let r := dfld c.desc 18 2
  let e := dfld c.desc 16 1
  let run : GenRun := { mce := e, region := r, mode := m, own := own, key := w.blk.random 512 }
  let w := w.on fun b =>
    let b := if own then b
      else
        let entry : RegionEntry := { mode := m, generator := true }
        let b := b.drew.setRegion r entry
        if needsCompanion t m then b.setRegion (r ^^^ 1) { entry with mode := .companion } else b
    { b with regions := { b.regions with gens := b.regions.gens.put id run } }
  if m = .replay ∧ !t.one ∧ !own then
    let x := (({ w := w, feed := [] } : Serving).begin e t (w.blk.region r) []).initTree r
    { w with blk := x.b }
  else w

/-- The run ends: an unbound target returns to MODE NONE and the key is gone (R167). -/
def Block.genEnd (b : Block) (id : Nat) (g : GenRun) : Block :=
  let b := if g.own then b
    else
      let b := if (b.region (g.region ^^^ 1)).generator then b.setRegion (g.region ^^^ 1) {} else b
      (b.setRegion g.region {}).refreshRegion g.region
  { b with regions := { b.regions with gens := Tab.del b.regions.gens id } }

/-- Units of `len` bytes of an MCE's slice of a region, and their addresses in channel-local order (R167). -/
def Tier.genUnits (t : Tier) (r e len : Nat) : Nat := (t.lineHi r (e - t.first) - t.lineLo r (e - t.first)) * 128 / len

def Tier.genUnit (t : Tier) (r e len k : Nat) : Nat := t.prot (128 * t.lineLo r (e - t.first) + len * k) (e - t.first)

/-- Element k of the order of n units at a stride: 0, s, 2s and so on, then 1, s + 1 and so on, so that each comes once. -/
def strideAt (n s k : Nat) : Nat :=
  let q := n / s
  let m := n % s
  if k < m * (q + 1) then k / (q + 1) + k % (q + 1) * s else m + (k - m * (q + 1)) / q + (k - m * (q + 1)) % q * s

/-- The unit that a run takes next, of n; a random permutation takes any that this pass has not taken (R167; log 40). -/
def Block.genNext (b : Block) (c : Cmd) (g : GenRun) (n : Nat) : Nat :=
  match dfld c.desc 21 1 with
  | 0 => g.done % n
  | 1 =>
    let rest := (List.range n).filter fun k => !List.contains g.taken k
    rest.getD ((Config.open64 22 b.fresh).toNat % rest.length) 0
  | _ => strideAt n (dfld c.desc 24 4 * 128 / min 128 c.genLen) (g.done % n)

/-- Whether a request reads: in CHECK every second pass over the slice, in LOAD a share of READ_FRAC / 256 (R167; log 40). -/
def Block.genReads (b : Block) (c : Cmd) (g : GenRun) (n : Nat) : Bool :=
  if dfld c.desc 20 1 = 0 then g.done / n % 2 = 1 else (Config.open64 23 b.fresh).toNat % 256 < dfld c.desc 28 2

/-- Every INJECT writes, one bit of the tag just written is flipped (R167). -/
def Nx.genInject (x : Nx) (mode : Mode) (a : Nat) (sector : Option Nat) : Nx :=
  if mode = .scramble then x
  else
    match x.t.slots mode a sector with
    | [] => x
    | s :: _ => { x with b := x.b.putTag x.e s.1 s.2 ((x.b.mce x.e).tagOf s.1 s.2 ^^^ 1) }

/-- The lines of a unit with the data returned for each. -/
def genLines (a len : Nat) (rets : List LineReturn) : List (Nat × LineReturn) :=
  if len = 256 then [(a, rets.headD {}), (a + 128, rets.tail.headD {})] else [(a / 128 * 128, rets.headD {})]

/-- One write of a run: its lines in order, until one fails (R500). -/
def genWrite (mode : Mode) (key : BitVec 512) (sector : Option Nat) (seed pass : Nat) :
    List (Nat × LineReturn) → Nx → Status × Nx
  | [], x => (.ok, x)
  | (a, ret) :: l, x =>
    let y := x.writeLine mode key a sector (genData a seed pass 16) ret
    if y.1 = .ok then genWrite mode key sector seed pass l y.2 else y

/-- One read of a run: the first failing status, and whether what was read is the pattern (R167, R500). -/
def genRead (mode : Mode) (key : BitVec 512) (sector : Option Nat) (seed pass : Nat) :
    List (Nat × LineReturn) → Nx → Status × Bool × Nx
  | [], x => (.ok, true, x)
  | (a, ret) :: l, x =>
    let y := x.readLine mode key a sector ret
    let want := match sector with
      | some s => fld (genData a seed pass 16) (256 * s) 256
      | none => genData a seed pass 16
    let got := match sector with
      | some s => fld y.2.1 (256 * s) 256
      | none => y.2.1
    let z := genRead mode key sector seed pass l y.2.2
    (if y.1 = .ok then z.1 else y.1, got = want && z.2.1, z.2.2)

/-- The results of a run after a request. -/
def GenRun.note (g : GenRun) (n unit latency overflows : Nat) (write : Bool) (st : Status) (mismatch : Bool) : GenRun :=
  { g with
    done := g.done + 1
    writes := g.writes + bit write
    taken := if (g.done + 1) % n = 0 then [] else unit :: g.taken
    mismatches := g.mismatches + bit (mismatch && st = .ok)
    integrity := g.integrity + bit (st = .integrityFail)
    poisoned := g.poisoned + bit (st = .poisoned)
    overflows := g.overflows + overflows
    latMin := if g.done = 0 then latency else min g.latMin latency
    latSum := g.latSum + latency
    latMax := max g.latMax latency }

/-- The next request of a run: its unit, address and direction. -/
structure GenPlan where
  unit : Nat
  addr : Nat
  reads : Bool

def Block.genPlan (b : Block) (c : Cmd) (g : GenRun) : GenPlan :=
  let t := b.build.tierOfMce g.mce
  let n := t.genUnits g.region g.mce c.genLen
  let k := b.genNext c g n
  { unit := k, addr := t.genUnit g.region g.mce c.genLen k, reads := b.genReads c g n }

/-- One request of a run through the full sealing path of its MCE, charged to requester id 61 (R128, R167 to R169). -/
def Work.genRequest (w : Work) (id : Nat) (c : Cmd) (g : GenRun) (o : GenOutcome) (p : GenPlan) (key : BitVec 512) : Work :=
  let t := w.blk.build.tierOfMce g.mce
  let n := t.genUnits g.region g.mce c.genLen
  let a := p.addr
  let reads := p.reads
  let sector := if c.genLen = 32 then some (a % 128 / 32) else none
  let pass := g.done / n / 2
  let lines := genLines a c.genLen o.rets
  let w := w.on fun b => b.freshen
  let w := lines.foldl (fun w l => w.on fun b =>
    b.xbarServe { fn := 0, ctx := 0, key := 0, rqid := 61 } t g.mode (!reads) sector l.1) w
  let x := { ({ w := w, feed := o.rets.drop lines.length } : Serving).begin g.mce t (w.blk.region g.region)
      (lines.flatMap fun l => w.blk.returnedNodes t l.1 l.2) with quiet := true }
  let seed := dfld c.desc 40 8
  let r := if reads then genRead g.mode key sector seed pass lines x
    else let y := genWrite g.mode key sector seed pass lines x; (y.1, true, y.2)
  let y := if !reads && dfld c.desc 30 2 ≠ 0 && (g.writes + 1) % dfld c.desc 30 2 = 0 && r.1 = .ok
    then r.2.2.genInject g.mode (a / 128 * 128) sector else r.2.2
  let g' := g.note n p.unit o.latency y.overflows (!reads) r.1 (reads && dfld c.desc 20 1 = 0 && !r.2.1)
  let z := y.finish
  { w with blk := { z.b with regions := { z.b.regions with gens := z.b.regions.gens.put id g' } }
           stores := w.stores ++ if g.own then z.stores else [] }

/-- A run goes on: its end when all its requests are done or its MCE is in reset; its key, which for a bound target is KEYSET
entry 0; its next request, once the MCE has served those of the host chip to its lines (R15, R166, R167, R478). -/
def Work.genGo (w : Work) (id : Nat) (c : Cmd) (g : GenRun) (o : GenOutcome) : Work :=
  let entry := w.blk.region g.region
  let p := w.blk.genPlan c g
  if g.done = c.genCount then
    w.on fun b => (b.genEnd id g).output id (dfld c.desc 48 8) (c.genBlock g) .ok g.done g.mismatches
  else if Tab.has w.blk.resets g.mce then w.on fun b => (b.genEnd id g).fail id .engineReset
  else if g.own ∧ !(entry.bound ∧ entry.mode = g.mode) then w.on fun b => (b.genEnd id g).fail id .badOperand
  else if (genLines p.addr c.genLen []).any fun l => w.blk.mustWait l.1 then { w with stuck := true }
  else if g.own then
    match w.blk.useKey g.mce (entry.key 0) entry.ownerFn.toNat entry.ownerCtx.toNat (if p.reads then useD else useE) with
    | (.error st, b) => { w with blk := (b.genEnd id g).fail id st }
    | (.ok k, b) => ({ w with blk := b } : Work).genRequest id c g o p k.key
  else w.genRequest id c g o p g.key

/-- TRAFFIC_GEN: R166 to R169, R349. The row starts the run, makes one request each time it is taken, and completes the
command once all are done (log 40). -/
def execTrafficGen (cmd : Nat) (g : GenOutcome) (s : State) : Host.Outcome State Fault Refusal :=
  onCommandMem s cmd 0x0E01 fun c w =>
    match w.blk.regions.gens.get? cmd with
    | some r => w.genGo cmd c r g
    | none =>
      if w.blk.boot.lc = .endOfLife || w.blk.boot.lc = .invalid then w.on fun b => b.fail cmd .deniedLifecycle
      else if !c.genShape then w.on fun b => b.fail cmd .badOperand
      else
        match w.blk.genTarget c with
        | none => w.on fun b => b.fail cmd .badOperand
        | some (t, m, own) =>
          if w.blk.boot.entropyDown then w.on fun b => b.fail cmd .notReady else w.genStart cmd c t m own

end Sys2Proof.Machine
end

