-- ==== Sys2Proof/Machine/Fences.lean ====
section
/-! DEFINITION. The sealed accesses that the block makes to its own records in memory, and fences (R305 to R308). -/

namespace Sys2Proof.Machine

open Sys2Proof Sys2Proof.Machine.Crypto

/-! ## The block's own records -/

/-- A sealed access to one of the block's records ended otherwise than the block found it in memory: an integrity failure
counts against its region (R158). -/
def Block.recordFailed (b : Block) (k : Asker) (a : Nat) (st : Status) : Block :=
  match b.build.dataTier a with
  | some t => if st = .integrityFail then (b.integrity (t.mce a) a k.fn k.ctx 0).countFailure (regionOf a) (t.mce a) else b
  | none => b

/-- Reads a record inside one line: its checks, then its plaintext, or the status with which the access ended (log 6). -/
def Work.readRecord (w : Work) (k : Asker) (acc : Access) (a n : Nat) : Status × Bytes × Work :=
  if w.patient && w.blk.mustWait a then (.retryLater, [], { w with stuck := true })
  else
    match w.blk.xbarCheck k (a / 128 * 128) useD with
    | (.error st, b) => (st, [], { w with blk := b })
    | (.ok (t, entry, _), b) =>
      let b := b.xbarServe k t entry.mode false none (a / 128 * 128)
      match acc.fail with
      | some st => (st, [], { w with blk := b.recordFailed k a st })
      | none => (.ok, w.read a n, { w with blk := b })

/-- Writes a record inside one line: the whole line is sealed and written. -/
def Work.writeRecord (w : Work) (k : Asker) (acc : Access) (a : Nat) (data : Bytes) : Status × Work :=
  let base := a / 128 * 128
  let y := ({ w := w, feed := acc.rets.tail } : Serving).writeLine k base (mergeLine (w.readLe base 128) (a % 128) data)
    (acc.rets.headD {})
  (y.1, y.2.w)

/-! ## Fences -/

/-- The fence region of a function, when it meets R305. -/
def Block.fencesOf (b : Block) (fn : Nat) : Option Nat :=
  if b.fenceOk fn (b.fn fn).fenceRegion.toNat then some (b.fn fn).fenceRegion.toNat else none

def Cmd.fence (c : Cmd) : Nat := dfld c.desc 16 2
def Cmd.value (c : Cmd) : Nat := dfld c.desc 24 8

/-- A fence's record: VALUE, and whether it is live. -/
structure FenceRec where
  value : Nat
  live : Bool

/-- The address of a fence's record. -/
def fenceAddr (r n : Nat) : Nat := r * 2 ^ 28 + 16 * n

/-- Who accesses a function's fences: KEYSET entry 0 of the region. -/
def Block.fenceAsker (b : Block) (c : Cmd) (r : Nat) : Asker :=
  { fn := c.fn, ctx := c.ctx, key := (b.region r).key 0, rqid := 63 }

/-- A fence command with its fence as memory holds it; the command fails when its region or the access does (R305). -/
def Work.withFence (w : Work) (id : Nat) (c : Cmd) (acc : Access) (act : Nat → FenceRec → Work → Work) : Work :=
  match w.blk.fencesOf c.fn with
  | none => w.on fun b => b.fail id .badOperand
  | some r =>
    match w.readRecord (w.blk.fenceAsker c r) acc (fenceAddr r c.fence) 16 with
    | (.ok, x, w) => act r { value := bfld x 0 8, live := bfld x 8 1 = 1 } w
    | (st, _, w) => w.on fun b => b.fail id st

/-- Writes a fence's record; what follows happens when the access succeeds (R305). -/
def Work.putFence (w : Work) (id : Nat) (c : Cmd) (acc : Access) (r value : Nat) (live : Bool) (act : Block → Block) : Work :=
  match w.writeRecord (w.blk.fenceAsker c r) acc (fenceAddr r c.fence) (toLe 8 value ++ toLe 1 (bit live) ++ toLe 7 0) with
  | (.ok, w) => w.on act
  | (st, w) => w.on fun b => b.fail id st

/-- A wait on one fence of a function. -/
def FenceWaiter.on (w : FenceWaiter) (fn fence : Nat) : Bool := w.fn = fn && w.fence = fence

/-- Releases the waits that a value satisfies (R306, R345). -/
def Block.releaseWaits (b : Block) (fn fence value : Nat) : Block :=
  let met (w : FenceWaiter) : Bool := w.on fn fence && w.value.toNat ≤ value
  (b.seq.waits.filter met).foldl (fun b w => b.succeed w.cmd value 0)
    { b with seq := { b.seq with waits := b.seq.waits.filter fun w => !met w } }

/-- SIGNAL: R305, R306, R308, R345; a reserved operation is refused. -/
def execSignal (cmd : Nat) (acc : Access) (s : State) : Host.Outcome State Fault Refusal :=
  onCommandMem s cmd 0x0A01 fun c w =>
    if dfld c.desc 18 1 = 1 ∨ dfld c.desc 18 1 = 2 then w
    else if 2 < dfld c.desc 18 1 then w.on fun b => b.fail cmd .badOperand
    else
      w.withFence cmd c acc fun r f w =>
        if !f.live then w.on fun b => b.fail cmd .badOperand
        else if c.value < f.value then
          w.on fun b => b.complete cmd .fenceRegression (BitVec.ofNat 64 f.value) 0 false
        else
          w.putFence cmd c acc r c.value true fun b =>
            (b.releaseWaits c.fn c.fence c.value).succeed cmd c.value 0

/-- CREATE: R305, R306, R345. -/
def execCreate (cmd : Nat) (acc : Access) (s : State) : Host.Outcome State Fault Refusal :=
  onCommandMem s cmd 0x0A01 fun c w =>
    if dfld c.desc 18 1 ≠ 1 then w
    else
      w.withFence cmd c acc fun r f w =>
        if f.live then w.on fun b => b.fail cmd .badOperand
        else
          w.putFence cmd c acc r c.value true fun b => b.succeed cmd c.value 0

/-- DESTROY: R305, R306, R345. -/
def execDestroy (cmd : Nat) (acc : Access) (s : State) : Host.Outcome State Fault Refusal :=
  onCommandMem s cmd 0x0A01 fun c w =>
    if dfld c.desc 18 1 ≠ 2 then w
    else
      w.withFence cmd c acc fun r f w =>
        if !f.live then w.on fun b => b.fail cmd .badOperand
        else
          w.putFence cmd c acc r f.value false fun b =>
            (b.endWaits .badOperand fun x => x.on c.fn c.fence).succeed cmd f.value 0

/-- A wait checks and registers itself in one step (R307, R308). -/
def Block.registerWait (b : Block) (id : Nat) (c : Cmd) (f : FenceRec) : Block :=
  if !f.live then b.fail id .badOperand
  else if c.value ≤ f.value then b.succeed id f.value 0
  else if 4096 ≤ b.seq.waits.length then b.fail id .retryLater
  else
    let x : FenceWaiter := { cmd := id, fn := c.fn, fence := c.fence, value := BitVec.ofNat 64 c.value }
    { b.wait id with seq := { (b.wait id).seq with waits := b.seq.waits ++ [x] } }

/-- FENCE_WAIT: R305, R307, R308, R345. -/
def execFenceWait (cmd : Nat) (acc : Access) (s : State) : Host.Outcome State Fault Refusal :=
  onCommandMem s cmd 0x0A02 fun c w =>
    w.withFence cmd c acc fun _ f w => w.on fun b => b.registerWait cmd c f

/-- FENCE_WAIT_TIMEOUT: R307. -/
def execFenceWaitTimeout (cmd : Nat) (s : State) : Host.Outcome State Fault Refusal :=
  onBlock s fun b =>
    match b.cmd? cmd with
    | none => b
    | some c => if dfld c.desc 18 2 = 0 then b else b.endWaits .timeout fun w => w.cmd = cmd

end Sys2Proof.Machine
end

