-- ==== Sys2Proof/Machine/Link.lean ====
section
/-! DEFINITION. The link port engine: packet headers, keys, sequence numbers, replay windows and the job state region,
sealing and sending, requests and their completions, and the receive checks (R40 to R44, R170 to R189, R191, R199,
R205, R206, R212, R213, R409). -/

namespace Sys2Proof.Machine

open Sys2Proof Sys2Proof.Machine.Crypto

/-! ## Headers -/

/-- The fields of a packet header (R170, R172). -/
structure Hdr where
  ty : Nat
  pclass : Nat
  multi : Bool := false
  dport : Nat := 0
  src : Nat
  dst : Nat
  job : Nat := 0
  stream : Nat := 0
  seq : Nat
  len : Nat
  epoch : Nat := 0
  rtag : Nat := 0
  opd : Nat := 0
  deriving DecidableEq, Repr

/-- The 32 bytes of a header (R170). -/
def Hdr.bits (h : Hdr) : BitVec 256 :=
  BitVec.ofNat 256 (le (toLe 1 h.ty ++ toLe 1 (h.pclass + 4 * bit h.multi + 8 * h.dport) ++ toLe 2 h.src ++ toLe 2 h.dst ++
    toLe 2 h.job ++ toLe 4 h.stream ++ toLe 8 h.seq ++ toLe 1 h.len ++ toLe 1 h.epoch ++ toLe 2 h.rtag ++ toLe 8 h.opd))

/-- Reads a header; every field at its whole stored width. -/
def Hdr.read (x : BitVec 256) : Hdr :=
  let n := x.toNat
  { ty := fld n 0 8, pclass := fld n 8 2, multi := n.testBit 10, dport := fld n 11 5, src := fld n 16 16,
    dst := fld n 32 16, job := fld n 48 16, stream := fld n 64 32, seq := fld n 96 64, len := fld n 160 8,
    epoch := fld n 168 8, rtag := fld n 176 16, opd := fld n 192 64 }

/-- Classes that a TYPE may carry: pair 0, group 1, open 2, link 3 (R171); completions take their request's class. -/
def typeClasses (ty : Nat) : List Nat :=
  if ty = 0x01 then [0, 1]
  else if ty = 0x04 then [0, 2]
  else if ty = 0x10 then [0, 1, 2]
  else if ty = 0x11 then [0, 1]
  else if ty = 0x30 then [1]
  else if ty = 0x31 then [2]
  else if ty = 0x40 || ty = 0x41 then [3]
  else if List.contains [0x02, 0x03, 0x05, 0x06, 0x07, 0x12, 0x20, 0x21, 0x22] ty then [0]
  else []

/-- The 12-byte nonce (R175). -/
def Hdr.iv (h : Hdr) : Bytes := toLe 4 (h.src % 4096 + 4096 * h.stream) ++ toLe 8 h.seq

/-- STREAM of a packet that an LPE sends (R177). -/
def streamOf (lpe dst : Nat) (multi : Bool) : Nat := if multi then 4096 * lpe + 2 ^ 19 else dst + 4096 * lpe

/-- The bytes of a header as associated data. -/
def hdrBytes (x : BitVec 256) : Bytes := toLe 32 x.toNat

/-- Bytes from 64-byte units, and units from bytes. -/
def unitBytes (u : List Unit64) : Bytes := (u.map fun x => toLe 64 x.toNat).flatten
def toUnits (b : Bytes) : List Unit64 := (split 64 b).map fun x => BitVec.ofNat 512 (le x)

/-- Beats of a packet at `lphy_*` (R42). -/
def packetBeats (units : Nat) : Nat := ceilDiv (48 + 64 * units) 256

/-- Beats of a packet as it arrives, whatever its length (R42, R43). -/
def rxBeats (p : RxPacket) : Nat := ceilDiv (48 + 64 * p.payload.length + 16 * p.extra.toNat) 256

/-- A beat from its bytes, byte 0 lowest (R31). -/
def beatOf (b : Bytes) : Beat := BitVec.ofNat 2048 (le b)

/-- The beats in which a packet leaves: every one full but the last, which says how many 16-byte units are valid (R42,
R43). -/
def txBeats (lpe : Nat) (first : Bool) : List Bytes → List Cross
  | [] => []
  | [x] => [.lphyTx lpe first true (BitVec.ofNat 5 (x.length / 16)) (beatOf x)]
  | x :: r => .lphyTx lpe first false 0 (beatOf x) :: txBeats lpe false r

/-- The bytes of a packet that leaves: header, payload, tag (R170, R176). -/
def TxPacket.bytes (p : TxPacket) : Bytes := hdrBytes p.hdr ++ unitBytes p.payload ++ toLe 16 p.tag.toNat

def TxPacket.cross (p : TxPacket) (lpe : Nat) : List Cross := txBeats lpe true (split 256 p.bytes)

/-- Seals a payload (R176): ciphertext and tag; an open-class payload stays in the clear. -/
def sealPacket (key : Nat) (h : Hdr) (payload : Bytes) : Bytes × Bytes :=
  if h.pclass = 2 then (payload, (gcmSeal key h.iv (hdrBytes h.bits ++ payload) []).2)
  else gcmSeal key h.iv (hdrBytes h.bits) payload

/-- Opens a payload whose tag verifies (R176). -/
def openPacket (key : Nat) (hdr : BitVec 256) (payload tag : Bytes) : Option Bytes :=
  let h := Hdr.read hdr
  if h.pclass = 2 then (gcmOpen key h.iv (hdrBytes hdr ++ payload) [] tag).map fun _ => payload
  else gcmOpen key h.iv (hdrBytes hdr) payload tag

/-! ## Engines -/

def Block.lpe (b : Block) (n : Nat) : Lpe := b.lpes.getD n {}

def Block.modLpe (b : Block) (n : Nat) (f : Lpe → Lpe) : Block := { b with lpes := b.lpes.put n (f (b.lpe n)) }

/-- The engine id of an LPE (R12). -/
def lpeId (n : Nat) : Nat := 0x40 + n

/-- The id by which the block is addressed. -/
def Block.self (b : Block) : Nat := b.boot.blockId.toNat

/-- An LPE at work inside one step: the command under way, the lines still to come from the memory controller, how an
access to the block's own records ends when it does not succeed, and its index. -/
structure Lx where
  w : Work
  feed : List LineReturn
  fail : Option Status
  n : Nat

def Work.lx (w : Work) (n : Nat) (acc : Access) : Lx := { w := w, feed := acc.rets, fail := acc.fail, n := n }

def Lx.on (x : Lx) (f : Block → Block) : Lx := { x with w := x.w.on f }

def Lx.lpe (x : Lx) : Lpe := x.w.blk.lpe x.n

def Lx.mod (x : Lx) (f : Lpe → Lpe) : Lx := x.on fun b => b.modLpe x.n f

def Lx.serving (x : Lx) : Serving := { w := x.w, feed := x.feed }

def Lx.after (x : Lx) (p : Serving) : Lx := { x with w := p.w, feed := p.feed }

/-- The same step at another LPE. -/
def Lx.at (x : Lx) (n : Nat) : Lx := { x with n := n }

/-- The same step, whose accesses wait at their MCE or do not (R17). -/
def Lx.patient (x : Lx) (p : Bool) : Lx := { x with w := { x.w with patient := p } }

/-! ## Credits -/

/-- Request credit is withheld (R21, R212, R478). -/
def Block.lpeWithheld (b : Block) (n : Nat) : Bool :=
  let l := b.lpe n
  l.short || Tab.has b.resets (lpeId n) || b.pins.blockSafe || 4096 ≤ l.rtags.length + l.quarantine.length ||
  l.txCrd = 0 || !l.txHeld.isEmpty || !l.outWait.isEmpty || !l.ingress.isEmpty

/-- Credits due return when nothing withholds them: A credits as R212 says, W credits unless the engine is in reset, rx
credits when no packet is held (R212, R213); none after a failed kindling (R444). -/
def Block.payLpe (b : Block) (n : Nat) : Block :=
  if b.boot.failed then b
  else
  let l := b.lpe n
  let b := if b.lpeWithheld n then b
    else (b.modLpe n fun l => { l with aCrd := l.aCrd + l.aOwed, aOwed := 0 }).emitTimes (.lreqACrd n) l.aOwed
  let b := if l.short || Tab.has b.resets (lpeId n) then b
    else (b.modLpe n fun l => { l with wCrd := l.wCrd + l.wOwed, wOwed := 0 }).emitTimes (.lreqWCrd n) l.wOwed
  if l.rxOwed = 0 || !l.rxWait.isEmpty || Tab.has b.resets (lpeId n) then b
  else (b.modLpe n fun l => { l with rxCrd := l.rxCrd + l.rxOwed, rxOwed := 0 }).emit (.lphyRxCrd n l.rxOwed)

/-! ## Answers and events -/

/-- The beats of an answer, the last one marked (R40). -/
def dBeats (n : Nat) (tag : BitVec 12) (st : Status) : List Bytes → List Cross
  | [] => [.lreqD n tag st true 0]
  | [x] => [.lreqD n tag st true (beatOf x)]
  | x :: r => .lreqD n tag st false (beatOf x) :: dBeats n tag st r

/-- An answer on D, in beats of 256 bytes; a status other than OK carries no data (R40). -/
def Block.answerLreq (b : Block) (n : Nat) (tag : BitVec 12) (st : Status) (data : Bytes) : Block :=
  b.emits (dBeats n tag st (if st = .ok then split 256 data else []))

/-- A packet is discarded and counted; AUTH_FAIL also raises the alarm and reports to the PF and the function that holds
the job (R181, R204, R206, R461). -/
def Block.discard (b : Block) (n reason src job fn : Nat) : Block :=
  let v : Ev := { code := 0x21, engine := lpeId n, fn := fn, data := [(0, reason), (2, src % 4096), (4, job)] }
  if reason = 5 then b.alarm 3 v (ownerAndPf fn) else b.raise v []

/-! ## The job state region -/

/-- Live contexts of the function that holds a job and have joined it (R181, R189). -/
def Block.joined (b : Block) (id : Nat) (j : Job) : List Nat :=
  Tab.keys (α := Ctx) (b.ctxs.filter fun c => c.2.fn = j.fn && List.contains c.2.jobs id)

/-- Who accesses a region for a job: the lowest KEYSET entry whose parent is the job key, with the context that owns it
when that context has joined (R183, R189). -/
def Block.jobAsker (b : Block) (id : Nat) (j : Job) (r : Nat) (narrow : Bool) : Option Asker :=
  let e := b.region r
  (((List.range 8).map e.key).find? fun h =>
      h ≠ 0 && (b.slot h).parentSlot.toNat = j.slot && (b.slot h).parentGen = j.gen && !(b.slot h).isEmpty).map fun h =>
    let own := (b.slot h).ownerCtx.toNat
    { fn := j.fn, ctx := if List.contains (b.joined id j) own then own else (b.joined id j).headD 0, key := h,
      remote := true, narrow := narrow }

/-- Frames of a remote line cache (R194). -/
def remoteFrames : Nat := 8192

def RemoteLine.isState (f : RemoteLine) (id line : Nat) : Bool := f.own && f.job.toNat = id && f.line = line

/-- Puts a packet behind those that wait to be sealed. -/
def Lx.post (x : Lx) (o : Outgoing) : Lx := x.mod fun l => { l with outWait := l.outWait ++ [o] }

/-- The status block of a completion (R191). -/
def cplBytes (st : Status) (old : Nat) : Bytes := toLe 2 st.code.toNat ++ toLe 6 0 ++ toLe 8 old ++ toLe 48 0

/-- The operation block (R186). -/
def opBlock (addr rlen aop o1 o2 cnt : Nat) : Bytes :=
  toLe 8 addr ++ toLe 2 rlen ++ toLe 1 aop ++ toLe 5 0 ++ toLe 8 o1 ++ toLe 8 o2 ++ toLe 8 cnt ++ toLe 24 0

/-- Who accesses the line of an own frame: the kiln for an anchor region (R221), else the job (R183). -/
def Block.frameAsker (b : Block) (id r : Nat) : Option Asker :=
  match b.reductions.find? fun k => k.2.anchor = r with
  | some k => some { fn := k.2.fn, ctx := k.2.ctx.toNat, key := (b.region r).key 0 }
  | none => (b.jobs.get? id).bind fun j => b.jobAsker id j r false

/-- A frame leaves the cache: a dirty state line is written back, a line of another block is reported by EVICT (R183,
R199). -/
def Lx.evictFrame (x : Lx) (f : RemoteLine) : Lx :=
  if f.own then
    if !f.dirty then x
    else
      match x.w.blk.frameAsker f.job.toNat (f.line * 128 / 2 ^ 28) with
      | none => x
      | some k =>
        let r := x.serving.next
        x.after (r.2.writeLine k (f.line * 128) (x.w.readLe (f.line * 128) 128) r.1).2
  else
    x.post { ty := 0x22, pclass := 0, dst := f.home.toNat, job := f.job.toNat, dport := f.line % 4,
             payload := opBlock (f.line * 128) 0 0 0 0 0 }

/-- Puts a frame first and evicts what no longer fits, least recently used (R194). -/
def Lx.putFrame (x : Lx) (f : RemoteLine) : Lx :=
  let out := x.lpe.remote.drop (remoteFrames - 1)
  out.foldl (fun x f => x.evictFrame f) (x.mod fun l => { l with remote := f :: l.remote.take (remoteFrames - 1) })

/-- Brings the line of a job's state region, or of an anchor region, into a frame of this LPE (R183, R221). -/
def Lx.stateLine (x : Lx) (id r off : Nat) : Status × Lx :=
  let a := r * 2 ^ 28 + off / 128 * 128
  match x.lpe.remote.find? fun f => f.isState id (a / 128) with
  | some f => (.ok, x.mod fun l => { l with remote := f :: l.remote.filter fun g => !g.isState id (a / 128) })
  | none =>
    match x.w.blk.frameAsker id r with
    | none => (.noKey, x)
    | some k =>
      match x.w.readRecord k { fail := x.fail } a 0 with
      | (.ok, _, w) =>
        (.ok, { x with w := w }.putFrame
          { own := true, job := BitVec.ofNat 16 id, line := a / 128, chain := (w.blk.chain k.key).getD [] })
      | (st, _, w) => (st, { x with w := w })

/-- Brings in every line of a record. -/
def Lx.stateLines (x : Lx) (id r off : Nat) : Nat → Status × Lx
  | 0 => (.ok, x)
  | k + 1 =>
    match x.stateLine id r off with
    | (.ok, y) => y.stateLines id r (off + 128) k
    | (st, y) => (st, y)

/-- Lines that a record touches. -/
def linesOf (off n : Nat) : Nat := (off + n - 1) / 128 - off / 128 + 1

/-- Reads a record of the state region. -/
def Lx.readState (x : Lx) (id r off n : Nat) : Status × Bytes × Lx :=
  match x.stateLines id r (off / 128 * 128) (linesOf off n) with
  | (.ok, y) => (.ok, y.w.read (r * 2 ^ 28 + off) n, y)
  | (st, y) => (st, [], y)

/-- Writes a record whose lines are in frames: they become dirty. -/
def Lx.writeState (x : Lx) (id r off : Nat) (data : Bytes) : Lx :=
  let lo := (r * 2 ^ 28 + off) / 128
  let n := linesOf off data.length
  let mark (f : RemoteLine) : RemoteLine :=
    if f.own && f.job.toNat = id && lo ≤ f.line && f.line < lo + n then { f with dirty := true } else f
  { x.mod (fun l => { l with remote := l.remote.map mark }) with
    w := (x.mod fun l => { l with remote := l.remote.map mark }).w.write (r * 2 ^ 28 + off) data }

/-! ## Keys (R179, R180) -/

/-- The job key's schedule in an engine, of the generation that the job was given (R14, R336). -/
def Block.jobKey (b : Block) (e : Nat) (j : Job) : Except Status CachedKey × Block :=
  match (b.cache e).find j.slot .plain with
  | some k => if Chain.holds k.chain j.slot j.gen then b.useKey e j.slot j.fn 0 useV else (.error .noKey, b)
  | none => if (b.slot j.slot).gen = j.gen then b.useKey e j.slot j.fn 0 useV else (.error .noKey, b)

/-- A derived key of a job in an engine's cache. -/
def Block.derivedKey (b : Block) (e : Nat) (j : Job) (w : Derived) : Option CachedKey :=
  ((b.cache e).find j.slot w).filter fun k => Chain.holds k.chain j.slot j.gen

/-- CX.pair and CX.group (R99). -/
def pairKey (job : Bytes) (id src dst epoch : Nat) : Bytes :=
  derive job "CX.pair" (toLe 2 id ++ toLe 2 src ++ toLe 2 dst ++ toLe 4 epoch) 256
def groupKey (job : Bytes) (id epoch : Nat) : Bytes := derive job "CX.group" (toLe 2 id ++ toLe 4 epoch) 256

/-- Installs a derived key with the record of the job key it came from. -/
def Block.installDerived (b : Block) (e : Nat) (k : CachedKey) (w : Derived) (mat : Bytes) : Block :=
  b.modCache e fun c =>
    c.install { k with what := w, key := BitVec.ofNat 512 (le mat) } (b.build.cacheDepth e)

/-- What a search for a packet's key ends in. -/
inductive KeyFound where
  | key (k : Nat) (chain : Chain)
  | wait
  | bad (st : Status)

/-- The job key's material in a schedule. -/
def CachedKey.bytes32 (k : CachedKey) : Bytes := toLe 32 k.key.toNat

/-- The key of a packet of a class from src to dst in an epoch: the group key at once, a pair key when the lane has
derived it (R179). -/
def Block.packetKey (b : Block) (n id : Nat) (j : Job) (pclass src dst : Nat) (epoch : BitVec 32) : KeyFound × Block :=
  let e := lpeId n
  let what : Derived := if pclass = 0 then .pair (BitVec.ofNat 12 src) (BitVec.ofNat 12 dst) epoch else .group epoch
  match b.derivedKey e j what with
  | some k => (.key k.key.toNat k.chain, b.touchKey e k)
  | none =>
    match b.jobKey e j with
    | (.error st, b) => (.bad st, b)
    | (.ok k, b) =>
      if pclass = 0 then
        let q : LaneJob := { job := id, src := BitVec.ofNat 12 src, dst := BitVec.ofNat 12 dst, epoch := epoch }
        (.wait, b.modLpe n fun l => { l with lane := if List.contains l.lane q then l.lane else l.lane ++ [q] })
      else
        let mat := groupKey k.bytes32 id epoch.toNat
        (.key (le mat) k.chain, b.installDerived e k what mat)

/-! ## Sending -/

/-- A packet leaves, or waits behind others for beat credit (R42). -/
def Block.leave (b : Block) (n : Nat) (p : TxPacket) (answer : Option (BitVec 12)) : Block :=
  let b := b.count 2 (fld p.hdr.toNat 8 2) (64 * p.payload.length)
  let b := (b.modLpe n fun l => { l with txCrd := l.txCrd - packetBeats p.payload.length }).emits (p.cross n)
  match answer with
  | some tag => b.answerLreq n tag .ok []
  | none => b

def Block.transmit (b : Block) (n : Nat) (p : TxPacket) (answer : Option (BitVec 12)) : Block :=
  if (b.lpe n).txHeld.isEmpty && packetBeats p.payload.length ≤ (b.lpe n).txCrd then b.leave n p answer
  else b.modLpe n fun l => { l with txHeld := l.txHeld ++ [(p, answer)] }

/-- Held packets leave while the link controller grants credit. -/
def Block.drainTx (b : Block) (n : Nat) : Nat → Block
  | 0 => b
  | f + 1 =>
    match (b.lpe n).txHeld with
    | [] => b
    | (p, a) :: r =>
      if packetBeats p.payload.length ≤ (b.lpe n).txCrd then
        ((b.modLpe n fun l => { l with txHeld := r }).leave n p a).drainTx n f
      else b

/-- Offset of the sequence counter of an LPE towards a block, or of its MULTI counter (R185). -/
def counterOff (n dst : Nat) (multi : Bool) : Nat :=
  if multi then 0x860_0000 + 16 * n else 0x840_0000 + 16 * (32 * dst + n)

/-- How the sealing of one packet ends. -/
inductive Sealed where
  | sent (seq : Nat)
  | wait
  | failed (st : Status)

/-- The next sequence number of a counter record: 1 unless it is of the present epoch, and 1 in a record that has never been
written (R178, R185). -/
def counterSeq (rec : Bytes) (epoch : BitVec 32) : Nat :=
  if bfld rec 8 4 = epoch.toNat && bfld rec 0 8 ≠ 0 then bfld rec 0 8 else 1

/-- Seals and sends one packet (R175 to R180, R185, R409). A counter at its limit holds the packet (R178). -/
def Lx.sealNow (x : Lx) (o : Outgoing) : Sealed × Lx :=
  match x.w.blk.jobs.get? o.job with
  | none => (.failed .badOperand, x)
  | some j =>
    match j.stateRegion with
    | none => (.failed .badOperand, x)
    | some r =>
      if j.torn then (.failed .jobTorn, x)
      else if !x.lpe.member then (.failed .notReady, x)
      else
        match x.w.blk.packetKey x.n o.job j o.pclass x.w.blk.self o.dst j.epoch with
        | (.bad st, b) => (.failed st, { x with w := { x.w with blk := b } })
        | (.wait, b) => (.wait, { x with w := { x.w with blk := b } })
        | (.key key _, b) =>
          let off := counterOff x.n o.dst o.multi
          match ({ x with w := { x.w with blk := b } } : Lx).readState o.job r off 16 with
          | (.ok, rec, x) =>
            let seq := counterSeq rec j.epoch
            if seq = 2 ^ 64 - 1 then (.wait, x)
            else
              let h : Hdr :=
                { ty := o.ty, pclass := o.pclass, multi := o.multi, dport := o.dport, src := x.w.blk.self, dst := o.dst,
                  job := o.job, stream := streamOf x.n o.dst o.multi, seq := seq, len := o.payload.length / 64 - 1,
                  epoch := j.epoch.toNat % 256, rtag := o.rtag, opd := o.opd }
              let c := sealPacket key h o.payload
              let x := x.writeState o.job r off (toLe 8 (seq + 1) ++ toLe 4 j.epoch.toNat ++ toLe 4 0)
              (.sent seq, x.on fun b =>
                b.transmit x.n { hdr := h.bits, payload := toUnits c.1, tag := BitVec.ofNat 128 (le c.2) } o.answer)
          | (st, _, x) => (.failed st, x)

/-- Sealing reads the counter without waiting at the MCE: nothing a packet holds up is opened (R17). -/
def Lx.sealOut (x : Lx) (o : Outgoing) : Sealed × Lx :=
  let y := (x.patient false).sealNow o
  (y.1, y.2.patient x.w.patient)

/-- Changes an outstanding request. -/
def Lx.modReq (x : Lx) (rtag : Nat) (f : Outstanding → Outstanding) : Lx :=
  x.mod fun l => { l with rtags := l.rtags.upd rtag f }

/-- The bytes that a request is answered with: the part of the line that a LOAD_CACHE asked for, or what came. -/
def Outstanding.answer (o : Outstanding) : Bytes :=
  if o.req.ty = 1 then slice o.data (o.req.addr.toNat % 128) (64 * (o.req.len.toNat + 1)) else o.data

/-- The commands that wait on a reduction end with a status; what it accumulated is gone and its slot stays (R228,
R238). -/
def Block.endReduction (b : Block) (slot : Nat) (st : Status) : Block :=
  match b.reductions.get? slot with
  | none => b
  | some k =>
    if k.ended then b
    else
      (k.expWait ++ k.sumWait).foldl (fun b x => b.fail x.1 st)
        { b with
          reductions := b.reductions.put slot { k with ended := true, acc := [], bad := [], expWait := [], sumWait := [] }
          lpes := b.lpes.map fun e => (e.1, { e.2 with raises := e.2.raises.filter fun g => g.slot ≠ slot }) }

/-- An outstanding request ends with a status (R206, R210, R211, R222). -/
def Block.answerOut (b : Block) (n : Nat) (o : Outstanding) (st : Status) : Block :=
  match o.kiln with
  | some slot => if st = .ok then b else b.endReduction slot st
  | none => b.answerLreq n o.req.tag st o.answer

/-- A request ends once every packet of it has been sealed and answered (R188). -/
def Lx.endReq (x : Lx) (rtag : Nat) : Lx :=
  match x.lpe.rtags.get? rtag with
  | none => x
  | some o =>
    if o.unsent = 0 && o.seqs.isEmpty then
      (x.mod fun l => { l with rtags := Tab.del l.rtags rtag }).on fun b => b.answerOut x.n o o.status
    else x

/-- A request keeps the first status that is not OK. -/
def Outstanding.worsen (o : Outstanding) (st : Status) : Outstanding :=
  if o.status = .ok then { o with status := st } else o

/-- Seals the waiting packets of a list in order; those that must wait stay, oldest first. -/
def Lx.sealList : List Outgoing → List Outgoing → Lx → List Outgoing × Lx
  | [], keep, x => (keep, x)
  | o :: r, keep, x =>
    match x.sealOut o with
    | (.wait, x) => Lx.sealList r (keep ++ [o]) x
    | (.sent seq, x) =>
      Lx.sealList r keep (if o.req then x.modReq o.rtag fun q => { q with unsent := q.unsent - 1, seqs := q.seqs ++ [seq] }
        else x)
    | (.failed st, x) =>
      let x := if o.req then
          (x.modReq o.rtag fun q => { q.worsen st with unsent := q.unsent - 1 }).endReq o.rtag
        else x
      let x := match o.answer with
        | some tag => x.on fun b => b.answerLreq x.n tag st []
        | none => x
      Lx.sealList r keep x

/-- Seals every packet that can be sealed now; an eviction on the way adds packets of its own. -/
def Lx.flush : Nat → Lx → Lx
  | 0, x => x
  | f + 1, x =>
    if x.lpe.outWait.isEmpty then x
    else
      let y := Lx.sealList x.lpe.outWait [] (x.mod fun l => { l with outWait := [] })
      if y.2.lpe.outWait.isEmpty then y.2.mod fun l => { l with outWait := y.1 }
      else Lx.flush f (y.2.mod fun l => { l with outWait := y.1 ++ l.outWait })

/-- Posts a packet and seals what can be sealed. -/
def Lx.send (x : Lx) (o : Outgoing) : Lx := Lx.flush 64 (x.post o)

/-! ## Requests at `lreq_*` -/

/-- W beats of a request (R41). -/
def requestBeats (ty len : Nat) : Nat :=
  let data := ceilDiv (64 * (len + 1)) 256
  if ty = 2 || ty = 5 then data else if ty = 4 then data + 1 else if ty = 3 then 1 else 0

/-- The packet TYPE of a request (R171, R174). -/
def requestType (ty : Nat) : Nat := [0x01, 0x02, 0x03, 0x04, 0x05, 0x06, 0x07].getD ty 0

/-- The bytes of W beats. -/
def beatBytes (l : List Beat) : Bytes := (l.map fun b => toLe 256 b.toNat).flatten

/-- An LREQ parameter beat follows R41. -/
def paramOk (r : LinkReq) (data : Bytes) : Bool :=
  if r.ty = 4 then allZero (slice data 8 248)
  else if r.ty = 3 then r.len = 0 && r.addr.toNat % 8 = 0 && allZero (slice data 1 7) && allZero (slice data 24 232)
  else true

/-- Range rules of R186, R194 and R201. -/
def Block.rangeOk (n : Nat) (r : LinkReq) : Bool :=
  let a := r.addr.toNat
  (r.ty = 5 || a < 2 ^ 42) &&
  (!(r.ty = 1 || r.ty = 6) || a % 128 + 64 * (r.len.toNat + 1) ≤ 128) &&
  (r.ty ≠ 1 || n % 4 = a / 128 % 4) &&
  (!(r.ty = 0 && r.pclass = 1) || n = r.dst.toNat % 4)

/-- The checks on a request, in order (R41, R174, R194, R201, R210, R409). -/
def Block.lreqCheck (b : Block) (n : Nat) (r : LinkReq) (data : Bytes) : Status :=
  let joined := ((b.ctxs.get? r.ctx.toNat).map fun c => List.contains c.jobs r.job.toNat).getD false
  if 7 ≤ r.ty.toNat || r.pclass = 3 || !List.contains (typeClasses (requestType r.ty.toNat)) r.pclass.toNat then .badOperand
  else if (b.jobs.get? r.job.toNat).any fun j => j.torn then .jobTorn
  else if !joined || !Block.rangeOk n r || !paramOk r data then .badOperand
  else if !(b.lpe n).member then .notReady
  else .ok

/-- TOKEN of a group load (R201). -/
def loadToken (key addr rlen : Nat) : Nat :=
  le ((aesBlock (roundKeys key) (toLe 8 addr ++ toLe 2 rlen ++ toLe 6 0)).take 8)

/-- The data of a store or copy, one packet for each 4,032 bytes (R188). -/
def storePieces (addr cnt : Nat) (data : Bytes) : List Bytes :=
  (split 4032 data).zipIdx.map fun p => opBlock (addr + 4032 * p.2) 0 0 0 0 cnt ++ p.1

/-- The payloads of a request's packets (R41, R186, R188). -/
def requestPayloads (r : LinkReq) (data : Bytes) : List Bytes :=
  let n := 64 * (r.len.toNat + 1)
  let a := r.addr.toNat
  if r.ty = 0 || r.ty = 6 then [opBlock a r.len.toNat 0 0 0 0]
  else if r.ty = 1 then [opBlock a 0 0 0 0 0]
  else if r.ty = 2 then storePieces a 0 (slice data 0 n)
  else if r.ty = 4 then storePieces a (bfld data 0 8) (slice data 256 n)
  else if r.ty = 3 then [opBlock a 0 (bfld data 0 1) (bfld data 8 8) (bfld data 16 8) 0]
  else [slice data 0 n]

/-- The destination port of a request: that of the line's directory (R194), that of the group load's home (R201), one of the
four of the kiln that holds a REDUCE's run (R219), and otherwise one that no rule fixes. -/
def Block.requestPort (b : Block) (r : LinkReq) (data : Bytes) : Nat :=
  if r.ty = 1 || r.ty = 6 then r.addr.toNat / 128 % 4
  else if r.ty = 0 && r.pclass = 1 then r.dst.toNat % 4
  else if r.ty = 5 then 4 * (bfld data 12 4 / 128 % b.build.kilns) + (Config.dport b.fresh).toNat % 4
  else (Config.dport b.fresh).toNat

/-- Marks the last packet of a list to answer its request when it leaves. -/
def answerLast (tag : BitVec 12) : List Outgoing → List Outgoing
  | [] => []
  | [o] => [{ o with answer := some tag }]
  | o :: r => o :: answerLast tag r

/-- The lowest RTAG that is neither outstanding nor in quarantine (R206, R212). -/
def Lpe.freeRtag (l : Lpe) : Option Nat :=
  (List.range 4096).find? fun k => !Tab.has l.rtags k && !(l.quarantine.any fun q => q.rtag = k)

/-- A line of another block in the cache. -/
def RemoteLine.isRemote (f : RemoteLine) (home job line : Nat) : Bool :=
  !f.own && f.home.toNat = home && f.job.toNat = job && f.line = line

/-- The TOKEN that a request's packets carry: that of a group load, else zero (R201). -/
def Lx.token (x : Lx) (r : LinkReq) (j : Job) : Nat :=
  if r.ty = 0 && r.pclass = 1 then
    match x.w.blk.packetKey x.n r.job.toNat j 1 x.w.blk.self r.dst.toNat j.epoch with
    | (.key k _, _) => loadToken k r.addr.toNat r.len.toNat
    | _ => 0
  else 0

/-- The packets of a request, none of them sealed (R174, R188, R201). -/
def Lx.packets (x : Lx) (r : LinkReq) (data : Bytes) (j : Job) (port : Nat) : List Outgoing :=
  (requestPayloads r data).map fun p =>
    { ty := requestType r.ty.toNat, pclass := r.pclass.toNat, dst := r.dst.toNat, job := r.job.toNat, dport := port,
      opd := x.token r j, payload := p }

/-- COPY and REDUCE hold no RTAG: their packets go out, and the last one to leave answers the request (R192, R226). -/
def Lx.postAll (x : Lx) (r : LinkReq) (l : List Outgoing) : Lx :=
  Lx.flush 64 (x.mod fun p => { p with outWait := p.outWait ++ answerLast r.tag l })

/-- A cached line of another block is delivered at once (R194). -/
def Lx.deliver (x : Lx) (r : LinkReq) (j : Job) (f : RemoteLine) : Lx :=
  (x.mod fun l => { l with
      remote := f :: l.remote.filter fun g => !g.isRemote r.dst.toNat r.job.toNat (r.addr.toNat / 128) }).on
    fun b => b.answerLreq x.n r.tag .ok ({ req := r, fn := j.fn, data := toLe 128 f.data.toNat } : Outstanding).answer

/-- A request takes an RTAG, and its packets go out under it (R188, R206, R212). -/
def Lx.ask (x : Lx) (r : LinkReq) (j : Job) (tag : Nat) (p : List Outgoing) : Lx :=
  Lx.flush 64 (x.mod fun l =>
    { l with
      rtags :=
        l.rtags.put tag
          { req := r, fn := (x.w.blk.ctxFn r.ctx.toNat).getD j.fn, unsent := p.length
            token := if r.ty = 0 && r.pclass = 1 then some (BitVec.ofNat 64 (x.token r j)) else none }
      outWait := l.outWait ++ p.map fun o => { o with rtag := tag, req := true } })

/-- The line that a LOAD_CACHE finds in the cache (R194). -/
def Lpe.cachedLine (l : Lpe) (r : LinkReq) : Option RemoteLine :=
  if r.ty = 1 then l.remote.find? fun f => f.isRemote r.dst.toNat r.job.toNat (r.addr.toNat / 128) else none

/-- A request that passed its checks is packetised: a cached line is delivered at once; COPY and REDUCE hold no RTAG; the
others take one (R188, R192, R194, R201, R226). -/
def Lx.startReq (x : Lx) (r : LinkReq) (data : Bytes) : Lx :=
  match x.w.blk.jobs.get? r.job.toNat with
  | none => x
  | some j =>
    let port := x.w.blk.requestPort r data
    let x := x.on fun b => b.freshen
    let p := x.packets r data j port
    if r.ty = 4 || r.ty = 5 then x.postAll r p
    else
      match x.lpe.cachedLine r with
      | some f => x.deliver r j f
      | none =>
        match x.lpe.freeRtag with
        | none => x
        | some tag => x.ask r j tag p

/-- A request leaves the ingress queue and its beats are consumed: their credits are due (R34, R40, R41). -/
def Lpe.leaves (l : Lpe) (r : LinkReq) : Lpe :=
  { l with aOwed := l.aOwed + 1, wOwed := l.wOwed + requestBeats r.ty.toNat r.len.toNat }

/-- The requests of the ingress queue that a condition names leave it. -/
def Lpe.evict (l : Lpe) (p : LinkReq → Bool) : Lpe :=
  (l.ingress.filter fun e => p e.1).foldl (fun l e => l.leaves e.1) { l with ingress := l.ingress.filter fun e => !p e.1 }

/-- The bytes of a request's beats (R41). -/
def lreqData (r : LinkReq) (beats : List Beat) : Bytes :=
  slice (beatBytes beats) 0 (256 * requestBeats r.ty.toNat r.len.toNat)

/-- Checks a request and starts it, or answers it. -/
def Lx.takeReq (x : Lx) (r : LinkReq) (beats : List Beat) : Lx :=
  match x.w.blk.lreqCheck x.n r (lreqData r beats) with
  | .ok => x.startReq r (lreqData r beats)
  | st => x.on fun b => b.answerLreq x.n r.tag st []

/-! ## Arbitration (R422) -/

/-- A request can be served: nothing waits for beat credit before it, and it needs no RTAG or one is free. -/
def Lpe.canServe (l : Lpe) (r : LinkReq) : Bool :=
  l.txHeld.isEmpty && (r.ty = 4 || r.ty = 5 || l.rtags.length + l.quarantine.length < 4096)

/-- A request as the arbitration sees it: its requester is bits [5:0] of the function that owns its context, its class its
type, its size in lines of 128 bytes. -/
def Block.lreqBid (b : Block) (e : LinkReq × List Beat) : Bid (LinkReq × List Beat) :=
  { what := e, rq := (b.ctxFn e.1.ctx.toNat).getD 0 % 64, cls := e.1.ty.toNat, cost := ceilDiv (64 * (e.1.len.toNat + 1)) 128 }

/-- The request that an LPE serves next. -/
def Lx.chooseReq (x : Lx) : Option ((LinkReq × List Beat) × Lx) :=
  let l := x.lpe
  let bids := (l.ingress.filter fun e => l.canServe e.1).map x.w.blk.lreqBid
  (x.w.blk.arbitrate { minLeft := l.minLeft, deficit := l.deficit, lastReq := l.lastReq, lastClass := l.lastClass } bids
    true).map fun r =>
      (r.1, x.mod fun l => { l with
        minLeft := r.2.minLeft, deficit := r.2.deficit, lastReq := r.2.lastReq, lastClass := r.2.lastClass
        ingress := l.ingress.erase r.1 })

/-- Go counter raises that wait for an RTAG are sent while there are RTAGs (R222). -/
def Lx.drainRaises : Nat → Lx → Lx
  | 0, x => x
  | f + 1, x =>
    match x.lpe.raises, x.lpe.freeRtag with
    | g :: rest, some tag =>
      let o : Outstanding :=
        { req := { lpe := x.n, ty := 3, dst := BitVec.ofNat 12 g.dst, job := BitVec.ofNat 16 g.job, pclass := 2,
                   addr := BitVec.ofNat 56 g.addr }
          fn := ((x.w.blk.jobs.get? g.job).map fun j => j.fn).getD 0, kiln := some g.slot }
      Lx.drainRaises f <| Lx.flush 64 <| x.mod fun l =>
        { l with
          raises := rest
          rtags := l.rtags.put tag o
          outWait :=
            l.outWait ++
              [{ ty := 0x04, pclass := 2, dst := g.dst, job := g.job, dport := 0, rtag := tag, req := true,
                 payload := opBlock g.addr 0 4 g.value 0 0 }] }
    | _, _ => x

/-- Requests of the ingress queue are served, in the order of R422, while one can be. -/
def Lx.drainIngress : Nat → Lx → Lx
  | 0, x => x
  | f + 1, x =>
    match x.chooseReq with
    | none => x
    | some (e, x) => Lx.drainIngress f ((x.mod fun l => l.leaves e.1).takeReq e.1 e.2)

/-- The LPE's step ends: requests that can start do, and credits due return. -/
def Lx.done (x : Lx) : Work :=
  let y := Lx.drainRaises 4096 x
  ((Lx.drainIngress y.lpe.ingress.length y).on fun b => b.payLpe x.n).w

/-- A credit violation at a fabric request port (R34, R40, R475). -/
def Block.lreqViolation (b : Block) (n : Nat) : Block :=
  (b.blockReset .creditViolation (lpeId n)).modLpe n fun l => { l with halted := true }

/-- A request, with its beats, enters an LPE (R34, R40, R41, R174, R478). -/
def Work.lreq (w : Work) (r : LinkReq) (beats : List Beat) (acc : Access) : Work :=
  let n := r.lpe
  let l := w.blk.lpe n
  let need := requestBeats r.ty.toNat r.len.toNat
  if w.blk.pins.blockSafe || l.halted then w
  else if l.aCrd = 0 || l.wCrd < need then w.on fun b => b.lreqViolation n
  else
    let x := (w.lx n acc).mod fun l => { l with aCrd := l.aCrd - 1, wCrd := l.wCrd - need }
    if Tab.has w.blk.resets (lpeId n) then ((x.mod fun l => l.leaves r).on fun b => b.answerLreq n r.tag .engineReset []).done
    else if x.w.blk.lreqCheck n r (lreqData r beats) ≠ .ok then ((x.mod fun l => l.leaves r).takeReq r beats).done
    else (x.mod fun l => { l with ingress := l.ingress ++ [(r, beats)] }).done

/-! ## Windows (R182, R185) -/

structure Window1 where
  h : Nat := 0
  map : Nat := 0

def Window1.admits (w : Window1) (s : Nat) : Bool :=
  s ≠ 0 && (w.h < s || (w.h - s < 4096 && !w.map.testBit (w.h - s)))

def Window1.accept (w : Window1) (s : Nat) : Window1 :=
  let w := if w.h < s then { h := s, map := if s - w.h < 4096 then (w.map <<< (s - w.h)) % 2 ^ 4096 else 0 } else w
  { w with map := w.map ||| 2 ^ (w.h - s) }

/-- Offset of the window record of a packet (R185). -/
def windowOff (h : Hdr) : Nat :=
  528 * (64 * (h.src % 4096) + (if h.stream.testBit 19 then 32 else 0) + fld h.stream 12 5)

/-- A window record as it reads in the job's present epoch (R185, log 127). -/
def readWindow (rec : Bytes) (epoch : BitVec 32) : Window1 :=
  if bfld rec 520 4 = epoch.toNat then { h := bfld rec 0 8, map := bfld rec 8 512 } else {}

def Window1.bytes (w : Window1) (epoch : BitVec 32) : Bytes :=
  toLe 8 w.h ++ toLe 512 w.map ++ toLe 4 epoch.toNat ++ toLe 4 0

/-! ## Receive checks (R181) -/

/-- The epoch that an EPOCH byte names (R180). -/
def Job.resolve (j : Job) (e : Nat) : Option (BitVec 32) :=
  if j.epoch.toNat % 256 = e then some j.epoch else j.prev.filter fun p => p.toNat % 256 = e

/-- Reserved bits and the length of a header (R170, R181 check 1). -/
def Hdr.wellFormed (h : Hdr) (units : Nat) : Bool :=
  h.src < 4096 && h.dst < 4096 && h.stream < 2 ^ 20 && h.len < 64 && h.rtag < 4096 && units = h.len + 1

/-- A packet that passed R181: its header and what opened. -/
structure Rx where
  h : Hdr
  job : Job
  body : Bytes

/-- How the receive checks end. -/
inductive Received where
  | ok (r : Rx)
  | wait
  | dropped

/-- A group load that a MULTI response answers (R202). -/
def Outstanding.meets (o : Outstanding) (h : Hdr) : Bool :=
  o.token = some (BitVec.ofNat 64 h.opd) && o.req.dst.toNat = h.src

/-- Checks 2 to 6 on a packet that passed check 1, with its payload as sent (R181). -/
def Lx.openRx (x : Lx) (hdr : BitVec 256) (payload tag : Bytes) : Received × Lx :=
  let h := Hdr.read hdr
  let drop (x : Lx) (reason fn : Nat) : Received × Lx := (.dropped, x.on fun b => b.discard x.n reason h.src h.job fn)
  match (x.w.blk.jobs.get? h.job).filter fun j =>
      h.job ≠ 0 && !j.torn && !(x.w.blk.joined h.job j).isEmpty && x.lpe.member with
  | none => drop x 2 0
  | some j =>
    match j.resolve h.epoch, j.stateRegion with
    | none, _ => drop x 3 j.fn
    | some _, none => drop x 2 j.fn
    | some ep, some r =>
      match x.readState h.job r (windowOff h) 528 with
      | (.ok, rec, x) =>
        if !(readWindow rec j.epoch).admits h.seq then drop x 4 j.fn
        else
          match x.w.blk.packetKey x.n h.job j h.pclass h.src h.dst ep with
          | (.bad _, b) => drop { x with w := { x.w with blk := b } } 2 j.fn
          | (.wait, b) => (.wait, { x with w := { x.w with blk := b } })
          | (.key k _, b) =>
            let x : Lx := { x with w := { x.w with blk := b } }
            match openPacket k hdr payload tag with
            | none => drop x 5 j.fn
            | some body =>
              if h.multi && !(x.lpe.rtags.any fun o => o.2.meets h) then drop x 6 j.fn
              else
                let x := x.writeState h.job r (windowOff h) (((readWindow rec j.epoch).accept h.seq).bytes j.epoch)
                (.ok { h := h, job := j, body := body }, x)
      | (_, _, x) => drop x 2 j.fn

/-- Check 1 of R181 on a link-class packet (R397). -/
def linkForm (p : RxPacket) : Bool :=
  let h := Hdr.read p.hdr
  h.pclass = 3 && h.wellFormed p.payload.length && p.extra = 0 && h.dst = 0xFFF

/-- Check 1 of R181 on a packet that carries one job's traffic. -/
def Block.rxFormOk (b : Block) (p : RxPacket) : Bool :=
  let h := Hdr.read p.hdr
  List.contains (typeClasses h.ty) h.pclass && h.wellFormed p.payload.length && p.extra = 0 && (h.dst = b.self || h.multi)

end Sys2Proof.Machine
end

