-- ==== Sys2Proof/Machine/Context.lean ====
section
/-! DEFINITION. Contexts, jobs and their ends: leaving a job, teardown, the removal of what a context owns, and the kill
(R104, R209 to R211, R239, R240, R304, R334, R338, R351, R357, R364, R367, R476). -/

namespace Sys2Proof.Machine

open Sys2Proof Sys2Proof.Machine.Crypto

/-! ## DMA descriptors -/

/-- The descriptor is the first of its function and stream (R351). -/
def Block.firstOfStream (b : Block) (id : Nat) (d : DmaDesc) : Bool :=
  !(b.seq.dma.any fun e => e.1 < id && e.2.fn = d.fn && e.2.stream = d.stream)

/-- Descriptors that are translated and first of their stream run (R351, R358). -/
def Block.runStreams (b : Block) : Block :=
  let run (e : Nat × DmaDesc) : Nat × DmaDesc :=
    if e.2.stage = .queued && b.firstOfStream e.1 e.2 then (e.1, { e.2 with stage := .running }) else e
  { b with seq := { b.seq with dma := b.seq.dma.map run } }

/-- An unmap no longer waits for a descriptor; it completes when it waits for none (R357). -/
def Block.unmapWaits (b : Block) (desc : Nat) : Block :=
  let left := b.seq.unmaps.map fun u => (u.1, u.2.filter fun x => x ≠ desc)
  (left.filter fun u => u.2.isEmpty).foldl (fun b u => b.succeed u.1 0 0)
    { b with seq := { b.seq with unmaps := left.filter fun u => !u.2.isEmpty } }

/-- A descriptor leaves its unit, and what waited behind it goes on. -/
def Block.dropDma (b : Block) (id : Nat) : Block :=
  ({ b with seq := { b.seq with dma := Tab.del b.seq.dma id } }.unmapWaits id).runStreams

/-- A write belongs to a descriptor or to its command. -/
def WriteFor.ofDma (id cmd : Nat) : WriteFor → Bool
  | .dma d => d = id
  | .block c _ _ _ => c = cmd
  | _ => false

/-- A write of a descriptor has not been answered (R357, R359). -/
def Block.dmaWrites (b : Block) (id cmd : Nat) : Bool :=
  (b.seq.writes.any fun w => w.2.ofDma id cmd) || b.seq.hostWait.any fun a => match a with
    | .write _ _ _ why => why.ofDma id cmd
    | _ => false

/-- A descriptor's command completes, and the descriptor leaves; one that ran reports the bytes moved (R364). -/
def Block.closeDma (b : Block) (id : Nat) (d : DmaDesc) (st : Status) : Block :=
  (if d.stage = .running then b.complete d.cmd st (BitVec.ofNat 64 d.read) (BitVec.ofNat 64 d.written) false
    else b.fail d.cmd st).dropDma id

/-- A descriptor ends with a status, once its last write has been answered (R357, R359, R364). -/
def Block.endDma (b : Block) (id : Nat) (st : Status) : Block :=
  match b.seq.dma.get? id with
  | none => b
  | some d =>
    if b.dmaWrites id d.cmd then
      { b with seq := { b.seq with dma := b.seq.dma.upd id fun d => { d with ending := some (d.ending.getD st) } } }
    else b.closeDma id d (d.ending.getD st)

def Block.endDmas (b : Block) (st : Status) : List Nat → Block
  | [] => b
  | id :: r => (b.endDma id st).endDmas st r

/-! ## Jobs -/

/-- Outstanding and waiting requests of a job end with JOB_TORN at one LPE, those whose last packet waits for beat credit
among them, and inbound packets of the job that wait are discarded at check 2 of R181 (R210, R211). -/
def Block.tearRequests (b : Block) (job n : Nat) : Block :=
  let l := b.lpe n
  let mine (r : LinkReq) : Bool := r.job.toNat = job
  let hit := l.rtags.filter fun e => mine e.2.req
  let leaving := l.outWait.filterMap fun o => if o.job = job then o.answer else none
  let queued := (l.ingress.filter fun e => mine e.1).map fun e => e.1.tag
  let sealedOf (p : TxPacket) : Bool := (Hdr.read p.hdr).job = job
  let parting := l.txHeld.filterMap fun o => if sealedOf o.1 then o.2 else none
  let inbound := (l.rxWait.filter fun e => (Hdr.read e.1.hdr).job = job).map fun e => (Hdr.read e.1.hdr).src
  let b := b.modLpe n fun l =>
    { l.evict mine with
      rtags := l.rtags.filter fun e => !mine e.2.req
      txHeld := l.txHeld.map fun o => if sealedOf o.1 then (o.1, none) else o
      rxWait := l.rxWait.filter fun e => (Hdr.read e.1.hdr).job ≠ job
      outWait := l.outWait.filter fun o => o.job ≠ job
      lane := l.lane.filter fun q => q.job ≠ job
      raises := l.raises.filter fun g => g.job ≠ job
      invals := l.invals.filter fun i => i.job.toNat ≠ job }
  let b := hit.foldl (fun b e => b.answerOut n e.2 .jobTorn) b
  let b := (leaving ++ parting ++ queued).foldl (fun b t => b.answerLreq n t .jobTorn []) b
  inbound.foldl (fun b src => b.discard n 2 src job 0) b

/-- Requests of a job end with JOB_TORN at every LPE. -/
def Block.tearAll (b : Block) (job : Nat) : List Nat → Block
  | [] => b
  | n :: r => (b.tearRequests job n).tearAll job r

/-- The reductions of a job end with a status (R240). -/
def Block.endReductions (b : Block) (st : Status) (p : Reduction → Bool) : Block :=
  (Tab.keys (α := Reduction) (b.reductions.filter fun k => p k.2)).foldl (fun b k => b.endReduction k st) b

/-- The job key is invalidated if the function still holds it. -/
def Block.dropJobKey (b : Block) (j : Job) : Block :=
  if (b.slot j.slot).gen = j.gen && !(b.slot j.slot).isEmpty then b.invalidate j.slot none else b

/-- A context leaves a job; with the last one the job key goes, the region is no longer a state region, and requests of the
job end (R338). -/
def Block.leaveJob (b : Block) (ctx job : Nat) : Block :=
  let b := { b with ctxs := b.ctxs.upd ctx fun c => { c with jobs := c.jobs.filter fun x => x ≠ job } }
  match b.jobs.get? job with
  | none => b
  | some j =>
    if b.ctxs.any fun c => List.contains c.2.jobs job then b
    else
      let b := (((b.endReductions .jobTorn fun k => k.job.toNat = job).dropJobKey j).tearAll job (Tab.keys (α := Lpe) b.lpes))
      { b with jobs := Tab.del b.jobs job }

def Block.leaveJobs (b : Block) (ctx : Nat) : List Nat → Block
  | [] => b
  | j :: r => (b.leaveJob ctx j).leaveJobs ctx r

/-- The lowest LPE whose partner is a member; LPE 0 when there is none. -/
def Block.memberPort (b : Block) : Nat := ((b.lpes.find? fun e => e.2.member).map fun e => e.1).getD 0

/-- TEAR to every block of the member list (R209, R210). -/
def Lx.sendTears (x : Lx) (job dead : Nat) : List (BitVec 12 × BitVec 14) → Lx
  | [] => x
  | m :: r =>
    ((x.on fun b => b.freshen).send
      { ty := 0x30, pclass := 1, dst := m.1.toNat, job := job, dport := (Config.dport x.w.blk.fresh).toNat
        payload := toLe 2 dead ++ toLe 2 x.w.blk.self ++ toLe 60 0 }).sendTears job dead r

/-- Tears down a job (R210, R211, R240). -/
def Work.tearJob (w : Work) (acc : Access) (job dead : Nat) : Work :=
  match w.blk.jobs.get? job with
  | none => w
  | some j =>
    if j.torn then w
    else
      let w := ((w.lx w.blk.memberPort acc).sendTears job dead j.members).done
      w.on fun b =>
        let b := b.dropJobKey j
        let b := { b with jobs := b.jobs.upd job fun j => { j with torn := true } }
        let b := (b.endReductions .jobTorn fun k => k.job.toNat = job).tearAll job (Tab.keys (α := Lpe) b.lpes)
        b.raise { code := 0x22, fn := j.fn, data := [(0, job), (2, dead)] } (ownerAndPf j.fn)

/-- The dead block that a TEAR names when this block tears a job down itself: no rule gives it (R209, log 4). -/
def openDead : Nat := (Config.open64 7 0).toNat % 4096

def Work.tearJobs (w : Work) (acc : Access) (dead : Nat) : List Nat → Work
  | [] => w
  | j :: r => (w.tearJob acc j dead).tearJobs acc dead r

/-! ## What a context owns -/

/-- Slots that a context owns alone (R334). -/
def Block.ctxSlots (b : Block) (ctx : Nat) : List Nat :=
  Tab.keys (α := KeySlot) (b.keys.slots.filter fun e =>
    64 ≤ e.1 && !e.2.isEmpty && !e.2.fnWide && e.2.ownerCtx.toNat = ctx)

/-- Regions that a context owns alone. -/
def Block.ctxRegions (b : Block) (ctx : Nat) : List Nat :=
  Tab.keys (α := RegionEntry) (b.regions.table.filter fun e =>
    e.2.mode ≠ .companion && !e.2.ctxwide && e.2.ownerCtx.toNat = ctx)

/-- Bindings, slots and regions of a context go, and its number is freed (R104, R334, R367). -/
def Block.closeCtx (b : Block) (ctx : Nat) : Block :=
  let b := { b with ctxs := b.ctxs.upd ctx fun c => { c with progs := [], measured := [] } }
  let b := (b.invalidateAll (b.ctxSlots ctx)).unbindAll (b.ctxRegions ctx)
  { b with ctxs := Tab.del b.ctxs ctx, ctxFree := b.ctxFree.give ctx }

/-! ## Kill -/

/-- Engines that hold work of a context (R475). -/
def Block.holders (b : Block) (ctx : Nat) : List Nat :=
  (Tab.keys (α := Mce) (b.mces.filter fun m => m.2.reqs.any fun q => q.req.ctx.toNat = ctx)) ++
  ((b.lpes.filter fun l => l.2.rtags.any fun o => o.2.req.ctx.toNat = ctx && o.2.kiln.isNone).map fun l => lpeId l.1)

/-- Commands of a context other than one that complete with a status; a descriptor's command completes with it (R359,
R476). -/
def Block.failCmds (b : Block) (st : Status) (p : Nat → Cmd → Bool) : Block :=
  let ids := Tab.keys (α := Cmd) (b.seq.cmds.filter fun e => p e.1 e.2)
  let b := b.endDmas st (Tab.keys (α := DmaDesc) (b.seq.dma.filter fun d => List.contains ids d.2.cmd))
  (ids.filter fun id => !(b.seq.dma.any fun d => d.2.cmd = id)).foldl (fun b id => b.fail id st)
    { b with
      seq := { b.seq with
        waits := b.seq.waits.filter fun w => !List.contains ids w.cmd
        unmaps := b.seq.unmaps.filter fun u => !List.contains ids u.1
        rakes := b.seq.rakes.filter fun r => !List.contains ids r.cmd } }

/-- Steps 1 to 5 of a kill (R476): the context's work ends, its commands complete with BAD_OPERAND, CTX_KILLED goes to
the function and the PF, and the command that caused the kill completes. -/
def Block.killCtx (b : Block) (ctx source cause : Nat) (cmd : Option Nat) : Block :=
  match b.ctxFn ctx with
  | none => b
  | some fn =>
    let b := { b with seq := { b.seq with
      killing := if (b.holders ctx).isEmpty then b.seq.killing else ctx :: b.seq.killing } }
    let b := b.endReductions .badOperand fun k => k.ctx.toNat = ctx
    let b := b.failCmds .badOperand fun id c => c.ctx = ctx && cmd ≠ some id
    let b := b.raise { code := 0x05, fn := fn, ctx := ctx, data := [(0, source), (1, cause)] } (ownerAndPf fn)
    match cmd with
    | some id => b.succeed id 0 0
    | none => b

/-- Program frames of the kilns that no live reduction uses are released (R268). -/
def Block.releaseFrames (b : Block) : Block :=
  let used (h : Nat) : Bool := b.reductions.any fun k => k.2.prog = h
  { b with frames := b.frames.map fun e => if e.1 < 0x68 then (e.1, e.2.filter used) else e }

/-- A slot is free: raises still under way no longer belong to a reduction, and the program's frames are released. -/
def Block.freeSlot (b : Block) (slot : Nat) : Block :=
  ({ b with
    reductions := Tab.del b.reductions slot
    lpes := b.lpes.map fun e =>
      (e.1, { e.2 with rtags := e.2.rtags.map fun o => if o.2.kiln = some slot then (o.1, { o.2 with kiln := some 8 }) else o })
   } : Block).releaseFrames

/-- The cleanup of a kill (R476): the context leaves its jobs, and what it owns goes; its reductions leave their slots,
which no command of the context could finish any more. -/
def Block.cleanCtx (b : Block) (ctx : Nat) : Block :=
  let b := b.leaveJobs ctx (((b.ctxs.get? ctx).map fun c => c.jobs).getD [])
  let mine := Tab.keys (α := Reduction) (b.reductions.filter fun k => k.2.ctx.toNat = ctx)
  (mine.foldl (fun b slot => b.freeSlot slot) b).closeCtx ctx

/-- A kill without teardown. -/
def Block.kill (b : Block) (ctx source cause : Nat) (cmd : Option Nat) : Block :=
  if (b.ctxFn ctx).isNone then b else (b.killCtx ctx source cause cmd).cleanCtx ctx

end Sys2Proof.Machine
end

