-- ==== Sys2Proof/Machine/Formats.lean ====
section
/-! DEFINITION. The twelve number formats: containers, values, and rounding (R214 to R216, R232, R242, R244, R255). -/

namespace Sys2Proof.Machine

open Sys2Proof

/-- The value of an element: (-1)^neg × m × 2^e when it is finite. -/
inductive Val where
  | nan
  | inf (neg : Bool)
  | fin (neg : Bool) (m : Nat) (e : Int)
  deriving DecidableEq, Repr

/-- A floating-point format: exponent bits, fraction bits, bias, and whether it has infinities and NaNs (R214). -/
structure Flt where
  ebits : Nat
  fbits : Nat
  bias : Int
  hasInf : Bool
  hasNan : Bool
  deriving DecidableEq, Repr

/-- The floating-point formats by code; FP19 without the 13 low bits of its container (R214). -/
def Flt.ofCode : Nat → Option Flt
  | 0 => some ⟨11, 52, 1023, true, true⟩
  | 1 => some ⟨8, 23, 127, true, true⟩
  | 2 => some ⟨8, 10, 127, true, true⟩
  | 3 => some ⟨8, 7, 127, true, true⟩
  | 4 => some ⟨5, 10, 15, true, true⟩
  | 5 => some ⟨4, 3, 7, false, true⟩
  | 6 => some ⟨5, 2, 15, true, true⟩
  | 7 => some ⟨3, 2, 3, false, false⟩
  | 8 => some ⟨2, 3, 1, false, false⟩
  | 9 => some ⟨2, 1, 1, false, false⟩
  | _ => none

/-- Container bits of a format (R214). -/
def fmtBits (f : Nat) : Nat := [64, 32, 32, 16, 16, 8, 8, 6, 6, 4, 8, 4].getD f 0

/-- Elements per line of a format (R242). -/
def epl (f : Nat) : Nat := [16, 32, 32, 64, 64, 128, 128, 128, 128, 128, 128, 128].getD f 1

/-- Bytes per line of a format (R242). -/
def lineBytes (f : Nat) : Nat := epl f * fmtBits f / 8

/-- Bytes of a block of 32 elements (R227). -/
def blockBytes (f : Nat) : Nat := 4 * fmtBits f

/-- Blocks that a line begins. -/
def lineBlocks (f : Nat) : Nat := ceilDiv (epl f) 32

/-- The exponent of one unit in the last place of the subnormals. -/
def Flt.low (f : Flt) : Int := 1 - f.bias - f.fbits

/-- The encoding of the largest finite magnitude. -/
def Flt.top (f : Flt) : Nat :=
  if f.hasInf then (2 ^ f.ebits - 1) * 2 ^ f.fbits - 1 else 2 ^ (f.ebits + f.fbits) - 1 - bit f.hasNan

/-- The value of a floating-point encoding. -/
def Flt.value (f : Flt) (x : Nat) : Val :=
  let neg := x.testBit (f.ebits + f.fbits)
  let mag := fld x 0 (f.ebits + f.fbits)
  if f.top < mag then
    if f.hasInf && mag = f.top + 1 then .inf neg else .nan
  else
    let ex := mag / 2 ^ f.fbits
    let fr := mag % 2 ^ f.fbits
    if ex = 0 then .fin neg fr f.low else .fin neg (fr + 2 ^ f.fbits) (f.low + (ex - 1 : Nat))

/-- A two's-complement integer of w bits. -/
def signedOf (x w : Nat) : Int := if fld x 0 w < 2 ^ (w - 1) then fld x 0 w else (fld x 0 w : Int) - 2 ^ w

/-- The value of an element of a format, unscaled (R214). -/
def elemValue (f x : Nat) : Val :=
  match Flt.ofCode f with
  | some t => t.value (if f = 2 then x / 2 ^ 13 else x)
  | none => let k := signedOf x (fmtBits f); .fin (decide (k < 0)) k.natAbs 0

/-- The power of two that a format's elements carry under the scaled modifier beside their scale byte (R216). -/
def mxShift (f : Nat) : Int := if f = 10 then -6 else if f = 11 then -2 else 0

/-- A value times a power of two. -/
def Val.scale : Val → Int → Val
  | .fin n m e, k => .fin n m (e + k)
  | v, _ => v

/-- A scaled element's value under its scale byte (R216). -/
def scaledValue (f x scale : Nat) : Val :=
  if scale = 255 then .nan else (elemValue f x).scale (scale - 127 + mxShift f)

/-- m × 2^k rounded to an integer, ties to even. -/
def roundEven (m : Nat) (k : Int) : Nat :=
  if 0 ≤ k then m <<< k.toNat
  else
    let d := (-k).toNat
    let q := m >>> d
    let r := m - q <<< d
    if d = 0 then m
    else if 2 ^ (d - 1) < r || (r = 2 ^ (d - 1) && q % 2 = 1) then q + 1 else q

/-- The number of bits of a magnitude. -/
def bitLen (m : Nat) : Nat := if m = 0 then 0 else Nat.log2 m + 1

/-- The exponent of the ulp of a finite non-zero value in a format. -/
def Flt.ulp (f : Flt) (m : Nat) (e : Int) : Int := max (e + bitLen m - 1 - f.fbits) f.low

/-- Canonical NaN (R232); a format without NaN gives zero (R255). -/
def Flt.nan (f : Flt) : Nat := if !f.hasNan then 0 else if f.hasInf then f.top + 1 + 2 ^ (f.fbits - 1) else f.top + 1

/-- The encoding of an infinity: a format without one saturates (R255). -/
def Flt.inf (f : Flt) : Nat := if f.hasInf then f.top + 1 else f.top

/-- The sign bit of an encoding. -/
def Flt.sign (f : Flt) (neg : Bool) : Nat := bit neg * 2 ^ (f.ebits + f.fbits)

/-- The encoding of k ulps of 2^u, infinity or the largest finite value where it is too large. -/
def Flt.pack (f : Flt) (neg : Bool) (k : Nat) (u : Int) : Nat :=
  let mag := if k = 0 then 0 else (u - f.low).toNat * 2 ^ f.fbits + k
  f.sign neg + if f.top < mag then f.inf else mag

/-- Rounds a value to a floating-point format, ties to even (R232, R255). -/
def Flt.round (f : Flt) : Val → Nat
  | .nan => f.nan
  | .inf neg => f.sign neg + f.inf
  | .fin neg m e => if m = 0 then f.sign neg else f.pack neg (roundEven m (e - f.ulp m e)) (f.ulp m e)

/-- Rounds a value to an integer format, saturating (R255). -/
def roundInt (w : Nat) : Val → Nat
  | .nan => 0
  | .inf neg => if neg then 2 ^ (w - 1) else 2 ^ (w - 1) - 1
  | .fin neg m e =>
    let k := if 64 < e + bitLen m then 2 ^ 64 else roundEven m e
    if neg then (2 ^ w - min k (2 ^ (w - 1))) % 2 ^ w else min k (2 ^ (w - 1) - 1)

/-- round(v, f) in the container of the format (R214, R255). -/
def roundTo (f : Nat) (v : Val) : Nat :=
  match Flt.ofCode f with
  | some t => if f = 2 then t.round v * 2 ^ 13 else t.round v
  | none => roundInt (fmtBits f) v

/-! ## Arithmetic on values -/

/-- A signed magnitude as an integer. -/
def signedNat (neg : Bool) (m : Nat) : Int := if neg then -(m : Int) else m

/-- Two finite values on the grid of the finer one. -/
def align (m : Nat) (e : Int) (n : Nat) (g : Int) : Nat × Nat × Int :=
  let lo := min e g
  (m <<< (e - lo).toNat, n <<< (g - lo).toNat, lo)

/-- The exact sum (IEEE 754-2019 under roundTiesToEven). -/
def Val.add : Val → Val → Val
  | .nan, _ => .nan
  | _, .nan => .nan
  | .inf a, .inf b => if a = b then .inf a else .nan
  | .inf a, _ => .inf a
  | _, .inf b => .inf b
  | .fin a m e, .fin b n g =>
    let t := align m e n g
    let s := signedNat a t.1 + signedNat b t.2.1
    if s = 0 then .fin (a && b) 0 t.2.2 else .fin (decide (s < 0)) s.natAbs t.2.2

/-- The exact product. -/
def Val.mul : Val → Val → Val
  | .nan, _ => .nan
  | _, .nan => .nan
  | .inf a, .inf b => .inf (a ^^ b)
  | .inf a, .fin b n _ => if n = 0 then .nan else .inf (a ^^ b)
  | .fin a m _, .inf b => if m = 0 then .nan else .inf (a ^^ b)
  | .fin a m e, .fin b n g => .fin (a ^^ b) (m * n) (e + g)

/-- Order of two values that are not NaN, by value: less, equal, greater as -1, 0, 1. -/
def Val.cmp : Val → Val → Int
  | .inf a, .inf b => if a = b then 0 else if a then -1 else 1
  | .inf a, _ => if a then -1 else 1
  | _, .inf b => if b then 1 else -1
  | .fin a m e, .fin b n g =>
    let t := align m e n g
    let d := signedNat a t.1 - signedNat b t.2.1
    if d < 0 then -1 else if d = 0 then 0 else 1
  | _, _ => 0

/-- The sign of a value. -/
def Val.neg : Val → Bool
  | .nan => false
  | .inf n => n
  | .fin n _ _ => n

/-- At or below, with -0 below +0. -/
def Val.below (x y : Val) : Bool := x.cmp y = -1 || (x.cmp y = 0 && (x.neg || !y.neg))

/-- IEEE 754-2019 minimum and maximum (R255). -/
def Val.min2 (x y : Val) : Val := if x = .nan || y = .nan then .nan else if x.below y then x else y
def Val.max2 (x y : Val) : Val := if x = .nan || y = .nan then .nan else if x.below y then y else x

/-- The magnitude of a value. -/
def Val.abs : Val → Val
  | .nan => .nan
  | .inf _ => .inf false
  | .fin _ m e => .fin false m e

/-- The ceiling exponent of a finite non-zero value (R217). -/
def ceilExp (m : Nat) (e : Int) : Int := e + bitLen m

end Sys2Proof.Machine
end

