-- ==== Sys2Proof/Machine/Lane.lean ====
section
/-! DEFINITION. Lane programs: the encoding of instructions, the loader's checks, the cost of a program, and the run of
one invocation (R242 to R260). -/

namespace Sys2Proof.Machine

open Sys2Proof Sys2Proof.Machine.Crypto

/-! ## Instructions (R252 to R256) -/

/-- The fields of an instruction word, in all three forms. -/
structure Ins where
  op : Nat
  d : Nat
  a : Nat
  b : Nat
  f : Nat
  p : Nat
  bs : Bool
  k : Nat
  len : Nat
  cnt : Nat
  cond : Nat
  off : Nat
  /-- Bits [31:24], zero in form B. -/
  high : Nat
  deriving DecidableEq, Repr

def Ins.ofWord (w : BitVec 32) : Ins :=
  let n := w.toNat
  { op := fld n 0 6, d := fld n 6 4, a := fld n 10 4, b := fld n 14 4, f := fld n 18 4, p := fld n 22 3,
    bs := n.testBit 25, k := fld n 26 6, len := fld n 10 10, cnt := fld n 20 12, cond := fld n 10 4, off := fld n 14 10,
    high := fld n 24 8 }

/-- The condition that each unused field of a form V instruction is zero, for the fields that are used. -/
def Ins.uses (x : Ins) (d a b f p bs k : Bool) : Bool :=
  (d || x.d = 0) && (a || x.a = 0) && (b || x.b = 0) && (f || x.f = 0) && (p || x.p = 0) && (bs || !x.bs) && (k || x.k = 0)

/-- F of the arithmetic instructions (R255). -/
def arithFmt (f : Nat) : Bool := f = 1 || f = 3 || f = 4

/-- Formats that may carry scales (R216). -/
def mxFmt (f : Nat) : Bool := 5 ≤ f && f ≤ 11

/-- An instruction that the loader accepts by itself (R253, R255, R256). -/
def Ins.wellFormed (x : Ins) (nconst : Nat) : Bool :=
  match x.op with
  | 0x01 => x.uses true false false false false false false
  | 0x02 => x.uses false true false false false false false
  | 0x03 => x.uses false false false false false false false
  | 0x04 => x.uses false false false false false false true
  | 0x08 => x.uses true true false false true false false
  | 0x09 => x.uses true true false true true false false && x.f ≤ 11
  | 0x0A => x.uses true false false false false false true && x.k < nconst
  | 0x0B => x.uses true false false false false false true && (x.k ≤ 6 || (16 ≤ x.k && x.k ≤ 31))
  | 0x0C => x.uses true true true false false false false
  | 0x10 => x.uses true true false true false false true && x.f ≤ 11 && x.k ≤ 4
  | 0x11 => x.uses true true true true false false true && mxFmt x.f && x.k ≤ 4
  | 0x12 => x.uses true true false true false false false && mxFmt x.f
  | 0x18 => x.uses true true true true true true false && arithFmt x.f
  | 0x19 => x.uses true true true true true true false && arithFmt x.f
  | 0x1A => x.uses true true true true true true false && arithFmt x.f
  | 0x1B => x.uses true true true true true true false && arithFmt x.f
  | 0x1C => x.uses true true true true true false false && arithFmt x.f
  | 0x20 => x.uses true true false false true false false
  | 0x21 => x.uses true true true false true true true && x.d < 8 && x.d ≠ 0 && x.k ≤ 5
  | 0x22 => x.uses true true true false false false true && x.d < 8 && x.d ≠ 0 && x.a < 8 && x.b < 8 && x.k ≤ 3
  | 0x28 => x.uses true true (!x.bs) true false true x.bs && x.f ≤ 8
  | 0x30 => x.d = 0
  | 0x31 => true
  | 0x32 => x.high = 0 && x.cond ≤ 4 && (x.cond ≠ 0 || x.d = 0) && (x.cond < 3 || x.d < 8)
  | _ => false

/-- Issue slots of an instruction (R254). -/
def Ins.cost (x : Ins) : Nat := if x.op = 0x20 then 2 else 1

def Ins.isLoop (x : Ins) : Bool := x.op = 0x30 || x.op = 0x31

/-! ## Structure (R259) -/

/-- Enclosing loop bodies of each position, innermost first: first and past-the-end positions with the loop. -/
structure Body where
  first : Nat
  stop : Nat
  loop : Ins

/-- Checks every instruction against the bodies that hold it (R259: nesting, branch targets, END, part 4). -/
def bodiesOk (n : Nat) : List Ins → Nat → List Body → Bool
  | [], _, _ => true
  | x :: r, i, enclosing =>
    let inside := enclosing.filter fun b => i < b.stop
    let limit := (inside.head?.map fun b => b.stop).getD n
    let past := if inside.isEmpty then limit - 1 else limit
    let here :=
      if x.isLoop then 1 ≤ x.len && i + 1 + x.len ≤ limit && inside.length < 4
      else if x.op = 0x32 then i + 1 + x.off ≤ past
      else if x.op = 0x03 then inside.isEmpty
      else if (x.op = 0x10 || x.op = 0x11) && x.k = 4 then !inside.isEmpty
      else if x.op = 0x01 || x.op = 0x02 then !(inside.any fun b => b.loop.op = 0x31)
      else true
    here && bodiesOk n r (i + 1) (if x.isLoop then ⟨i + 1, i + 1 + x.len, x⟩ :: inside else inside)

/-! ## Cost (R260) -/

/-- relax(c, j, v). -/
def relax (c : List (Option Nat)) (j v : Nat) : List (Option Nat) :=
  c.set j (some (max ((c.getD j none).getD 0) v))

/-- worst(first, stop), with loops nested at most `f` deep. -/
def worst (text : List Ins) : Nat → Nat → Nat → Nat
  | 0, _, _ => 0
  | f + 1, first, stop =>
    let step (s : Nat × List (Option Nat)) (i : Nat) : Nat × List (Option Nat) :=
      match s.2.getD (i - first) none, text[i]? with
      | some v, some x =>
        if x.isLoop then
          (s.1, relax s.2 (i + 1 + x.len - first) (v + 1 + x.cnt * worst text f (i + 1) (i + 1 + x.len)))
        else if x.op = 0x03 then (max s.1 (v + 1), s.2)
        else
          let c := relax s.2 (i + 1 - first) (v + x.cost)
          (s.1, if x.op = 0x32 then relax c (i + 1 + x.off - first) (v + 1) else c)
      | _, _ => s
    let n := stop - first
    let r := ((List.range n).map (· + first)).foldl step (0, (List.replicate (n + 1) none).set 0 (some 0))
    max r.1 ((r.2.getD n none).getD 0)

/-! ## Counts and known formats (R259) -/

/-- What is known on every path to a position: INs and EMITs run, and each register's format: 15 for NONE, none where
paths disagree. -/
structure Known where
  ins : Nat := 0
  emits : Nat := 0
  fmts : List (Option Nat)
  deriving DecidableEq

def joinFmts (a b : List (Option Nat)) : List (Option Nat) :=
  List.zipWith (fun x y => if x = y then x else none) a b

/-- Joins two paths; none when their counts differ. -/
def Known.join (a b : Known) : Option Known :=
  if a.ins = b.ins && a.emits = b.emits then some { a with fmts := joinFmts a.fmts b.fmts } else none

/-- Adds a path to the table of positions. -/
def addPath (t : List (Option Known)) (j : Nat) (k : Known) : Option (List (Option Known)) :=
  match t.getD j none with
  | none => some (t.set j (some k))
  | some o => (o.join k).map fun v => t.set j (some v)

/-- A conversion whose source format is known stays within its line (R259). -/
def partOk (x : Ins) (src : Option Nat) (loop : Option Ins) : Bool :=
  match src with
  | none => true
  | some s =>
    if s = 15 then true
    else
      let n := min (epl s) (epl x.f)
      let longer := max (epl s) (epl x.f)
      if x.k < 4 then x.k * n < longer else loop.any fun l => l.cnt * n ≤ longer

/-- The register formats after an instruction. -/
def Ins.flow (x : Ins) (inFmt : Nat) (fm : List (Option Nat)) : List (Option Nat) :=
  if x.op = 0x01 then fm.set x.d (some inFmt)
  else if x.op = 0x08 then fm.set x.d (fm.getD x.a none)
  else if x.op = 0x09 || x.op = 0x10 || x.op = 0x11 || (0x18 ≤ x.op && x.op ≤ 0x1C) then fm.set x.d (some x.f)
  else fm

/-- What a program must do on every path: its input format, and the INs and EMITs that END finds. -/
structure Goal where
  inFmt : Nat
  ins : Nat
  emits : Nat

/-- Formats after n passes through a body; a pass that changes nothing is the last that could. -/
def iterFmts (pass : List (Option Nat) → List (Option Nat)) : Nat → List (Option Nat) → List (Option Nat)
  | 0, fm => fm
  | n + 1, fm => if pass fm = fm then fm else iterFmts pass n (pass fm)

/-- Formats on every path that has made at most n passes through a body. -/
def spreadFmts (pass : List (Option Nat) → List (Option Nat)) : Nat → List (Option Nat) → List (Option Nat)
  | 0, fm => fm
  | n + 1, fm => if joinFmts fm (pass fm) = fm then fm else spreadFmts pass n (joinFmts fm (pass fm))

/-- Walks the positions from `first` to `stop` from what is known at `first`; answers what is known at `stop` if a path
reaches it, or none when a rule of R259 is broken. `final` makes the check on parts. Loops nest at most `f` deep. -/
def walk (text : List Ins) (g : Goal) : Nat → Bool → Option Ins → Nat → Nat → Known → Option (Option Known)
  | 0, _, _, _, _, _ => none
  | f + 1, final, loop, first, stop, entry =>
    let body (i : Nat) (x : Ins) (final : Bool) (fm : List (Option Nat)) : Option (Option Known) :=
      walk text g f final (some x) (i + 1) (i + 1 + x.len) { fmts := fm }
    let pass (i : Nat) (x : Ins) (fm : List (Option Nat)) : List (Option Nat) :=
      match body i x false fm with
      | some (some e) => e.fmts
      | _ => fm
    let step (acc : Option (List (Option Known))) (i : Nat) : Option (List (Option Known)) :=
      acc.bind fun t =>
        match t.getD (i - first) none, text[i]? with
        | some s, some x =>
          if x.isLoop then
            if x.cnt = 0 then addPath t (i + 1 + x.len - first) s
            else
              (body i x final (spreadFmts (pass i x) (x.cnt - 1) s.fmts)).bind fun e =>
                match e with
                | none => some t
                | some e =>
                  addPath t (i + 1 + x.len - first)
                    { ins := s.ins + x.cnt * e.ins, emits := s.emits + x.cnt * e.emits
                      fmts := if x.op = 0x31 then spreadFmts (pass i x) x.cnt s.fmts else iterFmts (pass i x) x.cnt s.fmts }
          else if x.op = 0x03 then if s.ins = g.ins && s.emits = g.emits then some t else none
          else if final && (x.op = 0x10 || x.op = 0x11) && !partOk x (s.fmts.getD x.a none) loop then none
          else
            let s' : Known :=
              { ins := s.ins + bit (decide (x.op = 0x01)), emits := s.emits + bit (decide (x.op = 0x02)),
                fmts := x.flow g.inFmt s.fmts }
            if x.op = 0x32 then
              (addPath t (i + 1 + x.off - first) s).bind fun t =>
                if x.cond = 0 then some t else addPath t (i + 1 - first) s
            else addPath t (i + 1 - first) s'
        | _, _ => some t
    let n := stop - first
    (((List.range n).map (· + first)).foldl step (some ((List.replicate (n + 1) none).set 0 (some entry)))).map fun t =>
      t.getD n none

/-- The registers before the first instruction (R245). -/
def noneFmts : List (Option Nat) := List.replicate 16 (some 15)

/-- The structure rules of R259. -/
def structureOk (text : List Ins) (g : Goal) : Bool :=
  bodiesOk text.length text 0 [] && walk text g 6 true none 0 text.length { fmts := noneFmts } = some none

/-! ## Execution -/

/-- A line register with its tag (R243, R244); 15 is NONE. -/
structure LineReg where
  bits : Nat := 0
  fmt : Nat := 15
  scaled : Bool := false
  scale : List Nat := [127, 127, 127, 127]
  deriving DecidableEq, Repr

/-- Container bits of element i. -/
def LineReg.elem (l : LineReg) (i : Nat) : Nat := fld l.bits (fmtBits l.fmt * i) (fmtBits l.fmt)

/-- Replaces element i. -/
def LineReg.setElem (l : LineReg) (i x : Nat) : LineReg :=
  let w := fmtBits l.fmt
  { l with bits := l.bits - l.elem i <<< (w * i) + (x % 2 ^ w) <<< (w * i) }

/-- The value of element i (R244). -/
def LineReg.value (l : LineReg) (i : Nat) : Val :=
  if l.scaled then scaledValue l.fmt (l.elem i) (l.scale.getD (i / 32) 127) else elemValue l.fmt (l.elem i)

/-- retag(d, f, sc). -/
def LineReg.retag (l : LineReg) (f : Nat) (sc : Bool) : LineReg :=
  if l.fmt = f && l.scaled = sc then l else { fmt := f, scaled := sc }

/-- GETS of a tag. -/
def LineReg.tagWord (l : LineReg) : Nat :=
  l.fmt + 16 * bit l.scaled + 2 ^ 32 * le ((List.range 4).map fun i => BitVec.ofNat 8 (l.scale.getD i 127))

/-- What GETS returns besides tags and the loop index (R256). -/
structure Facts where
  pos : Nat
  window : Nat := 0
  rank : Nat := 0
  phase : Nat := 2
  call : Nat := 0
  ctx : Nat

/-- The program as an invocation uses it. -/
structure Code where
  text : List Ins
  consts : List (BitVec 64)
  inFmt : Nat
  inScaled : Bool
  outFmt : Nat
  outScaled : Bool

/-- An open counted loop: where its body begins and ends, its index, its count. -/
structure Open where
  first : Nat
  stop : Nat
  idx : Nat
  count : Nat

/-- A lane in the middle of an invocation. -/
structure Lane where
  l : List LineReg
  s : List Nat
  p : List Nat
  pc : Nat := 0
  loops : List Open := []
  input : List LineReg
  held : List LineReg := []

/-- How an invocation goes on: it runs, has ended, or has met a fault with its code and the K of a TRAP (R257). -/
inductive Ran where
  | on (x : Lane)
  | ended (out : List LineReg)
  | fault (code pc k : Nat)

def Lane.reg (x : Lane) (i : Nat) : LineReg := x.l.getD i {}
def Lane.scalar (x : Lane) (i : Nat) : Nat := x.s.getD i 0
def Lane.pred (x : Lane) (i : Nat) : Nat := if i = 0 then 2 ^ 128 - 1 else x.p.getD i 0
def Lane.setReg (x : Lane) (i : Nat) (v : LineReg) : Lane := { x with l := x.l.set i v }
def Lane.setScalar (x : Lane) (i v : Nat) : Lane := { x with s := x.s.set i (v % 2 ^ 64) }
def Lane.setPred (x : Lane) (i v : Nat) : Lane := { x with p := x.p.set i (v % 2 ^ 128) }

/-- Leaves or repeats the loop bodies that end at the program counter. -/
def Lane.wrap : List Open → Lane → Lane
  | [], x => { x with loops := [] }
  | o :: r, x =>
    if x.pc ≠ o.stop then { x with loops := o :: r }
    else if o.idx + 1 < o.count then { x with pc := o.first, loops := { o with idx := o.idx + 1 } :: r }
    else Lane.wrap r x

/-- The lane goes on at a position. -/
def Lane.goto (x : Lane) (pc : Nat) : Ran := .on (Lane.wrap x.loops { x with pc := pc })

/-- The lane goes on at the next instruction. -/
def Lane.advance (x : Lane) : Ran := x.goto (x.pc + 1)

/-- Elements that a predicate governs are replaced. -/
def Lane.each (x : Lane) (d p n : Nat) (r : LineReg) (elem : Nat → Nat) : Lane :=
  x.setReg d ((List.range n).foldl (fun r i => if (x.pred p).testBit i then r.setElem i (elem i) else r) r)

/-- An arithmetic instruction (R255). -/
def arith (op : Nat) (x y : Val) : Val :=
  if op = 0x18 then x.add y else if op = 0x19 then x.mul y else if op = 0x1A then x.min2 y else x.max2 y

/-- Operand B of element i: a scalar broadcast, or the element of a line register. -/
def Lane.opndB (x : Lane) (i : Ins) (f j : Nat) : Nat :=
  if i.bs then x.scalar i.b % 2 ^ fmtBits f else (x.reg i.b).elem j

/-- cond(k, x, y) of CMP (R255). -/
def cmpCond (k : Nat) (x y : Val) : Bool :=
  let ordered := x ≠ .nan && y ≠ .nan
  if k = 0 then ordered && x.cmp y = 0
  else if k = 1 then ordered && x.cmp y = -1
  else if k = 2 then ordered && x.cmp y ≠ 1
  else if k = 3 then !ordered
  else if k = 4 then x = .inf false || x = .inf true
  else x = .nan

/-- The operations of SALU, wrapping at 64 bits. -/
def salu (op a y : Nat) : Nat :=
  let m := 2 ^ 64
  [(a + y) % m, (a + m - y) % m, a &&& y, a ||| y, a ^^^ y, (a <<< (y % 64)) % m, a >>> (y % 64), min a y, max a y].getD op 0

/-- emax(f) of MXEXP. -/
def mxMax (f : Nat) : Int := [8, 15, 4, 2, 2, 0, 0].getD (f - 5) 0

/-- MXEXP on the FP64 bits of m; of a negative m the spec states no logarithm, and the result is free within its range
(log 4). -/
def mxExp (f bits : Nat) : Nat :=
  match elemValue 0 bits with
  | .nan => 255
  | .inf _ => 255
  | .fin neg m e =>
    if m = 0 then 127
    else if neg then (Config.open64 5 bits).toNat % 255
    else (min (max (e + bitLen m - 1 - mxMax f + 127) 0) 254).toNat

/-- The element that CVTS stores (R255). -/
def cvtsElem (f scale : Nat) (v : Val) : Nat :=
  if scale = 255 || v = .nan then 0 else roundTo f (v.scale (127 - scale - mxShift f))

/-- A conversion: element pairs from, to and count, or a PART fault (R255). -/
def convParts (s f q : Nat) : Option (Nat × Nat × Nat) :=
  let n := min (epl s) (epl f)
  if max (epl s) (epl f) ≤ q * n then none
  else some (if epl f < epl s then q * n else 0, if epl s < epl f then q * n else 0, n)

/-- CVT and CVTS (R255): the destination is retagged first, as the rule has it. -/
def Lane.convert (x : Lane) (i : Ins) (scaled : Bool) : Ran :=
  let s := (x.reg i.a).fmt
  let q := if i.k < 4 then i.k else (x.loops.head?.map fun o => o.idx).getD 0
  if s = 15 then .fault 1 x.pc 0
  else
    match convParts s i.f q with
    | none => .fault 3 x.pc 0
    | some (si, di, n) =>
      let sc := x.scalar i.b % 256
      let x := x.setReg i.d ((x.reg i.d).retag i.f scaled)
      let step (x : Lane) (j : Nat) : Lane :=
        let v := (x.reg i.a).value (si + j)
        x.setReg i.d ((x.reg i.d).setElem (di + j) (if scaled then cvtsElem i.f sc v else roundTo i.f v))
      let marked (blk : Nat) : Bool :=
        scaled && ((List.range n).any fun j => (di + j) / 32 = blk &&
          ((List.range j).foldl step x |>.reg i.a).value (si + j) = .nan)
      let y := (List.range n).foldl step x
      let scales := (List.range 4).map fun blk =>
        if di ≤ 32 * blk + 31 && 32 * blk < di + n then (if marked blk || sc = 255 then 255 else sc)
        else (y.reg i.d).scale.getD blk 127
      (if scaled then y.setReg i.d { y.reg i.d with scale := scales } else y).advance

/-- One instruction (R254 to R256). -/
def Lane.exec (c : Code) (t : Facts) (x : Lane) (i : Ins) : Ran :=
  let ra := x.reg i.a
  let rb := x.reg i.b
  let tag : Ran := .fault 1 x.pc 0
  match i.op with
  | 0x01 =>
    match x.input with
    | [] => tag
    | v :: r => ({ x.setReg i.d v with input := r }).advance
  | 0x02 =>
    if ra.fmt ≠ c.outFmt || ra.scaled ≠ c.outScaled then tag else ({ x with held := x.held ++ [ra] }).advance
  | 0x03 => .ended x.held
  | 0x04 => .fault 4 x.pc i.k
  | 0x08 =>
    if ra.fmt = 15 then tag
    else
      let r := { (x.reg i.d).retag ra.fmt ra.scaled with scale := ra.scale }
      (x.each i.d i.p (epl ra.fmt) r ra.elem).advance
  | 0x09 => (x.each i.d i.p (epl i.f) ((x.reg i.d).retag i.f false) fun _ => x.scalar i.a).advance
  | 0x0A => (x.setScalar i.d (c.consts.getD i.k 0).toNat).advance
  | 0x0B =>
    let v :=
      if 16 ≤ i.k then (x.reg (i.k - 16)).tagWord
      else [t.pos, t.window, t.rank, t.phase, t.call, (x.loops.head?.map fun o => o.idx).getD 0, t.ctx].getD i.k 0
    (x.setScalar i.d v).advance
  | 0x0C => if ra.fmt = 15 then tag else (x.setScalar i.d (ra.elem (x.scalar i.b % epl ra.fmt))).advance
  | 0x10 => x.convert i false
  | 0x11 => x.convert i true
  | 0x12 => (x.setScalar i.d (mxExp i.f (x.scalar i.a))).advance
  | 0x1C =>
    if ra.fmt ≠ i.f || ra.scaled then tag
    else
      let k := min (max (signedOf (x.scalar i.b) 64) (-1000)) 1000
      (x.each i.d i.p (epl i.f) ((x.reg i.d).retag i.f false) fun j =>
        roundTo i.f ((elemValue i.f (ra.elem j)).scale k)).advance
  | 0x20 =>
    if ra.fmt = 15 then tag
    else
      let m := (List.range (epl ra.fmt)).foldl
        (fun m j => if (x.pred i.p).testBit j then Val.max2 m (ra.value j).abs else m) (.fin false 0 0)
      (x.setScalar i.d (roundTo 0 m)).advance
  | 0x21 =>
    if ra.fmt = 15 || ra.scaled || (!i.bs && (rb.fmt ≠ ra.fmt || rb.scaled)) then tag
    else
      let hit (j : Nat) : Bool :=
        (x.pred i.p).testBit j && cmpCond i.k (elemValue ra.fmt (ra.elem j)) (elemValue ra.fmt (x.opndB i ra.fmt j))
      (x.setPred i.d (((List.range (epl ra.fmt)).filter hit).map fun j => 2 ^ j).sum).advance
  | 0x22 =>
    let a := x.pred i.a
    let b := x.pred i.b
    let all := 2 ^ 128 - 1
    (x.setPred i.d ([a &&& b, a ||| b, a &&& (all - b), all - a].getD i.k 0)).advance
  | 0x28 => (x.setScalar i.d (salu i.f (x.scalar i.a) (if i.bs then i.k else x.scalar i.b))).advance
  | 0x30 =>
    if i.cnt = 0 then x.goto (x.pc + 1 + i.len)
    else ({ x with loops := ⟨x.pc + 1, x.pc + 1 + i.len, 0, i.cnt⟩ :: x.loops }).advance
  | 0x31 =>
    let n := x.scalar i.d
    if i.cnt < n then .fault 2 x.pc 0
    else if n = 0 then x.goto (x.pc + 1 + i.len)
    else ({ x with loops := ⟨x.pc + 1, x.pc + 1 + i.len, 0, n⟩ :: x.loops }).advance
  | 0x32 =>
    let s := x.scalar i.d
    let p := x.pred i.d
    let taken := [true, s ≠ 0, s = 0, p ≠ 0, p = 0].getD i.cond false
    x.goto (if taken then x.pc + 1 + i.off else x.pc + 1)
  | _ =>
    if ra.fmt ≠ i.f || ra.scaled || (!i.bs && (rb.fmt ≠ i.f || rb.scaled)) then tag
    else
      (x.each i.d i.p (epl i.f) ((x.reg i.d).retag i.f false) fun j =>
        roundTo i.f (arith i.op (elemValue i.f (ra.elem j)) (elemValue i.f (x.opndB i i.f j)))).advance

/-- How an invocation ends: its emitted lines, or a fault with code, instruction index and K. -/
abbrev Invoked := Except (Nat × Nat × Nat) (List LineReg)

/-- Runs the lane for at most n instructions. -/
def Lane.run (c : Code) (t : Facts) : Nat → Lane → Invoked
  | 0, x => .ok x.held
  | n + 1, x =>
    match c.text[x.pc]? with
    | none => .ok x.held
    | some i =>
      match x.exec c t i with
      | .on y => Lane.run c t n y
      | .ended out => .ok out
      | .fault code pc k => .error (code, pc, k)

/-- The lane at the start of an invocation (R245). -/
def Lane.start (c : Code) (input : List LineReg) : Lane :=
  { l := List.replicate 16 {}, s := (List.range 16).map fun i => (c.consts.getD i 0).toNat, p := List.replicate 8 0,
    input := input }

/-- One invocation; an accepted program runs at most W instructions (R260). -/
def invoke (c : Code) (worst : Nat) (t : Facts) (input : List LineReg) : Invoked :=
  Lane.run c t (worst + 1) (Lane.start c input)

end Sys2Proof.Machine
end

