-- ==== Sys2Proof/Machine/Kiln.lean ====
section
/-! DEFINITION. Kilns: anchors and carries, the shape of a reduction, its two phases, retirement, go counters, the owner's
commands and REDUCE payloads (R217 to R241, R247 to R249, R258, R266). -/

namespace Sys2Proof.Machine

open Sys2Proof Sys2Proof.Machine.Crypto

/-! ## Anchors and carries -/

/-- The anchor byte of a block's values (R217). -/
def anchorByte (l : List Val) : Nat :=
  let wild : Val → Bool
    | .fin _ m e => m ≠ 0 && 128 < ceilExp m e
    | _ => true
  if l.any wild then 255
  else l.foldl (fun a v => match v with
    | .fin _ m e => if m = 0 then a else max a (126 + ceilExp m e).toNat
    | _ => a) 1

/-- Fraction bits F and width of a carry (R218). -/
def carryFrac (a64 : Bool) : Nat := if a64 then 50 else 18
def carryWidth (a64 : Bool) : Nat := if a64 then 64 else 32

/-- to_carry, before it is taken at its width (R218). -/
def toCarry (neg : Bool) (sig : Nat) (p anchor : Int) (frac : Nat) : Int :=
  let sh := p + frac - anchor
  signedNat neg (if 0 ≤ sh then sig <<< sh.toNat else if -64 < sh then sig >>> (-sh).toNat else 0)

/-- An element that does not fit under the block's anchor (R230). -/
def violates (anchor : Int) : Val → Bool
  | .fin _ m e => m ≠ 0 && anchor < ceilExp m e
  | _ => true

/-- A carry of an element that fits. -/
def Val.carry (v : Val) (anchor : Int) (a64 : Bool) : Int :=
  match v with
  | .fin neg m e => toCarry neg m e anchor (carryFrac a64)
  | _ => 0

/-- Two's-complement addition at the carry's width. -/
def addCarry (a64 : Bool) (s : BitVec 64) (c : Int) : BitVec 64 :=
  BitVec.ofNat 64 (((s.toNat : Int) + c) % 2 ^ carryWidth a64).toNat

/-! ## Shape (R219) -/

def Block.reduction? (b : Block) (slot : Nat) : Option Reduction := b.reductions.get? slot

def Block.modReduction (b : Block) (slot : Nat) (f : Reduction → Reduction) : Block :=
  { b with reductions := b.reductions.upd slot f }

def Reduction.windowCount (k : Reduction) : Nat := ceilDiv k.elems k.window

/-- Blocks of a window; the last one may be partial. -/
def Reduction.winBlocks (k : Reduction) (w : Nat) : Nat := min k.window (k.elems - w * k.window) / 32

/-- Blocks of the first n that a kiln holds. -/
def kilnBlocks (kilns n c : Nat) : Nat :=
  (((List.range (ceilDiv n 128)).filter fun r => r % kilns = c).map fun r => min 128 (n - 128 * r)).sum

/-- Runs of a window, and the blocks of one of them. -/
def Reduction.runs (k : Reduction) (w : Nat) : Nat := ceilDiv (k.winBlocks w) 128
def Reduction.runBlocks (k : Reduction) (w r : Nat) : Nat := min 128 (k.winBlocks w - 128 * r)

def Reduction.win (k : Reduction) (w : Nat) : Window := k.windows.getD w {}

def Reduction.modWin (k : Reduction) (w : Nat) (f : Window → Window) : Reduction :=
  { k with windows := k.windows.put w (f (k.win w)) }

/-- Offset of the bank of a window in the anchor region (R221). -/
def bankOff (w : Nat) : Nat := w % 2 * 2 ^ 19

/-- Bytes of accumulators that a reduction takes in each kiln (R220). -/
def Reduction.accBytes (k : Reduction) (kilns : Nat) : Nat := k.window / kilns * (carryWidth k.a64 / 8)

def kilnId (c : Nat) : Nat := 0x60 + c

/-! ## Go counters (R222) -/

/-- One raise of a counter at every other member. -/
def Block.goRaises (b : Block) (slot : Nat) (k : Reduction) (off count : Nat) : List Raise :=
  match b.jobs.get? k.job.toNat with
  | none => []
  | some j =>
    (j.members.filter fun m => m.1.toNat ≠ b.self).map fun m =>
      { slot := slot, job := k.job.toNat, dst := m.1.toNat
        addr := m.2.toNat * 2 ^ 28 + k.goBase + 16 * k.rank + off, value := k.call.toNat * 2 ^ 32 + count }

def Block.sendGo (b : Block) (slot : Nat) (k : Reduction) (off count : Nat) : Block :=
  if k.goBase = 0 then b
  else b.modLpe b.memberPort fun l => { l with raises := l.raises ++ b.goRaises slot k off count }

/-- Raises GX to a count, clamped; nothing is sent that does not exceed the count sent before. -/
def Block.raiseGx (b : Block) (slot count : Nat) : Block :=
  match b.reduction? slot with
  | none => b
  | some k =>
    let v := min count k.windowCount
    if v ≤ k.gx then b else (b.modReduction slot fun k => { k with gx := v }).sendGo slot k 0 v

/-- Raises GS to a count, clamped. -/
def Block.raiseGs (b : Block) (slot count : Nat) : Block :=
  match b.reduction? slot with
  | none => b
  | some k =>
    let v := min count k.windowCount
    if v ≤ k.gs then b else (b.modReduction slot fun k => { k with gs := v }).sendGo slot k 8 v

/-- GS opens the sums of a window whose exponents are complete once the window before it has retired. -/
def Block.openSums (b : Block) (slot w : Nat) : Block :=
  match b.reduction? slot with
  | none => b
  | some k => if (k.win w).expDone && (w = 0 || (k.win (w - 1)).retired) then b.raiseGs slot (w + 1) else b

/-- The raises that wait are sent. -/
def Lx.sendRaises (x : Lx) : Lx := (Lx.drainRaises 4096 (x.at x.w.blk.memberPort)).at x.n

/-! ## Counting -/

/-- A kiln has counted N times its blocks (R229, R231). -/
def Block.counted (b : Block) (k : Reduction) (w : Nat) (count : Tab Nat) (c : Nat) : Bool :=
  k.n * kilnBlocks b.build.kilns (k.winBlocks w) c ≤ count.getD c 0

/-- Every kiln has counted N times its blocks. -/
def Block.allCounted (b : Block) (k : Reduction) (w : Nat) (count : Tab Nat) : Bool :=
  (List.range b.build.kilns).all fun c => b.counted k w count c

/-- The exponent phase of a window completes (R229). -/
def Block.expProgress (b : Block) (slot w : Nat) : Block :=
  match b.reduction? slot with
  | none => b
  | some k =>
    if k.ended || (k.win w).expDone || !b.allCounted k w (k.win w).expCount then b
    else
      let b := b.modReduction slot fun k =>
        { k.modWin w (fun v => { v with expDone := true }) with expWait := k.expWait.filter fun x => x.2 ≠ w }
      ((k.expWait.filter fun x => x.2 = w).foldl (fun b x => b.succeed x.1 0 0) b).openSums slot w

/-! ## Contributions -/

/-- Anchor bytes of consecutive blocks of one run join the bank; x stands at the kiln's first LPE (R221, R229). -/
def Lx.combine (x : Lx) (slot w j : Nat) (a : List Nat) : Lx :=
  match x.w.blk.reduction? slot with
  | none => x
  | some k =>
    if k.ended then x
    else
      match x.readState k.job.toNat k.anchor (bankOff w + j) a.length with
      | (.ok, old, x) =>
        let x := x.writeState k.job.toNat k.anchor (bankOff w + j)
          (List.zipWith (fun o v => BitVec.ofNat 8 (max o.toNat v)) old a)
        x.on fun b =>
          (b.modReduction slot fun k =>
            k.modWin w fun v => { v with expCount := v.expCount.mod (x.n / 4) 0 fun n => n + a.length }).count 4 k.inFmt
              a.length
      | (st, _, x) => x.on fun b => b.endReduction slot st

/-- Adds one block of values under its anchor byte; answers how many elements were added (R218, R230). -/
def Reduction.addBlock (k : Reduction) (j a : Nat) (v : List Val) : Reduction × Nat :=
  if a = 255 || List.contains k.bad j then (k, 0)
  else
    let e : Int := (a : Int) - 126
    let bad := (v.filter (violates e)).length
    let acc := v.zipIdx.foldl (fun t p =>
      if violates e p.1 then t else Tab.mod t (32 * j + p.2) 0 fun s => addCarry k.a64 s (p.1.carry e k.a64)) k.acc
    ({ k with acc := acc, bad := if bad = 0 then k.bad else j :: k.bad, cntViolations := k.cntViolations + bad },
     v.length - bad)

def Reduction.addBlocks : List (List Val) → List Byte → Nat → Reduction × Nat → Reduction × Nat
  | [], _, _, r => r
  | v :: rest, a, j, r =>
    let s := r.1.addBlock j (a.headD 0).toNat v
    Reduction.addBlocks rest a.tail (j + 1) (s.1, r.2 + s.2)

/-- Blocks of one run are accumulated; x stands at the kiln's first LPE (R230). -/
def Lx.accumulate (x : Lx) (slot w j : Nat) (v : List (List Val)) : Lx :=
  match x.w.blk.reduction? slot with
  | none => x
  | some k =>
    if k.ended then x
    else
      match x.readState k.job.toNat k.anchor (bankOff w + j) v.length with
      | (.ok, a, x) =>
        let r := Reduction.addBlocks v a j (k, 0)
        let k' := { r.1.modWin w (fun y => { y with sumCount := y.sumCount.mod (x.n / 4) 0 fun n => n + v.length }) with
          cntBlocks := k.cntBlocks + v.length }
        x.on fun b => ({ b with reductions := b.reductions.put slot k' }).count 5 k.inFmt r.2
      | (st, _, x) => x.on fun b => b.endReduction slot st

/-- The lines of a stream of elements, with one scale byte per block when it is scaled; a short last group reads as zero
in its missing elements (R247). -/
def groupsOf (f : Nat) (scaled : Bool) (data : Bytes) (scales : List Nat) : List LineReg :=
  (split (lineBytes f) data).zipIdx.map fun p =>
    { bits := le p.1, fmt := f, scaled := scaled
      scale := (List.range 4).map fun i => if scaled then scales.getD (lineBlocks f * p.2 + i) 127 else 127 }

def LineReg.vals (l : LineReg) : List Val := (List.range (epl l.fmt)).map l.value

/-- The program as its invocations use it. -/
def Program.code (p : Program) : Code :=
  { text := p.text.map Ins.ofWord, consts := p.consts, inFmt := p.inFmt, inScaled := p.inScaled, outFmt := p.outFmt
    outScaled := p.outScaled }

/-- A fault of an invocation: code, instruction index, K, and POS. -/
structure ProgFault where
  code : Nat
  pc : Nat
  k : Nat
  pos : Nat

/-- Runs the program on each group in order; the values emitted (R246, R248). -/
def Program.runGroups (p : Program) (t : Facts) : List LineReg → Except ProgFault (List Val)
  | [] => .ok []
  | g :: r =>
    match invoke p.code p.worst t [g] with
    | .error (c, pc, k) => .error { code := c, pc := pc, k := k, pos := t.pos }
    | .ok out =>
      match p.runGroups { t with pos := t.pos + epl g.fmt } r with
      | .error e => .error e
      | .ok v => .ok ((out.map LineReg.vals).flatten ++ v)

/-- What a reduction's invocations get from GETS (R256). -/
def Reduction.facts (k : Reduction) (w j rank phase : Nat) : Facts :=
  { pos := w * k.window + 32 * j, window := w, rank := rank, phase := phase, call := k.call.toNat, ctx := k.ctx.toNat }

/-- The program's output for n blocks of a contribution, block by block (R247). -/
def Block.programBlocks (b : Block) (k : Reduction) (t : Facts) (n : Nat) (data : Bytes) (scales : List Nat) :
    Except ProgFault (List (List Val)) :=
  match b.programs.get? k.prog with
  | none => .ok []
  | some p =>
    match p.runGroups t (groupsOf k.inFmt k.scaled data scales) with
    | .error e => .error e
    | .ok v => .ok ((split 32 v).take n)

/-- A fault of a program: PROG_FAULT to the function, and the context is killed (R239, R257, R258). -/
def Block.programFault (b : Block) (engine fn ctx prog : Nat) (e : ProgFault) : Block :=
  (b.raise { code := 0x06, engine := engine, fn := fn, ctx := ctx,
             data := [(0, prog), (2, e.pc), (4, e.code), (5, e.k), (8, e.pos)] } [fn]).kill ctx 3 0 none

/-! ## Commands of the owner -/

/-- Whether every region of a range of addresses is bound and belongs to a function (R220). -/
def Block.ownsRange (b : Block) (fn a n : Nat) : Bool :=
  a + n ≤ memSize &&
  (List.range (regionOf (a + n - 1) - regionOf a + 1)).all fun i =>
    (b.region (regionOf a + i)).bound && (b.region (regionOf a + i)).ownerFn.toNat = fn

/-- The parameters of a KILN_SETUP (R340). -/
def setupOf (c : Cmd) (n : Nat) : Reduction :=
  let d (o k : Nat) := dfld c.desc o k
  { fn := c.fn, ctx := BitVec.ofNat 16 c.ctx, job := BitVec.ofNat 16 (d 16 2), call := BitVec.ofNat 24 (d 20 3),
    rank := d 18 2, n := n, elems := d 24 8, window := d 32 4, inFmt := d 23 1 % 16, scaled := (d 23 1).testBit 4,
    a64 := (d 37 1).testBit 0, outFmt := d 36 1, sr := (d 37 1).testBit 1, seed := d 38 2, prog := d 40 2,
    srcAddr := d 48 6, srcKey := d 42 2, resAddr := d 54 6, resKey := d 44 2, anchor := d 46 2, goBase := d 60 4 }

/-- The values of R219 and R220; a key handle of 2^14 or above names no slot (R93). -/
def Reduction.valuesOk (k : Reduction) (kilns : Nat) : Bool :=
  2 ≤ k.n && k.n ≤ 4096 && k.elems % 32 = 0 && 32 ≤ k.elems && k.elems ≤ 2 ^ 40 &&
  k.srcKey < 2 ^ 14 && k.resKey < 2 ^ 14 && 0 < k.window && k.window % (4096 * kilns) = 0 && k.window ≤ 2 ^ 24 &&
  k.inFmt ≤ 11 && (!k.scaled || mxFmt k.inFmt) && k.outFmt ≤ 6 && (k.sr || k.seed = 0) &&
  k.goBase % 16 = 0 && k.goBase < 2 ^ 28

/-- Bytes of a shard in a format. -/
def shardBytes (elems f : Nat) : Nat := elems / 32 * blockBytes f

/-- A program handle of a function (R79, R264). -/
def Block.program? (b : Block) (fn h : Nat) : Option Program := (b.programs.get? h).filter fun p => h < 64 && p.fn = fn

/-- The checks of R220 that a reduction's parameters fail with BAD_OPERAND. -/
def Block.setupOk (b : Block) (k : Reduction) (j : Job) : Bool :=
  let e := b.region k.anchor
  k.valuesOk b.build.kilns &&
  ((b.ctxs.get? k.ctx.toNat).any fun c => List.contains c.jobs k.job.toNat) &&
  (j.lastCall.all fun l => l.toNat < k.call.toNat) &&
  (j.members[k.rank]?).any (fun m => m.1.toNat = b.self) &&
  ((b.program? k.fn k.prog).any fun p =>
    p.target = 0 && p.inFmt = k.inFmt && p.inScaled = k.scaled &&
    (b.ctxs.get? k.ctx.toNat).any fun c => List.contains c.progs k.prog) &&
  b.ownsRange k.fn k.srcAddr (shardBytes k.elems k.inFmt) && b.ownsRange k.fn k.resAddr (shardBytes k.elems k.outFmt) &&
  e.bound && e.mode = .sealed && e.ownerFn.toNat = k.fn && e.key 0 ≠ 0 &&
  (b.build.regionTier k.anchor).any fun t => !t.one

/-- A slot holds a seed key of a job: a level-5 key of 256 bits whose parent is the job key; the slot does not say by which
label it was made (R99, R329, log 129). -/
def Block.seedOf (b : Block) (n : Nat) (j : Job) : Bool :=
  (b.slot n).level = 5 && (b.slot n).typ = 1 && (b.slot n).parentSlot.toNat = j.slot && (b.slot n).parentGen = j.gen

/-- The checks of KILN_SETUP in order (R220). -/
def Block.setupCheck (b : Block) (k : Reduction) (j : Job) : Status :=
  if !b.setupOk k j then .badOperand
  else
    let st := if k.sr then b.keyCheck k.seed k.fn k.ctx.toNat (some 3) useV else .ok
    if st ≠ .ok then st
    else if k.sr && !b.seedOf k.seed j then .badOperand
    else if (Tab.lowest b.reductions 8).isNone then .retryLater
    else if 12 * 2 ^ 20 < ((Tab.vals b.reductions).map fun r => r.accBytes b.build.kilns).sum + k.accBytes b.build.kilns then
      .retryLater
    else .ok

/-- A bank is zeroed over its window's blocks when the window's exponents open (R229). -/
def Lx.zeroBank (x : Lx) (slot w : Nat) : Lx :=
  match x.w.blk.reduction? slot with
  | none => x
  | some k =>
    if k.windowCount ≤ w then x
    else
      ((List.range (k.runs w)).foldl (fun x r =>
        (x.at (4 * (r % x.w.blk.build.kilns))).writeState k.job.toNat k.anchor (bankOff w + 128 * r)
          (List.replicate (k.runBlocks w r) 0)) x).at x.n

/-- The program takes a frame in every kiln; eight are enough, since frames of no live reduction are released (R268). -/
def Block.frameIn (b : Block) (prog : Nat) : Block :=
  { b with
    frames := (List.range b.build.kilns).foldl (fun t c =>
      Tab.mod t (kilnId c) [] fun l => prog :: l.filter fun p => p ≠ prog) b.frames }

/-- A reduction opens in a slot (R220 to R222, R229). -/
def Lx.openReduction (x : Lx) (id slot : Nat) (k : Reduction) : Lx :=
  let x := x.on fun b =>
    ({ b with
      reductions := b.reductions.put slot k
      jobs := b.jobs.upd k.job.toNat fun j => { j with lastCall := some k.call } }.frameIn k.prog).raiseGx slot 2
  (((x.zeroBank slot 0).zeroBank slot 1).sendRaises).on fun b => b.succeed id slot 0

/-- KILN_SETUP: R219 to R222, R266 to R268, R340. -/
def execKilnSetup (cmd : Nat) (acc : Access) (s : State) : Host.Outcome State Fault Refusal :=
  onCommandMem s cmd 0x0601 fun c w =>
    match w.blk.jobs.get? (dfld c.desc 16 2) with
    | none => w.on fun b => b.fail cmd .badOperand
    | some j =>
      match w.blk.setupCheck (setupOf c j.members.length) j, Tab.lowest w.blk.reductions 8 with
      | .ok, some slot =>
        ((w.lx w.blk.memberPort acc).openReduction cmd slot (setupOf c j.members.length)).done
      | st, _ => w.on fun b => b.fail cmd (if st = .ok then .retryLater else st)

/-- The reduction that a command of its owner names (R340). -/
def Block.ownReduction (b : Block) (c : Cmd) : Option (Nat × Reduction) :=
  ((b.reduction? (dfld c.desc 16 1)).filter fun k => k.fn = c.fn && k.ctx.toNat = c.ctx).map fun k =>
    (dfld c.desc 16 1, k)

/-- The owner's local blocks of a window, with their scale bytes; the spec does not say where a scaled local source keeps
them (log 4). -/
def Lx.localBlocks (x : Lx) (k : Reduction) (w : Nat) : Status × Bytes × List Nat × Lx :=
  let n := k.winBlocks w
  let len := n * blockBytes k.inFmt
  let r := Serving.readBytes { fn := k.fn, ctx := k.ctx.toNat, key := k.srcKey } (len / 128 + 2) x.serving
    (k.srcAddr + w * k.window / 32 * blockBytes k.inFmt) len
  (r.1, r.2.1,
   (List.range n).map fun i => openByte 6 (w * k.window / 32 + i), x.after r.2.2)

/-- Applies what each run of a window gives, at the kiln that holds it. -/
def Lx.eachRun (kilns : Nat) (act : Lx → Nat → List (List Val) → Lx) : Nat → List (List (List Val)) → Lx → Lx
  | _, [], x => x
  | r, v :: rest, x => Lx.eachRun kilns act (r + 1) rest (act (x.at (4 * (r % kilns))) (128 * r) v)

/-- A local contribution of the owner to a window: it is read, the program runs on it, and each run's blocks are given to
its kiln (R223, R224, R239). -/
def Lx.localPhase (x : Lx) (id slot w phase : Nat) (k : Reduction) (act : Lx → Nat → List (List Val) → Lx) : Lx :=
  match x.localBlocks k w with
  | (.ok, data, scales, x) =>
    match x.w.blk.programBlocks k (k.facts w 0 k.rank phase) (k.winBlocks w) data scales with
    | .error e =>
      x.on fun b => b.programFault (kilnId ((e.pos - w * k.window) / 4096 % b.build.kilns)) k.fn k.ctx.toNat k.prog e
    | .ok v => Lx.eachRun x.w.blk.build.kilns act 0 (split 128 v) x
  | (st, _, _, x) =>
    x.on fun b => (b.modReduction slot fun k =>
      { k with expWait := k.expWait.filter fun y => y.1 ≠ id, sumWait := k.sumWait.filter fun y => y.1 ≠ id }).fail id st

/-- KILN_EXPONENT: R223, R229, R340. -/
def execKilnExponent (cmd : Nat) (acc : Access) (s : State) : Host.Outcome State Fault Refusal :=
  onCommandMem s cmd 0x0602 fun c w =>
    let win := dfld c.desc 20 4
    match w.blk.ownReduction c with
    | none => w.on fun b => b.fail cmd .badOperand
    | some (slot, k) =>
      if k.ended || k.gx ≤ win || (k.win win).expGiven then w.on fun b => b.fail cmd .badOperand
      else
        let w := w.on fun b => (b.wait cmd).modReduction slot fun k =>
          { k.modWin win (fun v => { v with expGiven := true }) with expWait := k.expWait ++ [(cmd, win)] }
        let x := (w.lx 0 acc).localPhase cmd slot win 0 k fun x j v => x.combine slot win j (v.map anchorByte)
        ((x.on fun b => b.expProgress slot win).sendRaises).done

/-- KILN_SUM: R224, R230, R231, R340. It is given at once, and what ends the reduction completes it; its window is read
when the window before has retired, since the accumulators hold one window (log 64). -/
def execKilnSum (cmd : Nat) (acc : Access) (s : State) : Host.Outcome State Fault Refusal :=
  onCommandMem s cmd 0x0603 fun c w =>
    let win := dfld c.desc 20 4
    match w.blk.ownReduction c with
    | none => w.on fun b => b.fail cmd .badOperand
    | some (slot, k) =>
      let held := List.contains k.sumWait (cmd, win)
      if k.ended || !(k.win win).expDone || ((k.win win).sumGiven && !held) then w.on fun b => b.fail cmd .badOperand
      else
        let w := if held then w
          else w.on fun b => b.modReduction slot fun k =>
            { k.modWin win (fun v => { v with sumGiven := true }) with sumWait := k.sumWait ++ [(cmd, win)] }
        if k.gs ≤ win then w
        else (((w.on fun b => b.wait cmd).lx 0 acc).localPhase cmd slot win 1 k fun x j v => x.accumulate slot win j v).done

/-- The six counts of a reduction, in the order of R225. -/
def Reduction.counts (k : Reduction) : Bytes :=
  toLe 8 k.cntRetired ++ toLe 8 k.cntBlocks ++ toLe 8 k.cntNonFinite ++ toLe 8 k.cntViolations ++ toLe 8 k.cntSaturated ++
  toLe 8 k.cntDiscarded

/-- KILN_FINISH: R225, R340. -/
def execKilnFinish (cmd : Nat) (s : State) : Host.Outcome State Fault Refusal :=
  onCommand s cmd 0x0604 fun c b =>
    match b.ownReduction c with
    | none => b.fail cmd .badOperand
    | some (slot, k) =>
      let b := (b.endReduction slot .badOperand).freeSlot slot
      if dfld c.desc 24 8 = 0 then b.succeed cmd 0 0 else b.output cmd (dfld c.desc 24 8) k.counts .ok 0 0

/-! ## REDUCE payloads (R226 to R228) -/

/-- The fields of a reduction block. -/
structure RedBlock where
  slot : Nat
  sums : Bool
  fmt : Nat
  nblk : Nat
  call : Nat
  window : Nat
  first : Nat
  rank : Nat
  reservedZero : Bool

def RedBlock.read (p : Bytes) : RedBlock :=
  let s := bfld p 0 1
  { slot := s % 8, sums := s.testBit 7, fmt := bfld p 1 1 % 32, nblk := bfld p 2 2, call := bfld p 4 3, window := bfld p 8 4,
    first := bfld p 12 4, rank := bfld p 16 2
    reservedZero := fld s 3 4 = 0 && bfld p 1 1 < 32 && bfld p 7 1 = 0 && allZero (slice p 18 46) }

/-- Bytes after the reduction block (R227). -/
def RedBlock.bytes (r : RedBlock) (k : Reduction) : Nat :=
  if r.sums then (if k.scaled then r.nblk else 0) + r.nblk * blockBytes k.inFmt else r.nblk

/-- Check 2 of R228 at a kiln. -/
def RedBlock.shapeOk (r : RedBlock) (k : Reduction) (kilns c len : Nat) : Bool :=
  r.reservedZero && r.rank < k.n && r.rank ≠ k.rank && 1 ≤ r.nblk && r.nblk ≤ 128 &&
  r.first / 128 = (r.first + r.nblk - 1) / 128 && r.first / 128 % kilns = c &&
  r.window < k.windowCount && r.first + r.nblk ≤ k.winBlocks r.window &&
  (!r.sums || r.fmt = k.inFmt + 16 * bit k.scaled) && len = 64 + ceilDiv (r.bytes k) 64 * 64

/-- Check 3 of R228; a kiln that has counted every block of a window takes no more of them (log 64). -/
def Block.phaseOk (b : Block) (r : RedBlock) (k : Reduction) (c : Nat) : Bool :=
  if r.sums then r.window < k.gs && !(k.win r.window).retired && !b.counted k r.window (k.win r.window).sumCount c
  else r.window < k.gx && !(k.win r.window).expDone

/-- Check 4 of R228. -/
def RedBlock.anchorsOk (r : RedBlock) (p : Bytes) : Bool := r.sums || !(slice p 64 r.nblk).any fun x => x = 0

/-- A payload that passed its checks is combined or accumulated (R229, R230). -/
def Lx.applyReduce (x : Lx) (r : RedBlock) (k : Reduction) (p : Bytes) : Lx :=
  let c := x.n / 4
  if r.sums then
    let ns := if k.scaled then r.nblk else 0
    let scales := (slice p 64 ns).map fun v => v.toNat
    match x.w.blk.programBlocks k (k.facts r.window r.first r.rank 1) r.nblk
        (slice p (64 + ns) (r.nblk * blockBytes k.inFmt)) scales with
    | .error e => x.on fun b => b.programFault (kilnId c) k.fn k.ctx.toNat k.prog e
    | .ok v => ((x.at (4 * c)).accumulate r.slot r.window r.first v).at x.n
  else
    let a := (slice p 64 r.nblk).map fun v => v.toNat
    (((x.at (4 * c)).combine r.slot r.window r.first a).on fun b => b.expProgress r.slot r.window).sendRaises.at x.n

/-- An opened REDUCE payload reaches the kiln of its LPE (R228). -/
def Lx.takeReduce (x : Lx) (h : Hdr) (fn : Nat) (p : Bytes) : Lx :=
  let r := RedBlock.read p
  let c := x.n / 4
  match (x.w.blk.reduction? r.slot).filter fun k => !k.ended && k.job.toNat = h.job && k.call.toNat = r.call with
  | none => x.on fun b => b.discard x.n 6 h.src h.job fn
  | some k =>
    if r.shapeOk k x.w.blk.build.kilns c p.length && x.w.blk.phaseOk r k c && r.anchorsOk p then x.applyReduce r k p
    else
      x.on fun b =>
        (b.modReduction r.slot fun k => { k with cntDiscarded := k.cntDiscarded + 1 }).endReduction r.slot .badOperand

/-! ## Retirement -/

/-- A magnitude of whole ulps and whether it lies above the largest finite value. -/
def Flt.over (f : Flt) (k : Nat) (u : Int) : Bool := k ≠ 0 && f.top < (u - f.low).toNat * 2 ^ f.fbits + k

/-- SR of a magnitude to ulps with 64 random bits (R233). -/
def roundRandom (m : Nat) (d : Int) (r : Nat) : Nat :=
  if d ≤ 0 then m <<< (-d).toNat
  else
    let q := m >>> d.toNat
    if r < ((m - q <<< d.toNat) * 2 ^ 64) >>> d.toNat then q + 1 else q

/-- The retired value of an accumulator: its encoding and whether it saturated (R232, R233). -/
def roundSum (f : Nat) (s anchor : Int) (frac : Nat) (draw : Option Nat) : Nat × Bool :=
  match Flt.ofCode f with
  | none => (0, false)
  | some t =>
    if s = 0 then (0, false)
    else
      let m := s.natAbs
      let e := anchor - frac
      let u := t.ulp m e
      let k := match draw with
        | some r => roundRandom m (u - e) r
        | none => roundEven m (e - u)
      let x := t.pack (decide (s < 0)) k u
      (if f = 2 then x * 2 ^ 13 else x, !t.hasInf && t.over k u)

/-- Canonical NaN in the container of a format. -/
def nanOf (f : Nat) : Nat :=
  match Flt.ofCode f with
  | some t => if f = 2 then t.nan * 2 ^ 13 else t.nan
  | none => 0

/-- The random bits of an element (R233). -/
def srDraw (key : Bytes) (call off : Nat) : Nat := le (kmac256 key (toLe 8 (call * 2 ^ 40 + off)) 64 "CX.round")

/-- The results of one block: its elements' encodings and how many saturated. -/
def Reduction.retireBlock (k : Reduction) (seed : Option Bytes) (w j a : Nat) : List Nat × Nat :=
  if a = 255 || List.contains k.bad j then (List.replicate 32 (nanOf k.outFmt), 0)
  else
    let r := (List.range 32).map fun i =>
      roundSum k.outFmt (signedOf (k.acc.getD (32 * j + i) 0).toNat (carryWidth k.a64)) ((a : Int) - 126) (carryFrac k.a64)
        (seed.map fun s => srDraw s k.call.toNat (w * k.window + 32 * j + i))
    (r.map fun x => x.1, (r.filter fun x => x.2).length)

/-- The seed key of a reduction that rounds with SR, as a kiln uses it. -/
def Block.seedKey (b : Block) (k : Reduction) (c : Nat) : Except Status (Option Bytes) × Block :=
  if !k.sr then (.ok none, b)
  else
    match b.useKey (kilnId c) k.seed k.fn k.ctx.toNat useV with
    | (.error st, b) => (.error st, b)
    | (.ok c, b) => (.ok (some ((toLe 64 c.key.toNat).take (typeLen (fld c.attr.toNat 8 4)))), b)

/-- A window whose sums are open and a kiln whose slice of it is complete and has not retired. -/
def Block.dueSlice (b : Block) (k : Reduction) : Option (Nat × Nat) :=
  (k.windows.findSome? fun v =>
    if v.2.retired || !v.2.expDone || k.gs ≤ v.1 then none
    else ((List.range b.build.kilns).find? fun c => b.counted k v.1 v.2.sumCount c && !List.contains v.2.slices c).map
      fun c => (v.1, c))

/-- The window has retired: its counts, the pending KILN_SUM, GX, and the bank of the window after next (R222, R229,
R231). -/
def Lx.retired (x : Lx) (slot w : Nat) (k : Reduction) : Lx :=
  let x := x.on fun b =>
    let b := b.modReduction slot fun k =>
      { k.modWin w (fun v => { v with retired := true }) with
        acc := [], bad := [], cntRetired := k.cntRetired + 1, sumWait := k.sumWait.filter fun y => y.2 ≠ w }
    let b := b.raiseGx slot (w + 3)
    ((k.sumWait.filter fun y => y.2 = w).foldl (fun b y => b.succeed y.1 0 0) b).openSums slot (w + 1)
  (x.zeroBank slot (w + 2)).sendRaises

/-- A slice whose every run is written is cleared and counted; with the last one the window retires (R231). -/
def Lx.sliceDone (x : Lx) (slot w c : Nat) : Lx :=
  match x.w.blk.reduction? slot with
  | none => x
  | some k =>
    let kilns := x.w.blk.build.kilns
    let here (j : Nat) : Bool := j / 128 % kilns = c
    let k' := k.modWin w fun v => { v with slices := c :: v.slices }
    let x := x.on fun b => (b.modReduction slot fun _ =>
      { k' with acc := k.acc.filter fun e => !here (e.1 / 32), bad := k.bad.filter fun j => !here j }).count 6 k.outFmt
        (32 * kilnBlocks kilns (k.winBlocks w) c)
    if (List.range kilns).all fun c => List.contains (k'.win w).slices c then x.retired slot w k' else x

/-- One run of a slice is rounded and written, line by line, under R127 (R231 to R233). -/
def Lx.retireRun (x : Lx) (slot w r : Nat) (k : Reduction) (seed : Option Bytes) : Status × Lx :=
  match x.readState k.job.toNat k.anchor (bankOff w + 128 * r) (k.runBlocks w r) with
  | (.ok, bank, x) =>
    let blocks := bank.zipIdx.map fun p => (128 * r + p.2, p.1.toNat)
    let out := blocks.map fun p => k.retireBlock seed w p.1 p.2
    let bytes := (out.map fun p => (p.1.map fun v => toLe (fmtBits k.outFmt / 8) v).flatten).flatten
    let y := Serving.writeBytes { fn := k.fn, ctx := k.ctx.toNat, key := k.resKey } (bytes.length / 128 + 2) x.serving
      (k.resAddr + (w * k.window + 4096 * r) * (fmtBits k.outFmt / 8)) bytes
    let x := (x.after y.2).on fun b => b.modReduction slot fun k => { k with
      cntNonFinite := k.cntNonFinite + (blocks.filter fun p => p.2 = 255 || List.contains k.bad p.1).length
      cntSaturated := k.cntSaturated + (out.map fun p => p.2).sum }
    (y.1, x)
  | (st, _, x) => (st, x)

/-- The runs of a slice retire in order; the first that fails ends the reduction (R241). -/
def Lx.retireRuns (x : Lx) (slot w c : Nat) (k : Reduction) (seed : Option Bytes) : List Nat → Lx
  | [] => x.sliceDone slot w c
  | r :: rest =>
    match x.retireRun slot w r k seed with
    | (.ok, x) => x.retireRuns slot w c k seed rest
    | (st, x) => x.on fun b => b.endReduction slot st

/-- A kiln retires its slice of a window (R231 to R233, R241). -/
def Lx.retire (x : Lx) (slot w c : Nat) (k : Reduction) : Lx :=
  let y := x.w.blk.seedKey k c
  let x : Lx := { x with w := { x.w with blk := y.2 } }
  match y.1 with
  | .error st => x.on fun b => b.endReduction slot st
  | .ok seed => x.retireRuns slot w c k seed ((List.range (k.runs w)).filter fun r => r % x.w.blk.build.kilns = c)

/-- WINDOW_RETIRED: R222, R231 to R234, R241. Each occurrence is the retirement of one kiln's slice, and the window
retires with its last. -/
def execWindowRetired (slot : Nat) (acc : Access) (s : State) : Host.Outcome State Fault Refusal :=
  onMemoryWait s fun w =>
    match (w.blk.reduction? slot).filter fun k => !k.ended with
    | none => w
    | some k =>
      match w.blk.dueSlice k with
      | none => w
      | some (win, c) => ((w.lx (4 * c) acc).retire slot win c k).done

end Sys2Proof.Machine
end

