-- ==== Sys2Proof/Machine/Fabric.lean ====
section
/-! DEFINITION. The commands at `lreq_*` and `lphy_*`: requests, inbound packets, the home's operations, read caching,
completions, aggregation, teardown notices, deadlines and credits (R40 to R44, R170 to R213). -/

namespace Sys2Proof.Machine

open Sys2Proof Sys2Proof.Machine.Crypto

/-! ## Requests -/

/-- A request of a row, which keeps a reserved type. -/
def typedReq (r : LinkReq) (ty : Nat) : LinkReq := if 7 ≤ r.ty.toNat then r else { r with ty := BitVec.ofNat 4 ty }

/-- A request at `lreq_*` as a command. -/
def atLreq (s : State) (r : LinkReq) (ty : Nat) (beats : List Beat) (acc : Access) : Host.Outcome State Fault Refusal :=
  atPort (.lreq r.lpe) s <| onMemory s fun w => w.lreq (typedReq r ty) beats acc

/-- LREQ_LOAD: R40, R174, R186, R188, R201. -/
def execLreqLoad (r : LinkReq) (acc : Access) (s : State) : Host.Outcome State Fault Refusal := atLreq s r 0 [] acc

/-- LREQ_LOAD_CACHE: R40, R174, R186, R194, R199. -/
def execLreqLoadCache (r : LinkReq) (acc : Access) (s : State) : Host.Outcome State Fault Refusal := atLreq s r 1 [] acc

/-- LREQ_STORE: R40, R41, R174, R186, R188. -/
def execLreqStore (r : LinkReq) (beats : List Beat) (acc : Access) (s : State) : Host.Outcome State Fault Refusal :=
  atLreq s r 2 beats acc

/-- LREQ_ATOMIC: R40, R41, R174, R186, R187. -/
def execLreqAtomic (r : LinkReq) (beats : List Beat) (acc : Access) (s : State) : Host.Outcome State Fault Refusal :=
  atLreq s r 3 beats acc

/-- LREQ_COPY: R40, R41, R174, R186, R188, R192. -/
def execLreqCopy (r : LinkReq) (beats : List Beat) (acc : Access) (s : State) : Host.Outcome State Fault Refusal :=
  atLreq s r 4 beats acc

/-- LREQ_REDUCE: R40, R41, R174, R226, R227. -/
def execLreqReduce (r : LinkReq) (beats : List Beat) (acc : Access) (s : State) : Host.Outcome State Fault Refusal :=
  atLreq s r 5 beats acc

/-- LREQ_INVALIDATE: R40, R174, R186, R194. -/
def execLreqInvalidate (r : LinkReq) (acc : Access) (s : State) : Host.Outcome State Fault Refusal := atLreq s r 6 [] acc

/-! ## Answers -/

/-- The LPE that sent a packet, from its STREAM (R177). -/
def Hdr.sender (h : Hdr) : Nat := fld h.stream 12 5

/-- The answer to a packet (R191). -/
def Lx.reply (x : Lx) (h : Hdr) (ty : Nat) (payload : Bytes) : Lx :=
  x.send { ty := ty, pclass := h.pclass, dst := h.src, job := h.job, dport := h.sender, rtag := h.rtag, opd := h.seq,
           payload := payload }

/-- CPL with a status and an old value. -/
def Lx.replyCpl (x : Lx) (h : Hdr) (st : Status) (old : Nat) : Lx := x.reply h 0x10 (cplBytes st old)

/-- Payload bytes received and opened (R480). -/
def Lx.countOpened (x : Lx) (h : Hdr) : Lx := x.on fun b => b.count 3 h.pclass (64 * (h.len + 1))

/-! ## The operation block (R186, R187) -/

structure OpBlock where
  addr : Nat
  rlen : Nat
  aop : Nat
  o1 : Nat
  o2 : Nat
  cnt : Nat
  zero : Bool

def OpBlock.read (p : Bytes) : OpBlock :=
  { addr := bfld p 0 8, rlen := bfld p 8 2, aop := bfld p 10 1, o1 := bfld p 16 8, o2 := bfld p 24 8, cnt := bfld p 32 8
    zero := allZero (slice p 11 5) && allZero (slice p 40 24) }

/-- Bytes that an operation acts on. -/
def opLength (ty : Nat) (o : OpBlock) (p : Bytes) : Nat :=
  if ty = 0x04 then 8
  else if ty = 0x03 || ty = 0x05 then p.length - 64
  else if ty = 0x02 then 128 - o.addr % 128
  else 64 * (o.rlen + 1)

/-- An operation block follows R186 and R187 for its type; operands that a type does not use must be zero (log 128). -/
def OpBlock.ok (o : OpBlock) (ty : Nat) (p : Bytes) : Bool :=
  o.zero && o.addr < 2 ^ 42 && (if ty = 0x01 || ty = 0x07 then o.rlen < 64 else o.rlen = 0) &&
  (if ty = 0x04 then 1 ≤ o.aop && o.aop ≤ 6 && o.addr % 8 = 0 else o.aop = 0 && o.o1 = 0 && o.o2 = 0) &&
  (ty = 0x05 || o.cnt = 0) && (if ty = 0x03 || ty = 0x05 then 64 < p.length else p.length = 64)

/-- The new value of an ATOMIC (R187). -/
def atomicNew (aop old o1 o2 : Nat) : Nat :=
  if aop = 1 then (old + o1) % 2 ^ 64
  else if aop = 2 then o1
  else if aop = 3 then (if old = o2 then o1 else old)
  else if aop = 4 then max old o1
  else if aop = 5 then old &&& o1
  else if aop = 6 then old ||| o1
  else old

/-! ## The home's accesses (R189, R190) -/

/-- The job check: who serves a remote access (R189). A range over two regions fails it, and the LPE sets the narrow flag by the
region's mode (log 128). -/
def Block.homeAsker (b : Block) (id : Nat) (j : Job) (a n : Nat) : Option Asker :=
  let r := regionOf a
  if regionOf (a + n - 1) ≠ r || (b.region r).ownerFn.toNat ≠ j.fn || (b.joined id j).isEmpty then none
  else b.jobAsker id j r ((b.region r).mode = .narrow)

/-- The pieces of a range, line by line: address of the line, offset in it, bytes. -/
def linePieces : Nat → Nat → Nat → List (Nat × Nat × Nat)
  | 0, _, _ => []
  | f + 1, a, n =>
    if n = 0 then []
    else
      let c := min (128 - a % 128) n
      (a / 128 * 128, a % 128, c) :: linePieces f (a + c) (n - c)

/-- Reads the pieces of a range; the first failing status is kept and every line is read. -/
def Serving.readPieces (k : Asker) : List (Nat × Nat × Nat) → Serving → Status × Bytes × Serving
  | [], p => (.ok, [], p)
  | (a, off, n) :: r, p =>
    let l := p.next
    let x := l.2.readLine k a l.1
    let y := Serving.readPieces k r x.2.2
    (if x.1 = .ok then y.1 else x.1, slice (toLe 128 x.2.1) off n ++ y.2.1, y.2.2)

/-- Changes a part of a line: a read and a write that nothing comes between (R190). -/
def Serving.modify (p : Serving) (k : Asker) (a off n : Nat) (f : Nat → Nat) : Status × Nat × Serving :=
  let l := p.next
  match l.2.readLine k a l.1 with
  | (.ok, x, q) =>
    let old := fld x (8 * off) (8 * n)
    let y := q.writeLine k a (mergeLine x off (toLe n (f old))) l.1
    (y.1, old, y.2)
  | (st, _, q) => (st, 0, q)

/-- Writes the pieces of a range; a whole line at once, a part by a read and a write. The first failing status is kept and
every line is written. -/
def Serving.writePieces (k : Asker) : List (Nat × Nat × Nat) → Bytes → Serving → Status × Serving
  | [], _, p => (.ok, p)
  | (a, off, n) :: r, b, p =>
    let x := if n = 128 then
        let l := p.next
        l.2.writeLine k a (le (b.take 128)) l.1
      else
        let y := p.modify k a off n fun _ => le (b.take n)
        (y.1, y.2.2)
    let y := Serving.writePieces k r (b.drop n) x.2
    (if x.1 = .ok then y.1 else x.1, y.2)

/-- Checks an operation and finds who serves it. -/
def Lx.home (x : Lx) (r : Rx) : Option (OpBlock × Nat × Asker) :=
  let o := OpBlock.read r.body
  let n := opLength r.h.ty o r.body
  if !o.ok r.h.ty r.body then none else (x.w.blk.homeAsker r.h.job r.job o.addr n).map fun k => (o, n, k)

/-- RX_LOAD's effect: CPL_DATA, MULTI for the group class, or CPL with the status (R189, R191, R202). -/
def Lx.serveLoad (x : Lx) (r : Rx) : Lx :=
  match x.home r with
  | none => x.replyCpl r.h .badOperand 0
  | some (o, n, k) =>
    let y := Serving.readPieces k (linePieces 33 o.addr n) x.serving
    let x := x.after y.2.2
    if y.1 ≠ .ok then x.replyCpl r.h y.1 0
    else if r.h.pclass = 1 then
      x.send { ty := 0x11, pclass := 1, multi := true, dst := r.h.src, job := r.h.job, dport := x.w.blk.self % 4,
               opd := r.h.opd, payload := y.2.1 }
    else x.reply r.h 0x11 y.2.1

/-- RX_STORE's effect (R189, R191). -/
def Lx.serveStore (x : Lx) (r : Rx) : Lx :=
  match x.home r with
  | none => x.replyCpl r.h .badOperand 0
  | some (o, n, k) =>
    let y := Serving.writePieces k (linePieces 33 o.addr n) (r.body.drop 64) x.serving
    (x.after y.2).replyCpl r.h y.1 0

/-- RX_ATOMIC's effect (R187, R190, R191). -/
def Lx.serveAtomic (x : Lx) (r : Rx) : Lx :=
  match x.home r with
  | none => x.replyCpl r.h .badOperand 0
  | some (o, _, k) =>
    let y := x.serving.modify k (o.addr / 128 * 128) (o.addr % 128) 8 fun old => atomicNew o.aop old o.o1 o.o2
    (x.after y.2.2).replyCpl r.h y.1 (if y.1 = .ok then y.2.1 else 0)

/-- COPY_FAIL to the PF and the owning function (R192). -/
def Lx.copyFail (x : Lx) (j : Job) (a : Nat) (st : Status) : Lx :=
  x.on fun b => b.raise { code := 0x23, engine := lpeId x.n, fn := j.fn, data := [(0, a), (8, st.code.toNat)] }
    (ownerAndPf j.fn)

/-- The arrival counter rises by the data units of a COPY packet (R192). -/
def Lx.raiseCount (x : Lx) (r : Rx) (cnt units : Nat) : Lx :=
  match if cnt % 8 = 0 && cnt < 2 ^ 42 then x.w.blk.homeAsker r.h.job r.job cnt 8 else none with
  | none => x.copyFail r.job cnt .badOperand
  | some k =>
    let y := x.serving.modify k (cnt / 128 * 128) (cnt % 128) 8 fun old => atomicNew 1 old units 0
    let x := x.after y.2.2
    if y.1 = .ok then x else x.copyFail r.job cnt y.1

/-- RX_COPY's effect (R189, R192). -/
def Lx.serveCopy (x : Lx) (r : Rx) : Lx :=
  match x.home r with
  | none => x.copyFail r.job (OpBlock.read r.body).addr .badOperand
  | some (o, n, k) =>
    let y := Serving.writePieces k (linePieces 33 o.addr n) (r.body.drop 64) x.serving
    let x := x.after y.2
    if y.1 = .ok then x.raiseCount r o.cnt (n / 64) else x.copyFail r.job o.addr y.1

/-! ## The directory (R194 to R200) -/

/-- A directory entry (R195). -/
structure DirEntry where
  line : Nat
  bcast : Bool
  valid : Bool
  /-- The four sharer words. -/
  sharers : List Nat

def DirEntry.read (p : Bytes) : DirEntry :=
  let x := bfld p 0 8
  { line := fld x 0 35, bcast := x.testBit 62, valid := x.testBit 63,
    sharers := (List.range 4).map fun i => bfld p (8 + 4 * i) 4 }

def DirEntry.bytes (e : DirEntry) : Bytes :=
  toLe 8 (e.line + 2 ^ 62 * bit e.bcast + 2 ^ 63 * bit e.valid) ++ ((List.range 4).map fun i => toLe 4 (e.sharers.getD i 0)).flatten ++
  toLe 8 0

def dirOff (line : Nat) : Nat := 0x880_0000 + 32 * (line % 2 ^ 21)

/-- A sharer word: block id, reader LPE, valid (R195). -/
def sharerWord (blk lpe : Nat) : Nat := blk + 2 ^ 12 * lpe + 2 ^ 31

/-- Puts a reader into a free slot, or sets BCAST (R196). -/
def DirEntry.share (e : DirEntry) (line blk lpe : Nat) : DirEntry :=
  let e := if e.valid then e else { line := line, bcast := false, valid := true, sharers := [0, 0, 0, 0] }
  match (List.range 4).find? fun i => e.sharers.getD i 0 < 2 ^ 31 with
  | some i => { e with sharers := e.sharers.set i (sharerWord blk lpe) }
  | none => { e with bcast := true }

/-- The valid sharers: block and LPE. -/
def DirEntry.readers (e : DirEntry) : List (Nat × Nat) :=
  (e.sharers.filter fun w => 2 ^ 31 ≤ w).map fun w => (fld w 0 12, fld w 12 5)

/-- Reads the entry of a line. -/
def Lx.readDir (x : Lx) (job : Nat) (j : Job) (line : Nat) : Status × DirEntry × Lx :=
  match j.stateRegion with
  | none => (.badOperand, DirEntry.read [], x)
  | some r =>
    let y := x.readState job r (dirOff line) 32
    (y.1, DirEntry.read y.2.1, y.2.2)

def Lx.writeDir (x : Lx) (job : Nat) (j : Job) (line : Nat) (b : Bytes) : Lx :=
  match j.stateRegion with
  | none => x
  | some r => x.writeState job r (dirOff line) b

/-- An invalidation of a line is outstanding at this home LPE. -/
def Lx.invalidating (x : Lx) (job line : Nat) : Bool := x.lpe.invals.any fun i => i.job.toNat = job && i.line = line

/-- RX_LOAD_CACHE's effect (R189, R194, R196). -/
def Lx.serveLoadCache (x : Lx) (r : Rx) : Lx :=
  match x.home r with
  | none => x.replyCpl r.h .badOperand 0
  | some (o, _, k) =>
    let line := o.addr / 128
    let y := Serving.readPieces k [(128 * line, 0, 128)] x.serving
    let x := x.after y.2.2
    if y.1 ≠ .ok then x.replyCpl r.h y.1 0
    else
      match x.readDir r.h.job r.job line with
      | (.ok, e, x) =>
        if (e.valid && e.line ≠ line) || x.invalidating r.h.job line then x.reply r.h 0x12 y.2.1
        else (x.writeDir r.h.job r.job line (e.share line r.h.src r.h.sender).bytes).reply r.h 0x11 y.2.1
      | (st, _, x) => x.replyCpl r.h st 0

/-- The ports of a line (R194), as many as this block has built. -/
def Block.linePorts (b : Block) (line : Nat) : List Nat := (List.range b.build.lpes).filter fun p => p % 4 = line % 4

/-- The readers that an INVALIDATE must reach (R197). -/
def Block.invalTargets (b : Block) (j : Job) (e : DirEntry) : List (Nat × Nat) :=
  if e.bcast then
    ((j.members.filter fun m => m.1.toNat ≠ b.self).map fun m =>
      (b.linePorts e.line).map fun p => (m.1.toNat, p)).flatten
  else e.readers

/-- INVAL to each reader. -/
def Lx.sendInvals (x : Lx) (job line : Nat) : List (Nat × Nat) → Lx
  | [] => x
  | t :: r =>
    (x.send { ty := 0x20, pclass := 0, dst := t.1, job := job, dport := t.2, payload := opBlock (128 * line) 0 0 0 0 0 }).sendInvals
      job line r

/-- Starts the first INVALIDATE that waits for a line; one that finds no valid entry or no reader completes at once, and
the next follows (R197). -/
def Lx.startInval (job : Nat) (j : Job) (line : Nat) : Nat → Lx → Lx
  | 0, x => x
  | f + 1, x =>
    match x.lpe.invals.find? fun i => i.job.toNat = job && i.line = line with
    | none => x
    | some i =>
      if i.begun then x
      else
        let finish (x : Lx) (st : Status) : Lx :=
          Lx.startInval job j line f
            ((x.mod fun l => { l with invals := l.invals.erase i }).replyCpl (Hdr.read i.hdr) st 0)
        match x.readDir job j line with
        | (.ok, e, x) =>
          if !e.valid || e.line ≠ line then finish x .ok
          else if (x.w.blk.invalTargets j e).isEmpty then finish (x.writeDir job j line (toLe 32 0)) .ok
          else
            (x.mod fun l =>
              { l with
                invals := l.invals.map fun k =>
                  if k = i then { i with begun := true, readers := x.w.blk.invalTargets j e } else k }).sendInvals job line
              (x.w.blk.invalTargets j e)
        | (st, _, x) => finish x st

/-- RX_INVALIDATE's effect (R194, R197). -/
def Lx.serveInvalidate (x : Lx) (r : Rx) : Lx :=
  let o := OpBlock.read r.body
  if !o.ok 0x07 r.body || 128 < o.addr % 128 + 64 * (o.rlen + 1) then x.replyCpl r.h .badOperand 0
  else
    Lx.startInval r.h.job r.job (o.addr / 128) (x.lpe.invals.length + 1) <| x.mod fun l =>
      { l with invals := l.invals ++ [{ line := o.addr / 128, job := BitVec.ofNat 16 r.h.job, hdr := r.h.bits }] }

/-- A reader's answer is taken: the invalidation that awaits it no longer does, and completes when it awaits none (R197,
R200). Answers whether one awaited it. -/
def Lx.takeAck (x : Lx) (r : Rx) (line : Nat) : Bool × Lx :=
  let who := (r.h.src, r.h.sender)
  match x.lpe.invals.find? fun i => i.begun && i.job.toNat = r.h.job && i.line = line && List.contains i.readers who with
  | none => (false, x)
  | some i =>
    let left := i.readers.erase who
    if left.isEmpty then
      let x := (x.mod fun l => { l with invals := l.invals.erase i }).replyCpl (Hdr.read i.hdr) .ok 0
      let x := match x.readDir r.h.job r.job line with
        | (.ok, _, x) => x.writeDir r.h.job r.job line (toLe 32 0)
        | (_, _, x) => x
      (true, Lx.startInval r.h.job r.job line x.lpe.invals.length x)
    else
      (true, x.mod fun l => { l with invals := l.invals.map fun k => if k = i then { i with readers := left } else k })

/-- A packet of the directory that finds nothing to do is counted (R200). -/
def Lx.stray (x : Lx) : Lx := x.mod fun l => { l with evicts := l.evicts + 1 }

/-- RX_INVAL_ACK's effect (R197, R200). -/
def Lx.serveInvalAck (x : Lx) (r : Rx) : Lx :=
  let y := x.takeAck r ((OpBlock.read r.body).addr / 128)
  if y.1 then y.2 else y.2.stray

/-- The sharer's slot is cleared; nothing changes under BCAST (R200). -/
def DirEntry.unshare (e : DirEntry) (blk lpe : Nat) : DirEntry :=
  match (List.range 4).find? fun i => e.sharers.getD i 0 = sharerWord blk lpe with
  | some i => { e with sharers := e.sharers.set i 0 }
  | none => e

/-- RX_EVICT's effect (R200). -/
def Lx.serveEvict (x : Lx) (r : Rx) : Lx :=
  let line := (OpBlock.read r.body).addr / 128
  match x.readDir r.h.job r.job line with
  | (.ok, e, x) =>
    let known := e.valid && e.line = line
    let slot := known && !e.bcast && List.contains e.sharers (sharerWord r.h.src r.h.sender)
    let x := if slot then x.writeDir r.h.job r.job line (e.unshare r.h.src r.h.sender).bytes else x
    let y := x.takeAck r line
    if (y.1 || slot) && !(known && e.bcast) then y.2 else y.2.stray
  | (_, _, x) =>
    let y := x.takeAck r line
    if y.1 then y.2 else y.2.stray

/-- RX_INVAL's effect at a reader (R198). -/
def Lx.serveInval (x : Lx) (r : Rx) : Lx :=
  let line := (OpBlock.read r.body).addr / 128
  let mine (o : Outstanding) : Bool :=
    o.req.ty = 1 && o.req.dst.toNat = r.h.src && o.req.job.toNat = r.h.job && o.req.addr.toNat / 128 = line
  (x.mod fun l =>
    { l with
      remote := l.remote.filter fun f => !f.isRemote r.h.src r.h.job line
      rtags := l.rtags.map fun o => if mine o.2 then (o.1, { o.2 with marked := true }) else o }).send
    { ty := 0x21, pclass := 0, dst := r.h.src, job := r.h.job, dport := line % 4
      payload := opBlock (128 * line) 0 0 0 0 0 }

/-! ## Completions (R191, R196, R202, R206) -/

/-- The status of a completion; none for a reserved value. -/
def Rx.status (r : Rx) : Option Status := if r.h.ty = 0x10 then Status.ofCode (bfld r.body 0 2) else some .ok

/-- What a completion brings to a request. -/
def Rx.brought (r : Rx) (o : Outstanding) : Bytes :=
  if r.h.ty ≠ 0x10 then r.body else if o.req.ty = 3 then slice r.body 8 8 else []

/-- A line that came as CPL_DATA is installed, unless an INVAL met its request (R196, R198). -/
def Lx.install (x : Lx) (r : Rx) (o : Outstanding) : Lx :=
  if r.h.ty = 0x11 && o.req.ty = 1 && !o.marked then
    x.putFrame { home := o.req.dst, job := o.req.job, line := o.req.addr.toNat / 128, data := BitVec.ofNat 1024 (le r.body)
                 chain := (x.w.blk.chain r.job.slot).getD [] }
  else x

/-- Every group load with the token to the home completes with one response (R202). -/
def Lx.serveMulti (x : Lx) (r : Rx) : Lx :=
  let hit := x.lpe.rtags.filter fun o => o.2.meets r.h
  hit.foldl (fun x o => x.on fun b => b.answerOut x.n { o.2 with data := r.body } o.2.status)
    ((x.mod fun l => { l with rtags := l.rtags.filter fun o => !o.2.meets r.h }).countOpened r.h)

/-- A completion meets its request, a quarantined one, or none (R206). -/
def Lx.serveCpl (x : Lx) (r : Rx) : Lx :=
  if r.h.multi then x.serveMulti r
  else
    match (x.lpe.rtags.get? r.h.rtag).filter fun o => List.contains o.seqs r.h.opd, r.status with
    | some o, some st =>
      let x := (x.countOpened r.h).modReq r.h.rtag fun o =>
        { o.worsen st with seqs := o.seqs.erase r.h.opd, data := if st = .ok then r.brought o else o.data }
      (x.install r o).endReq r.h.rtag
    | some _, none => x.on fun b => b.discard x.n 1 r.h.src r.h.job r.job.fn
    | none, _ =>
      if x.lpe.quarantine.any fun q => q.rtag = r.h.rtag && List.contains q.seqs r.h.opd then
        (x.mod fun l => { l with quarantine := l.quarantine.filter fun q => q.rtag ≠ r.h.rtag }).on fun b =>
          b.discard x.n 7 r.h.src r.h.job r.job.fn
      else x.on fun b => b.discard x.n 6 r.h.src r.h.job r.job.fn

/-! ## Teardown notices (R209) -/

/-- RX_TEAR's effect: any TEAR that passes R181 tears its job down. -/
def Lx.serveTear (x : Lx) (r : Rx) : Lx :=
  { x with w := x.w.tearJob { rets := x.feed, fail := x.fail } r.h.job (bfld r.body 0 2) }

/-! ## Receiving -/

/-- What an opened packet does, by its TYPE (R171). -/
def Lx.serve (x : Lx) (r : Rx) : Lx :=
  if r.h.ty = 0x10 || r.h.ty = 0x11 || r.h.ty = 0x12 then x.serveCpl r
  else
    let x := x.countOpened r.h
    if r.h.ty = 0x01 then x.serveLoad r
    else if r.h.ty = 0x02 then x.serveLoadCache r
    else if r.h.ty = 0x03 then x.serveStore r
    else if r.h.ty = 0x04 then x.serveAtomic r
    else if r.h.ty = 0x05 then x.serveCopy r
    else if r.h.ty = 0x06 then x.takeReduce r.h r.job.fn r.body
    else if r.h.ty = 0x07 then x.serveInvalidate r
    else if r.h.ty = 0x20 then x.serveInval r
    else if r.h.ty = 0x21 then x.serveInvalAck r
    else if r.h.ty = 0x22 then x.serveEvict r
    else if r.h.ty = 0x30 then x.serveTear r
    else x

/-- One record of an AGG packet: its 32-byte header, its operation block and its tag (R203, R204). -/
def Lx.aggRecord (x : Lx) (p : Bytes) : Lx :=
  let hdr := BitVec.ofNat 256 (le (slice p 0 32))
  let h := Hdr.read hdr
  if h.ty ≠ 0x04 || h.pclass ≠ 2 || !h.wellFormed 1 || h.dst ≠ x.w.blk.self || h.multi then
    x.on fun b => b.discard x.n 1 h.src h.job 0
  else
    match x.openRx hdr (slice p 32 64) (slice p 96 16) with
    | (.ok r, x) => (x.countOpened r.h).serveAtomic r
    | (_, x) => x

/-- The fields in which the records of an AGG agree: DST, JOB, DPORT, ADDR, AOP (R203). -/
def aggKey (p : Bytes) : Nat × Nat × Nat × Nat × Nat :=
  let h := Hdr.read (BitVec.ofNat 256 (le (slice p 0 32)))
  (h.dst, h.job, h.dport, bfld p 32 8, bfld p 42 1)

/-- RX_AGG's effect: the records in order, or the whole packet discarded (R203, R204). R171 gives AGG the open class and
R203 zeroes the field: either is taken. -/
def Lx.takeAgg (x : Lx) (p : RxPacket) : Lx :=
  let h := Hdr.read p.hdr
  let recs := split 128 (unitBytes p.payload)
  let agree : Bool := recs.all fun q =>
    aggKey q = aggKey (recs.headD []) && (aggKey q).1 = h.dst && (aggKey q).2.1 = h.job && (aggKey q).2.2.1 = h.dport
  if (h.pclass = 0 || h.pclass = 2) && h.dst = x.w.blk.self && p.extra = 0 && p.payload.length % 2 = 0 && !recs.isEmpty && recs.length ≤ 32 && agree
  then recs.foldl Lx.aggRecord x
  else x.on fun b => b.discard x.n 1 h.src h.job 0

/-- The packet must wait: the engine is in reset, or a packet of the same source and stream waits before it (R17, R213). -/
def Lx.mustHold (x : Lx) (p : RxPacket) : Bool :=
  Tab.has x.w.blk.resets (lpeId x.n) || x.lpe.rxWait.any fun q =>
    (Hdr.read q.1.hdr).src = (Hdr.read p.hdr).src && (Hdr.read q.1.hdr).stream = (Hdr.read p.hdr).stream

/-- The packet waits, and rx credit with it (R213). -/
def Lx.hold (x : Lx) (e : RxPacket × Access) : Lx := x.mod fun l => { l with rxWait := l.rxWait ++ [e] }

/-- A packet meets the receive checks and is served, held or discarded (R181, R213). -/
def Lx.take (x : Lx) (e : RxPacket × Access) : Lx :=
  let x := { x with feed := e.2.rets, fail := e.2.fail }
  let h := Hdr.read e.1.hdr
  if h.ty = 0x31 then x.takeAgg e.1
  else if !x.w.blk.rxFormOk e.1 then x.on fun b => b.discard x.n 1 h.src h.job 0
  else
    match x.openRx e.1.hdr (unitBytes e.1.payload) (toLe 16 e.1.tag.toNat) with
    | (.ok r, x) => x.serve r
    | (.wait, x) => x.hold e
    | (.dropped, x) => x

/-- A packet is taken, unless it must wait: behind another of its stream, or because a state region line or what its payload
reads or writes must wait at its MCE (R17, R193, R213, log 126). -/
def Lx.receive (x : Lx) (e : RxPacket × Access) : Lx :=
  if x.mustHold e.1 then x.hold e
  else
    let y := (x.patient true).take e
    if y.w.stuck then x.hold e else y.patient x.w.patient

/-- Packets that waited are tried again, oldest first. -/
def Lx.retry (x : Lx) : Lx := x.lpe.rxWait.foldl Lx.receive (x.mod fun l => { l with rxWait := [] })

/-- An MCE has moved: the packets that wait at each LPE are tried again (R17). -/
def Work.retryRx (w : Work) : Work :=
  (Tab.keys (α := Lpe) (w.blk.lpes.filter fun l => !l.2.rxWait.isEmpty)).foldl (fun w n => (w.lx n {}).retry.done) w

/-- Beats of an inbound packet use rx credit, which is due back (R42, R44, R213). -/
def Block.takeBeats (b : Block) (n beats : Nat) : Block :=
  b.modLpe n fun l => { l with rxCrd := l.rxCrd - beats, rxOwed := l.rxOwed + beats }

/-- The link controller may present the packet: it holds the credit, and the block is up. -/
def Block.mayReceive (b : Block) (p : RxPacket) : Bool :=
  !b.pins.blockSafe && rxBeats p ≤ (b.lpe p.lpe).rxCrd

/-- A packet of one TYPE arrives at `lphy_rx`. -/
def atLphy (s : State) (ty : Nat) (p : RxPacket) (acc : Access) : Host.Outcome State Fault Refusal :=
  atPort (.lphy p.lpe) s <| onMemory s fun w =>
    if (Hdr.read p.hdr).ty = ty && w.blk.mayReceive p then
      ((((w.lx p.lpe acc).on fun b => b.takeBeats p.lpe (rxBeats p)).receive (p, acc))).done
    else w

/-- RX_LOAD: R181, R186, R188, R189, R191, R202. -/
def execRxLoad (p : RxPacket) (acc : Access) (s : State) : Host.Outcome State Fault Refusal := atLphy s 0x01 p acc

/-- RX_LOAD_CACHE: R181, R189, R194 to R196. -/
def execRxLoadCache (p : RxPacket) (acc : Access) (s : State) : Host.Outcome State Fault Refusal := atLphy s 0x02 p acc

/-- RX_STORE: R181, R186, R189, R191. -/
def execRxStore (p : RxPacket) (acc : Access) (s : State) : Host.Outcome State Fault Refusal := atLphy s 0x03 p acc

/-- RX_ATOMIC: R181, R187, R189 to R191. -/
def execRxAtomic (p : RxPacket) (acc : Access) (s : State) : Host.Outcome State Fault Refusal := atLphy s 0x04 p acc

/-- RX_COPY: R181, R189, R192. -/
def execRxCopy (p : RxPacket) (acc : Access) (s : State) : Host.Outcome State Fault Refusal := atLphy s 0x05 p acc

/-- RX_REDUCE: R181, R226 to R230. -/
def execRxReduce (p : RxPacket) (acc : Access) (s : State) : Host.Outcome State Fault Refusal := atLphy s 0x06 p acc

/-- RX_INVALIDATE: R181, R197. -/
def execRxInvalidate (p : RxPacket) (acc : Access) (s : State) : Host.Outcome State Fault Refusal := atLphy s 0x07 p acc

/-- RX_CPL: R181, R191, R206, R211. -/
def execRxCpl (p : RxPacket) (acc : Access) (s : State) : Host.Outcome State Fault Refusal := atLphy s 0x10 p acc

/-- RX_CPL_DATA: R181, R196, R198, R199, R202, R206. -/
def execRxCplData (p : RxPacket) (acc : Access) (s : State) : Host.Outcome State Fault Refusal := atLphy s 0x11 p acc

/-- RX_CPL_DATA_NC: R181, R196, R206. -/
def execRxCplDataNc (p : RxPacket) (acc : Access) (s : State) : Host.Outcome State Fault Refusal := atLphy s 0x12 p acc

/-- RX_INVAL: R181, R198. -/
def execRxInval (p : RxPacket) (acc : Access) (s : State) : Host.Outcome State Fault Refusal := atLphy s 0x20 p acc

/-- RX_INVAL_ACK: R181, R197, R200. -/
def execRxInvalAck (p : RxPacket) (acc : Access) (s : State) : Host.Outcome State Fault Refusal := atLphy s 0x21 p acc

/-- RX_EVICT: R181, R200. -/
def execRxEvict (p : RxPacket) (acc : Access) (s : State) : Host.Outcome State Fault Refusal := atLphy s 0x22 p acc

/-- RX_TEAR: R181, R209, R210. -/
def execRxTear (p : RxPacket) (acc : Access) (s : State) : Host.Outcome State Fault Refusal := atLphy s 0x30 p acc

/-- RX_AGG: R181, R203, R204. -/
def execRxAgg (p : RxPacket) (acc : Access) (s : State) : Host.Outcome State Fault Refusal := atLphy s 0x31 p acc

/-- A packet whose beats break R43, or that fails check 1 of R181 by its TYPE, its class, its reserved bits, its length or its
destination. -/
def Block.malformed (b : Block) (p : RxPacket) (len16 : BitVec 5) : Bool :=
  let ty := (Hdr.read p.hdr).ty
  ty ≠ 0x31 && !(if ty = 0x40 || ty = 0x41 then linkForm p else b.rxFormOk p) || len16 = 0 || 17 ≤ len16.toNat

/-- MALFORMED_PACKET: R43, R181 check 1. -/
def execMalformedPacket (lpe : Nat) (p : RxPacket) (len16 : BitVec 5) (s : State) : Host.Outcome State Fault Refusal :=
  atPort (.lphy lpe) s <| onBlock s fun b =>
    let h := Hdr.read p.hdr
    if b.malformed p len16 && b.mayReceive { p with lpe := lpe } then
      ((b.takeBeats lpe (rxBeats p)).discard lpe 1 h.src h.job 0).payLpe lpe
    else b

/-- PAIR_KEY_DERIVATION: R99, R179. -/
def execPairKeyDerivation (lpe : Nat) (acc : Access) (s : State) : Host.Outcome State Fault Refusal :=
  behindPort (.lphy lpe) s <| onMemory s fun w =>
    match (w.blk.lpe lpe).lane with
    | [] => w
    | q :: rest =>
      let w := w.on fun b => b.modLpe lpe fun l => { l with lane := rest }
      let w := w.on fun b =>
        match b.jobs.get? q.job with
        | none => b
        | some j =>
          match b.jobKey (lpeId lpe) j with
          | (.ok k, b) =>
            b.installDerived (lpeId lpe) k (.pair q.src q.dst q.epoch)
              (pairKey k.bytes32 q.job q.src.toNat q.dst.toNat q.epoch.toNat)
          | (.error _, b) => b
      (Lx.flush 64 (w.lx lpe acc)).retry.done

/-- LINK_TX_CREDIT: R42, R192, R212. -/
def execLinkTxCredit (lpe : Nat) (s : State) : Host.Outcome State Fault Refusal :=
  atPort (.lphy lpe) s <| onBlock s fun b =>
    let b := b.modLpe lpe fun l => { l with txCrd := l.txCrd + 1 }
    (b.drainTx lpe (b.lpe lpe).txHeld.length).payLpe lpe

/-- A request's deadline has passed: TIMEOUT, the event, and quarantine (R205, R206, R222). -/
def Block.fabricTimeout (b : Block) (n rtag : Nat) : Block :=
  match (b.lpe n).rtags.get? rtag with
  | none => b
  | some o =>
    if o.seqs.isEmpty then b
    else
      let b := b.modLpe n fun l =>
        { l with
          rtags := Tab.del l.rtags rtag
          outWait := l.outWait.filter fun x => !(x.req && x.rtag = rtag)
          quarantine := l.quarantine ++ [{ rtag := rtag, seqs := o.seqs }] }
      (b.answerOut n o .timeout).raise
        { code := 0x20, engine := lpeId n, fn := o.fn, ctx := o.req.ctx.toNat
          data := [(0, o.req.job.toNat), (2, o.req.dst.toNat), (4, rtag)] } (ownerAndPf o.fn)

/-- FAB_TIMEOUT: R205, R206, R208. -/
def execFabTimeout (lpe : Nat) (rtag : BitVec 12) (s : State) : Host.Outcome State Fault Refusal :=
  behindPort (.lreq lpe) s <| onBlock s fun b => b.fabricTimeout lpe rtag.toNat

/-- RTAG_QUARANTINE_EXPIRY: a tag leaves quarantine (R206, R207). -/
def execRtagQuarantineExpiry (engine : Nat) (tag : BitVec 12) (acc : Access) (s : State) :
    Host.Outcome State Fault Refusal :=
  atEngine engine s <| onMemory s fun w =>
    if engine < w.blk.build.mces then
      w.on fun b => b.modMce engine fun m => { m with quarantine := m.quarantine.filter fun k => k ≠ tag.toNat }
    else if 0x40 ≤ engine && engine < 0x60 then
      ((w.lx (engine - 0x40) acc).mod fun l =>
        { l with quarantine := l.quarantine.filter fun q => q.rtag ≠ tag.toNat }).done
    else w

end Sys2Proof.Machine
end

