-- ==== Sys2Proof/Machine/Chains.lean ====
section
/-! DEFINITION. Certificates in DER and reports in CBOR: the alias certificates that the block makes (R388), and what a side
reads and verifies in its link partner's report (R389 to R391, R400). -/

namespace Sys2Proof.Machine

open Sys2Proof Sys2Proof.Machine.Crypto

/-! ## CBOR, deterministic encoding (RFC 8949 section 4.2.1) -/

/-- The head of an item: major type and argument. -/
def cborHead (major n : Nat) : Bytes :=
  if n < 24 then [BitVec.ofNat 8 (32 * major + n)]
  else if n < 2 ^ 8 then BitVec.ofNat 8 (32 * major + 24) :: toBe 1 n
  else if n < 2 ^ 16 then BitVec.ofNat 8 (32 * major + 25) :: toBe 2 n
  else if n < 2 ^ 32 then BitVec.ofNat 8 (32 * major + 26) :: toBe 4 n
  else BitVec.ofNat 8 (32 * major + 27) :: toBe 8 n

def cborUint (n : Nat) : Bytes := cborHead 0 n
/-- The negative integer -1 - n. -/
def cborNeg (n : Nat) : Bytes := cborHead 1 n
def cborBytes (b : Bytes) : Bytes := cborHead 2 b.length ++ b
def cborText (s : String) : Bytes := cborHead 3 s.length ++ s.toList.map fun c => BitVec.ofNat 8 c.toNat
def cborArray (l : List Bytes) : Bytes := cborHead 4 l.length ++ l.flatten
/-- A map from unsigned keys, already in rising order. -/
def cborMap (l : List (Nat × Bytes)) : Bytes := cborHead 5 l.length ++ (l.map fun p => cborUint p.1 ++ p.2).flatten
def cborBool (b : Bool) : Bytes := [if b then 0xF5 else 0xF4]
def cborNull : Bytes := [0xF6]

/-- Major type and argument at the head of an item in the deterministic encoding, and the bytes after the head. -/
def cborHeadOf : Bytes → Option (Nat × Nat × Bytes)
  | [] => none
  | x :: r =>
    let major := x.toNat / 32
    let n := if x.toNat % 32 < 24 then 0 else 2 ^ (x.toNat % 32 - 24)
    let v := if n = 0 then x.toNat % 32 else be (r.take n)
    if 28 ≤ x.toNat % 32 || r.length < n || cborHead major v ≠ x :: r.take n then none else some (major, v, r.drop n)

/-- The bytes after n items. `fuel` is above the number of bytes. -/
def cborSkip : Nat → Nat → Bytes → Option Bytes
  | 0, _, _ => none
  | _ + 1, 0, b => some b
  | fuel + 1, n + 1, b =>
    match cborHeadOf b with
    | none => none
    | some (major, v, r) =>
      match major with
      | 2 => if r.length < v then none else cborSkip fuel n (r.drop v)
      | 3 => if r.length < v then none else cborSkip fuel n (r.drop v)
      | 4 => if r.length < v then none else cborSkip fuel (n + v) r
      | 5 => if r.length < v then none else cborSkip fuel (n + 2 * v) r
      | 6 => cborSkip fuel (n + 1) r
      | _ => cborSkip fuel n r

/-- Exactly n items, each as its bytes. -/
def cborItems : Nat → Bytes → Option (List Bytes)
  | 0, b => if b.isEmpty then some [] else none
  | n + 1, b =>
    (cborSkip (b.length + 1) 1 b).bind fun r => (cborItems n r).map fun l => b.take (b.length - r.length) :: l

/-- The bytes, the number, the elements or the pairs of one whole item. -/
def readBytes (b : Bytes) : Option Bytes :=
  (cborHeadOf b).bind fun h => if h.1 = 2 && h.2.2.length = h.2.1 then some h.2.2 else none
def readUint (b : Bytes) : Option Nat := (cborHeadOf b).bind fun h => if h.1 = 0 && h.2.2.isEmpty then some h.2.1 else none
def readArray (b : Bytes) : Option (List Bytes) := (cborHeadOf b).bind fun h => if h.1 = 4 then cborItems h.2.1 h.2.2 else none
def readMap (b : Bytes) : Option (List (Nat × Bytes)) :=
  (cborHeadOf b).bind fun h =>
    if h.1 ≠ 5 then none
    else
      (cborItems (2 * h.2.1) h.2.2).bind fun l =>
        (split 2 l).mapM fun p => (readUint (p.headD [])).map fun k => (k, p.getD 1 [])

/-! ## DER (X.690), and the certificates of RFC 5280 -/

/-- An element with a tag. -/
def der (tag : Nat) (body : Bytes) : Bytes :=
  let n := body.length
  let len : Bytes := if n < 128 then toBe 1 n else BitVec.ofNat 8 (0x80 + byteCount n) :: toBe (byteCount n) n
  BitVec.ofNat 8 tag :: (len ++ body)

def derSeq (l : List Bytes) : Bytes := der 0x30 l.flatten

/-- The body of a non-negative INTEGER. -/
def derNat (n : Nat) : Bytes :=
  let b := toBe (byteCount n) n
  if 128 ≤ (b.headD 0).toNat then 0 :: b else b

/-- The first element: its tag, its body, the whole of it, and the bytes after it. -/
def derFirst : Bytes → Option (Nat × Bytes × Bytes × Bytes)
  | tag :: x :: r =>
    let k := if x.toNat < 128 then 0 else x.toNat - 128
    let n := if k = 0 then x.toNat else be (r.take k)
    let body := r.drop k
    if x.toNat = 128 || 4 < k || r.length < k || body.length < n then none
    else some (tag.toNat, body.take n, tag :: x :: (r.take k ++ body.take n), body.drop n)
  | _ => none

/-- The elements of a body: tag, body and whole of each. `fuel` is at least their number. -/
def derAll : Nat → Bytes → List (Nat × Bytes × Bytes)
  | 0, _ => []
  | fuel + 1, b =>
    match derFirst b with
    | none => []
    | some (t, v, w, r) => (t, v, w) :: derAll fuel r

/-- The elements of a SEQUENCE. -/
def derFields (b : Bytes) : List (Nat × Bytes × Bytes) :=
  match derFirst b with
  | some (0x30, v, _, []) => derAll v.length v
  | _ => []

/-- Object identifiers: ML-DSA-87, ecdsa-with-SHA384, ecPublicKey with secp384r1, DiceTcbInfo and SHA-384. -/
def oidMldsa : Bytes := der 6 [0x60, 0x86, 0x48, 0x01, 0x65, 0x03, 0x04, 0x03, 0x13]
def oidEcdsa : Bytes := der 6 [0x2A, 0x86, 0x48, 0xCE, 0x3D, 0x04, 0x03, 0x03]
def oidP384 : Bytes := der 6 [0x2A, 0x86, 0x48, 0xCE, 0x3D, 0x02, 0x01] ++ der 6 [0x2B, 0x81, 0x04, 0x00, 0x22]
def oidTcbInfo : Bytes := der 6 [0x67, 0x81, 0x05, 0x05, 0x04, 0x01]
def oidSha384 : Bytes := der 6 [0x60, 0x86, 0x48, 0x01, 0x65, 0x03, 0x04, 0x02, 0x02]

/-- The DiceTcbInfo extension: vendor, model and version, svn, the FWID and the flags, whose bit 3 is debug (R388). -/
def tcbInfo (svn : BitVec 16) (digest : BitVec 384) (debug : Bool) : Bytes :=
  derSeq [oidTcbInfo, der 4 (derSeq
    [der 0x80 (ascii "Ordamund"), der 0x81 (ascii "Clotin CX"), der 0x82 (ascii "2.4"), der 0x83 (derNat svn.toNat),
     der 0xA6 (derSeq [oidSha384, der 4 (toBe 48 digest.toNat)]), der 0x87 (if debug then [4, 0x10] else [0])])]

/-- A signature as a certificate carries it: r and s of ECDSA as a SEQUENCE, ML-DSA's bytes as they are. -/
def certSig (pq : Bool) (sig : Bytes) : Bytes :=
  if pq then sig else derSeq [der 2 (derNat (be (sig.take 48))), der 2 (derNat (be (sig.drop 48)))]

/-- What an alias certificate certifies: the subject's public key with the DiceTcbInfo extension, version 3 (R388). Serial
number, names, validity and further extensions are open. -/
def aliasTbs (pq : Bool) (key : Bytes) (svn : BitVec 16) (digest : BitVec 384) (debug : Bool) : Bytes :=
  derSeq
    [der 0xA0 (der 2 [2]), Config.certSerial pq key, derSeq [if pq then oidMldsa else oidEcdsa], Config.certNames pq key,
     derSeq [derSeq [if pq then oidMldsa else oidP384], der 3 (0 :: key)],
     der 0xA3 (derSeq [tcbInfo svn digest debug, Config.certExtensions pq key])]

/-- An alias certificate, signed by the device key whose seed or scalar is given, with the random bytes of the signing. -/
def aliasCert (pq : Bool) (seed key : Bytes) (svn : BitVec 16) (digest : BitVec 384) (debug : Bool) (draw : Nat) : Bytes :=
  let tbs := aliasTbs pq key svn digest debug
  let sig := if pq then mldsaSign seed tbs (toLe 32 (Config.drbg draw 256).toNat)
    else p384Sign seed tbs (toLe 56 (Config.drbg draw 448).toNat)
  derSeq [tbs, derSeq [if pq then oidMldsa else oidEcdsa], der 3 (0 :: certSig pq sig)]

/-- A certificate as a side reads it: what is signed, the subject's public key, and the signature. -/
structure Cert where
  tbs : Bytes
  key : Bytes
  sig : Bytes

/-- Reads a certificate; what it lacks reads as no bytes. -/
def readCert (pq : Bool) (b : Bytes) : Cert :=
  let whole := derFields b
  let tbs := (whole.headD (0, [], [])).2.2
  let key := (derFields (((derFields tbs).getD 6 (0, [], [])).2.2)).getD 1 (0, [], [])
  let sig := ((whole.getD 2 (0, [], [])).2.1).drop 1
  let rs := (derFields sig).map fun x => be x.2.1
  { tbs := tbs, key := key.2.1.drop 1
    sig := if pq then sig else if rs.length = 2 && rs.all (· < 2 ^ 384) then (rs.map (toBe 48)).flatten else [] }

/-- Whether a signature verifies under a public key of its chain. -/
def chainVerify (pq : Bool) (key m sig : Bytes) : Bool := if pq then mldsaVerify key m sig else p384Verify key m sig

/-- Whether a chain's device certificate verifies to the Akoirno key, and its alias certificate to the device key (R388,
R389, R400). -/
def chainHolds (pq : Bool) (root : Bytes) (device al : Cert) : Bool :=
  chainVerify pq root device.tbs device.sig && chainVerify pq device.key al.tbs al.sig

/-- The k-th certificate of the CERTS area: DEVID_PQ, Akoirno PQ, DEVID_EC, Akoirno EC (R450). -/
def areaCert (area : Bytes) (k : Nat) : Bytes :=
  (area.drop (le ((area.drop (8 * k)).take 4))).take (le ((area.drop (8 * k + 4)).take 4))

/-! ## Reports as a side reads them (R390, R391, R400) -/

/-- Protected header of a signature with an algorithm -1 - n. -/
def coseAlg (n : Nat) : Bytes := cborMap [(1, cborNeg n)]

/-- The Sig_structure of RFC 9052 with an empty external AAD. -/
def sigStructure (alg : Nat) (payload : Bytes) : Bytes :=
  cborArray [cborText "Signature", cborBytes [], cborBytes (coseAlg alg), cborBytes [], cborBytes payload]

/-- One signature of a report: under the algorithm of its place, with the digest of the alias certificate as kid; its bytes. -/
def readSignature (alg : Nat) (cert b : Bytes) : Option Bytes :=
  (readArray b).bind fun l =>
    if l.length = 3 && l.headD [] = cborBytes (coseAlg alg) && l.getD 1 [] = cborMap [(4, cborBytes (sha384 cert))] then
      readBytes (l.getD 2 [])
    else none

/-- The payload and the two signatures of a COSE_Sign object of R390. -/
def readCose (b : Bytes) : Option (Bytes × Bytes × Bytes) :=
  if b.take 2 ≠ cborHead 6 98 then none
  else
    (readArray (b.drop 2)).bind fun l =>
      if l.length ≠ 4 || l.headD [] ≠ cborBytes [] || l.getD 1 [] ≠ cborMap [] then none
      else
        (readBytes (l.getD 2 [])).bind fun payload =>
          (readArray (l.getD 3 [])).bind fun s =>
            if s.length = 2 then some (payload, s.headD [], s.getD 1 []) else none

/-- The fields of a report that R400 and R406 look at, with what its chains, to the Akoirno keys given, and its signatures show;
none when it has not the form of R390 and R391. -/
def readReport (roots : Bytes × Bytes) (b : Bytes) : Option PeerReport :=
  (readCose b).bind fun o =>
    (readMap o.1).bind fun m =>
      let field (k : Nat) : Bytes := ((m.find? fun p => p.1 = k).map fun p => p.2).getD []
      let bytes (k n : Nat) : Option Bytes := (readBytes (field k)).filter fun x => x.length = n
      (readUint (field 1)).bind fun kind =>
      (bytes 2 32).bind fun nonce =>
      (readArray (field 3)).bind fun block =>
      (readArray (field 4)).bind fun versions =>
      (bytes 5 48).bind fun bundle =>
      (readUint (field 6)).bind fun lc =>
      (readUint (field 7)).bind fun debug =>
      (bytes 9 1568).bind fun kem =>
      ((readArray (field 10)).bind fun l => l.mapM readBytes).bind fun certs =>
      (readUint (block.headD [])).bind fun id =>
      (readUint (versions.getD 6 [])).bind fun svn =>
        let cert (k : Nat) : Bytes := certs.getD k []
        let aliasOf (pq : Bool) : Cert := readCert pq (cert (if pq then 1 else 3))
        let device (pq : Bool) : Cert := readCert pq (cert (if pq then 0 else 2))
        let signed (pq : Bool) (alg : Nat) (s : Bytes) : Bool :=
          (readSignature alg (cert (if pq then 1 else 3)) s).any fun sig =>
            chainVerify pq (aliasOf pq).key (sigStructure alg o.1) sig
        if block.length ≠ 2 || versions.length ≠ 9 || certs.length ≠ 4 then none
        else
          some
            { kind := kind, nonce := nonce, lifecycle := lc, debug := debug, blockId := id, bundle := bundle, svn := svn
              kemKey := kem, devid := sha384 (device true).key
              chains := chainHolds true roots.1 (device true) (aliasOf true) && chainHolds false roots.2 (device false) (aliasOf false)
              sigs := signed true 49 o.2.1 && signed false 34 o.2.2 }

end Sys2Proof.Machine
end

