-- ==== Sys2Proof/Machine/Report.lean ====
section
/-! DEFINITION. Identities, certificates and reports (R388 to R392), and ATTEST_REPORT (R342, R343). -/

namespace Sys2Proof.Machine

open Sys2Proof Sys2Proof.Machine.Crypto

/-! ## Identities (R388) -/

/-- The DEVID_PQ and DEVID_EC public keys. -/
def Block.devidPq (b : Block) : Bytes := mldsaPublic (b.material 1)
def Block.devidEc (b : Block) : Bytes := p384Public (b.material 2)

/-- The ML-KEM-1024 encapsulation key of slot 5: 1,568 bytes (FIPS 203). -/
def Block.aliasKem (b : Block) : Bytes := slice (mlkemPublic (b.material 5)) 0 1568

/-- An ML-DSA-87 signature under a slot's seed: 4,627 bytes (FIPS 204). -/
def Block.signPq (b : Block) (n : Nat) (m : Bytes) : Bytes := 
  slice (mldsaSign (b.material n) m (toLe 32 (b.random 256).toNat)) 0 4627

/-- An ECDSA P-384 signature under a slot's scalar: 96 bytes (FIPS 186-5). -/
def Block.signEc (b : Block) (n : Nat) (m : Bytes) : Bytes := 
  slice (p384Sign (b.material n) m (toLe 56 (b.random 448).toNat)) 0 96

/-- The DEVID digest. -/
def Block.devid (b : Block) : Bytes := sha384 b.devidPq

/-- The provisional id. -/
def Block.provisional (b : Block) : Nat := bfld b.devid 0 2 % 4096

/-- The debug flag of the alias certificates. -/
def Block.debugFlag (b : Block) : Bool := b.boot.rights ≠ 0

/-- The security version read at kindling (R454). -/
def Block.svn (b : Block) : BitVec 16 := b.boot.otpSvn

/-- The alias certificates, signed by the device keys at this kindling (R388). -/
def Block.aliasPq (b : Block) : Bytes :=
  aliasCert true (b.material 1) (mldsaPublic (b.material 3)) b.svn b.boot.digest b.debugFlag b.boot.certDraw
def Block.aliasEc (b : Block) : Bytes :=
  aliasCert false (b.material 2) (p384Public (b.material 4)) b.svn b.boot.digest b.debugFlag b.boot.certDraw

/-- A certificate of the flash: 0 DEVID_PQ, 1 Akoirno PQ, 2 DEVID_EC, 3 Akoirno EC (R450). -/
def Block.flashCert (b : Block) (k : Nat) : Bytes := b.boot.flashCerts.getD k []

/-- The Akoirno public keys, PQ and EC, once their certificates have verified (R389). -/
def Block.akoirno (b : Block) : Bytes × Bytes :=
  if b.boot.rootsOk then ((readCert true (b.flashCert 1)).key, (readCert false (b.flashCert 3)).key) else ([], [])

/-- The certificates that the block offers: DEVID_PQ, ALIAS_PQ, DEVID_EC, ALIAS_EC; none unless its device certificates
match its keys. -/
def Block.chains (b : Block) : List Bytes :=
  if b.boot.certs then [b.flashCert 0, b.aliasPq, b.flashCert 2, b.aliasEc] else [[], [], [], []]

/-! ## The payload (R391) -/

/-- What a report is about. -/
inductive ReportKind where
  | block
  | context (fn ctx : Nat)
  | link

def ReportKind.code : ReportKind → Nat
  | .block => 1
  | .context _ _ => 2
  | .link => 3

/-- Bound regions of a function, or of every function, in index order. -/
def Block.boundRegions (b : Block) (fn : Option Nat) : List (Nat × RegionEntry) :=
  b.regions.table.filter fun e => e.2.bound && fn.all fun f => e.2.ownerFn.toNat = f

/-- REGIONS of a report. -/
def Block.reportRegions (b : Block) : ReportKind → Bytes
  | .block =>
    cborArray ((b.boundRegions none).map fun e =>
      cborArray [cborUint e.1, cborUint e.2.mode.code, cborUint e.2.ownerFn.toNat])
  | .context fn _ => cborArray ((b.boundRegions (some fn)).map fun e => cborArray [cborUint e.1, cborUint e.2.mode.code])
  | .link =>
    cborArray ([1, 2, 3, 4].map fun m => cborUint ((b.boundRegions none).filter fun e => e.2.mode.code = m).length)

/-- SHARED_WAYS: any way group is shared, or the function has no group of its own and so uses a shared one (R86, R491). -/
def Block.sharedWays (b : Block) : ReportKind → Bool
  | .context fn _ =>
    !(b.ways.any fun w => w.2.assigned && !w.2.shared && w.2.fn.toNat = fn) && b.ways.any fun w => w.2.assigned && w.2.shared
  | _ => b.ways.any fun w => w.2.assigned && w.2.shared

/-- Entries 14 to 17. -/
def Block.contextEntries (b : Block) (fn ctx : Nat) : List (Nat × Bytes) :=
  let c := (b.ctxs.get? ctx).getD { fn := fn }
  let progs := (List.range 64).filter fun h => List.contains c.progs h
  let jobs := Tab.keys (α := Job) (b.jobs.filter fun j => List.contains c.jobs j.1)
  [(14, cborArray [cborUint fn, cborUint ctx]),
   (15, cborArray (progs.map fun h => cborBytes (toBe 48 (((b.programs.get? h).map fun p => p.digest.toNat).getD 0)))),
   (16, cborArray (c.measured.map fun m =>
      cborArray [cborUint m.1, cborBytes (toBe 48 m.2.1.toNat), cborUint m.2.2.1, cborUint m.2.2.2])),
   (17, cborArray (jobs.map fun j => cborArray [cborUint j, cborUint (((b.jobs.get? j).map fun x => x.epoch.toNat).getD 0)]))]

/-- DOMAIN of a report. -/
def Block.reportDomain (b : Block) : Bytes :=
  match b.domain.manifest with
  | none => cborNull
  | some m =>
    cborArray [cborBytes (toLe 8 m.id.toNat), cborBytes (toBe 48 m.digest.toNat), cborBool (b.domain.state = .member)]

/-- VERSIONS of a report (R7, R8). -/
def Block.versions (b : Block) : List Nat :=
  [2, 4, 3, 5, 0x17, b.boot.version.toNat, b.boot.otpSvn.toNat, bit (b.boot.slot = some .b), bit b.boot.onTrial]

/-- The payload map. -/
def Block.reportPayload (b : Block) (k : ReportKind) (nonce : Bytes) : Bytes :=
  let common : List (Nat × Bytes) :=
    [(1, cborUint k.code), (2, cborBytes nonce), (3, cborArray [cborUint b.boot.blockId.toNat, cborBool b.boot.assigned]),
     (4, cborArray (b.versions.map cborUint)), (5, cborBytes (toBe 48 b.boot.digest.toNat)), (6, cborUint
        (if b.boot.lc = .invalid then 0xFF else b.boot.lc.code)),
     (7, cborUint b.boot.rights.toNat), (8, cborArray [cborUint b.tick.toNat, cborBool b.time.valid]),
     (9, cborBytes b.aliasKem), (10, cborArray (b.chains.map cborBytes)), (11, b.reportDomain),
     (12, b.reportRegions k)]
  cborMap (match k with
    | .block => common ++ [(13, cborBool (b.sharedWays k))]
    | .context fn ctx => common ++ [(13, cborBool (b.sharedWays k))] ++ b.contextEntries fn ctx
    | .link => common)

/-! ## The report (R390) -/

def coseSignature (alg : Nat) (cert sig : Bytes) : Bytes :=
  cborArray [cborBytes (coseAlg alg), cborMap [(4, cborBytes (sha384 cert))], cborBytes sig]

/-- The COSE_Sign object: tag 98, both signatures over the payload (R390). -/
def Block.coseSign (b : Block) (payload : Bytes) : Bytes :=
  let pq := b.signPq 3 (sigStructure 49 payload)
  let ec := b.signEc 4 (sigStructure 34 payload)
  cborHead 6 98 ++
    cborArray [cborBytes [], cborMap [], cborBytes payload,
      cborArray [coseSignature 49 b.aliasPq pq, coseSignature 34 b.aliasEc ec]]

def Block.report (b : Block) (k : ReportKind) (nonce : Bytes) : Bytes := b.coseSign (b.reportPayload k nonce)

/-- ATTEST_REPORT: R342, R343, R387, R390 to R392. -/
def execAttestReport (cmd : Nat) (s : State) : Host.Outcome State Fault Refusal :=
  onCommand s cmd 0x0801 fun c b =>
    if b.boot.entropyDown then b.fail cmd .notReady
    else
    let k : ReportKind := if c.ctx = 0 then .block else .context c.fn c.ctx
    let r := b.report k (dbytes c.desc 32 32)
    if dfld c.desc 24 4 < r.length then b.complete cmd .badOperand (BitVec.ofNat 64 r.length) 0 false
    else b.freshen.output cmd (dfld c.desc 16 8) r .ok r.length 0

end Sys2Proof.Machine
end

