-- ==== Sys2Proof/Machine/Admission.lean ====
section
/-! DEFINITION. Link admission, domain manifests and membership (R394 to R410, R431). -/

namespace Sys2Proof.Machine

open Sys2Proof Sys2Proof.Machine.Crypto

/-! ## Admission blocks (R395, R396) -/

/-- MSG codes (R396). -/
def msgHello : Nat := 1
def msgDeferred : Nat := 2
def msgEvidence : Nat := 3
def msgKem : Nat := 4
def msgFinish : Nat := 5
def msgReady : Nat := 6
def msgCred : Nat := 7
def msgReject : Nat := 8
def msgLeave : Nat := 9

/-- The fields of an admission block with its body as sent (R395). -/
structure Adm where
  msg : Nat
  hint : Nat := 0
  total : Nat := 0
  random : Nat := 0
  offset : Nat := 0
  body : Bytes := []

/-- A body padded with zero bytes to a multiple of 64 (R396). -/
def pad64 (b : Bytes) : Bytes := slice b 0 (64 * ceilDiv b.length 64)

def Adm.bytes (a : Adm) : Bytes :=
  toLe 1 a.msg ++ [0] ++ toLe 2 a.hint ++ toLe 4 a.total ++ toLe 32 a.random ++ toLe 4 a.offset ++ toLe 20 0 ++ pad64 a.body

def Adm.read (p : Bytes) : Adm :=
  { msg := bfld p 0 1, hint := bfld p 2 2, total := bfld p 4 4, random := bfld p 8 32, offset := bfld p 40 4, body := p.drop 64 }

/-- EPOCH of a message (R397). -/
def msgEpoch (m : Nat) : Nat := if m = msgFinish || m = msgReady || m = msgCred || m = msgLeave then 1 else 0

/-- Bytes of the body of a message before its padding (R396). -/
def Adm.bodyLen (a : Adm) : Nat :=
  if a.msg = msgEvidence then min 4032 (a.total - a.offset)
  else if a.msg = msgKem then 1568
  else if a.msg = msgFinish || a.msg = msgReady then 64
  else if a.msg = msgCred then 128
  else 0

/-- The message has the form of R395 and R396: fields that its MSG does not use are zero, and the body has its length. -/
def Adm.ok (a : Adm) (p : Bytes) : Bool :=
  1 ≤ a.msg && a.msg ≤ 9 &&
  a.bytes = slice p 0 64 ++ a.body && a.body.length = 64 * ceilDiv a.bodyLen 64 && allZero (a.body.drop a.bodyLen) &&
  (a.msg = msgDeferred || a.msg = msgReject || a.hint = 0) &&
  (if a.msg = msgEvidence then 0 < a.bodyLen else a.total = 0 && a.offset = 0) &&
  (a.msg = msgHello || a.random = 0)

/-! ## Link-class packets (R394, R397) -/

/-- The next sequence number of a direction and epoch, and the LPE after it. -/
def Lpe.takeSeq (l : Lpe) (epoch : Nat) : Nat × Lpe :=
  if epoch = 0 then (l.linkSeq0, { l with linkSeq0 := l.linkSeq0 + 1 }) else (l.linkSeq1, { l with linkSeq1 := l.linkSeq1 + 1 })

/-- The key of an epoch: 32 zero bytes, or the link key. -/
def Lpe.epochKey (l : Lpe) (epoch : Nat) : Option Nat := if epoch = 0 then some 0 else l.adm.linkKey.map fun k => k.toNat

/-- STREAM of link class: the sending LPE, and bit 18 for the high side once the sides are known (R397). -/
def Lpe.linkStream (l : Lpe) (n : Nat) : Nat := 4096 * n + 2 ^ 18 * bit (l.adm.peerRandom ≠ 0 && !l.adm.low)

/-- Seals and sends a link-class packet to the link partner; without a link key none of epoch 1 can leave. -/
def Block.linkSend (b : Block) (n ty epoch : Nat) (payload : Bytes) : Block :=
  match (b.lpe n).epochKey epoch with
  | none => b
  | some key =>
    let s := (b.lpe n).takeSeq epoch
    let h : Hdr :=
      { ty := ty, pclass := 3, src := b.self, dst := 0xFFF, stream := (b.lpe n).linkStream n, seq := s.1,
        len := payload.length / 64 - 1, epoch := epoch }
    let c := sealPacket key h payload
    (b.modLpe n fun _ => s.2).transmit n { hdr := h.bits, payload := toUnits c.1, tag := BitVec.ofNat 128 (le c.2) } none

/-- Sends an admission message (R397). -/
def Block.sendAdm (b : Block) (n : Nat) (a : Adm) : Block := b.linkSend n 0x41 (msgEpoch a.msg) a.bytes

/-- The packet came under its epoch's replay window; epoch 0 has none (R397). -/
def Lpe.linkAdmits (l : Lpe) (h : Hdr) : Bool :=
  h.epoch = 0 || ({ h := l.linkHigh, map := l.linkMap.toNat } : Window1).admits h.seq

def Lpe.linkAccept (l : Lpe) (h : Hdr) : Lpe :=
  if h.epoch = 0 then l
  else
    let w := ({ h := l.linkHigh, map := l.linkMap.toNat } : Window1).accept h.seq
    { l with linkHigh := w.h, linkMap := BitVec.ofNat 4096 w.map }

/-- The checks of R181 on a link-class packet, and its payload. -/
def Block.openLink (b : Block) (p : RxPacket) : Option (Hdr × Bytes) × Block :=
  let h := Hdr.read p.hdr
  let drop (reason : Nat) : Option (Hdr × Bytes) × Block := (none, b.discard p.lpe reason h.src h.job 0)
  if !linkForm p then drop 1
  else if h.job ≠ 0 then drop 2
  else
    match if 1 < h.epoch then none else (b.lpe p.lpe).epochKey h.epoch with
    | none => drop 3
    | some key =>
      if !(b.lpe p.lpe).linkAdmits h then drop 4
      else
        match openPacket key p.hdr (unitBytes p.payload) (toLe 16 p.tag.toNat) with
        | none => drop 5
        | some body =>
          (some (h, body), (b.modLpe p.lpe fun l => l.linkAccept h).count 3 3 (64 * p.payload.length))

/-- Kindling has brought the LPEs up, and has not stopped, so that packets use rx credit (R44, R443, R444). -/
def Block.lpesUp (b : Block) : Bool := 6 ≤ b.boot.step && !b.boot.failed

/-- The LPE takes a packet: the block is up, and, once kindling has brought the LPE up, the packet has credit and the
engine serves (R44, R398, R478). -/
def Block.takesLink (b : Block) (p : RxPacket) : Bool :=
  !b.pins.blockSafe && !Tab.has b.resets (lpeId p.lpe) && (!b.lpesUp || b.mayReceive p)

/-- Beats of a link packet use credit that is due back. -/
def Block.linkBeats (b : Block) (p : RxPacket) : Block :=
  if b.lpesUp then b.takeBeats p.lpe (rxBeats p) else b

/-- A link-class packet of one TYPE arrives; `act` answers none when the packet is not of this kind. -/
def Block.linkArrives (b : Block) (ty : Nat) (p : RxPacket) (act : Hdr → Bytes → Block → Option Block) : Block :=
  if (Hdr.read p.hdr).ty = ty && b.takesLink p then
    match (b.linkBeats p).openLink p with
    | (none, b) => b.payLpe p.lpe
    | (some (h, body), c) =>
      match act h body c with
      | some c => c.payLpe p.lpe
      | none => b
  else b

/-! ## Time follows membership (R425 to R427) -/

/-- Member ports with their partner's HOPS below 0xFF, lowest port first. -/
def Block.timePorts (b : Block) : List (Nat × Nat) :=
  (b.lpes.filter fun e => e.2.member && e.2.partnerHops ≠ 0xFF).map fun e => (e.1, e.2.partnerHops.toNat)

/-- The port of a list with the lowest HOPS, ties to the lowest port. -/
def lowestHops : List (Nat × Nat) → Option (Nat × Nat)
  | [] => none
  | x :: r =>
    match lowestHops r with
    | none => some x
    | some y => some (if y.2 < x.2 then y else x)

/-- The parent port: that of the lowest HOPS; for a seed that committed by CRED, its lowest member port. -/
def Block.timeParent (b : Block) : Option (Nat × Nat) :=
  if b.domain.seed then ((b.lpes.filter fun e => e.2.member).head?).map fun e => (e.1, e.2.partnerHops.toNat)
  else lowestHops b.timePorts

/-- STATE, PARENT and HOPS follow the member ports: from kindling a block is its own root until it joins a domain, a member
without a parent holds over, and so does a block that has left (R427, log 131). -/
def Block.retime (b : Block) : Block :=
  let t := b.time
  { b with
    time :=
      if b.domain.state ≠ .member then
        if t.joined then { t with state := .holdover, hops := 0xFF } else { t with state := .root, hops := 0 }
      else if b.domain.seed && t.locked then { t with state := .root, hops := 0 }
      else
        match b.timeParent with
        | none => { t with state := .holdover, hops := 0xFF }
        | some (n, hops) =>
          if t.locked then { t with state := .locked, parent := n, hops := BitVec.ofNat 8 (min (hops + 1) 0xFF) }
          else { t with parent := n, hops := 0xFF } }

/-! ## Sessions -/

/-- Admission is abandoned: the link key goes, and membership over the port lapses (R402). -/
def Block.abandon (b : Block) (n : Nat) : Block :=
  (b.modLpe n fun l => { l with adm := { rejects := l.adm.rejects }, member := false, partnerHops := 0xFF, offsets := [] }).retime

/-- A port is rejected: counted, with an event to the PF (R402). -/
def Block.rejectPort (b : Block) (n reason : Nat) : Block :=
  let b := b.abandon n
  (b.modLpe n fun l => { l with adm := { l.adm with rejected := true, rejects := l.adm.rejects + 1 } }).raisePf 0x25 (lpeId n)
    [(0, n), (1, reason)]

/-- The side rejects its peer (R399, R400). -/
def Block.rejectPeer (b : Block) (n reason : Nat) : Block :=
  (b.sendAdm n { msg := msgReject, hint := reason }).rejectPort n reason

/-- Slot 3 has been derived and kindling has not stopped, so the LPE admits (R398, R444). -/
def Block.mayAdmit (b : Block) : Bool := b.boot.lc.serves && !(b.slot 3).isEmpty && !b.boot.failed

/-- Sends HELLO with a fresh RANDOM (R399). -/
def Block.sendHello (b : Block) (n : Nat) : Block :=
  if !(b.lpe n).up || !b.mayAdmit || b.boot.entropyDown then b
  else
    let r := b.random 256
    let a : Adm := { msg := msgHello, random := r.toNat }
    let b := b.drew.modLpe n fun l =>
      { l with adm := { rejects := l.adm.rejects, stage := .helloSent, myRandom := r, myHello := a.bytes } }
    b.sendAdm n a

/-- Admissions in progress (R398). -/
def Block.admissions (b : Block) : Nat :=
  (b.lpes.filter fun e => e.2.adm.stage ≠ .idle && e.2.adm.stage ≠ .admitted).length

/-- HINT for a HELLO's sender (R398). -/
def hintFor (src : Nat) : Nat := 20 + 2 * (src % 64)

/-- What a HELLO is answered with instead of admission (R398, R400, R431, R444). -/
def Block.helloRefusal (b : Block) (src : Nat) : Option Adm :=
  let later : Adm := { msg := msgDeferred, hint := hintFor src }
  if b.boot.step = 0 then some later
  else if !b.boot.lc.serves then some { msg := msgReject, hint := 3 }
  else if !b.mayAdmit then some later
  else if b.boot.debugOpen then some { msg := msgReject, hint := 4 }
  else if 64 ≤ b.admissions || 96 ≤ b.pkhHeld || b.boot.entropyDown then some later
  else none

/-- NONCE of both link reports (R399). -/
def linkNonce (low high : BitVec 256) : Bytes := (sha384 (toLe 32 low.toNat ++ toLe 32 high.toNat)).take 32

/-- NONCE of a session's reports. -/
def Admission.nonce (a : Admission) : Bytes := if a.low then linkNonce a.myRandom a.peerRandom else linkNonce a.peerRandom a.myRandom

/-- Sends the pieces of a link report (R396). -/
def Block.sendEvidence (b : Block) (n total : Nat) : List (Bytes × Nat) → Block
  | [] => b
  | p :: r =>
    (b.sendAdm n { msg := msgEvidence, total := total, offset := 4032 * p.2, body := p.1 }).sendEvidence n total r

/-- Both HELLOs are known: the sides are set and this side's link report goes out (R397, R399). -/
def Block.beginEvidence (b : Block) (n : Nat) (a : Adm) (payload : Bytes) : Block :=
  let peer := BitVec.ofNat 256 a.random
  let b := b.modLpe n fun l =>
    { l with adm := { l.adm with stage := .evidence, peerRandom := peer, peerHello := payload
                                 low := l.adm.myRandom.toNat < peer.toNat } }
  let r := b.report .link (b.lpe n).adm.nonce
  let b := b.freshen.modLpe n fun l => { l with adm := { l.adm with myReport := r } }
  b.sendEvidence n r.length (split 4032 r).zipIdx

/-- A HELLO whose RANDOM differs from that of the session under way abandons it, also where the HELLO is then refused (R402). -/
def Block.endSession (b : Block) (n random : Nat) : Block :=
  let s := (b.lpe n).adm
  if s.stage ≠ .idle && s.stage ≠ .helloSent && s.peerRandom.toNat ≠ random then b.abandon n else b

/-- A HELLO that is not refused (R397, R399, R402). -/
def Block.takeHello (b : Block) (n : Nat) (a : Adm) (payload : Bytes) : Block :=
  let s := (b.lpe n).adm
  if s.stage ≠ .idle && s.stage ≠ .helloSent && s.peerRandom.toNat = a.random then b
  else
    let b := if s.stage = .helloSent then b else (b.abandon n).sendHello n
    if (b.lpe n).adm.stage ≠ .helloSent then b
    else if (b.lpe n).adm.myRandom.toNat = a.random then (b.abandon n).sendHello n
    else b.beginEvidence n a payload

/-- Runs an admission message of one kind; a malformed one is refused with reason 5, or, under the link key, discarded
(R181, R396, R397). -/
def atAdmit (s : State) (p : RxPacket) (msg : Nat) (act : Adm → Bytes → Hdr → Block → Block) :
    Host.Outcome State Fault Refusal :=
  atPort (.lphy p.lpe) s <| onBlock s fun b =>
    b.linkArrives 0x41 p fun h body b =>
      let a := Adm.read body
      if a.ok body && h.epoch = msgEpoch a.msg then (if a.msg = msg then some (act a body h b) else none)
      else if 1 ≤ a.msg && a.msg ≤ 9 && a.msg ≠ msg then none
      else
        let b := b.discard p.lpe 1 h.src 0 0
        some (if h.epoch = 0 && a.msg ≠ msgReject && b.mayAdmit then b.rejectPeer p.lpe 5 else b)

/-- HELLO: R397 to R400, R402, R431. -/
def execHello (p : RxPacket) (s : State) : Host.Outcome State Fault Refusal :=
  atAdmit s p msgHello fun a body h b =>
    match b.helloRefusal h.src with
    | some r => (b.endSession p.lpe a.random).sendAdm p.lpe r
    | none => b.takeHello p.lpe a body

/-- DEFERRED: R398. -/
def execDeferred (p : RxPacket) (s : State) : Host.Outcome State Fault Refusal :=
  atAdmit s p msgDeferred fun _ _ _ b =>
    if (b.lpe p.lpe).adm.stage = .helloSent then
      b.modLpe p.lpe fun l => { l with adm := { rejects := l.adm.rejects, deferred := true } }
    else b

/-! ## Evidence and keys -/

/-- The longest report (R392). -/
def maxReport : Nat := 192 * 1024

/-- R400 on the peer's report: the reason to reject it, if any. `pathOk`: what RFC 5280 asks of the chains beyond their
signatures. -/
def Block.peerRefusal (b : Block) (s : Admission) (v : PeerReport) (pathOk : Bool) : Option Nat :=
  if !v.chains || !pathOk then some 1
  else if !v.sigs || v.kind ≠ 3 || v.nonce ≠ s.nonce then some 2
  else if v.lifecycle ≠ b.boot.lc.code || !b.boot.lc.serves then some 3
  else if v.debug ≠ 0 || b.boot.rights ≠ 0 then some 4
  else none

/-- The peer's report holds: this side encapsulates to its ALIAS_KEM (R399). -/
def Block.sendKem (b : Block) (n : Nat) (v : PeerReport) : Block :=
  if b.boot.entropyDown then b
  else
    let (secret, ct) := mlkemEncaps v.kemKey (toLe 32 (b.random 256).toNat)
    let a : Adm := { msg := msgKem, body := slice ct 0 1568 }
    let b := b.drew.modLpe n fun l =>
      { l with adm := { l.adm with stage := .kem, partner := some v, myKem := a.bytes, mySecret := secret } }
    b.sendAdm n a

/-- The peer's report is here whole: it is rejected, or this side goes on to KEM (R399, R400). A report without the form of R390
and R391 is malformed. -/
def Block.judgeReport (b : Block) (n : Nat) (v : PeerVerdict) : Block :=
  match readReport b.akoirno (b.lpe n).adm.peerReport with
  | none => b.rejectPeer n 5
  | some r =>
    match b.peerRefusal (b.lpe n).adm r v.pathOk with
    | some reason => b.rejectPeer n reason
    | none => b.sendKem n r

/-- EVIDENCE: R396, R399, R400. -/
def execEvidence (p : RxPacket) (v : PeerVerdict) (s : State) : Host.Outcome State Fault Refusal :=
  atAdmit s p msgEvidence fun a _ _ b =>
    let n := p.lpe
    let d := (b.lpe n).adm
    if d.stage ≠ .evidence then b
    else if a.offset ≠ d.peerReport.length || maxReport < a.total then b.rejectPeer n 5
    else
      let b := b.modLpe n fun l => { l with adm := { l.adm with peerReport := d.peerReport ++ a.body.take a.bodyLen } }
      if a.offset + a.bodyLen < a.total then b else b.judgeReport n v

/-- A pair of one side's and the other's bytes, low side first. -/
def Admission.lowFirst (s : Admission) (mine peers : Bytes) : Bytes := if s.low then mine ++ peers else peers ++ mine

/-- T of R399. -/
def Admission.hash (s : Admission) : Bytes :=
  sha384 (s.lowFirst s.myHello s.peerHello ++ s.lowFirst s.myReport s.peerReport ++ s.lowFirst s.myKem s.peerKem)

/-- The link key (R401). -/
def Admission.key (s : Admission) (t : Bytes) : BitVec 256 :=
  BitVec.ofNat 256 (le (kmac256 (s.lowFirst (toLe 32 s.mySecret.toNat) (toLe 32 s.peerSecret.toNat)) t 256 "CX.kem"))

/-- KEM: R399, R401; numbers and window of epoch 1 start with the link key (R397). -/
def execKem (p : RxPacket) (s : State) : Host.Outcome State Fault Refusal :=
  atAdmit s p msgKem fun a body _ b =>
    let n := p.lpe
    if (b.lpe n).adm.stage ≠ .kem then b
    else
      let d : Admission :=
        { (b.lpe n).adm with stage := .finish, peerKem := body
                             peerSecret := mlkemDecap (b.material 5) (a.body.take 1568) }
      let t := d.hash
      let d := { d with linkKey := some (d.key t), transcript := t, finishSent := true }
      let b := b.modLpe n fun l => { l with adm := d, linkSeq1 := 1, linkHigh := 0, linkMap := 0 }
      b.sendAdm n { msg := msgFinish, body := t }

/-! ## Membership -/

/-- KCV of the domain key (R408). -/
def Block.kcv (b : Block) : Bytes :=
  (aesBlock (roundKeys (le (b.material 16))) (List.replicate 16 0)).take 8

/-- Bodies of READY (R396). -/
def Block.readyBody (b : Block) : Bytes :=
  match b.domain.manifest with
  | none => List.replicate 64 0
  | some m => toLe 8 m.id.toNat ++ toBe 48 m.digest.toNat ++ (if b.domain.state = .member then b.kcv else List.replicate 8 0)

/-- Ports that are admitted, in order. -/
def Block.admittedPorts (b : Block) : List Nat := Tab.keys (α := Lpe) (b.lpes.filter fun e => e.2.admitted)

def Block.sendReady (b : Block) (n : Nat) : Block := b.sendAdm n { msg := msgReady, body := b.readyBody }

def Block.sendReadys (b : Block) : List Nat → Block
  | [] => b
  | n :: r => (b.sendReady n).sendReadys r

/-- The manifest's conditions on a partner's report (R406). -/
def Manifest.accepts (m : Manifest) (v : PeerReport) : Bool :=
  (m.members.any fun e => e.1.toNat = be v.devid && e.2.toNat = v.blockId) && (m.bundles.any fun x => x.toNat = be v.bundle) &&
  m.minSvn.toNat ≤ v.svn

/-- DOMAIN_ID and manifest digest as READY and CRED carry them. -/
def Manifest.head (m : Manifest) : Bytes := toLe 8 m.id.toNat ++ toBe 48 m.digest.toNat

def Block.setMember (b : Block) (n : Nat) (v : Bool) : Block := (b.modLpe n fun l => { l with member := v }).retime

/-- Member partners with different domain keys (R408). -/
def Block.splitPort (b : Block) (n : Nat) : Block :=
  ({ b with domain := { b.domain with split := true, splits := b.domain.splits + 1 } }.setMember n false).raisePf 0x26
    (lpeId n) [(0, n)]

/-- What the partner's last READY means for the port (R406, R408). -/
def Block.judgeReady (b : Block) (n : Nat) : Block :=
  let d := (b.lpe n).adm
  match b.domain.manifest with
  | none => b
  | some m =>
    if !(b.lpe n).admitted || d.ready.length ≠ 64 || slice d.ready 0 56 ≠ m.head then b.setMember n false
    else if b.domain.state ≠ .member then b
    else if allZero (slice d.ready 56 8) then
      let b := b.setMember n false
      if d.partner.any m.accepts then b.sendAdm n { msg := msgCred, body := m.head ++ b.material 16 ++ List.replicate 40 0 }
      else b
    else if slice d.ready 56 8 = b.kcv then b.setMember n true
    else b.splitPort n

def Block.judgeReadys (b : Block) : List Nat → Block
  | [] => b
  | n :: r => (b.judgeReady n).judgeReadys r

/-- Commits the domain key to slot 16, which makes the block a MEMBER (R406, R407). -/
def Block.joinDomain (b : Block) (key : Bytes) (drawn : Bool) : Block :=
  if !(b.slot 16).reusable then b
  else
    let b := b.writeSlot 16 key 0x80 (makeAttr (useW + useV) 2 1 false false false) 0 0 6 (b.slot 6).gen 0 true
    let b := { b with domain := { b.domain with state := .member }, time := { b.time with locked := drawn, joined := true } }
    let b := b.retime.sendReadys b.admittedPorts
    b.judgeReadys b.admittedPorts

/-- FINISH: the port is admitted when it holds T, and READY follows (R399). -/
def execFinish (p : RxPacket) (s : State) : Host.Outcome State Fault Refusal :=
  atAdmit s p msgFinish fun a _ _ b =>
    let d := (b.lpe p.lpe).adm
    if d.stage = .finish && a.body.take 48 = d.transcript && allZero (a.body.drop 48) then
      (b.modLpe p.lpe fun l => { l with adm := { l.adm with stage := .admitted } }).sendReady p.lpe
    else b

/-- READY: R406, R408. -/
def execReady (p : RxPacket) (s : State) : Host.Outcome State Fault Refusal :=
  atAdmit s p msgReady fun a _ _ b =>
    if (b.lpe p.lpe).admitted then
      (b.modLpe p.lpe fun l => { l with adm := { l.adm with ready := a.body } }).judgeReady p.lpe
    else b

/-- CRED: R406; every other one is ignored. -/
def execCred (p : RxPacket) (s : State) : Host.Outcome State Fault Refusal :=
  atAdmit s p msgCred fun a _ _ b =>
    match b.domain.manifest with
    | none => b
    | some m =>
      if b.domain.state ≠ .waiting || !(b.lpe p.lpe).admitted then b
      else
        let b := { b with domain := { b.domain with credSeen := true } }
        if slice a.body 0 56 = m.head && (b.lpe p.lpe).adm.partner.any m.accepts then
          b.joinDomain (slice a.body 56 32) false
        else b

/-- REJECT: R402. -/
def execReject (p : RxPacket) (s : State) : Host.Outcome State Fault Refusal :=
  atAdmit s p msgReject fun a _ _ b => if b.mayAdmit then b.rejectPort p.lpe a.hint else b

/-- LEAVE: R410. -/
def execLeave (p : RxPacket) (s : State) : Host.Outcome State Fault Refusal :=
  atAdmit s p msgLeave fun _ _ _ b =>
    (b.modLpe p.lpe fun l => { l with adm := { l.adm with ready := [] } }).setMember p.lpe false

/-! ## Links, timeouts and retries -/

/-- LPHY_UP_RISE: R399. -/
def execLphyUpRise (lpe : Nat) (s : State) : Host.Outcome State Fault Refusal :=
  atPort (.lphy lpe) s <| onBlock s fun b =>
    if (b.lpe lpe).up then b else (b.modLpe lpe fun l => { l with up := true }).sendHello lpe

/-- LPHY_UP_FALL: R402. -/
def execLphyUpFall (lpe : Nat) (s : State) : Host.Outcome State Fault Refusal :=
  atPort (.lphy lpe) s <| onBlock s fun b => (b.modLpe lpe fun l => { l with up := false }).abandon lpe

/-- ADMISSION_TIMEOUT: R402. -/
def execAdmissionTimeout (lpe : Nat) (s : State) : Host.Outcome State Fault Refusal :=
  behindPort (.lphy lpe) s <| onBlock s fun b =>
    if (b.lpe lpe).adm.stage = .idle || (b.lpe lpe).admitted then b else b.abandon lpe

/-- DEFERRED_RETRY: R398. -/
def execDeferredRetry (lpe : Nat) (s : State) : Host.Outcome State Fault Refusal :=
  behindPort (.lphy lpe) s <| onBlock s fun b => if (b.lpe lpe).adm.deferred then b.sendHello lpe else b

/-- REJECT_RETRY: R402. -/
def execRejectRetry (lpe : Nat) (s : State) : Host.Outcome State Fault Refusal :=
  behindPort (.lphy lpe) s <| onBlock s fun b => if (b.lpe lpe).adm.rejected then b.sendHello lpe else b

/-- Every port whose link is up is admitted or rejected (R407). -/
def Block.portsSettled (b : Block) : Bool :=
  b.lpes.all fun e => !e.2.up || e.2.admitted || e.2.adm.rejected

/-- SEED_WAIT_EXPIRY: R407; the draw waits while the entropy source is down (R387). -/
def execSeedWaitExpiry (s : State) : Host.Outcome State Fault Refusal :=
  onBlock s fun b =>
    if b.domain.state = .waiting && b.domain.seed && !b.domain.credSeen && b.portsSettled && !b.boot.entropyDown then
      b.drew.joinDomain (toLe 32 (b.random 256).toNat) true
    else b

/-! ## Manifests (R403 to R405) -/

/-- The members of a manifest. -/
def manifestMembers (x : Bytes) (n : Nat) : List (BitVec 384 × BitVec 12) :=
  (List.range n).map fun i => (BitVec.ofNat 384 (be (slice x (416 + 64 * i) 48)), BitVec.ofNat 12 (bfld x (464 + 64 * i) 2))

/-- The manifest in bytes of the length named, when it meets R403 and R405 for a block with a DEVID digest. -/
def readManifest (x : Bytes) (len : Nat) (devid : Bytes) : Option Manifest :=
  let n := bfld x 6 2
  let k := bfld x 20 1
  let ms := manifestMembers x n
  let entries := List.range n
  if bfld x 0 4 = 0x4D445843 && bfld x 4 2 = 1 && 1 ≤ n && n ≤ 4096 && len = 416 + 64 * n && x.length = len &&
      bfld x 16 2 < 4096 && 1 ≤ k && k ≤ 8 && allZero (slice x 21 11) && allZero (slice x (32 + 48 * k) (384 - 48 * k)) &&
      entries.all (fun i => bfld x (464 + 64 * i) 2 < 0xFFF && allZero (slice x (466 + 64 * i) 14)) &&
      (ms.map (·.1)).eraseDups.length = n && (ms.map (·.2)).eraseDups.length = n &&
      ms.any (fun m => m.2.toNat = bfld x 16 2) && ms.any (fun m => m.1.toNat = be devid) then
    some
      { id := BitVec.ofNat 64 (bfld x 8 8), seed := BitVec.ofNat 12 (bfld x 16 2), minSvn := BitVec.ofNat 16 (bfld x 18 2)
        bundles := (List.range k).map fun i => BitVec.ofNat 384 (be (slice x (32 + 48 * i) 48))
        members := ms, digest := BitVec.ofNat 384 (be (sha384 x)) }
  else none

/-- The id of an entry with a DEVID digest. -/
def Manifest.idOf (m : Manifest) (devid : Bytes) : BitVec 12 :=
  ((m.members.find? fun e => e.1.toNat = be devid).map fun e => e.2).getD 0

/-- A manifest is held: the block takes its id and says READY (R405). -/
def Block.holdManifest (b : Block) (m : Manifest) : Block :=
  let id := m.idOf b.devid
  let b :=
    { b with
      domain := { b.domain with state := .waiting, seed := id = m.seed, manifest := some m, credSeen := false, err := .ok }
      boot := { b.boot with blockId := id, assigned := true } }
  b.sendReadys b.admittedPorts

/-- LOAD (R405). -/
def Block.loadManifest (b : Block) (len : Nat) (x : HostRead) : Block :=
  let bad (b : Block) (st : Status) : Block := { b with domain := { b.domain with err := st } }
  if b.domain.state ≠ .none then bad b .badOperand
  else if !b.boot.lc.serves then bad b .deniedLifecycle
  else if b.boot.debugOpen then bad b .debugOpen
  else
    let b := b.hostFetch 0 b.domain.src.toNat len
    match x with
    | .err => bad b .translationFault
    | .data x =>
      match readManifest x len b.devid with
      | none => bad b .badOperand
      | some m => b.holdManifest m

/-- LOAD and LEAVE wait at the port while the sequencer is in reset (R19). -/
def atDomain (s : State) (act : Host.Outcome State Fault Refusal) : Host.Outcome State Fault Refusal :=
  if s.blk.boot.seqReset && !s.blk.pins.blockSafe then onBlock s id else act

/-- DOMAIN_LOAD: R19, R404, R405. -/
def execDomainLoad (fn : Nat) (len : BitVec 19) (manifest : HostRead) (s : State) : Host.Outcome State Fault Refusal :=
  atDomain s <| atRegister s fn 0x1008 fun b => ({ b with domain := { b.domain with len := len } }).loadManifest len.toNat manifest

/-! ## Leaving (R410) -/

/-- LEAVE goes out on every port of a list. -/
def Block.sendLeaves (b : Block) : List Nat → Block
  | [] => b
  | n :: r => (b.sendAdm n { msg := msgLeave }).sendLeaves r

/-- Steps 2 to 5 of leaving a domain. -/
def Block.dropDomain (b : Block) : Block :=
  let b := if (b.slot 16).isEmpty then b else b.invalidate 16 none
  let b :=
    { b with
      domain := { b.domain with state := .none, seed := false, manifest := none, credSeen := false }
      boot := { b.boot with blockId := BitVec.ofNat 12 b.provisional, assigned := false }
      time := { b.time with locked := false }
      lpes := b.lpes.map fun e : Nat × Lpe => (e.1, { e.2 with member := false }) }
  b.retime.sendLeaves b.admittedPorts

/-- A block leaves its domain; a block that holds no manifest has none to leave (R410). -/
def Work.leaveDomain (w : Work) (acc : Access) : Work :=
  if w.blk.domain.state = .none then w
  else (w.tearJobs acc openDead (Tab.keys w.blk.jobs)).on Block.dropDomain

/-- A register write whose effect reads or writes protected memory. -/
def atRegisterMem (s : State) (fn off : Nat) (act : Work → Work) : Host.Outcome State Fault Refusal :=
  atPort .hcp s <| onMemory s fun w =>
    if w.blk.reach fn off true then (act w).on fun b => b.emit (.hcpT 0 false) else w.on fun b => b.regAccess fn off id

/-- DOMAIN_LEAVE: R19, R404, R410. -/
def execDomainLeave (fn : Nat) (acc : Access) (s : State) : Host.Outcome State Fault Refusal :=
  atDomain s <| atRegisterMem s fn 0x1008 fun w => w.leaveDomain acc

end Sys2Proof.Machine
end

