-- ==== Sys2Proof/Machine/Ash.lean ====
section
/-! DEFINITION. The ash stream of a function: its control register, packets, handover and release (R310 to R312). -/

namespace Sys2Proof.Machine

open Sys2Proof Sys2Proof.Machine.Crypto

def Block.modAsh (b : Block) (f : Nat) (g : AshStream → AshStream) : Block := b.modFn f fun p => { p with ash := g p.ash }

/-- Bytes of a buffer. -/
def AshStream.size (a : AshStream) : Nat := 2 ^ a.sizeLog2.toNat

/-- The active buffer is held by the host. -/
def AshStream.stalled (a : AshStream) : Bool := if a.active then a.bHeld else a.aHeld

/-- Host address of an offset in the active buffer. -/
def AshStream.at (a : AshStream) (off : Nat) : Nat := (if a.active then a.baseB else a.baseA).toNat * 4096 + off

/-- A write of the stream goes out. -/
def Block.ashWrite (b : Block) (f off : Nat) (data : Bytes) : Block :=
  (b.hostWrite f ((b.fn f).ash.at off) data (.ash f)).modAsh f fun a => { a with writes := a.writes + 1 }

/-- Bytes of the open packet. -/
def AshStream.length (a : AshStream) : Nat := 32 + 32 * a.records

/-- The packet header (R311). -/
def AshStream.header (a : AshStream) : Bytes :=
  toLe 4 a.length ++ toLe 4 (bit (0 < a.dropped)) ++ toLe 8 a.dropped ++ toLe 8 a.firstTick.toNat ++
  toLe 4 a.seq.toNat ++ toLe 4 0

/-- The buffer is handed over: HELD, VECTOR, and the other buffer's turn (R312). -/
def Block.ashHand (b : Block) (f : Nat) : Block :=
  let a := (b.fn f).ash
  (b.modAsh f fun a =>
    { a with aHeld := a.aHeld || !a.active, bHeld := a.bHeld || a.active, active := !a.active, offset := 0,
             phase := .filling }).irq f a.vector

/-- What follows once every write of the stream has returned (R311, R312). -/
def Block.ashSettle (b : Block) (f : Nat) : Block :=
  let a := (b.fn f).ash
  if 0 < a.writes then b
  else
    match a.phase with
    | .filling => b
    | .closing flush => (b.ashWrite f a.offset a.header).modAsh f fun a => { a with phase := .header flush, told := a.dropped }
    | .header flush =>
      let off := a.offset + a.length
      let b := b.modAsh f fun a =>
        { a with offset := off, records := 0, seq := a.seq + 1, dropped := a.dropped - a.told, phase := .filling }
      if flush || a.size - off < 64 then
        if 32 ≤ a.size - off then
          (b.ashWrite f off (toLe 32 0)).modAsh f fun a => { a with phase := .handing }
        else b.ashHand f
      else b
    | .handing => b.ashHand f

/-- Closes the open packet. -/
def Block.ashClose (b : Block) (f : Nat) (flush : Bool) : Block :=
  (b.modAsh f fun a => { a with phase := .closing flush }).ashSettle f

/-- FLUSH: closes the open packet and hands over the active buffer if it holds a packet (R310, R312, R314). -/
def Block.ashFlush (b : Block) (f : Nat) : Block :=
  let a := (b.fn f).ash
  if !a.enable || a.stalled then b
  else if a.phase = .closing false then b.modAsh f fun a => { a with phase := .closing true }
  else if a.phase = .header false then b.modAsh f fun a => { a with phase := .header true }
  else if a.phase ≠ .filling then b
  else if 0 < a.records then b.ashClose f true
  else if a.offset = 0 then b
  else if 32 ≤ a.size - a.offset then
    (b.ashWrite f a.offset (toLe 32 0)).modAsh f fun a => { a with phase := .handing }
  else b.ashHand f

/-- A record is written into the open packet, which it opens when there is none, or is ignored and counted while both
buffers are held (R311, R312). -/
def Block.ashPut (b : Block) (f : Nat) (e : Event) : Block :=
  let a := (b.fn f).ash
  if a.stalled then b.modAsh f fun a => { a with dropped := a.dropped + 1, overrun := true }
  else
    let b := if a.records = 0 then
        (b.ashWrite f a.offset (toLe 32 0)).modAsh f fun a => { a with firstTick := e.tick }
      else b
    let b := (b.ashWrite f (a.offset + a.length) e.bytes).modAsh f fun a => { a with records := a.records + 1 }
    let a := (b.fn f).ash
    if a.records = 64 ∨ a.size < a.offset + a.length + 32 then b.ashClose f false else b

/-- ASH_RECORD: R310 to R312; a record waits while a packet is being closed. -/
def execAshRecord (fn : Nat) (s : State) : Host.Outcome State Fault Refusal :=
  onBlock s fun b =>
    let a := (b.fn fn).ash
    match a.transit with
    | [] => b
    | e :: r =>
      if !a.enable || a.phase ≠ .filling || Tab.has b.resets 0x77 then b
      else (b.modAsh fn fun a => { a with transit := r }).ashPut fn e

/-- ASH_PACKET_TIMEOUT: R312. -/
def execAshPacketTimeout (fn : Nat) (s : State) : Host.Outcome State Fault Refusal :=
  onBlock s fun b =>
    let a := (b.fn fn).ash
    if a.enable && a.phase = .filling && 0 < a.records then b.ashClose fn false else b

/-- A write of the stream has been answered. -/
def Block.ashAnswered (b : Block) (f : Nat) : Block :=
  (b.modAsh f fun a => { a with writes := a.writes - 1 }).ashSettle f

/-- Setting ENABLE frees both buffers and starts filling A with packet number 0 (R310, R311). -/
def AshStream.start (a : AshStream) : AshStream :=
  { a with enable := true, aHeld := false, bHeld := false, active := false, offset := 0, records := 0, seq := 0,
           dropped := 0, phase := .filling, transit := [] }

/-- Releases buffers; filling resumes in the one released first (R312). -/
def AshStream.release (a : AshStream) (ra rb : Bool) : AshStream :=
  let both := a.aHeld && a.bHeld
  let freedA := ra && a.aHeld
  let freedB := rb && a.bHeld
  { a with
    aHeld := a.aHeld && !ra
    bHeld := a.bHeld && !rb
    active := if both && freedA && !freedB then false else if both && freedB && !freedA then true else a.active }

/-- A write to CX_FN_ASH_CTL (R310). -/
def Block.writeAshCtl (b : Block) (fn f : Nat) (v : Reg) : Block :=
  let a := (b.fn f).ash
  let size := rfld v 0 5
  if size < 12 ∨ 20 < size ∨ (a.enable ∧ size ≠ a.sizeLog2.toNat) then b.regIgnored fn (pageOff f 0xC68)
  else
    let b := b.modAsh f fun a =>
      let a := { a with sizeLog2 := BitVec.ofNat 5 size, vector := BitVec.ofNat 11 (rfld v 16 11),
                        overrun := a.overrun && !rbit v 8 }
      let a := a.release (rbit v 6) (rbit v 7)
      if rbit v 5 && !a.enable then a.start else { a with enable := rbit v 5 }
    if rbit v 10 then b.ashFlush f else b

/-- ASH_ENABLE: R310. -/
def execAshEnable (fn page : Nat) (val : BitVec 64) (s : State) : Host.Outcome State Fault Refusal :=
  atRegister s fn (pageOff page 0xC68) fun b => b.writeAshCtl fn page val

/-- ASH_RELEASE: R310, R312. -/
def execAshRelease (fn page : Nat) (val : BitVec 64) (s : State) : Host.Outcome State Fault Refusal :=
  atRegister s fn (pageOff page 0xC68) fun b => b.writeAshCtl fn page val

/-- FLUSH: R310, R312; the other fields are written as they stand, no HELD bit with a 1. -/
def execFlush (fn page : Nat) (s : State) : Host.Outcome State Fault Refusal :=
  atRegister s fn (pageOff page 0xC68) fun b =>
    b.writeAshCtl fn page
      (pack [(0, (b.fn page).ash.sizeLog2.toNat), (5, bit (b.fn page).ash.enable), (10, 1),
             (16, (b.fn page).ash.vector.toNat)])

end Sys2Proof.Machine
end

