-- ==== Sys2Proof/Machine/Metering.lean ====
section
/-! DEFINITION. Licences, revocation, decoder leases, meters, billing periods, the wall-time anchor and usage reports
(R271 to R276, R280, R284 to R291, R344). -/

namespace Sys2Proof.Machine

open Sys2Proof Sys2Proof.Machine.Crypto

/-! ## Licences (R271, R272) -/

/-- Ranges and reserved bytes of R271. -/
def licenceOk (x : Bytes) : Bool :=
  let uses := bfld x 10 1
  let decoder := uses.testBit 1
  let shuffle := uses.testBit 2
  x.length = 8851 && bfld x 0 4 = 0x494C5843 && bfld x 8 2 = 1 && 0 < uses && uses < 8 && bfld x 11 1 < 16 &&
  (decoder || (bfld x 11 1 = 0 && bfld x 12 4 = 0 && bfld x 24 8 = 0)) &&
  (!decoder || (1 ≤ bfld x 12 4 && bfld x 12 4 ≤ 3600000)) && 1 ≤ bfld x 16 8 &&
  1000000000 ≤ bfld x 32 8 && bfld x 32 8 ≤ 2 ^ 52 && bfld x 44 4 = 0 &&
  (if shuffle then 2 ≤ bfld x 48 8 && bfld x 48 8 ≤ 2 ^ 40 else bfld x 48 8 = 0)

/-- The content key (R272). -/
def Block.contentKey (b : Block) (x : Bytes) : Bytes :=
  kmac256 (toLe 32 (mlkemDecap (b.material 5) (slice x 64 1568)).toNat)
    (sha384 (slice x 0 56 ++ slice x 64 4160)) 256 "CX.kem"

/-- The first 20 bytes of a digest. -/
def first20 (d : Bytes) : BitVec 160 := BitVec.ofNat 160 (bfld d 0 20)

/-- Issuer digest and licence digest as a record holds them. -/
def issuerOfKey (pk : Bytes) : BitVec 160 := first20 (sha384 pk)
def licenceIssuer (x : Bytes) : BitVec 160 := issuerOfKey (slice x 1632 2592)
def licenceDigest (x : Bytes) : BitVec 160 := first20 (sha384 x)

/-- Meter records: 256 half-sectors (R287). -/
def meterRecords : Nat := 256

/-- The records that hold a licence id, writes on their way included. -/
def Block.recordsOf (b : Block) (licence : Nat) : List (Nat × MeterRecord) :=
  ((List.range meterRecords).map fun k => (k, b.latestRecord k)).filter fun e =>
    e.2.state ≠ .free && e.2.licence.toNat = licence

/-- The revocation list holds a licence (R276). -/
def Block.listed (b : Block) (licence : Nat) (issuer : BitVec 160) : Bool :=
  List.contains b.store.revoked (BitVec.ofNat 32 licence, issuer)

/-- The slot of an installation still holds its content key (R274). -/
def Block.installLive (b : Block) (i : Install) : Bool := (b.slot i.slot).gen = i.gen && !(b.slot i.slot).isEmpty

/-- The licence is installed (R273). -/
def Block.installed (b : Block) (licence : Nat) : Bool :=
  b.installs.any fun e => e.2.licence.toNat = licence && b.installLive e.2

/-- The licence that a relayed write is about. -/
def RelayFor.licence? : RelayFor → Option Nat
  | .install _ _ r _ _ _ _ => some r.licence.toNat
  | .revokeRecord _ _ r => some r.licence.toNat
  | .revokeList _ l _ _ => some l.toNat
  | _ => none

/-- A command that needs a licence's record or entry waits: the meter records have not been read (R290), or another's write
about the licence has not committed (R324, log 124). -/
def Block.licenceBusy (b : Block) (licence : Nat) : Bool :=
  b.boot.storeOk && (!b.boot.metersRead || b.seq.relays.any fun r => r.live && r.what.licence? == some licence)

/-- The record that an installation uses: its own, or the lowest free one. -/
def Block.recordFor (b : Block) (licence : Nat) : Option Nat :=
  match b.recordsOf licence with
  | (k, _) :: _ => some k
  | [] => (List.range meterRecords).find? fun k => (b.latestRecord k).state = .free

/-- The wall time at a tick under the anchor in force; 0 without one (R285). -/
def Block.wallAt (b : Block) (tick : Nat) : Nat :=
  match b.anchor with
  | none => 0
  | some a => ((a.wall : Int) + tick - a.tick).toNat % 2 ^ 64

/-- Marks one step above no consumption (R289). -/
def firstMarks : Counts := { bytes := stepBytes, shards := stepShards, pushes := stepPushes, epochs := stepEpochs }

/-- The record of a licence from what it says: new, or the one it resumes. -/
def Block.installRecord (b : Block) (x : Bytes) (fn k : Nat) : MeterRecord :=
  let old := b.latestRecord k
  let base : MeterRecord :=
    if old.state = .free then
      { licence := BitVec.ofNat 32 (bfld x 4 4), state := .live, issuer := licenceIssuer x
        openEpoch := b.boot.meterEpoch, openTick := b.tick.toNat, openWall := b.wallAt b.tick.toNat
        lifeMarks := firstMarks, openMarks := firstMarks }
    else old
  { base with
    function := fn, maxPeriods := BitVec.ofNat 32 (bfld x 40 4), leaseMs := BitVec.ofNat 32 (bfld x 12 4)
    periodTicks := bfld x 32 8, licenceDigest := licenceDigest x, lastWrite := b.tick.toNat }

/-- ENGINE_MASK of a content key (R274). -/
def licenceMask (x : Bytes) : BitVec 16 :=
  BitVec.ofNat 16 ((if (bfld x 10 1).testBit 0 then 16 else 0) + (if (bfld x 10 1).testBit 1 then 256 * bfld x 11 1 else 0))

/-- The checks of R273 in order; the content key's mask lies within the tenant key's (R97). -/
def Block.installCheck (b : Block) (c : Cmd) (x : Bytes) : Status :=
  let id := bfld x 4 4
  let issuer := licenceIssuer x
  let tkey := dfld c.desc 28 2
  firstBad [require b.boot.storeOk .notReady, require (licenceOk x) .badOperand, require c.verified .badOperand,
    require (!b.listed id issuer &&
      !((b.recordsOf id).any fun e => e.2.issuer = issuer && e.2.state ≠ .live)) .licenseExhausted,
    require ((b.recordsOf id).all fun e => e.2.issuer = issuer) .badOperand,
    require (!b.installed id) .retryLater,
    b.keyCheck tkey c.fn c.ctx none useV,
    require ((b.slot tkey).level = 3) .badOperand,
    require (maskWithin (licenceMask x) (b.slot tkey).mask) .keyEngine,
    require ((aesBlock (roundKeys (le (b.contentKey x))) (List.replicate 16 0)).take 8 = slice x 56 8) .badOperand,
    require (b.takeSlot c.fn).isSome .retryLater,
    require (b.recordFor id).isSome .retryLater]

/-- LICENSE_INSTALL: R271 to R274, R344; the record's write is the commit. -/
def execLicenseInstall (cmd : Nat) (s : State) : Host.Outcome State Fault Refusal :=
  onCommand s cmd 0x0901 fun c b =>
    let x := c.buf
    if b.licenceBusy (bfld x 4 4) then b
    else match b.installCheck c x, b.recordFor (bfld x 4 4) with
    | .ok, some k =>
      let i : Install :=
        { licence := BitVec.ofNat 32 (bfld x 4 4), fn := c.fn, slot := 0, gen := 0, uses := BitVec.ofNat 8 (bfld x 10 1)
          destMask := BitVec.ofNat 8 (bfld x 11 1), allowBytes := bfld x 16 8, allowPushes := bfld x 24 8
          samples := bfld x 48 8 }
      (b.wait cmd).relay
        (.install cmd k (b.installRecord x c.fn k) i (BitVec.ofNat 256 (le (b.contentKey x))) (dfld c.desc 28 2) (licenceMask x))
    | st, _ => b.failKey cmd (dfld c.desc 28 2) st

/-- The record of an installation is written: its counts run, and the content key takes a slot (R274). -/
def Block.installDone (b : Block) (cmd k : Nat) (i : Install) (key : BitVec 256) (parent : Nat) (mask : BitVec 16) : Block :=
  let b := if Tab.has b.meters k then b else { b with meters := b.meters.put k {} }
  match b.cmd? cmd with
  | none => b
  | some c =>
    match b.keyCheck parent c.fn c.ctx none useV with
    | .ok =>
      let key : NewKey :=
        { mat := toLe 32 key.toNat, mask := mask, usage := useD, level := 4, typ := 1, fnWide := true, fn := c.fn
          ctx := c.ctx, parent := parent }
      match b.slotFor key with
      | none => b.fail cmd .retryLater
      | some (n, b) =>
        let b := b.place n key false 0 true
        ({ b with installs := b.installs.put k { i with slot := n, gen := (b.slot n).gen } }).succeed cmd n k
    | st => b.failKey cmd parent st

/-! ## Revocation (R275, R276) -/

def revocationOk (x : Bytes) : Bool := x.length = 7283 && bfld x 0 4 = 0x56525843 && allZero (slice x 56 8)

/-- The checks of R275. -/
def Block.revokeCheck (b : Block) (c : Cmd) (x : Bytes) : Status :=
  let issuer := issuerOfKey (slice x 64 2592)
  firstBad [require b.boot.storeOk .notReady, require (revocationOk x && c.verified) .badOperand,
    require ((b.recordsOf (bfld x 4 4)).all fun e => e.2.issuer = issuer) .badOperand]

/-- LICENSE_REVOKE: R275, R276, R288, R344; writes of the revocation list follow one another. -/
def execLicenseRevoke (cmd : Nat) (s : State) : Host.Outcome State Fault Refusal :=
  onCommand s cmd 0x0902 fun c b =>
    let x := c.buf
    let id := bfld x 4 4
    let issuer := issuerOfKey (slice x 64 2592)
    if b.licenceBusy id then b
    else match b.revokeCheck c x with
    | .ok =>
      match b.recordsOf id with
      | (k, r) :: _ =>
        if r.state = .revoked then b.succeed cmd 0 0
        else (b.wait cmd).relay (.revokeRecord cmd k { r with state := .revoked, lastWrite := b.tick.toNat })
      | [] =>
        if b.listed id issuer then b.succeed cmd 0 0
        else if b.listBusy then b
        else if listEntries ≤ b.store.revoked.length then b.fail cmd .retryLater
        else (b.wait cmd).relayList (some cmd) (BitVec.ofNat 32 id) issuer none
    | st => b.fail cmd st

/-- A licence ends: the content key of its installation is invalidated (R276, R284). -/
def Block.endLicence (b : Block) (k : Nat) : Block :=
  match b.installs.get? k with
  | none => b
  | some i =>
    let b := { b with installs := Tab.del b.installs k }
    if b.installLive i then b.invalidate i.slot none else b

/-! ## Leases (R280) -/

/-- The lease of a pushed key has run out: LEASE_MS have passed since its load (R280). -/
def ExportEntry.lapsed (e : ExportEntry) (now : Nat) : Bool := e.lease.isSome && e.loaded.toNat + e.leaseMs * 1000000 ≤ now

/-- LEASE_EXPIRY: R280. -/
def execLeaseExpiry (dest : Nat) (dslot : Nat) (s : State) : Host.Outcome State Fault Refusal :=
  onBlock s fun b =>
    match b.keys.exports.get? (256 * dest + dslot) with
    | some e =>
      if e.lapsed b.tick.toNat then
        ({ b with keys := { b.keys with exports := Tab.del b.keys.exports (256 * dest + dslot) } } : Block).kxpDrop dest dslot e.chain
      else b
    | none => b

/-! ## Billing periods (R284) -/

/-- The open period of a record closes and the next one opens; the last one permitted ends the licence. -/
def MeterRecord.turn (r : MeterRecord) (closed : Counts) (closeTick closeWall openTick openWall : Nat) (epoch : BitVec 32)
    (now : Nat) : MeterRecord :=
  { r with
    state := if 0 < r.maxPeriods.toNat && r.maxPeriods.toNat ≤ r.openNumber + 1 then .ended else r.state
    openNumber := r.openNumber + 1
    closedEpoch := r.openEpoch, closedOpenTick := r.openTick, closedOpenWall := r.openWall
    closedCloseTick := closeTick, closedCloseWall := closeWall, closedCounts := closed
    openEpoch := epoch, openTick := openTick, openWall := openWall, openMarks := firstMarks, lastWrite := now }

/-- Writes the turned record and starts the new period's counts. -/
def Block.turnPeriod (b : Block) (k closeTick closeWall openTick openWall : Nat) : Block :=
  let r := (b.raisedRecord k).turn (b.meters.getD k {}).period closeTick closeWall openTick openWall b.boot.meterEpoch b.tick.toNat
  let b := ({ b with meters := b.meters.mod k {} fun m => { m with period := {} } }).relay (.meter k r)
  if r.state = .ended then b.endLicence k else b

/-- A record has an open period: it has not ended; a revoked one's periods go on (R276, R284). -/
def MeterRecord.hasOpen (r : MeterRecord) : Bool := r.state = .live || r.state = .revoked

/-- PERIOD_BOUNDARY: R284, R285, R289: PERIOD_TICKS have passed since the period opened. -/
def execPeriodBoundary (record : Nat) (s : State) : Host.Outcome State Fault Refusal :=
  onBlock s fun b =>
    let r := b.latestRecord record
    let t := r.openTick + r.periodTicks
    if r.hasOpen && b.boot.storeOk && Tab.has b.meters record && t ≤ b.tick.toNat then
      b.turnPeriod record t (b.wallAt t) t (b.wallAt t)
    else b

/-- Records with an open period whose counts run. -/
def Block.openRecords (b : Block) : List Nat := (Tab.keys b.meters).filter fun k => (b.latestRecord k).hasOpen

/-- Every open period closes at its record's last write, whose wall time is given, and the next one opens at the start of the
meter epoch, without an anchor (R284, R285). -/
def Block.turnPeriods (b : Block) (wall : Nat → Nat) : List Nat → Block
  | [] => b
  | k :: r =>
    let t := (b.latestRecord k).lastWrite
    (b.turnPeriod k t (wall t) b.boot.epochTick.toNat 0).turnPeriods wall r

/-- A new meter epoch within the boot: the boot record, and the open periods (R284). -/
def Block.newEpoch (b : Block) : Block :=
  let b := { b with boot := { b.boot with meterEpoch := b.boot.meterEpoch + 1, epochTick := b.tick } }
  if !b.boot.storeOk then { b with anchor := none }
  else
    let b := b.relay (.boot { running := true, meterEpoch := b.boot.meterEpoch, tick := b.tick })
    { b.turnPeriods b.wallAt b.openRecords with anchor := none }

/-- One rising edge of `tref_clk`: the domain tick advances by 9 ns to 11 ns while it is valid, and `dtick_step` is low
again; a tick that was invalid for one edge is valid again, which starts a new meter epoch (R26, R60, R284, R426, log 10). -/
def idleEdge (s : State) : Host.Outcome State Fault Refusal :=
  onBlock s fun b =>
    if b.stopped.contains .tref then b
    else if b.time.valid then
      { b with
        time :=
          { b.time with tick := b.time.tick + 9 + BitVec.ofNat 64 (Config.tickJitter b.fresh % 3)
                        step := false }
        fresh := b.fresh + 1 }
    else if b.time.dropped then ({ b with time := { b.time with valid := true, dropped := false } }).newEpoch
    else b

/-! ## The anchor (R285, R286) -/

/-- A clock regression is stored in a meter record (R286). -/
def Block.noteRegression (b : Block) (tick old new : Nat) : List Nat → Block
  | [] => b
  | k :: r =>
    (b.relay (.meter k
      { b.latestRecord k with regressed := true, regEpoch := b.boot.meterEpoch, regTick := tick, regOldWall := old
                              regNewWall := new, lastWrite := b.tick.toNat })).noteRegression tick old new r

/-- Functions of live installations. -/
def Block.licensees (b : Block) : List Nat :=
  ((Tab.vals b.installs).filterMap fun i => if b.installLive i && i.fn ≠ 0 then some i.fn else none).eraseDups

/-- TIME_ANCHOR: R285, R286, R344; one that records a regression waits for the meter records (R290). -/
def execTimeAnchor (cmd : Nat) (s : State) : Host.Outcome State Fault Refusal :=
  onCommand s cmd 0x0905 fun c b =>
    let tick := dfld c.desc 16 8
    let wall := dfld c.desc 24 8
    let old := b.wallAt tick
    let back := b.anchor.isSome && wall + 1000 < old
    if back && b.boot.storeOk && !b.boot.metersRead then b
    else
    let b := { b with anchor := some { tick := tick, wall := wall } }
    let b :=
      if back then
        let b := b.raise { code := 0x32, blockwide := true, data := [(0, tick), (8, old - wall)] } (0 :: b.licensees)
        if b.boot.storeOk then b.noteRegression tick old wall (Tab.keys b.meters) else b
      else b
    b.succeed cmd 0 0

/-! ## Usage reports (R291) -/

/-- Lease ticks of a number of pushes (R280, R287). -/
def leaseTicks (r : MeterRecord) (pushes : Nat) : Nat := min (pushes * r.leaseMs.toNat * 1000000) (2 ^ 64 - 1)

/-- Four counts as a report carries them: bytes, shards, pushes, lease ticks. -/
def countBytes (r : MeterRecord) (c : Counts) : Bytes :=
  toLe 8 c.bytes ++ toLe 8 c.shards ++ toLe 8 c.pushes ++ toLe 8 (leaseTicks r c.pushes)

/-- Bytes 0 to 255 of a report. -/
def Block.usageHead (b : Block) (r : MeterRecord) (m : Meter) (closed : Bool) (nonce : Bytes) : Bytes :=
  let period := if closed then r.closedCounts else m.period
  let now := b.tick.toNat
  let flags := bit r.regressed + 2 * bit r.unwarned + 4 * bit (!closed) + 8 * bit (r.state = .revoked) +
    16 * bit (r.state = .ended) + 32 * bit b.anchor.isNone
  toLe 4 0x524D5843 ++ toLe 2 1 ++ toLe 2 flags ++ toLe 4 r.licence.toNat ++ toLe 2 b.boot.blockId.toNat ++ toLe 1 r.function ++ [0] ++
  toLe 4 (if closed then r.closedEpoch else r.openEpoch).toNat ++ toLe 4 r.regEpoch.toNat ++
  toLe 8 (if closed then r.openNumber - 1 else r.openNumber) ++
  toLe 8 (if closed then r.closedOpenTick else r.openTick) ++ toLe 8 (if closed then r.closedCloseTick else 0) ++
  toLe 8 (if closed then r.closedOpenWall else r.openWall) ++ toLe 8 (if closed then r.closedCloseWall else 0) ++
  toLe 8 now ++ toLe 8 (b.wallAt now) ++ toLe 8 r.regTick ++ toLe 8 r.regOldWall ++ toLe 8 r.regNewWall ++
  countBytes r period ++ toLe 8 period.epochs ++ countBytes r m.life ++ toLe 8 m.life.epochs ++ toLe 8 0 ++ nonce ++
  toLe 20 r.licenceDigest.toNat ++ toLe 12 0

/-- A usage report with its signatures. -/
def Block.usageReport (b : Block) (head : Bytes) : Bytes := head ++ b.signPq 3 head ++ b.signEc 4 head

/-- The record that a report may be asked of. -/
def Block.reportable (b : Block) (c : Cmd) : Option (Nat × MeterRecord) :=
  (b.recordsOf (dfld c.desc 16 4)).find? fun e => (c.fn = 0 || e.2.function = c.fn) && Tab.has b.meters e.1

/-- METER_REPORT: R291, R344, R387. -/
def execMeterReport (cmd : Nat) (s : State) : Host.Outcome State Fault Refusal :=
  onCommand s cmd 0x0903 fun c b =>
    let closed := dfld c.desc 20 1 = 1
    if b.licenceBusy (dfld c.desc 16 4) then b
    else match b.reportable c with
    | none => b.fail cmd (if b.boot.storeOk then .badOperand else .notReady)
    | some (k, r) =>
      if 1 < dfld c.desc 20 1 || (closed && r.openNumber = 0) || (!closed && r.state = .ended) then b.fail cmd .badOperand
      else if b.boot.entropyDown then b.fail cmd .notReady
      else
        let x := b.usageReport (b.usageHead r (b.meters.getD k {}) closed (dbytes c.desc 32 32))
        (b.freshen.wait cmd).hostWrite c.fn (dfld c.desc 24 8) x (.meter cmd k r (BitVec.ofNat 64 x.length))

/-- The period that a report was of is the last one of a record that is revoked or ended. -/
def MeterRecord.lastReported (r : MeterRecord) (closed : Bool) : Bool :=
  (r.state = .revoked && !closed) || (r.state = .ended && closed)

/-- The record tells of the same clock regression as another. -/
def MeterRecord.sameRegression (r q : MeterRecord) : Bool :=
  r.regEpoch = q.regEpoch && r.regTick = q.regTick && r.regOldWall = q.regOldWall && r.regNewWall = q.regNewWall

/-- The pending flags that a report of record `q` has carried are cleared; what has come about since stays (R286, R291). -/
def MeterRecord.cleared (r q : MeterRecord) : MeterRecord :=
  { r with regressed := r.regressed && !(q.regressed && r.sameRegression q), unwarned := r.unwarned && !q.unwarned }

/-- A usage report of record `q` has been written: the flags that it carried are cleared, and a record whose last period it
was goes to the revocation list and is freed, unless the list is full (R291). -/
def Block.reported (b : Block) (cmd k : Nat) (q : MeterRecord) (res0 : BitVec 64) (err : Bool) : Block :=
  match b.cmd? cmd with
  | none => b
  | some c =>
    if err then b.complete cmd .translationFault res0 0 false
    else
      let r := b.latestRecord k
      let b :=
        if r.licence ≠ q.licence ∨ r.issuer ≠ q.issuer ∨ !Tab.has b.meters k then b
        else
          let b :=
            if r.cleared q = r then b
            else b.relay (.meter k { r.cleared q with lastWrite := b.tick.toNat })
          if q.lastReported (dfld c.desc 20 1 = 1) && r.openNumber = q.openNumber then
            ({ b with meters := b.meters.mod k {} fun m => { m with ended := true } } : Block).listNext
          else b
      b.complete cmd .ok res0 0 true

end Sys2Proof.Machine
end

