-- ==== Sys2Proof/Machine/Jobs.lean ====
section
/-! DEFINITION. Contexts, jobs and their keys, kills, and the quiesce, resume and reset of a function (R64, R180, R183,
R304, R314, R315, R333 to R338, R411, R412, R476). -/

namespace Sys2Proof.Machine

open Sys2Proof Sys2Proof.Machine.Crypto

/-! ## Contexts -/

/-- CTX_OPEN: R304, R333. -/
def execCtxOpen (cmd : Nat) (s : State) : Host.Outcome State Fault Refusal :=
  onCommand s cmd 0x0301 fun c b =>
    if 4096 ≤ b.ctxs.length then b.fail cmd .retryLater
    else
      match b.ctxFree.take 0x10000 with
      | none => b.fail cmd .retryLater
      | some (n, free) => ({ b with ctxFree := free, ctxs := b.ctxs.put n { fn := c.fn } }).succeed cmd n 0

/-- The jobs that a context has joined. -/
def Block.jobsOf (b : Block) (ctx : Nat) : List Nat := ((b.ctxs.get? ctx).map fun c => c.jobs).getD []

/-- A reduction or DMA descriptor uses a context (R334). -/
def Block.ctxBusy (b : Block) (ctx : Nat) : Bool :=
  (b.reductions.any fun k => k.2.ctx.toNat = ctx) || b.seq.dma.any fun d => d.2.ctx.toNat = ctx

/-- CTX_CLOSE: R334. -/
def execCtxClose (cmd : Nat) (s : State) : Host.Outcome State Fault Refusal :=
  onCommand s cmd 0x0302 fun c b =>
    if !(b.jobsOf c.ctx).isEmpty then b.fail cmd .badOperand
    else if (b.seq.cmds.any fun e => e.1 ≠ cmd && e.2.ctx = c.ctx) || b.ctxBusy c.ctx then b.fail cmd .retryLater
    else (b.closeCtx c.ctx).succeed cmd 0 0

/-- CTX_KILL: R209, R318, R333, R334, R476. -/
def execCtxKill (cmd : Nat) (acc : Access) (s : State) : Host.Outcome State Fault Refusal :=
  onCommandMem s cmd 0x0303 fun c w =>
    let target := dfld c.desc 16 2
    let tear := (dfld c.desc 18 1).testBit 0
    match w.blk.ctxFn target with
    | none => w.on fun b => b.fail cmd .badOperand
    | some f =>
      if c.fn ≠ 0 && (tear || f ≠ c.fn) then w.on fun b => b.fail cmd .badOperand
      else
        let w := w.on fun b => b.killCtx target 2 0 (some cmd)
        let w := if tear then w.tearJobs acc openDead (w.blk.jobsOf target) else w
        w.on fun b => b.cleanCtx target

/-- A kill notice takes effect, or is ignored and recorded (R64). -/
def Block.killNotice (b : Block) (ctx cause : Nat) : Block :=
  if (b.ctxFn ctx).isNone then b.raisePf 0x38 0x74 [(0, ctx)] else b.kill ctx 1 cause none

/-- CTX_KILL_NOTICE: R64, R476. The block takes up to 16 notices while its sequencer is in reset. -/
def execCtxKillNotice (ctx : BitVec 16) (cause : BitVec 4) (s : State) : Host.Outcome State Fault Refusal :=
  onBlock s fun b =>
    if b.pins.blockSafe then b
    else if !b.boot.seqReset then b.killNotice ctx.toNat cause.toNat
    else if b.seq.kills.length < 16 then { b with seq := { b.seq with kills := b.seq.kills ++ [(ctx, cause)] } }
    else b

/-! ## Joining and leaving jobs -/

/-- The slot still holds the job's key (R336). -/
def Block.jobKeyLive (b : Block) (j : Job) : Bool := (b.slot j.slot).gen = j.gen && !(b.slot j.slot).isEmpty

/-- Whether a region can be the state region of a job (R183). -/
def Block.stateRegionOk (b : Block) (c : Cmd) (job r : Nat) (j : Job) : Bool :=
  let e := b.region r
  e.bound && e.mode = .sealed && (b.build.regionTier r).any (fun t => !t.one) && e.ownerFn.toNat = c.fn &&
  (b.jobAsker job j r false).isSome && !(b.jobs.any fun k => k.1 ≠ job && k.2.stateRegion = some r) &&
  (j.stateRegion.isNone || j.stateRegion = some r)

/-- Jobs that contexts have joined. -/
def Block.joinedJobs (b : Block) : Nat := (b.jobs.filter fun j => j.2.stateRegion.isSome).length

/-- JOB_JOIN: R183, R337. -/
def execJobJoin (cmd : Nat) (s : State) : Host.Outcome State Fault Refusal :=
  onCommand s cmd 0x0401 fun c b =>
    let id := dfld c.desc 16 2
    let r := dfld c.desc 18 2
    match (b.jobs.get? id).filter fun j => j.fn = c.fn && b.jobKeyLive j && !j.torn with
    | none => b.fail cmd .badOperand
    | some j =>
      if List.contains (b.jobsOf c.ctx) id || !b.stateRegionOk c id r j then b.fail cmd .badOperand
      else if j.stateRegion.isNone && 256 ≤ b.joinedJobs then b.fail cmd .retryLater
      else
        ({ b with jobs := b.jobs.put id { j with stateRegion := some r }
                  ctxs := b.ctxs.upd c.ctx fun x => { x with jobs := x.jobs ++ [id] } }).succeed cmd 0 0

/-- JOB_LEAVE: R338. -/
def execJobLeave (cmd : Nat) (s : State) : Host.Outcome State Fault Refusal :=
  onCommand s cmd 0x0402 fun c b =>
    let id := dfld c.desc 16 2
    if !List.contains (b.jobsOf c.ctx) id then b.fail cmd .badOperand
    else if b.reductions.any fun k => k.2.ctx.toNat = c.ctx && k.2.job.toNat = id then b.fail cmd .retryLater
    else (b.leaveJob c.ctx id).succeed cmd 0 0

/-! ## Job keys -/

/-- Members of a bundle: block id and go region (R411). -/
def bundleMembers (x : Bytes) : List (Nat × Nat) :=
  (List.range (bfld x 16 2)).map fun i => (bfld x (1664 + 4 * i) 2, bfld x (1666 + 4 * i) 2)

/-- A bundle meets R411 and R412 for a job of this block. -/
def Block.bundleOk (b : Block) (x : Bytes) (job : Nat) : Bool :=
  let n := bfld x 16 2
  let ids := (bundleMembers x).map fun m => m.1
  2 ≤ n && n ≤ 4096 && x.length = 1664 + 4 * n && bfld x 0 4 = 0x424A5843 && bfld x 4 2 = 1 && bfld x 6 2 = job &&
  (b.domain.manifest.any fun m => m.id.toNat = bfld x 8 8) && allZero (slice x 18 14) && allZero (slice x 1640 24) &&
  ((bundleMembers x).all fun m => m.1 < 4096 && m.2 < 2 ^ 14) && ids.eraseDups.length = n && List.contains ids b.self

/-- KEK of a bundle (R412). -/
def Block.bundleKek (b : Block) (x : Bytes) : Nat :=
  let ss := mlkemDecap (b.material 5) (slice x 32 1568)
  le (kmac256 (toLe 32 ss.toNat) (sha384 (slice x 0 32 ++ x.drop 1664)) 256 "CX.kem")

/-- The 32-byte job key of a bundle. -/
def Block.bundleKey (b : Block) (x : Bytes) : Option Bytes :=
  (kwpUnwrap (b.bundleKek x) (slice x 1600 40)).filter fun k => k.length = 32

/-- A job whose key is gone and that no context has joined any more is no longer held. -/
def Block.heldJob (b : Block) (id : Nat) : Option Job :=
  (b.jobs.get? id).filter fun j => b.jobKeyLive j || !(b.joined id j).isEmpty

/-- The checks of JOB_KEYS on its operands and on PARENT (R335, R336). -/
def Block.jobKeysCheck (b : Block) (c : Cmd) (held : Option Job) : Status :=
  let bundle := dfld c.desc 24 8 ≠ 0
  let parent := dfld c.desc 18 2
  firstBad [require (dfld c.desc 16 2 ≠ 0 && (bundle || dfld c.desc 32 4 = 0)) .badOperand,
    require (held.all fun j => j.fn = c.fn) .badOperand,
    require (bundle = held.isNone) .badOperand,
    require (held.all fun j => b.jobKeyLive j && j.epoch.toNat < dfld c.desc 20 4) .badOperand,
    b.keyCheck parent c.fn c.ctx none useV,
    require ((b.slot parent).level = 3) .badOperand]

/-- A new epoch starts (R180). -/
def Block.startEpoch (b : Block) (cmd : Nat) (c : Cmd) (id : Nat) (j : Job) : Block :=
  let b := { b with jobs := b.jobs.put id { j with epoch := BitVec.ofNat 32 (dfld c.desc 20 4), prev := some j.epoch } }
  b.succeed cmd j.slot j.members.length

/-- The job key of a bundle takes its slot, and the issuing function holds the job (R336). -/
def Block.installJob (b : Block) (cmd : Nat) (c : Cmd) (id : Nat) (key : Bytes) : Block :=
  let parent := dfld c.desc 18 2
  let mask := (b.slot parent).mask &&& 0x1F
  if !mask.toNat.testBit 2 then b.fail cmd .keyEngine
  else
    let k : NewKey :=
      { mat := key, mask := mask, usage := useV, level := 4, typ := 1, fnWide := true, fn := c.fn, ctx := 0, parent := parent }
    match b.slotFor k with
    | none => b.fail cmd .retryLater
    | some (n, b) =>
      let b := b.place n k false 0 true
      let members := (bundleMembers c.buf).map fun m => (BitVec.ofNat 12 m.1, BitVec.ofNat 14 m.2)
      let j : Job :=
        { fn := c.fn, slot := n, gen := (b.slot n).gen, epoch := BitVec.ofNat 32 (dfld c.desc 20 4), prev := none
          members := members }
      ({ b with jobs := b.jobs.put id j }).succeed cmd n members.length

/-- JOB_KEYS: R180, R335, R336, R411, R412. -/
def execJobKeys (cmd : Nat) (s : State) : Host.Outcome State Fault Refusal :=
  onCommand s cmd 0x0403 fun c b =>
    let id := dfld c.desc 16 2
    let held := b.heldJob id
    match b.jobKeysCheck c held with
    | .ok =>
      match held with
      | some j => b.startEpoch cmd c id j
      | none =>
        if b.domain.state ≠ .member then b.fail cmd .notReady
        else if !b.bundleOk c.buf id then b.fail cmd .badOperand
        else
          match b.bundleKey c.buf with
          | none => b.fail cmd .badOperand
          | some key => b.installJob cmd c id key
    | st => b.failKey cmd (dfld c.desc 18 2) st

/-! ## Functions -/

/-- FN of a maintenance command: a VF. -/
def Cmd.vf (c : Cmd) : Nat := dfld c.desc 16 1

/-- FUNCTION_QUIESCE, OP 0: R314. -/
def execFunctionQuiesce (cmd : Nat) (s : State) : Host.Outcome State Fault Refusal :=
  onCommand s cmd 0x0C03 fun c b =>
    let p := b.fn c.vf
    let d := dfld c.desc 18 2
    if c.vf = 0 || 1 < dfld c.desc 17 1 || p.quiescing.isSome then b.fail cmd .badOperand
    else if dfld c.desc 17 1 = 1 then b
    else if d < 1 || 1000 < d || p.quiesced then b.fail cmd .badOperand
    else (b.modFn c.vf fun p => { p with quiescing := some cmd }).wait cmd

/-- FUNCTION_QUIESCE, OP 1: R314. -/
def execFunctionResume (cmd : Nat) (s : State) : Host.Outcome State Fault Refusal :=
  onCommand s cmd 0x0C03 fun c b =>
    let p := b.fn c.vf
    if dfld c.desc 17 1 ≠ 1 then b
    else if c.vf = 0 || p.quiescing.isSome || !p.quiesced then b.fail cmd .badOperand
    else (b.modFn c.vf fun p => { p with quiesced := false }).succeed cmd 0 0

/-- A command that a quiesce ends at its deadline: one that waits on a fence, a window or a sealed DMA unit, or that has
not begun (R314). -/
def Cmd.endsAtDeadline (c : Cmd) : Bool :=
  c.stage ≠ .waiting || List.contains [0x0A02, 0x0602, 0x0603, 0x0701, 0x0702, 0x0802, 0x0904] c.opcode

/-- Steps 3 to 5 of a quiesce; step 5 comes when the last descriptor's writes have been answered (R314, R359). -/
def Block.quiesceEnds (b : Block) (f id : Nat) : Block :=
  let b := b.endReductions .quiesced fun k => k.fn = f && !(k.expWait.isEmpty && k.sumWait.isEmpty)
  let b := b.failCmds .quiesced fun _ c => c.fn = f && c.endsAtDeadline
  if b.seq.dma.any fun d => d.2.fn = f then b
  else ((b.ashFlush f).modFn f fun p => { p with quiesced := true, quiescing := none }).succeed id 0 0

/-- QUIESCE_DEADLINE: R314; it occurs again while step 3 is not over. -/
def execQuiesceDeadline (fn : Nat) (s : State) : Host.Outcome State Fault Refusal :=
  onBlock s fun b =>
    match (b.fn fn).quiescing with
    | some id => b.quiesceEnds fn id
    | none => b

/-- Contexts of a function. -/
def Block.ctxsOf (b : Block) (f : Nat) : List Nat := Tab.keys (α := Ctx) (b.ctxs.filter fun c => c.2.fn = f)

/-- Slots that a function owns. -/
def Block.slotsOf (b : Block) (f : Nat) : List Nat :=
  Tab.keys (α := KeySlot) (b.keys.slots.filter fun e => 64 ≤ e.1 && !e.2.isEmpty && e.2.ownerFn.toNat = f)

/-- Regions that a function owns, companions apart. -/
def Block.regionsOf (b : Block) (f : Nat) : List Nat :=
  Tab.keys (α := RegionEntry) (b.regions.table.filter fun e => e.2.mode ≠ .companion && e.2.ownerFn.toNat = f)

/-- Programs of a function go, and every binding and frame of them (R265, R315). -/
def Block.unloadPrograms (b : Block) (hs : List Nat) : Block :=
  { b with
    programs := b.programs.filter fun p : Nat × Program => !List.contains hs p.1
    frames := b.frames.map fun e : Nat × List Nat => (e.1, e.2.filter fun h => !List.contains hs h)
    ctxs := b.ctxs.map fun e : Nat × Ctx => (e.1, { e.2 with progs := e.2.progs.filter fun h => !List.contains hs h }) }

/-- A host write that belongs to a function's queues or streams; a piece belongs to its group. -/
def Block.writeOfFn (b : Block) (f : Nat) : WriteFor → Bool
  | .record q => (b.qp q).fn = f
  | .fault g => g = f
  | .ash g => g = f
  | .block id _ _ _ => (b.cmd? id).all fun c => c.fn = f
  | .meter id _ _ _ => (b.cmd? id).all fun c => c.fn = f
  | .dma d => (b.seq.dma.get? d).all fun x => x.fn = f
  | .part _ => false
  | .void => false

/-- A host read that belongs to a function's queues. -/
def Block.readOfFn (b : Block) (f : Nat) : ReadFor → Bool
  | .queueEntry g _ => g = f
  | .buffer id => (b.cmd? id).all fun c => c.fn = f
  | .part _ _ => false
  | .void => false

/-- A host access of a function. -/
def HostAccess.ofFn (f : Nat) : HostAccess → Bool
  | .read fn _ _ _ => fn = f
  | .write fn _ _ _ => fn = f

/-- Nothing waits for the answers of a function's host accesses any more; what has not gone out does not (R315). -/
def Block.voidHost (b : Block) (f : Nat) : Block :=
  { b with seq := { b.seq with
    writes := b.seq.writes.map fun e => if b.writeOfFn f e.2 then (e.1, .void) else e
    reads := b.seq.reads.map fun e => if b.readOfFn f e.2 then (e.1, .void) else e
    hostWait := b.seq.hostWait.filter fun a => !a.ofFn f
    groups := b.seq.groups.filter fun g => !(g.2.write.any (b.writeOfFn f) || g.2.read.any (b.readOfFn f)) } }

/-- The queue pairs of a function are disabled without records, and its commands leave the table (R315). -/
def Block.dropQueues (b : Block) (f : Nat) : Block :=
  let b := b.voidHost f
  { b with
    qps := b.qps.filter fun e : Nat × QueuePair => e.2.fn ≠ f
    seq := { b.seq with cmds := b.seq.cmds.filter fun e : Nat × Cmd => e.2.fn ≠ f } }

/-- The page registers that a function reset clears; a page operation in flight ends first and is discarded (R315,
R380). -/
def FnPage.cleared (p : FnPage) : FnPage :=
  { p with
    upPost := false, downPost := false, upVec := 0, downVec := 0, mboxUp := [], mboxDown := []
    faultq := {}, ash := {}, faults := [], runs := [], leaves := { next := 0 }
    qpCtlBusy := false
    cipher := if p.cipher.running.isSome then { p.cipher with discard := true } else {} }

/-- FUNCTION_RESET: R315. -/
def execFunctionReset (cmd : Nat) (s : State) : Host.Outcome State Fault Refusal :=
  onCommandMem s cmd 0x0C04 fun c w =>
    let f := c.vf
    if f = 0 || !(w.blk.fn f).quiesced || (w.blk.fn f).resetting then w.on fun b => b.fail cmd .badOperand
    else
      let jobs := (((w.blk.ctxsOf f).map w.blk.jobsOf).flatten).eraseDups
      let w := w.on fun b => (b.wait cmd).modFn f fun p => { p with resetting := true }
      (w.tearJobs {} openDead jobs).on fun b =>
        let rs := b.regionsOf f
        let b := (b.invalidateAll (b.slotsOf f)).unbindAll rs
        let b := { b with installs := b.installs.filter fun e : Nat × Install => e.2.fn ≠ f }
        let b := b.unloadPrograms (Tab.keys (α := Program) (b.programs.filter fun p => p.2.fn = f))
        let b := (b.ctxsOf f).foldl Block.cleanCtx b
        let b := { b with jobs := b.jobs.filter fun e : Nat × Job => e.2.fn ≠ f }
        let b := (b.dropQueues f).modFn f FnPage.cleared
        (b.modFn f fun p => { p with resetWait := some (cmd, b.keys.invSeq, rs) }).settleResets

/-- FUNCTION_BOUND_MISSED: a quiesce or reset that has not finished takes the whole-block rung (R475). -/
def execFunctionBoundMissed (fn : Nat) (s : State) : Host.Outcome State Fault Refusal :=
  onBlock s fun b =>
    if (b.fn fn).quiescing.isSome || (b.fn fn).resetting then b.blockReset .missedBound 0x74 else b

end Sys2Proof.Machine
end

