-- ==== Sys2Proof/Machine/Programs.lean ====
section
/-! DEFINITION. The program store: PROG_LOAD, PROG_BIND, PROG_UNLOAD (R10, R253, R259 to R269, R339). -/

namespace Sys2Proof.Machine

open Sys2Proof Sys2Proof.Machine.Crypto

/-- The formats with a scaled stream (R262, R216). -/
def scaleFmt (f : Nat) : Bool := 5 ≤ f && f ≤ 0xB

/-- A format byte of an image or a descriptor is allowed (R262). -/
def fmtByteOk (x : Nat) : Bool := x < 32 && x % 16 ≤ 0xB && (x < 16 || scaleFmt (x % 16))

/-- The instruction words of an image. -/
def imageText (img : Bytes) : List (BitVec 32) :=
  (List.range (bfld img 12 2)).map fun i => BitVec.ofNat 32 (bfld img (32 + 8 * bfld img 11 1 + 4 * i) 4)

/-- The constants of an image. -/
def imageConsts (img : Bytes) : List (BitVec 64) :=
  (List.range (bfld img 11 1)).map fun i => BitVec.ofNat 64 (bfld img (32 + 8 * i) 8)

/-- The header of an image, after its length (R262, R10). -/
def imageHeaderOk (img : Bytes) : Bool :=
  bfld img 0 4 = 0x504C5843 && 1 ≤ bfld img 4 1 && bfld img 4 1 ≤ 3 && bfld img 5 1 < 2 && bfld img 6 1 ≤ 4 &&
  (if bfld img 5 1 = 0 then bfld img 7 1 = 1 && bfld img 8 1 = 0
   else 1 ≤ bfld img 7 1 && bfld img 7 1 ≤ 8 && 1 ≤ bfld img 8 1 && bfld img 8 1 ≤ 8) &&
  fmtByteOk (bfld img 9 1) && fmtByteOk (bfld img 10 1) && bfld img 11 1 ≤ 64 &&
  1 ≤ bfld img 12 2 && bfld img 12 2 ≤ 1024 && allZero (slice img 14 18)

/-- What END must find (R259); a kiln program whose output line holds more elements than its input line has no count
that fits. -/
def imageGoal (img : Bytes) : Option Goal :=
  let i := bfld img 9 1 % 16
  let o := bfld img 10 1 % 16
  if bfld img 5 1 = 1 then some { inFmt := i, ins := bfld img 7 1, emits := bfld img 8 1 }
  else if epl i % epl o = 0 && epl o ≤ epl i then some { inFmt := i, ins := 1, emits := epl i / epl o }
  else none

/-- The budget of a rate class (R261). -/
def rateBudget (k : Nat) : Nat := 4 * 2 ^ k

/-- W of an image (R260). -/
def imageCost (img : Bytes) : Nat := worst ((imageText img).map Ins.ofWord) 5 0 (bfld img 12 2)

/-- Every check of R263 on an image. -/
def imageOk (img : Bytes) : Bool :=
  32 ≤ img.length && img.length = 32 + 8 * bfld img 11 1 + 4 * bfld img 12 2 && imageHeaderOk img &&
  ((imageText img).all fun w => (Ins.ofWord w).wellFormed (bfld img 11 1)) &&
  ((imageGoal img).any fun g => structureOk ((imageText img).map Ins.ofWord) g) &&
  imageCost img ≤ rateBudget (bfld img 6 1) * bfld img 7 1

/-- The program of an image (R262, R269). -/
def imageProgram (fn : Nat) (img : Bytes) : Program :=
  { fn := fn, target := bfld img 5 1, rate := bfld img 6 1, inl := bfld img 7 1, outl := bfld img 8 1
    inFmt := bfld img 9 1 % 16, inScaled := 16 ≤ bfld img 9 1, outFmt := bfld img 10 1 % 16
    outScaled := 16 ≤ bfld img 10 1, consts := imageConsts img, text := imageText img
    digest := BitVec.ofNat 384 (be (sha384 img)), worst := imageCost img }

/-- PROG_LOAD: R263, R269, R339. -/
def execProgLoad (cmd : Nat) (s : State) : Host.Outcome State Fault Refusal :=
  onCommand s cmd 0x0501 fun c b =>
    if !imageOk c.buf then b.fail cmd .badOperand
    else
      match Tab.lowest b.programs 64 with
      | none => b.fail cmd .retryLater
      | some h =>
        let p := imageProgram c.fn c.buf
        ({ b with programs := b.programs.put h p }).succeed cmd (h + 2 ^ 16 * p.worst) (le ((toBe 48 p.digest.toNat).take 8))

/-- A handle names a program of the function (R79, R264). -/
def Block.ownsProgram (b : Block) (fn h : Nat) : Bool := h < 64 && (b.programs.get? h).any fun p => p.fn = fn

/-- PROG_BIND: R265. -/
def execProgBind (cmd : Nat) (s : State) : Host.Outcome State Fault Refusal :=
  onCommand s cmd 0x0502 fun c b =>
    let h := dfld c.desc 16 2
    let bound := ((b.ctxs.get? c.ctx).map fun x => x.progs).getD []
    if !b.ownsProgram c.fn h then b.fail cmd .badOperand
    else if List.contains bound h then b.succeed cmd 0 0
    else if 16 ≤ bound.length then b.fail cmd .retryLater
    else ({ b with ctxs := b.ctxs.upd c.ctx fun x => { x with progs := x.progs ++ [h] } }).succeed cmd 0 0

/-- A live reduction or an uncompleted descriptor uses a program (R265). -/
def Block.programUsed (b : Block) (h : Nat) : Bool :=
  (b.reductions.any fun k => k.2.prog = h) || b.seq.dma.any fun d => d.2.prog = some h

/-- PROG_UNLOAD: R265, R267. -/
def execProgUnload (cmd : Nat) (s : State) : Host.Outcome State Fault Refusal :=
  onCommand s cmd 0x0503 fun c b =>
    let h := dfld c.desc 16 2
    if !b.ownsProgram c.fn h then b.fail cmd .badOperand
    else if b.programUsed h then b.fail cmd .retryLater
    else (b.unloadPrograms [h]).succeed cmd 0 0

end Sys2Proof.Machine
end

