-- ==== Sys2Proof/Machine/Translate.lean ====
section
/-! DEFINITION. Address translation: the table in a function's fence region, DMA_MAP, DMA_UNMAP, ADDR_CONVERT, walks
and the batches of translation faults (R353 to R361). -/

namespace Sys2Proof.Machine

open Sys2Proof Sys2Proof.Machine.Crypto

/-! ## The table (R354, R355) -/

/-- Bytes of a page: 64 GiB or 256 MiB (R353). -/
def pageBytes (big : Bool) : Nat := if big then 2 ^ 36 else 2 ^ 28

/-- Protected address of the level-1 entry of a DVA, in fence region r. -/
def level1At (r va : Nat) : Nat := r * 2 ^ 28 + 0x10_0000 + 8 * fld va 36 20

/-- Protected address of the entry of a DVA in leaf t. -/
def leafAt (r t va : Nat) : Nat := r * 2 ^ 28 + 0x90_0000 + 0x800 * t + 8 * fld va 28 8

def entryValid (e : Nat) : Bool := e.testBit 0
def entryTable (e : Nat) : Bool := e.testBit 4
def entryLeaf (e : Nat) : Nat := fld e 16 12
def entryTarget (e : Nat) : Nat := e / 2 ^ 28 * 2 ^ 28

/-- An entry that maps a page with PERM. -/
def pageEntry (perm target : Nat) : Nat := 1 + 2 * (perm % 8) + target

/-- An entry that names a leaf. -/
def tableEntry (t : Nat) : Nat := 1 + 16 + t * 2 ^ 16

/-- The entry of a DVA for each size: a 64 GiB page maps it, a leaf covers it with its 256 MiB entry, or nothing does. -/
inductive Mapped where
  | none
  | big (e : Nat)
  | leaf (t e : Nat)
  deriving DecidableEq, Repr

/-- What the table holds for a DVA. -/
def Work.tableEntryOf (w : Work) (r va : Nat) : Mapped :=
  let e := w.readLe (level1At r va) 8
  if !entryValid e then .none
  else if !entryTable e then .big e
  else .leaf (entryLeaf e) (w.readLe (leafAt r (entryLeaf e) va) 8)

/-- Who reads and writes a function's table: the sequencer, under KEYSET entry 0 of the fence region (R355). -/
def Block.tableAsker (b : Block) (fn ctx r : Nat) : Asker := 
  { fn := fn, ctx := ctx, key := (b.region r).key 0, rqid := 63 }

/-- Writes an entry, until one fails. -/
def Work.putEntry (k : Asker) (p : Status × List LineReturn × Work) (a e : Nat) : Status × List LineReturn × Work :=
  if p.1 ≠ .ok then p
  else
    let y := p.2.2.writeRecord k { rets := p.2.1 } a (toLe 8 e)
    (y.1, p.2.1.tail, y.2)

/-! ## DMA_MAP (R356) -/

/-- The operands of DMA_MAP and DMA_UNMAP. -/
structure MapArgs where
  va : Nat
  target : Nat
  count : Nat
  big : Bool
  perm : Nat

def Cmd.mapArgs (c : Cmd) : MapArgs :=
  { va := dfld c.desc 16 8, target := dfld c.desc 24 8, count := dfld c.desc 32 4, big := dfld c.desc 36 1 = 1,
    perm := dfld c.desc 37 1 }

def MapArgs.bytes (m : MapArgs) : Nat := m.count * pageBytes m.big
def MapArgs.host (m : MapArgs) : Bool := m.perm.testBit 2

/-- The page bases of the range. -/
def MapArgs.pages (m : MapArgs) : List Nat := (List.range m.count).map fun i => m.va + i * pageBytes m.big

/-- The conditions on the operands alone; a host target stays within 64 bits, which an entry can hold. -/
def Block.mapArgsOk (b : Block) (fn : Nat) (m : MapArgs) : Bool :=
  m.count ≠ 0 && m.va % pageBytes m.big = 0 && m.target % pageBytes m.big = 0 && m.va + m.bytes ≤ 2 ^ 56 &&
  m.perm % 4 ≠ 0 && m.perm < 8 &&
  (if m.host then m.target + m.bytes ≤ 2 ^ 64
   else (b.fn fn).regionLo.toNat ≤ m.target / 2 ^ 28 && m.target / 2 ^ 28 + m.bytes / 2 ^ 28 ≤ (b.fn fn).regionHi.toNat + 1)

/-- No page of the range is mapped, and no 64 GiB page covers an entry with TABLE set. -/
def Work.mapFree (w : Work) (r : Nat) (m : MapArgs) : Bool :=
  m.pages.all fun a =>
    match w.tableEntryOf r a with
    | .none => true
    | .big _ => false
    | .leaf _ e => !m.big && !entryValid e

/-- Leaves that the range needs anew. -/
def Work.leavesNeeded (w : Work) (r : Nat) (m : MapArgs) : Nat :=
  if m.big then 0
  else ((m.pages.filter fun a => w.tableEntryOf r a = .none).map fun a => fld a 36 20).eraseDups.length

def FreeList.room (f : FreeList) (limit : Nat) : Nat := (limit - f.next) + f.freed.length

/-- Maps one page: a 256 MiB page whose level-1 entry is not valid takes the leaf that has been free longest. -/
def mapPage (fn r : Nat) (k : Asker) (m : MapArgs) (p : Status × List LineReturn × Work) (a : Nat) :
    Status × List LineReturn × Work :=
  let e := pageEntry m.perm (m.target + (a - m.va))
  if m.big then Work.putEntry k p (level1At r a) e
  else
    match p.2.2.tableEntryOf r a with
    | .leaf t _ => Work.putEntry k p (leafAt r t a) e
    | _ =>
      match (p.2.2.blk.fn fn).leaves.take 4096 with
      | none => p
      | some (t, f) =>
        let p := (p.1, p.2.1, p.2.2.on fun b => b.modFn fn fun q => { q with leaves := f })
        Work.putEntry k (Work.putEntry k p (level1At r a) (tableEntry t)) (leafAt r t a) e

/-- Ends a command that has written the table: all of it, or nothing (R356). -/
def Work.tableDone (w0 : Work) (cmd : Nat) (p : Status × List LineReturn × Work) (act : Work → Work) : Work :=
  if p.1 = .ok then act p.2.2 else { p.2.2 with blk := w0.blk.fail cmd p.1, stores := w0.stores }

/-- DMA_MAP: R354 to R356, R361. -/
def execDmaMap (cmd : Nat) (acc : Access) (s : State) : Host.Outcome State Fault Refusal :=
  onCommandMem s cmd 0x0703 fun c w =>
    let m := c.mapArgs
    if 1 < dfld c.desc 36 1 then w.on fun b => b.fail cmd .badOperand
    else
      match w.blk.fencesOf c.fn with
      | none => w.on fun b => b.fail cmd .badOperand
      | some r =>
        let k := w.blk.tableAsker c.fn c.ctx r
        if !w.blk.mapArgsOk c.fn m then w.on fun b => b.fail cmd .badOperand
        else
          match w.readRecord k acc (level1At r m.va) 8 with
          | (.ok, _, w) =>
            if !w.mapFree r m then w.on fun b => b.fail cmd .badOperand
            else if (w.blk.fn c.fn).leaves.room 4096 < w.leavesNeeded r m ∨ (m.host ∧ 256 ≤ (w.blk.fn c.fn).runs.length) then
              w.on fun b => b.fail cmd .retryLater
            else
              w.tableDone cmd (m.pages.foldl (mapPage c.fn r k m) (.ok, acc.rets, w)) fun w =>
                w.on fun b =>
                  (b.modFn c.fn fun p =>
                    { p with
                      runs := if m.host then p.runs ++ [({ va := m.va, target := m.target, count := m.count, big := m.big } : HostRun)]
                        else p.runs }).succeed cmd 0 0
          | (st, _, w) => w.on fun b => b.fail cmd st

/-! ## DMA_UNMAP (R357, R361) -/

/-- A page is mapped at the size named. -/
def Work.mappedAt (w : Work) (r : Nat) (big : Bool) (a : Nat) : Bool :=
  match w.tableEntryOf r a with
  | .none => false
  | .big _ => big
  | .leaf _ e => !big && entryValid e

/-- Every entry of a leaf is invalid. -/
def Work.leafEmpty (w : Work) (r t : Nat) : Bool :=
  (List.range 256).all fun j => !entryValid (w.readLe (leafAt r t (j * 2 ^ 28)) 8)

/-- Unmaps one page; a leaf whose entries have all become invalid is freed (R356). -/
def unmapPage (fn r : Nat) (k : Asker) (p : Status × List LineReturn × Work) (a : Nat) :
    Status × List LineReturn × Work :=
  match p.2.2.tableEntryOf r a with
  | .none => p
  | .big _ => Work.putEntry k p (level1At r a) 0
  | .leaf t _ =>
    let p := Work.putEntry k p (leafAt r t a) 0
    if p.1 = .ok ∧ p.2.2.leafEmpty r t then
      let p := Work.putEntry k p (level1At r a) 0
      (p.1, p.2.1, p.2.2.on fun b => b.modFn fn fun q => { q with leaves := q.leaves.give t })
    else p

/-- What remains of a host run once a range is unmapped (R361). -/
def HostRun.trim (h : HostRun) (va bytes : Nat) : List HostRun :=
  let n := pageBytes h.big
  if overlaps h.va (h.count * n) va bytes then
    let left := (va - h.va) / n
    let right := (h.va + h.count * n - (va + bytes)) / n
    ([{ h with count := left }, { h with va := va + bytes, target := h.target + (va + bytes - h.va), count := right }] :
      List HostRun).filter fun x => 0 < x.count
  else [h]

/-- Descriptors of a function that hold a translation of a page of the range (R357). -/
def Block.holdersOf (b : Block) (fn va bytes : Nat) : List Nat :=
  Tab.keys (α := DmaDesc) (b.seq.dma.filter fun d => d.2.fn = fn && d.2.pages.any fun p => overlaps p.va p.size va bytes)

/-- DMA_UNMAP: R356, R357, R361. -/
def execDmaUnmap (cmd : Nat) (acc : Access) (s : State) : Host.Outcome State Fault Refusal :=
  onCommandMem s cmd 0x0704 fun c w =>
    let m := c.mapArgs
    if 1 < dfld c.desc 36 1 ∨ m.count = 0 ∨ m.va % pageBytes m.big ≠ 0 ∨ 2 ^ 56 < m.va + m.bytes then
      w.on fun b => b.fail cmd .badOperand
    else
      match w.blk.fencesOf c.fn with
      | none => w.on fun b => b.fail cmd .badOperand
      | some r =>
        let k := w.blk.tableAsker c.fn c.ctx r
        match w.readRecord k acc (level1At r m.va) 8 with
        | (.ok, _, w) =>
          let runs := ((w.blk.fn c.fn).runs.map fun h => h.trim m.va m.bytes).flatten
          if !(m.pages.all (w.mappedAt r m.big)) then w.on fun b => b.fail cmd .badOperand
          else if 256 < runs.length then w.on fun b => b.fail cmd .retryLater
          else
            w.tableDone cmd (m.pages.foldl (unmapPage c.fn r k) (.ok, acc.rets, w)) fun w =>
              w.on fun b =>
                let b := b.modFn c.fn fun p => { p with runs := runs }
                let hs := b.holdersOf c.fn m.va m.bytes
                if hs.isEmpty then b.succeed cmd 0 0
                else { b.wait cmd with seq := { (b.wait cmd).seq with unmaps := (b.wait cmd).seq.unmaps ++ [(cmd, hs)] } }
        | (st, _, w) => w.on fun b => b.fail cmd st

/-! ## ADDR_CONVERT (R361) -/

/-- The DVA that a run gives a host address. -/
def HostRun.convert (h : HostRun) (p : Nat) : Option Nat :=
  if h.target ≤ p ∧ p < h.target + h.count * pageBytes h.big then some (h.va + (p - h.target)) else none

/-- The run of lowest VA that holds an address. -/
def lowestRun (p : Nat) : List HostRun → Option HostRun
  | [] => none
  | h :: r =>
    match lowestRun p r with
    | none => if (h.convert p).isSome then some h else none
    | some g => if (h.convert p).isSome && h.va < g.va then some h else some g

/-- ADDR_CONVERT: R361. -/
def execAddrConvert (cmd : Nat) (s : State) : Host.Outcome State Fault Refusal :=
  onCommand s cmd 0x0705 fun c b =>
    match (lowestRun (dfld c.desc 16 8) (b.fn c.fn).runs).bind fun h => h.convert (dfld c.desc 16 8) with
    | some va => b.succeed cmd va 0
    | none => b.fail cmd .translationFault

/-! ## Walks (R358) -/

/-- How the translation of a DVA ends: a page, a fault with its KIND (R360), or a status of the table's access. -/
inductive Walked where
  | page (p : Page)
  | fault (dva kind : Nat)
  | bad (st : Status)
  | tooMany

/-- Translates one DVA for a read or a write; nothing is mapped past 2^56 (R353). -/
def Work.walkOne (w : Work) (r : Option Nat) (k : Asker) (acc : Access) (va : Nat) (write : Bool) : Walked × Work :=
  match r.filter fun _ => va < 2 ^ 56 with
  | none => (.fault va 1, w)
  | some r =>
    match w.readRecord k acc (level1At r va) 8 with
    | (.ok, _, w) =>
      let page (e : Nat) (big : Bool) : Walked :=
        if !e.testBit (if write then 2 else 1) then .fault va (if write then 3 else 2)
        else .page { va := va / pageBytes big * pageBytes big, size := pageBytes big, target := entryTarget e, host := e.testBit 3 }
      match w.tableEntryOf r va with
      | .none => (.fault va 1, w)
      | .big e => (page e true, w)
      | .leaf t e =>
        match w.readRecord k acc (leafAt r t va) 8 with
        | (.ok, _, w) => (if entryValid e then page e false else .fault va 1, w)
        | (st, _, w) => (.bad st, w)
    | (st, _, w) => (.bad st, w)

/-- Translates a range upward; at most 64 pages in all (R358). -/
def Work.walkRange (r : Option Nat) (k : Asker) (acc : Access) (write : Bool) : Nat → Work → List Page → Nat → Nat →
    Except Walked (List Page) × Work
  | 0, w, _, _, _ => (.error .tooMany, w)
  | f + 1, w, ps, va, stop =>
    if stop ≤ va then (.ok ps, w)
    else
      match w.walkOne r k acc va write with
      | (.page p, w) =>
        let ps := if List.contains ps p then ps else ps ++ [p]
        if 64 < ps.length then (.error .tooMany, w) else Work.walkRange r k acc write f w ps (p.va + p.size) stop
      | (x, w) => (.error x, w)

/-- A range of a descriptor: first DVA, bytes, and whether it is written. -/
abbrev Range := Nat × Nat × Bool

/-- Translates every range of a descriptor. -/
def Work.walkAll (r : Option Nat) (k : Asker) (acc : Access) : Work → List Page → List Range → Except Walked (List Page) × Work
  | w, ps, [] => (.ok ps, w)
  | w, ps, (va, n, wr) :: rest =>
    match w.walkRange r k acc wr 66 ps va (va + n) with
    | (.ok ps, w) => Work.walkAll r k acc w ps rest
    | x => x

/-! ## Fault batches (R360) -/

def XlateFault.data (x : XlateFault) : List (Nat × Nat) :=
  [(0, x.dva.toNat), (8, x.qp.toNat), (10, x.sqIdx.toNat), (12, x.stream.toNat), (13, x.kind.toNat)]

/-- Marks the records from a position on as a batch, all but the last as followed by others. -/
def markBatch (first : Nat) (q : List FaultRec) : List FaultRec :=
  q.zipIdx.map fun x => if first ≤ x.2 then { x.1 with batch := true, more := x.2 + 1 < q.length } else x.1

/-- Writes the batch of a function: one record per fault, in order, and VECTOR once after them (R360). -/
def Block.writeBatch (b : Block) (f : Nat) : Block :=
  let first := (b.fn f).faultq.queue.length
  let b' := (b.fn f).faults.foldl (fun b x =>
    b.raise { code := 0x07, engine := 0x68 + x.stream.toNat % 2, fn := f, ctx := x.ctx.toNat, data := x.data } [f]) b
  b'.modFn f fun p => { p with faults := [], faultq := { p.faultq with queue := markBatch first p.faultq.queue } }

/-- A translation fault joins its function's batch, which is written when it holds 64. -/
def Block.addFault (b : Block) (f : Nat) (x : XlateFault) : Block :=
  let b := b.modFn f fun p => { p with faults := p.faults ++ [x] }
  if 64 ≤ (b.fn f).faults.length then b.writeBatch f else b

/-- XLATE_BATCH_TIMEOUT: R360. -/
def execXlateBatchTimeout (fn : Nat) (s : State) : Host.Outcome State Fault Refusal :=
  onBlock s fun b => if (b.fn fn).faults.isEmpty then b else b.writeBatch fn

end Sys2Proof.Machine
end

