-- ==== Sys2Proof/Machine/Dma.lean ====
section
/-! DEFINITION. Sealed DMA: descriptors, their checks and their lines; licensed ingest, measured loads and epoch orders
(R250, R251, R258, R266, R268, R277 to R283, R341, R344, R351, R358, R362 to R367). -/

namespace Sys2Proof

/-- The controller's returns for a source line and what follows it. -/
def SourceLine.lines (x : SourceLine) (acc : Access) : List LineReturn :=
  match x with
  | .mem r _ => r :: acc.rets
  | .host _ _ => acc.rets

/-- What the host chip returned for a source line. -/
def SourceLine.hostData (x : SourceLine) : HostRead :=
  match x with
  | .mem _ _ => .data []
  | .host r _ => r

/-- The bytes of the source scale stream that the host chip returned with a line. -/
def SourceLine.scaleData (x : SourceLine) : Bytes :=
  match x with
  | .mem _ b => b
  | .host _ b => b

end Sys2Proof

namespace Sys2Proof.Machine

open Sys2Proof Sys2Proof.Machine.Crypto

/-- The sealed DMA unit of a descriptor (R351). -/
def DmaDesc.engine (d : DmaDesc) : Nat := 0x68 + d.stream % 2

/-! ## Operands -/

/-- Every DVA field has bits [63:56] zero (R353). -/
def dvaOk (l : List Nat) : Bool := l.all fun a => a < 2 ^ 56

/-- The program of a descriptor is bound to its context, for DMA, with the descriptor's formats (R266). -/
def Block.dmaProgram (b : Block) (fn ctx h sfmt dfmt : Nat) : Option Program :=
  (b.programs.get? h).filter fun p =>
    b.ownsProgram fn h && (b.ctxs.get? ctx).any (fun c => List.contains c.progs h) && p.target = 1 &&
    p.inFmt + 16 * bit p.inScaled = sfmt && p.outFmt + 16 * bit p.outScaled = dfmt

/-- Source bytes of an invocation. -/
def Program.invBytes (p : Program) : Nat := p.inl * lineBytes p.inFmt

/-- Destination bytes of a plaintext stream of n bytes (R250). -/
def dmaOut (p : Option Program) (n : Nat) : Nat :=
  match p with
  | none => n
  | some p => n / p.invBytes * (p.outl * lineBytes p.outFmt)

/-- Scale bytes of n bytes of a stream in a format: one a block (R250). -/
def scaleBytes (program : Bool) (f n : Nat) : Nat :=
  if program then n / lineBytes f * lineBlocks f else ceilDiv n (blockBytes f)

/-- The conditions of R362 on formats, program and length. -/
def Block.dmaFormats (b : Block) (fn ctx flags prog sfmt dfmt len : Nat) : Bool :=
  fmtByteOk sfmt && fmtByteOk dfmt && flags < 2 && len ≠ 0 &&
  (if flags = 0 then prog = 0 && sfmt = dfmt && len % 32 = 0
   else (b.dmaProgram fn ctx prog sfmt dfmt).any fun p => len % p.invBytes = 0)

/-- The stream that a command's descriptor names (R341, R342, R344). -/
def Cmd.dmaStream (c : Cmd) : Option Nat :=
  match c.opcode with
  | 0x0701 => some (dfld c.desc 54 1)
  | 0x0702 => some (dfld c.desc 47 1)
  | 0x0802 => some (dfld c.desc 46 1)
  | 0x0904 => some (dfld c.desc 58 1)
  | _ => none

/-- Every earlier command of the same submission queue and stream has submitted its descriptor (R351). -/
def Block.dmaTurn (b : Block) (cmd : Nat) (stream : Nat) : Bool :=
  !(b.seq.cmds.any fun e => e.1 < cmd && e.2.dmaStream = some stream && (b.cmd? cmd).any (fun c => c.qp = e.2.qp) &&
    !(b.seq.dma.any fun d => d.2.cmd = e.1))

/-- A descriptor enters its walk, in the order of its stream (R351, R358, R359). -/
def Block.submitDma (b : Block) (cmd : Nat) (d : DmaDesc) : Block :=
  if !b.dmaTurn cmd d.stream then b
  else
    { b.wait cmd with
      seq := { (b.wait cmd).seq with dma := (b.wait cmd).seq.dma.put b.seq.nextDma d, nextDma := b.seq.nextDma + 1 } }

/-- DMA_COPY: R341, R351, R358, R362. -/
def execDmaCopy (cmd : Nat) (s : State) : Host.Outcome State Fault Refusal :=
  onCommand s cmd 0x0701 fun c b =>
    let f (o n : Nat) : Nat := dfld c.desc o n
    let d : DmaDesc :=
      { cmd := cmd, fn := c.fn, ctx := BitVec.ofNat 16 c.ctx, kind := .copy, stream := f 54 1, src := f 16 8, dst := f 24 8
        sscale := f 32 8, dscale := f 40 8, len := f 48 6, sfmt := f 55 1 % 16, dfmt := f 56 1 % 16
        sscaled := 16 ≤ f 55 1, dscaled := 16 ≤ f 56 1, skey := f 58 2, dkey := f 60 2
        prog := if f 57 1 = 1 then some (f 62 2) else none }
    if dvaOk [d.src, d.dst, d.sscale, d.dscale] && d.src % 32 = 0 && d.dst % 32 = 0 && d.sscale % 32 = 0 && d.dscale % 32 = 0 &&
        ((d.sscale ≠ 0) = d.sscaled) && ((d.dscale ≠ 0) = d.dscaled) && d.skey < 2 ^ 14 && d.dkey < 2 ^ 14 &&
        b.dmaFormats c.fn c.ctx (f 57 1) (f 62 2) (f 55 1) (f 56 1) d.len then
      b.submitDma cmd d
    else b.fail cmd .badOperand

/-- The program that an ingest names suits it, or it names none (R264, R266, R267, R362). -/
def Block.ingestProgram (b : Block) (fn ctx flags prog sfmt dfmt : Nat) : Bool :=
  fmtByteOk sfmt && fmtByteOk dfmt && flags < 2 &&
  (if flags = 0 then prog = 0 && sfmt = dfmt else (b.dmaProgram fn ctx prog sfmt dfmt).isSome)

/-- DMA_INGEST: R264, R267, R341, R365; its formats have no scale streams. -/
def execDmaIngest (cmd : Nat) (s : State) : Host.Outcome State Fault Refusal :=
  onCommand s cmd 0x0702 fun c b =>
    let f (o n : Nat) : Nat := dfld c.desc o n
    let d : DmaDesc :=
      { cmd := cmd, fn := c.fn, ctx := BitVec.ofNat 16 c.ctx, kind := .ingest, stream := f 47 1, src := f 16 8, dst := f 24 8
        len := f 32 8, sfmt := f 48 1, dfmt := f 49 1, skey := f 40 2, dkey := f 42 2
        prog := if f 46 1 = 1 then some (f 44 2) else none }
    if dvaOk [d.src, d.dst] && d.dst % 32 = 0 && b.ingestProgram c.fn c.ctx (f 46 1) (f 44 2) d.sfmt d.dfmt && d.sfmt < 16 && d.dfmt < 16 && d.skey < 2 ^ 14 && d.dkey < 2 ^ 14 &&
        d.dkey ≠ 0 then
      b.submitDma cmd d
    else b.fail cmd .badOperand

/-- A measured load of the context has this object, or there is room for another (R367). -/
def Ctx.measureRoom (c : Ctx) (object : Nat) : Bool := Tab.has c.measured object || c.measured.length < 64

/-- MEASURE_LOAD: R344, R366, R367. -/
def execMeasureLoad (cmd : Nat) (s : State) : Host.Outcome State Fault Refusal :=
  onCommand s cmd 0x0802 fun c b =>
    let f (o n : Nat) : Nat := dfld c.desc o n
    let d : DmaDesc :=
      { cmd := cmd, fn := c.fn, ctx := BitVec.ofNat 16 c.ctx, kind := .measure, stream := f 46 1, src := f 16 8, dst := f 24 8
        len := f 32 8, dkey := f 44 2, object := BitVec.ofNat 32 (f 40 4), rdst := f 48 8 }
    if dvaOk [d.src, d.dst] && d.dst % 32 = 0 && d.len ≠ 0 && d.len < 2 ^ 56 && d.dkey < 2 ^ 14 && d.dkey ≠ 0 then
      if (b.ctxs.get? c.ctx).any fun x => x.measureRoom (f 40 4) then b.submitDma cmd d else b.fail cmd .retryLater
    else b.fail cmd .badOperand

/-- A live job whose key is the parent of a seed key, and which a context has joined (R281, log 129). -/
def Block.seedJob (b : Block) (n ctx : Nat) : Bool :=
  b.jobs.any fun j => !j.2.torn && b.seedOf n j.2 && (b.ctxs.get? ctx).any fun c => List.contains c.jobs j.1

/-- SHUFFLE_EPOCH: R281, R282. -/
def execShuffleEpoch (cmd : Nat) (s : State) : Host.Outcome State Fault Refusal :=
  onCommand s cmd 0x0904 fun c b =>
    let f (o n : Nat) : Nat := dfld c.desc o n
    match (b.installOf (f 16 2)).filter fun i => i.2.fn = c.fn with
    | none => b.fail cmd .badOperand
    | some (k, i) =>
      let d : DmaDesc :=
        { cmd := cmd, fn := c.fn, ctx := BitVec.ofNat 16 c.ctx, kind := .shuffle, stream := f 58 1, src := 0, dst := f 48 8
          len := f 40 8, skey := f 18 2, dkey := f 56 2, record := k, object := BitVec.ofNat 32 (f 20 4), shufN := f 24 8
          shufFirst := f 32 8, licence := i.licence }
      if i.uses.toNat.testBit 2 && 2 ≤ d.shufN && d.shufN ≤ i.samples && 1 ≤ d.len && d.shufFirst + d.len ≤ d.shufN &&
          dvaOk [d.dst] && d.dst % 128 = 0 && d.dst + 8 * d.len ≤ 2 ^ 56 && d.dkey < 2 ^ 14 && d.dkey ≠ 0 then
        let st := b.keyCheck d.skey c.fn c.ctx (some 4) useV
        if st ≠ .ok then (b.noticeCorrupt d.skey st).fail cmd st
        else if !b.seedJob d.skey c.ctx then b.fail cmd .badOperand
        else b.submitDma cmd d
      else b.fail cmd .badOperand

/-! ## Walk -/

/-- Plaintext bytes and chunk size of a shard header (R277). -/
def shardLen (h : Bytes) : Nat := bfld h 16 8
def shardChunk (h : Bytes) : Nat := 2 ^ bfld h 12 1

/-- The form of a shard header. -/
def shardOk (h : Bytes) : Bool :=
  h.length = 64 && bfld h 0 4 = 0x48535843 && 12 ≤ bfld h 12 1 && bfld h 12 1 ≤ 22 && allZero (slice h 13 3) &&
  1 ≤ shardLen h && shardLen h ≤ 2 ^ 40 && allZero (slice h 24 40)

/-- Chunks of a shard. -/
def shardChunks (h : Bytes) : Nat := ceilDiv (shardLen h) (shardChunk h)

/-- Bytes of the plaintext stream of a descriptor, before its program. -/
def DmaDesc.stream0 (d : DmaDesc) : Nat :=
  match d.kind with
  | .ingest => shardLen d.header
  | .shuffle => 8 * d.len
  | _ => d.len

/-- The ranges that a descriptor touches (R358). -/
def Block.dmaRanges (b : Block) (d : DmaDesc) : List Range :=
  let p := d.prog.bind fun h => b.programs.get? h
  let out := dmaOut p d.stream0
  (if d.kind = .shuffle then [] else [(d.src, d.len, false)]) ++ [(d.dst, out, true)] ++
  (if d.sscaled then [(d.sscale, scaleBytes d.prog.isSome d.sfmt d.len, false)] else []) ++
  (if d.dscaled then [(d.dscale, scaleBytes d.prog.isSome d.dfmt out, true)] else [])

/-- Where a DVA of a descriptor lies: address, whether it is a host address, and the bytes left in its page. -/
def DmaDesc.locate (d : DmaDesc) (va : Nat) : Option (Nat × Bool × Nat) :=
  (d.pages.find? fun p => p.va ≤ va && va < p.va + p.size).map fun p => (p.target + (va - p.va), p.host, p.va + p.size - va)

/-- Pages that a range touches. -/
def DmaDesc.pagesOf (d : DmaDesc) (va n : Nat) : List Page := d.pages.filter fun p => overlaps p.va p.size va n

/-- Regions that a range of protected pages touches. -/
def DmaDesc.regionsOf (d : DmaDesc) (va n : Nat) : List Nat :=
  ((d.pagesOf va n).map fun p =>
    let lo := p.target + (max va p.va - p.va)
    let hi := p.target + (min (va + n) (p.va + p.size) - p.va) - 1
    (List.range (hi / 2 ^ 28 + 1 - lo / 2 ^ 28)).map (· + lo / 2 ^ 28)).flatten.eraseDups

/-- Every page of a range is a host page, or none is, as `key` is zero or not (R362). -/
def DmaDesc.side (d : DmaDesc) (key va n : Nat) : Bool := (d.pagesOf va n).all fun p => p.host = (key = 0 : Bool)

/-- A protected destination starts a line, or a sector where its region is in SEALED_NARROW mode (R362). -/
def Block.dmaAligned (b : Block) (d : DmaDesc) (key va : Nat) : Bool :=
  key = 0 || va % 128 = 0 || (va % 32 = 0 && (d.locate va).any fun p => (b.region (regionOf p.1)).mode = .narrow)

/-- A destination range lies in regions of the modes allowed, all of the function when `own` (R281, R365, R366). -/
def Block.dmaModes (b : Block) (d : DmaDesc) (va n : Nat) (modes : List Mode) (own : Bool) : Bool :=
  (d.regionsOf va n).all fun r =>
    List.contains modes (b.region r).mode && (!own || (b.region r).ownerFn.toNat = d.fn)

/-- What is checked once the pages are known: R281, R362, R365, R366. -/
def Block.dmaPagesOk (b : Block) (d : DmaDesc) : Bool :=
  let out := dmaOut (d.prog.bind fun h => b.programs.get? h) d.stream0
  match d.kind with
  | .copy =>
    d.side d.skey d.src d.len && d.side d.dkey d.dst out && b.dmaAligned d d.dkey d.dst &&
    (!d.sscaled || d.side d.skey d.sscale (scaleBytes d.prog.isSome d.sfmt d.len)) &&
    (!d.dscaled || (d.side d.dkey d.dscale (scaleBytes d.prog.isSome d.dfmt out) &&
      b.dmaAligned d d.dkey d.dscale))
  | .ingest =>
    d.side 0 d.src d.len && d.side d.dkey d.dst out && b.dmaAligned d d.dkey d.dst &&
    b.dmaModes d d.dst out [.sealed, .narrow, .replay] false
  | .measure =>
    d.side 0 d.src d.len && d.side d.dkey d.dst out && b.dmaAligned d d.dkey d.dst &&
    b.dmaModes d d.dst out [.sealed, .narrow, .replay] true
  | .shuffle => d.side d.dkey d.dst out && b.dmaModes d d.dst out [.sealed, .replay] true

/-- The header of an ingest, checked with its licence, its length and the formats (R279, R365); the meter record of the
licence. -/
def Block.ingestHeader (b : Block) (d : DmaDesc) (h : Bytes) : Option Nat :=
  match b.installOf d.skey with
  | none => none
  | some (k, i) =>
    if shardOk h && i.fn = d.fn && i.licence.toNat = bfld h 4 4 && d.len = 64 + shardLen h + 16 * shardChunks h &&
        b.dmaFormats d.fn d.ctx.toNat (bit d.prog.isSome) (d.prog.getD 0) d.sfmt d.dfmt (shardLen h) then some k
    else none

/-- A walk has ended with the descriptor's pages. -/
def Block.walked (b : Block) (id : Nat) (d : DmaDesc) (ps : List Page) : Block :=
  let d := { d with pages := ps, stage := .queued, read := if d.kind = .ingest then 64 else 0 }
  if b.dmaPagesOk d then ({ b with seq := { b.seq with dma := b.seq.dma.put id d } } : Block).runStreams
  else (b.fail d.cmd .badOperand).dropDma id

/-- A walk has ended without them (R358, R360). -/
def Block.notWalked (b : Block) (id : Nat) (d : DmaDesc) : Walked → Block
  | .page _ => b
  | .bad st => (b.fail d.cmd st).dropDma id
  | .tooMany => (b.fail d.cmd .badOperand).dropDma id
  | .fault va kind =>
    let c := b.cmd? d.cmd
    let x : XlateFault :=
      { dva := BitVec.ofNat 64 va, qp := BitVec.ofNat 16 ((c.map (·.qp)).getD 0)
        sqIdx := BitVec.ofNat 16 ((c.map (·.sqIdx)).getD 0), stream := BitVec.ofNat 8 d.stream, kind := BitVec.ofNat 8 kind
        ctx := d.ctx }
    ((b.complete d.cmd .translationFault (BitVec.ofNat 64 va) 0 false).dropDma id).addFault d.fn x

/-- TRANSLATION_WALK_DONE: R358 to R360; an ingest's header is read through its first source page (R365). -/
def execTranslationWalkDone (desc : Nat) (header : HostRead) (acc : Access) (s : State) : Host.Outcome State Fault Refusal :=
  onMemoryWait s fun w =>
    match (w.blk.seq.dma.get? desc).filter fun d => d.stage = .walking with
    | none => w
    | some d =>
      let r := w.blk.fencesOf d.fn
      let k := w.blk.tableAsker d.fn d.ctx.toNat (r.getD 0)
      if d.kind = .ingest then
        match w.walkAll r k acc [] [(d.src, d.len, false)] with
        | (.error x, w) => w.on fun b => b.notWalked desc d x
        | (.ok ps, w) =>
          match header with
          | .err => w.on fun b => (b.fail d.cmd .translationFault).dropDma desc
          | .data h =>
            let h := slice h 0 64
            match w.blk.ingestHeader d h with
            | none => w.on fun b => (b.fail d.cmd .badOperand).dropDma desc
            | some k' =>
              let d := { d with header := h, record := k' }
              match w.walkAll r k acc ps ((w.blk.dmaRanges d).drop 1) with
              | (.error x, w) => w.on fun b => b.notWalked desc d x
              | (.ok ps, w) => w.on fun b => b.walked desc d ps
      else
        match w.walkAll r k acc [] (w.blk.dmaRanges d) with
        | (.error x, w) => w.on fun b => b.notWalked desc d x
        | (.ok ps, w) => w.on fun b => b.walked desc d ps

/-! ## Lines -/

/-- A descriptor at work inside one step. -/
structure Mover where
  p : Serving
  d : DmaDesc
  st : Status := .ok

/-- The asker of a protected address. -/
def Block.dmaAsker (b : Block) (d : DmaDesc) (key a : Nat) : Asker :=
  { fn := d.fn, ctx := d.ctx.toNat, key := key, rqid := 63, narrow := (b.region (regionOf a)).mode = .narrow }

/-- Writes one sector over the crossbar. -/
def Serving.writeSector (p : Serving) (k : Asker) (a data : Nat) (ret : LineReturn) : Status × Serving :=
  let s := a % 128 / 32
  p.writeUnit k (a / 128 * 128) ((data % 2 ^ 256) <<< (256 * s)) (some s) ret

/-- Reads n bytes of a stream, from page to page: a protected page line by line, a host page from what the host chip
returned. -/
def Mover.read (key : Nat) (host : HostRead) : Nat → Mover → Nat → Nat → Nat → Mover × Bytes
  | 0, m, _, _, _ => (m, [])
  | f + 1, m, va, n, off =>
    if n = 0 ∨ m.st ≠ .ok then (m, [])
    else
      match m.d.locate va with
      | none => ({ m with st := .translationFault }, [])
      | some (a, isHost, left) =>
        let c := min n left
        if isHost then
          let p := { m.p with w := m.p.w.on fun b => b.hostFetch m.d.fn a c }
          match host with
          | .err => ({ m with p := p, st := .translationFault }, [])
          | .data h =>
            let r := Mover.read key host f { m with p := p } (va + c) (n - c) (off + c)
            (r.1, slice h off c ++ r.2)
        else
          match m.p.readBytes (m.p.w.blk.dmaAsker m.d key a) (c / 128 + 2) a c with
          | (.ok, h, p) =>
            let r := Mover.read key host f { m with p := p } (va + c) (n - c) (off + c)
            (r.1, h ++ r.2)
          | (st, _, p) => ({ m with p := p, st := st }, [])

/-- Bytes of a destination unit at a DVA: a sector in a SEALED_NARROW region, else up to the end of a line (R363). -/
def Mover.unit (m : Mover) (va : Nat) : Nat :=
  match m.d.locate va with
  | some (a, false, _) => if (m.p.w.blk.region (regionOf a)).mode = .narrow then 32 else 128
  | _ => 128 - va % 128

/-- Writes one unit of a destination stream. -/
def Mover.put (m : Mover) (id key va : Nat) (data : Bytes) : Mover :=
  match m.d.locate va with
  | none => { m with st := .translationFault }
  | some (a, true, _) => { m with p := { m.p with w := m.p.w.on fun b => b.hostWrite m.d.fn a data (.dma id) } }
  | some (a, false, _) =>
    let k := m.p.w.blk.dmaAsker m.d key a
    let r := m.p.next
    let y := if data.length = 32 then r.2.writeSector k a (le data) r.1 else r.2.writeLine k a (le data) r.1
    { m with p := y.2, st := y.1 }

/-- Writes whole units of the plaintext gathered, and at the end a last one completed with zeros (R363). -/
def Mover.flush (id : Nat) (final : Bool) : Nat → Mover → Mover
  | 0, m => m
  | f + 1, m =>
    let va := m.d.dst + m.d.written
    let u := m.unit va
    let n := min u m.d.buf.length
    if m.st ≠ .ok ∨ n = 0 ∨ (n < u ∧ !final) then m
    else
      let y := m.put id m.d.dkey va (slice m.d.buf 0 u)
      if y.st ≠ .ok then y
      else Mover.flush id final f { y with d := { y.d with buf := y.d.buf.drop n, written := y.d.written + n } }

/-- The same for the destination scale stream, whose bytes gather in `taken`; `chunk` counts those written. -/
def Mover.flushScale (id : Nat) (final : Bool) : Nat → Mover → Mover
  | 0, m => m
  | f + 1, m =>
    let va := m.d.dscale + m.d.chunk
    let u := m.unit va
    let n := min u m.d.taken.length
    if m.st ≠ .ok ∨ n = 0 ∨ (n < u ∧ !final) then m
    else
      let y := m.put id m.d.dkey va (slice m.d.taken 0 u)
      if y.st ≠ .ok then y
      else Mover.flushScale id final f { y with d := { y.d with taken := y.d.taken.drop n, chunk := y.d.chunk + n } }

/-- Everything has been read and written. -/
def DmaDesc.moved (d : DmaDesc) : Bool :=
  d.buf.isEmpty && (!d.dscaled || d.taken.isEmpty) &&
  match d.kind with
  | .ingest => d.chunk = shardChunks d.header
  | _ => d.read = d.len

/-- A descriptor whose last write has been acknowledged completes; a measured load does when its digest's write has been
(R359, R364, R367). -/
def Block.finishDma (b : Block) (id : Nat) : Block :=
  match (b.seq.dma.get? id).filter fun d => d.stage = .running && (d.ending.isSome || d.moved) with
  | none => b
  | some d =>
    if b.dmaWrites id d.cmd then b
    else if d.ending.isNone && d.kind = .measure && Tab.has b.resets 0x71 then b
    else if d.ending.isSome ∨ d.kind ≠ .measure then b.endDma id .ok
    else
      let ctx := d.ctx.toNat
      let digest := parallelHash256 d.taken (2 ^ 20) 384 "CX.measure"
      if (b.ctxs.get? ctx).any fun x => x.measureRoom d.object.toNat then
        let a := ((d.locate d.dst).map fun x => x.1).getD 0
        let b := { b with ctxs := b.ctxs.upd ctx fun x =>
          { x with measured := x.measured.put d.object.toNat (BitVec.ofNat 384 (be digest), a, d.len) } }
        (b.count 11 7 1).output d.cmd d.rdst digest .ok d.read d.written
      else b.endDma id .retryLater

/-- Keeps what a mover has reached, and ends its descriptor on a failure. -/
def Mover.keep (m : Mover) (id : Nat) : Work :=
  m.p.w.on fun b =>
    let b := { b with seq := { b.seq with dma := b.seq.dma.upd id fun _ => m.d } }
    if m.st ≠ .ok then b.endDma id m.st else b.finishDma id

/-- The write of a command's output block has been answered: the command completes, with the descriptor of a measured load
(R320, R321, R367). -/
def Block.outputAnswered (b : Block) (cmd : Nat) (st : Status) (r0 r1 : BitVec 64) (err : Bool) : Block :=
  match b.seq.dma.find? fun d => d.2.cmd = cmd with
  | some (id, d) =>
    if d.ending.isSome then b.finishDma id
    else (b.complete cmd (if err then .translationFault else st) r0 r1 (!err)).dropDma id
  | none => b.complete cmd (if err then .translationFault else st) r0 r1 (!err)

/-- A running descriptor whose unit is not in reset and that has something left to read. -/
def Block.running (b : Block) (id : Nat) : Option DmaDesc :=
  (b.seq.dma.get? id).filter fun d =>
    d.stage = .running && d.ending.isNone && !Tab.has b.resets d.engine && !b.pins.blockSafe &&
    match d.kind with
    | .ingest => d.chunk < shardChunks d.header
    | _ => d.read < d.len

/-- Reads the scale bytes that belong to n bytes of the source stream. -/
def Mover.readScale (m : Mover) (x : SourceLine) (first count : Nat) : Mover × Bytes :=
  if m.d.sscaled then Mover.read m.d.skey (.data x.scaleData) 3 m (m.d.sscale + first) count 0 else (m, [])

/-! ## Epoch orders (R282) -/

/-- One round of the network. -/
def shuffleRound (rk : List Nat) (h : Nat) (x : Nat × Nat) (k : Nat) : Nat × Nat :=
  let blk := toLe 1 k ++ toLe 1 h ++ toLe 8 x.2 ++ toLe 6 0
  (x.2, x.1 ^^^ (le ((aesBlock rk blk).take 8) % 2 ^ h))

/-- perm(x). -/
def shufflePerm (rk : List Nat) (h x : Nat) : Nat :=
  let r := (List.range 8).foldl (shuffleRound rk h) (x >>> h, x % 2 ^ h)
  r.1 <<< h ||| r.2

/-- order(i): cycle walking, which visits at most every value of the domain. -/
def shuffleOrder (rk : List Nat) (h n : Nat) : Nat → Nat → Nat
  | 0, x => x
  | f + 1, x => if x < n then x else shuffleOrder rk h n f (shufflePerm rk h x)

/-- Half the bits of n, rounded up. -/
def shuffleHalf (n : Nat) : Nat := ceilDiv (Nat.log2 (n - 1) + 1) 2

/-- The next entries of an order, a line's worth, under the permutation key (R281, R282). -/
def DmaDesc.orderBytes (d : DmaDesc) (key : Bytes) (n : Nat) : Bytes :=
  let h := shuffleHalf d.shufN
  let rk := roundKeys (le key)
  ((List.range n).map fun j => toLe 8 (shuffleOrder rk h d.shufN (2 ^ (2 * h)) (shufflePerm rk h (d.shufFirst + d.read + j)))).flatten

/-- Whether SHUFFLE_EPOCH must wait for a mark before it counts its epoch (R283, R289). -/
def Block.epochWaits (b : Block) (d : DmaDesc) : Bool :=
  d.shufFirst = 0 && d.read = 0 && !b.canConsume d.record { epochs := 1 }

/-- One line of an epoch's order. -/
def Mover.shuffle (m : Mover) (id : Nat) : Mover :=
  let b := m.p.w.blk
  match b.useKey m.d.engine m.d.skey m.d.fn m.d.ctx.toNat useV with
  | (.error st, b) => { m with p := { m.p with w := { m.p.w with blk := b } }, st := st }
  | (.ok k, b) =>
    let b := if m.d.shufFirst = 0 ∧ m.d.read = 0 then b.consume m.d.record { epochs := 1 } else b
    let key := derive (toLe 64 k.key.toNat |>.take (typeLen (fld k.attr.toNat 8 4))) "CX.shuffle"
      (toLe 4 m.d.object.toNat ++ toLe 4 m.d.licence.toNat) 256
    let n := min 16 (m.d.len - m.d.read)
    let m := { m with
      p := { m.p with w := { m.p.w with blk := b } }
      d := { m.d with buf := m.d.buf ++ m.d.orderBytes key n, read := m.d.read + n } }
    m.flush id (m.d.read = m.d.len) 2

/-- One line of a copy without a program, or of a measured load. -/
def Mover.copy (m : Mover) (id : Nat) (x : SourceLine) : Mover :=
  let n := min 128 (m.d.len - m.d.read)
  let r := Mover.read m.d.skey x.hostData 3 m (m.d.src + m.d.read) n 0
  let s0 := scaleBytes false m.d.sfmt m.d.read
  let s := r.1.readScale x s0 (scaleBytes false m.d.sfmt (m.d.read + n) - s0)
  let m := s.1
  if m.st ≠ .ok then m
  else
    let final := m.d.read + n = m.d.len
    let m := { m with d := { m.d with
      read := m.d.read + n, buf := m.d.buf ++ r.2
      taken := if m.d.kind = DmaKind.measure then m.d.taken ++ r.2 else if m.d.dscaled then m.d.taken ++ s.2 else m.d.taken } }
    let m := m.flush id final 10
    if m.d.dscaled then m.flushScale id final 10 else m

/-- DMA_LINE: R351, R362 to R367, R281 to R283. -/
def execDmaLine (desc : Nat) (src : SourceLine) (acc : Access) (s : State) : Host.Outcome State Fault Refusal :=
  onMemoryWait s fun w =>
    match w.blk.running desc with
    | none => w
    | some d =>
      let m : Mover := { p := { w := w, feed := src.lines acc }, d := d }
      match d.kind with
      | .copy => if d.prog.isSome then w else (m.copy desc src).keep desc
      | .measure => (m.copy desc src).keep desc
      | .shuffle => if w.blk.epochWaits d then w else (m.shuffle desc).keep desc
      | .ingest => w

/-! ## Lane programs (R250, R251, R258, R268) -/

/-- The program frames of a unit with the program in one, or none when every frame is in use (R268). -/
def Block.takeFrame (b : Block) (id : Nat) (d : DmaDesc) (h : Nat) : Option Block :=
  let fs := b.frames.getD d.engine []
  let busy (x : Nat) : Bool := b.seq.dma.any fun e =>
    e.1 ≠ id && e.2.engine = d.engine && e.2.prog = some x && e.2.stage = .running
  let set (l : List Nat) : Block := { b with frames := b.frames.put d.engine l }
  if List.contains fs h then some (set (h :: fs.filter fun x => x ≠ h))
  else if fs.length < 16 then some (set (h :: fs))
  else (fs.reverse.find? fun x => !busy x).map fun v => set (h :: fs.filter fun x => x ≠ v)

/-- Adds to an operation counter (R480). -/
def Mover.count (m : Mover) (g k n : Nat) : Mover := { m with p := { m.p with w := m.p.w.on fun b => b.count g k n } }

/-- Output lines join the destination stream, their scale bytes the destination scale stream. -/
def Mover.release (m : Mover) (p : Program) (out : List LineReg) : Mover :=
  { m.count 8 p.outFmt out.length with d := { m.d with
    buf := m.d.buf ++ (out.map fun l => toLe (lineBytes p.outFmt) l.bits).flatten
    taken := if p.outScaled then m.d.taken ++ (out.map fun l =>
      (List.range (lineBlocks p.outFmt)).map fun i => BitVec.ofNat 8 (l.scale.getD i 127)).flatten else m.d.taken } }

/-- The lines of an invocation's input. -/
def invocationLines (p : Program) (data : Bytes) (scales : Bytes) : List LineReg :=
  groupsOf p.inFmt p.inScaled data (scales.map (·.toNat))

/-- What invocations have released goes to the destination and to its scale stream. -/
def Mover.flushAll (m : Mover) (id : Nat) (final : Bool) (fuel : Nat) : Mover :=
  let m := m.flush id final fuel
  if m.d.dscaled then m.flushScale id final fuel else m

/-- A program fault ends the descriptor, then its context; what earlier invocations released is written (R258, R364). -/
def Mover.progFault (m : Mover) (id h : Nat) (e : ProgFault) : Work :=
  let m := m.flushAll id true (m.d.buf.length + m.d.taken.length + 1)
  m.p.w.on fun b =>
    let b := { b with seq := { b.seq with dma := b.seq.dma.upd id fun _ => m.d } }
    (b.endDma id (if m.st = .ok then .badOperand else m.st)).programFault m.d.engine m.d.fn m.d.ctx.toNat h e

/-- LANE_INVOCATION: R250, R251, R258, R268, R364. The lines of the source come in order. -/
def execLaneInvocation (desc : Nat) (src : List SourceLine) (acc : Access) (s : State) : Host.Outcome State Fault Refusal :=
  onMemoryWait s fun w =>
    match (w.blk.running desc).filter fun d => d.kind = .copy with
    | none => w
    | some d =>
      match d.prog.bind fun h => (w.blk.programs.get? h).map fun p => (h, p) with
      | none => w
      | some (h, p) =>
        match w.blk.takeFrame desc d h with
        | none => w
        | some b =>
          let feed := (src.map fun x => x.lines {}).flatten ++ acc.rets
          let host : HostRead :=
            if src.any fun x => x.hostData = .err then .err
            else .data (src.map fun x => match x.hostData with
              | .data h => slice h 0 (lineBytes p.inFmt)
              | .err => []).flatten
          let m : Mover := { p := { w := { w with blk := b }, feed := feed }, d := d }
          let r := Mover.read d.skey host (p.inl + 3) m (d.src + d.read) p.invBytes 0
          let x : SourceLine := .host (.data []) ((src.map SourceLine.scaleData).flatten)
          let s := r.1.readScale x (scaleBytes true d.sfmt d.read) (p.inl * lineBlocks d.sfmt)
          let m := s.1
          if m.st ≠ .ok then m.keep desc
          else
            let m := m.count 7 p.inFmt p.inl
            match invoke p.code p.worst { pos := d.read, ctx := d.ctx.toNat } (invocationLines p r.2 s.2) with
            | .error (code, pc, k) => m.progFault desc h { code := code, pc := pc, k := k, pos := d.read }
            | .ok out =>
              let m := ({ m with d := { m.d with read := m.d.read + p.invBytes } } : Mover).release p out
              (m.flushAll desc (m.d.read = m.d.len) 40).keep desc

/-! ## Ingest (R279) -/

/-- Runs as many whole invocations as the plaintext gathered in `taken` gives; POS counts the plaintext stream. -/
def Mover.invokeAll (p : Program) : Nat → Mover → Nat → Except (Mover × ProgFault) Mover
  | 0, m, _ => .ok m
  | f + 1, m, pos =>
    if m.d.taken.length < p.invBytes then .ok m
    else
      let m := m.count 7 p.inFmt p.inl
      match invoke p.code p.worst { pos := pos, ctx := m.d.ctx.toNat } (invocationLines p (m.d.taken.take p.invBytes) []) with
      | .error (code, pc, k) => .error (m, { code := code, pc := pc, k := k, pos := pos })
      | .ok out =>
        let m := { m with d := { m.d with taken := m.d.taken.drop p.invBytes } }
        Mover.invokeAll p f (m.release p out) (pos + p.invBytes)

/-- Plaintext bytes of the next chunk. -/
def DmaDesc.chunkLen (d : DmaDesc) : Nat :=
  min (shardChunk d.header) (shardLen d.header - d.chunk * shardChunk d.header)

/-- INGEST_CHUNK: R277 to R279, R364, R365. It waits while its count would pass the committed mark (R289), and for a
program frame. -/
def execIngestChunk (desc : Nat) (chunk : HostRead) (acc : Access) (s : State) : Host.Outcome State Fault Refusal :=
  onMemoryWait s fun w =>
    match (w.blk.running desc).filter fun d => d.kind = .ingest with
    | none => w
    | some d =>
      let n := d.chunkLen
      let last := d.chunk + 1 = shardChunks d.header
      let counts : Counts := { bytes := n, shards := if last then 1 else 0 }
      let ends (st : Status) (w : Work) : Work := w.on fun b => b.endDma desc st
      match w.blk.installs.get? d.record with
      | none => ends .noKey w
      | some i =>
        if i.allowBytes < ((w.blk.meters.getD d.record {}).life.bytes) + n then ends .licenseExhausted w
        else if !w.blk.canConsume d.record counts then w
        else
          let prog := d.prog.bind fun h => (w.blk.programs.get? h).map fun p => (h, p)
          match if prog.isSome then w.blk.takeFrame desc d (d.prog.getD 0) else some w.blk with
          | none => w
          | some b =>
            match b.useKey d.engine d.skey d.fn d.ctx.toNat useD with
            | (.error st, b) => ends st { w with blk := b }
            | (.ok k, b) =>
              let w := { w with blk := b }
              match chunk with
              | .err => ends .translationFault w
              | .data c =>
                let d := { d with read := d.read + n + 16 }
                let w := w.on fun b => { b with seq := { b.seq with dma := b.seq.dma.upd desc fun _ => d } }
                match gcmOpen (k.key.toNat % 2 ^ 256) (slice d.header 8 4 ++ toLe 8 d.chunk) d.header (slice c 0 n) (slice c n 16) with
                | none =>
                  ends .integrityFail (w.on fun b => b.raise
                    { code := 0x37, engine := d.engine, fn := d.fn, ctx := d.ctx.toNat
                      data := [(0, i.licence.toNat), (4, bfld d.header 8 4), (8, d.chunk)] } [d.fn])
                | some pt =>
                  let w := w.on fun b => (b.consume d.record counts).count 9 0xF n
                  let base := d.chunk * shardChunk d.header
                  let m : Mover := { p := { w := w, feed := acc.rets }, d := { d with chunk := d.chunk + 1 } }
                  match prog with
                  | none =>
                    let m := { m with d := { m.d with buf := m.d.buf ++ pt } }
                    (m.flush desc last (2 ^ 18)).keep desc
                  | some (h, p) =>
                    let pos := base - m.d.taken.length
                    let m := { m with d := { m.d with taken := m.d.taken ++ pt } }
                    match Mover.invokeAll p (m.d.taken.length + 1) m pos with
                    | .ok m => (m.flush desc last (2 ^ 20)).keep desc
                    | .error (m, e) => m.progFault desc h e

end Sys2Proof.Machine
end

