-- ==== Sys2Proof/Machine/Registers.lean ====
section
/-! DEFINITION. Writes to the registers of the window: those that a plain register write updates, and those with commands
of their own that concern a register alone (R293 to R298, R309, R310, R368 to R375, R404, R415, R424, R428, R464,
R481 to R497). -/

namespace Sys2Proof.Machine

open Sys2Proof Sys2Proof.Machine.Crypto

/-! ## Global control -/

/-- Lines per window that the smallest built port is rated for (R424). -/
def Build.ratedLines (c : Build) : Nat := if 0 < c.t1 then 4800 else if 0 < c.lpes then 6400 else 9600

/-- A write to CX_BW_REQ_n (R424). -/
def Block.writeMinLines (b : Block) (fn n : Nat) (v : Reg) : Block :=
  let m := b.limits.minLines.put n (v.truncate 16)
  if 3 * b.build.ratedLines < 4 * ((Tab.vals m).map fun x => x.toNat).sum then b.regIgnored fn (0x2100 + 8 * n)
  else { b with limits := { b.limits with minLines := m } }

/-- A write to CX_BW_CLASS_c (R424). -/
def Block.writeWeight (b : Block) (fn c : Nat) (v : Reg) : Block :=
  if rfld v 0 11 = 0 ∨ 1024 < rfld v 0 11 then b.regIgnored fn (0x2300 + 8 * c)
  else { b with limits := { b.limits with weights := b.limits.weights.put c (v.truncate 11) } }

/-- A write to CX_GOV_CTL: RAIL_MASK, and CAL starts a calibration, or is ignored and counted while one runs (R415). -/
def Block.writeGov (b : Block) (fn : Nat) (mask : BitVec 8) (cal : Bool) : Block :=
  let b := { b with gov := { b.gov with railMask := mask } }
  if !cal then b
  else if b.gov.cal.isSome then b.regIgnored fn 0x2000
  else { b with gov := { b.gov with cal := some (0, 0) } }

/-- CALIBRATION_START: R415. -/
def execCalibrationStart (fn : Nat) (s : State) : Host.Outcome State Fault Refusal :=
  atRegister s fn 0x2000 fun b => b.writeGov fn b.gov.railMask true

/-- A write to CX_ALARM: a 1 clears a bit (R72, R483). -/
def Block.clearAlarm (b : Block) (v : Reg) : Block :=
  { b with obs := { b.obs with alarm := b.obs.alarm &&& ~~~(v.truncate 7) } }

/-- A group would change (R491). -/
def WayGroup.differs (w : WayGroup) (v : Reg) : Bool :=
  w.fn ≠ v.truncate 8 || w.assigned ≠ rbit v 8 || w.shared ≠ rbit v 9

/-- A write to CX_CC_WAY_g (R86, R491). -/
def Block.writeCcWay (b : Block) (fn g : Nat) (v : Reg) : Block :=
  let w := b.ways.getD g {}
  if g < 2 || w.busy || (rbit v 9 && !rbit v 8) then b.regIgnored fn (0x0300 + 8 * g)
  else if w.differs v then
    { b with ways := b.ways.put g { w with busy := true, next := some (v.truncate 8, rbit v 8, rbit v 9) } }
  else b

/-- A write to a global control register; LOAD and LEAVE of CX_DOM_CTL have commands of their own. -/
def Block.writeGlobal (b : Block) (fn off : Nat) (v : Reg) : Block :=
  if off = 0x0000 then
    if rfld v 0 16 < 10 then b.regIgnored fn off else { b with limits := { b.limits with fabUs := v.truncate 16 } }
  else if off = 0x0008 then
    if rfld v 0 16 < 2 then b.regIgnored fn off else { b with limits := { b.limits with t1Us := v.truncate 16 } }
  else if off = 0x0200 then b.clearAlarm v
  else if 0x0300 ≤ off && off < 0x0340 then b.writeCcWay fn ((off - 0x0300) / 8) v
  else if off = 0x0208 then
    { b with obs := { b.obs with alarmVector := v.truncate 11, alarmEnable := rbit v 11 } }
  else if off = 0x1000 then { b with domain := { b.domain with src := v } }
  else if off = 0x1008 then { b with domain := { b.domain with len := v.truncate 19 } }
  else if off = 0x1010 then { b with domain := { b.domain with split := b.domain.split && !rbit v 3 } }
  else if off = 0x2000 then b.writeGov fn (v.truncate 8) (rbit v 8)
  else if off = 0x2008 then
    { b with gov := { b.gov with deficitSeen := b.gov.deficitSeen && !rbit v 21, calClamp := b.gov.calClamp && !rbit v 23 } }
  else if 0x2100 ≤ off && off < 0x2300 then b.writeMinLines fn ((off - 0x2100) / 8) v
  else if 0x2300 ≤ off && off < 0x2380 then b.writeWeight fn ((off - 0x2300) / 8) v
  else if off = 0x2380 then { b with limits := { b.limits with qhigh := v.truncate 8 } }
  else if 0x2400 ≤ off && off < 0x2500 then
    { b with time := { b.time with asym := b.time.asym.put ((off - 0x2400) / 8) (v.truncate 32) } }
  else b

/-- ALARM_CLEAR: R72, R483. -/
def execAlarmClear (fn : Nat) (val : BitVec 64) (s : State) : Host.Outcome State Fault Refusal :=
  atRegister s fn 0x0200 fun b => b.clearAlarm val

/-- CC_WAY_WRITE: R86, R491. -/
def execCcWayWrite (fn : Nat) (g : BitVec 3) (val : BitVec 64) (s : State) : Host.Outcome State Fault Refusal :=
  atConfig s fn (0x0300 + 8 * g.toNat) val fun b => b.writeCcWay fn g.toNat val

/-! ## Observation -/

/-- A write to the ring select register: the window takes a copy of the ring (R481, R494). -/
def Block.selectRing (b : Block) (v : Reg) : Block :=
  { b with obs := { b.obs with ringSel := v.truncate 8, window := b.obs.rings.getD (rfld v 0 8) {} } }

/-- A write to an observation register (R464). -/
def Block.writeObserve (b : Block) (off : Nat) (v : Reg) : Block :=
  if off = 0x2_0000 then
    { b with obs := { b.obs with eccThreshold := v.truncate 8, eccLeak := BitVec.ofNat 16 (rfld v 8 16)
                                 eccVector := BitVec.ofNat 11 (rfld v 24 11), eccEnable := rbit v 35 } }
  else if off = 0x2_0018 then b.selectRing v
  else if off = 0x2_0008 then { b with obs := { b.obs with eccOverflow := b.obs.eccOverflow &&& ~~~(v.truncate 10) } }
  else b

/-- RING_SELECT: R481, R494. -/
def execRingSelect (fn : Nat) (val : BitVec 64) (s : State) : Host.Outcome State Fault Refusal :=
  atRegister s fn 0x2_0018 fun b => b.selectRing val

/-! ## Function pages -/

/-- Replaces 64 bits of a 2,048-bit area. -/
def setWord (x : BitVec 2048) (o : Nat) (v : Reg) : BitVec 2048 :=
  BitVec.ofNat 2048 (x.toNat - (fld x.toNat (8 * o) 64) <<< (8 * o) + v.toNat <<< (8 * o))

/-- A write to half of CX_CIP_IV, which clears CTR_END (R369, R371, R375). -/
def CipherPage.writeIv (c : CipherPage) (high : Bool) (v : Reg) : CipherPage :=
  { c with iv := if high then v ++ c.iv.truncate 64 else (c.iv >>> 64).truncate 64 ++ v, ctrEnd := false }

/-- A write to a cipher page; GO has a command of its own (R368 to R370). -/
def CipherPage.write (c : CipherPage) (o : Nat) (v : Reg) : CipherPage :=
  if o = 0x800 then
    { c with mode := v.truncate 3, dir := rbit v 3, ctrw := BitVec.ofNat 2 (rfld v 4 2)
             key := BitVec.ofNat 16 (rfld v 16 16), len := BitVec.ofNat 9 (rfld v 32 9) }
  else if o = 0x810 then c.writeIv false v
  else if o = 0x818 then c.writeIv true v
  else if o = 0x808 then { c with done := c.done && !rbit v 1, checkFail := c.checkFail && !rbit v 2 }
  else if o = 0x828 then { c with vector := v.truncate 11, irq := rbit v 11 }
  else if 0x900 ≤ o && o < 0xA00 then { c with dataIn := setWord c.dataIn (o - 0x900) v }
  else c

/-- CIP_IV_WRITE: R369, R371, R375. -/
def execCipIvWrite (fn page : Nat) (high : Bool) (val : BitVec 64) (s : State) : Host.Outcome State Fault Refusal :=
  atRegister s fn (pageOff page (if high then 0x818 else 0x810)) fun b =>
    b.modFn page fun p => { p with cipher := p.cipher.writeIv high val }

/-- A write to a function control register; `locked` when a fence of it is live or a page mapped (R293, R298, R305, R309, R310,
R354, R496, R497). -/
def Block.writeControl (b : Block) (locked : Bool) (fn f o : Nat) (v : Reg) : Block :=
  let p := b.fn f
  let no := b.regIgnored fn (pageOff f o)
  if o = 0xC08 then b.writeAlloc fn f v
  else if o = 0xC50 then b.writeFaultCtl fn f v
  else if o = 0xC10 then
    if 16320 < rfld v 0 14 then no else b.setFn f { p with keyQuota := v.truncate 14 }
  else if o = 0xC18 then if p.enabled then no else b.setFn f { p with regionLo := v.truncate 14 }
  else if o = 0xC20 then if p.enabled then no else b.setFn f { p with regionHi := v.truncate 14 }
  else if o = 0xC28 then
    if b.qps.any fun e => e.2.enabled && e.2.fn = f then no else b.setFn f { p with qtable := BitVec.ofNat 52 (rfld v 12 52) }
  else if o = 0xC30 then b.writeQpCtl f (rfld v 0 16) (rfld v 16 2)
  else if o = 0xC38 then if locked then no else b.setFn f { p with fenceRegion := v.truncate 14 }
  else if o = 0xC40 then b.writeMbox fn f v
  else if o = 0xC48 then
    if p.faultq.enable then no else b.setFn f { p with faultq := { p.faultq with base := BitVec.ofNat 52 (rfld v 12 52) } }
  else if o = 0xC58 then
    if p.ash.enable then no else b.setFn f { p with ash := { p.ash with baseA := BitVec.ofNat 52 (rfld v 12 52) } }
  else if o = 0xC60 then
    if p.ash.enable then no else b.setFn f { p with ash := { p.ash with baseB := BitVec.ofNat 52 (rfld v 12 52) } }
  else if o = 0xC68 then b.writeAshCtl fn f v
  else b

/-- A write to a function page (R292, R296, R495). -/
def Block.writePage (b : Block) (mem : List Host.Cell) (fn f o : Nat) (v : Reg) : Block :=
  match pageArea o with
  | .up => if f = 0 then b else b.modFn f fun p => { p with mboxUp := p.mboxUp.put (o / 8) v }
  | .down => if f = 0 then b else b.modFn f fun p => { p with mboxDown := p.mboxDown.put ((o - 0x400) / 8) v }
  | .cipher => b.modFn f fun p => { p with cipher := p.cipher.write o v }
  | .control => b.writeControl (b.fenceLocked mem f) fn f o v
  | .reserved => b

/-- A write to any register but a doorbell, which has a command of its own, with memory as it stands (R484 to R488). -/
def Block.regWrite (b : Block) (mem : List Host.Cell) (fn off : Nat) (v : Reg) : Block :=
  if off < 0x01_0000 then b.writeGlobal fn off v
  else if off < 0x02_0000 then b
  else if off < 0x10_0000 then b.writeObserve off v
  else if off < 0x20_0000 then b.writePage mem fn ((off - 0x10_0000) / 0x1000) (off % 0x1000) v
  else b

/-- REGISTER_WRITE: R4, R47, R486, R487. -/
def execRegisterWrite (fn off : Nat) (val : BitVec 64) (s : State) : Host.Outcome State Fault Refusal :=
  atConfig s fn off val fun b => b.regWrite s.mem fn off val

/-- A write that was held takes effect, unless it is refused by now (R19). -/
def Block.applyHeld (b : Block) (mem : List Host.Cell) (x : Nat × Nat × Reg) : Block :=
  if !b.reach x.1 x.2.1 true then b.regIgnored x.1 x.2.1
  else if 0x40_0000 ≤ x.2.1 then b.ringBell x.1 ((x.2.1 - 0x40_0000) / 8) x.2.2
  else b.regWrite mem x.1 x.2.1 x.2.2

/-- The writes held during a reset of the sequencer take effect in their order (R19). -/
def Block.applyWrites (b : Block) (mem : List Host.Cell) : List (Nat × Nat × Reg) → Block
  | [] => b
  | x :: r => (b.applyHeld mem x).applyWrites mem r

end Sys2Proof.Machine
end

