-- ==== Sys2Proof/Machine/Cipher.lean ====
section
/-! DEFINITION. The cipher engine's pages and the entropy source (R368 to R380, R383 to R387). -/

namespace Sys2Proof.Machine

open Sys2Proof Sys2Proof.Machine.Crypto

/-- Bits of the CTR counter field (R368). -/
def CipherPage.ctrBits (c : CipherPage) : Nat :=
  match c.ctrw.toNat with
  | 0 => 32
  | 1 => 64
  | _ => 128

/-- The usage that a page operation needs (R372). -/
def CipherPage.use (c : CipherPage) : Nat := if c.mode.toNat < 5 then (if c.dir then useD else useE) else useW

/-- R368 and R373. -/
def CipherPage.fieldsOk (c : CipherPage) : Bool :=
  let n := c.len.toNat
  1 ≤ c.mode.toNat && c.mode.toNat ≤ 6 && 1 ≤ n && n ≤ 256 && c.key.toNat < 2 ^ 14 &&
  (if c.mode = 2 then c.ctrw ≠ 3 else c.ctrw = 0) &&
  (if c.mode = 1 then n % 16 = 0
   else if c.mode = 5 then n % 8 = 0 && (if c.dir then 24 ≤ n else 16 ≤ n && n ≤ 248)
   else if c.mode = 6 then (if c.dir then n % 8 = 0 && 16 ≤ n else n ≤ 248)
   else true)

/-- The counter field of the block as a big-endian integer (R375). -/
def CipherPage.ctr (c : CipherPage) : Nat := be (toLe 16 c.iv.toNat) % 2 ^ c.ctrBits

/-- The counter block whose field holds `v`. -/
def CipherPage.ctrBlock (c : CipherPage) (v : Nat) : Bytes :=
  toBe 16 (be (toLe 16 c.iv.toNat) / 2 ^ c.ctrBits * 2 ^ c.ctrBits + v % 2 ^ c.ctrBits)

/-- AES blocks of an operation's text. -/
def CipherPage.textBlocks (c : CipherPage) : Nat := ceilDiv c.len.toNat 16

/-- R375: the operation would need the field to pass all ones, or CTR_END is set. -/
def CipherPage.ctrSpent (c : CipherPage) : Bool :=
  c.mode = 2 && (c.ctrEnd || 2 ^ c.ctrBits < c.ctr + c.textBlocks)

/-- What an operation ends with: output, next IV, CTR_END, OUT_LEN; OUT_LEN 0 is an integrity value that does not match
(R373 to R375). -/
def CipherPage.compute (c : CipherPage) (key : Nat) : Bytes × BitVec 128 × Bool × Nat :=
  let rk := roundKeys key
  let text := toLe c.len.toNat c.dataIn.toNat
  let iv := toLe 16 c.iv.toNat
  let chain (r : Bytes × Bytes) : Bytes × BitVec 128 × Bool × Nat :=
    (r.1, if c.len.toNat % 16 = 0 then BitVec.ofNat 128 (le r.2) else 0, c.ctrEnd, c.len.toNat)
  let whole (r : Bytes) : Bytes × BitVec 128 × Bool × Nat := (r, c.iv, c.ctrEnd, r.length)
  if c.mode = 1 then chain (if c.dir then cbcDec rk (split 16 text) iv else cbcEnc rk (split 16 text) iv)
  else if c.mode = 2 then
    let stream := ((List.range c.textBlocks).map fun i => aesBlock rk (c.ctrBlock (c.ctr + i))).flatten
    let last := c.ctr + c.textBlocks = 2 ^ c.ctrBits
    (xorBytes text stream,
     BitVec.ofNat 128 (le (if last then c.ctrBlock (2 ^ c.ctrBits - 1) else c.ctrBlock (c.ctr + c.textBlocks))),
     last, c.len.toNat)
  else if c.mode = 3 then chain (cfb rk c.dir (split 16 text) iv)
  else if c.mode = 4 then chain (ofb rk (split 16 text) iv)
  else if c.mode = 5 then whole (if c.dir then (kwUnwrap key text).getD [] else kwWrap key text)
  else whole (if c.dir then (kwpUnwrap key text).getD [] else kwpWrap key text)

/-- Cores 2 and 3 have taken another function's operation, or are free: the next one, in turn (R377). -/
def Block.pageTurn (b : Block) : Block :=
  if (b.fn b.cipherAt).cipher.running.isSome then b
  else
    match nextAfter 256 (b.cipherAt + 1) ((b.fns.filter fun p => p.2.cipher.running.isSome).map fun p => p.1) with
    | some f => { b with cipherAt := f }
    | none => b

/-- An operation ends: DONE, CODE and the interrupt (R369, R370). -/
def Block.cipherEnd (b : Block) (f : Nat) (st : Status) : Block :=
  let b := b.modFn f fun p =>
    { p with cipher := { p.cipher with busy := false, done := true, code := st, running := none, chain := [] } }
  if (b.fn f).cipher.irq then b.irq f (b.fn f).cipher.vector else b

/-- The checks of R376 after the life-cycle state, and the key's TYPE. -/
def Block.cipherCheck (b : Block) (f : Nat) (c : CipherPage) : Status :=
  if !b.boot.lc.serves then .deniedLifecycle
  else if !c.fieldsOk then .badOperand
  else
    firstBad [b.ownCheck c.key.toNat f (2 ^ 16), b.soundCheck c.key.toNat,
      if (b.slot c.key.toNat).typ = 1 then .ok else .badOperand,
      useCheck (b.slot c.key.toNat).mask (b.slot c.key.toNat).attr (some 5) c.use,
      if c.ctrSpent then .ctrExhausted else .ok]

/-- GO: the checks, then the operation starts (R371, R376, R377). -/
def Block.cipherStart (b : Block) (f : Nat) : Block :=
  let b := b.modFn f fun p =>
    { p with cipher := { p.cipher with busy := true, dataOut := 0, outLen := 0, checkFail := false } }
  let c := (b.fn f).cipher
  let st := if Tab.has b.resets 0x70 then .engineReset else b.cipherCheck f c
  if st ≠ .ok then (b.noticeCorrupt c.key.toNat st).cipherEnd f st
  else
    (b.modFn f fun p =>
      { p with
        cipher :=
          { p.cipher with
            running := some (c.compute (le (b.material c.key.toNat))), chain := (b.chain c.key.toNat).getD [] } }).pageTurn

/-- CIPHER_GO: R368, R371, R376. -/
def execCipherGo (fn page : Nat) (val : BitVec 64) (s : State) : Host.Outcome State Fault Refusal :=
  atRegister s fn (pageOff page 0x800) fun b =>
    let b := b.modFn page fun p => { p with cipher := p.cipher.write 0x800 val }
    if rbit val 63 then b.cipherStart page else b

/-- CIPHER_DONE: R374, R375, R377, R378, R380. The operation that ends is the one whose turn it is. -/
def execCipherDone (fn : Nat) (agree : Bool) (s : State) : Host.Outcome State Fault Refusal :=
  onBlock s fun b =>
    let c := (b.fn fn).cipher
    match c.running.filter fun _ => b.cipherAt = fn with
    | none => b
    | some (out, iv, ctrEnd, n) =>
      Block.pageTurn <|
      if c.discard then (b.modFn fn fun p => { p with cipher := {} }).settleResets
      else if !agree then
        let b := b.modFn fn fun p => { p with cipher := { p.cipher with checkFail := true } }
        let b := (b.cipherEnd fn .integrityFail).alarm 4 { code := 0x33, engine := 0x70, fn := fn } (ownerAndPf fn)
        if Tab.has b.resets 0x70 then b else { b with resets := b.resets.put 0x70 { cause := 3 } }
      else
        let b := b.modFn fn fun p =>
          { p with
            cipher :=
              { p.cipher with
                blocks := satAdd64 p.cipher.blocks p.cipher.textBlocks
                iv := if n = 0 then p.cipher.iv else iv
                ctrEnd := ctrEnd, outLen := n, dataOut := BitVec.ofNat 2048 (le out) } }
        (b.count 10 c.mode.toNat c.textBlocks).cipherEnd fn (if n = 0 then .integrityFail else .ok)

/-! ## Entropy -/

/-- The entropy source fails a test (R387). -/
def Block.entropyFail (b : Block) (test : Nat) : Block :=
  ({ b with boot := { b.boot with entropyDown := true } }).alarm 5
    { code := 0x34, engine := 0x72, blockwide := true, data := [(0, test)] } [0]

/-- ENTROPY_TEST_FAIL: R384, R387. Before kindling step 2 has ended the source has no output that could fail. -/
def execEntropyTestFail (test : BitVec 2) (s : State) : Host.Outcome State Fault Refusal :=
  onBlock s fun b => if test = 0 ∨ b.boot.entropyDown ∨ b.boot.step < 2 then b else b.entropyFail test.toNat

/-- ENTROPY_RESTART: R387. -/
def execEntropyRestart (pass : Bool) (s : State) : Host.Outcome State Fault Refusal :=
  onBlock s fun b =>
    if !b.boot.entropyDown ∨ 3 ≤ b.boot.entropyFails then b
    else if pass then
      { b with boot := { b.boot with entropyDown := false, entropyFails := 0 } }
    else ({ b with boot := { b.boot with entropyFails := b.boot.entropyFails + 1 } }).entropyFail 3

/-- DRBG_RESEED: R385. A failed source gives no seed (R387). -/
def execDrbgReseed (s : State) : Host.Outcome State Fault Refusal :=
  onBlock s fun b =>
    if b.boot.entropyDown then b else ({ b with boot := { b.boot with drbgRequests := 0 } } : Block).freshen

/-- MASK_REKEY: R386; while the source has failed the expanders run on from their last key (R387). -/
def execMaskRekey (s : State) : Host.Outcome State Fault Refusal :=
  onBlock s fun b =>
    if b.boot.entropyDown then b else ({ b with boot := { b.boot with maskDraw := b.fresh } } : Block).drew

end Sys2Proof.Machine
end

