-- ==== Sys2Proof/Machine/Governor.lean ====
section
/-! DEFINITION. The governor: the cord ledger, power partitions and limits, the rail and canaries, and bandwidth windows
(R53 to R58, R346, R414 to R424, R470). -/

namespace Sys2Proof.Machine

open Sys2Proof Sys2Proof.Machine.Crypto

def Block.modGov (b : Block) (f : Governor → Governor) : Block := { b with gov := f b.gov }

def Block.partition (b : Block) (p : Nat) : Partition := b.gov.parts.getD p {}

/-! ## The cord ledger -/

/-- The coefficient of an operation; the reserved type counts as MATRIX (R54, R414). -/
def Otp.coefOf (o : Otp) (op : Nat) : Nat := o.coef.getD (if op / 16 = 3 then op % 16 else op) 0

/-- GOV_ACT_REPORT: R53 to R55, R414, R480. -/
def execGovActReport (part : BitVec 4) (op : BitVec 6) (count : BitVec 16) (s : State) : Host.Outcome State Fault Refusal :=
  atPort .gov s <| onBlock s fun b =>
    if b.pins.blockSafe then b
    else
      (b.count (12 + op.toNat / 16) (op.toNat % 16) count.toNat).modGov fun g =>
        { g with now := g.now.mod part.toNat 0 fun x => x + count.toNat * b.otp.coefOf op.toNat }

/-- GOV_TEL_REPORT: the reading of a rail, which the calibration integrates (R53, R415). -/
def execGovTelReport (rail : BitVec 3) (mv : BitVec 12) (ca : BitVec 16) (s : State) : Host.Outcome State Fault Refusal :=
  atPort .gov s <| onBlock s fun b =>
    if b.pins.blockSafe then b
    else b.modGov fun g => { g with telemetry := g.telemetry.put rail.toNat (mv.toNat, ca.toNat) }

/-- Energy of the rails of RAIL_MASK in a microsecond, in 1/256 pJ: mV times 0.1 A is 0.1 mW (R415). -/
def Governor.railEnergy (g : Governor) : Nat :=
  ((g.telemetry.filter fun r => g.railMask.toNat.testBit r.1).map fun r => r.2.1 * r.2.2 * 25600).sum

/-- Bounds of the calibration factor: 0.875 and 1.125 with 30 fraction bits (R415). -/
def scaleLow : Nat := 0x3800_0000
def scaleHigh : Nat := 0x4800_0000

/-- The ratio of the integrated to the counted energy; the spec states none when nothing was counted (log 4). -/
def calRatio (tel counted : Nat) : Nat := if counted = 0 then (Config.open64 9 tel).toNat else tel * 2 ^ 30 / counted

/-- CALIBRATION_END: R415. -/
def execCalibrationEnd (s : State) : Host.Outcome State Fault Refusal :=
  onBlock s fun b =>
    match b.gov.cal with
    | none => b
    | some (tel, counted) =>
      let r := calRatio tel counted
      b.modGov fun g =>
        { g with cal := none, nextScale := some (min (max r scaleLow) scaleHigh)
                 calClamp := g.calClamp || r < scaleLow || scaleHigh < r }

/-! ## Partitions (R418) -/

/-- Units of level and accounts in a nanojoule, that is, a milliwatt for a microsecond. -/
def nanojoule : Nat := 256000 * 2 ^ 30

/-- The depth of a bucket: the cap for 1 ms. -/
def bucketDepth (cap : Nat) : Int := (cap * 1000 * nanojoule : Nat)

/-- A number held between two bounds. -/
def clampInt (x lo hi : Int) : Int := max lo (min hi x)

/-- A partition after a microsecond in which it counted an energy (R418). -/
def Partition.step (p : Partition) (energy : Nat) : Partition :=
  let d := bucketDepth p.cap
  let level := if p.cap = 0 then 0 else clampInt (p.level + (p.cap * nanojoule : Nat) - energy) (-d) d
  let target := if p.cap = 0 then 1024 else (clampInt (2048 * level / d) 0 1024).toNat
  { p with
    level := level
    limit := if p.limit < target then min target (p.limit + 16) else max target (p.limit - 16) }

/-- One partition's microsecond: its account, its bucket, its limit, which goes out when it changes. -/
def Block.govStep (b : Block) (p : Nat) : Block :=
  let e := b.gov.now.getD p 0 * b.gov.scale
  let q := (b.partition p).step e
  let changed := q.limit ≠ (b.partition p).limit
  let b := b.modGov fun g =>
    { g with accounts := if e = 0 then g.accounts else g.accounts.mod p 0 fun x => x + e
             parts := if q = g.parts.getD p {} then g.parts else g.parts.put p q }
  if changed then b.emit (.govLim p q.limit) else b

/-- GOVERNOR_TICK: R414, R415, R418, R419, R478. What the block's own lanes used, account 16, no port reports (log 4). A
governor in reset holds its limits. -/
def execGovernorTick (s : State) : Host.Outcome State Fault Refusal :=
  onBlock s fun b =>
    if b.pins.blockSafe || Tab.has b.resets 0x75 then b
    else
      let counted := ((List.range 16).map fun p => b.gov.now.getD p 0).sum
      let b := (List.range 16).foldl Block.govStep b
      b.freshen.modGov fun g =>
        { g with
          accounts := g.accounts.mod 16 0 fun x => x + (Config.open64 8 b.fresh).toNat * g.scale
          cal := g.cal.map fun c => (c.1 + g.railEnergy, c.2 + counted)
          now := []
          scale := g.nextScale.getD g.scale
          nextScale := none }

/-- Maps matrix engines to a partition (R53, R346). -/
def Block.mapEngines (b : Block) (p : Nat) : List Nat → Block
  | [] => b
  | e :: r => ((b.modGov fun g => { g with engineMap := g.engineMap.put e p }).emit (.govMap e p)).mapEngines p r

/-- PARTITION_SET: R346, R418. -/
def execPartitionSet (cmd : Nat) (s : State) : Host.Outcome State Fault Refusal :=
  onCommand s cmd 0x0B01 fun c b =>
    let p := dfld c.desc 16 1
    let cap := dfld c.desc 56 4
    if 4000000 < cap then b.fail cmd .badOperand
    else
      let b := b.mapEngines p ((List.range 256).filter fun n => (dfld c.desc 24 32).testBit n)
      (b.modGov fun g =>
        { g with parts := g.parts.mod p {} fun q =>
            { q with cap := cap, owner := dfld c.desc 17 1, level := bucketDepth cap } }).succeed cmd 0 0

/-- Counted energy of an account in whole microjoules. -/
def Block.countedUj (b : Block) (p : Nat) : Nat := b.gov.accounts.getD p 0 / (1000 * nanojoule)

/-- LEDGER_READ: R346. -/
def execLedgerRead (cmd : Nat) (s : State) : Host.Outcome State Fault Refusal :=
  onCommand s cmd 0x0B02 fun c b =>
    let p := dfld c.desc 16 1
    if c.fn ≠ 0 && (b.partition p).owner ≠ c.fn then b.fail cmd .badOperand
    else b.succeed cmd (b.countedUj p) ((b.partition p).limit + 2 ^ 32 * (b.partition p).cap)

/-! ## The rail (R56 to R58, R420, R421) -/

/-- DEFICIT follows the rail and the need; its rise is counted and reported (R421). -/
def Block.setDeficit (b : Block) : Block :=
  let d := b.gov.railMv < b.gov.needMv
  let rises := d && !b.gov.deficit
  let b := b.modGov fun g =>
    { g with deficit := d, deficitSeen := g.deficitSeen || d, deficits := if rises then g.deficits + 1 else g.deficits }
  if rises then b.raisePf 0x30 0x75 [(0, b.gov.needMv), (2, b.gov.railMv)] else b

/-- Requests a rail voltage when the regulator owes no answer (R56). -/
def Block.requestRail (b : Block) (mv : Nat) : Block :=
  if b.gov.railReq.isSome then b else (b.modGov fun g => { g with railReq := some mv }).emit (.railReq mv)

/-- RAIL_ACK: R56, R420, R421; a reserved code reads as REFUSED. -/
def execRailAck (code : BitVec 2) (mv : BitVec 10) (s : State) : Host.Outcome State Fault Refusal :=
  atPort .tref s <| onBlock s fun b =>
    match b.gov.railReq with
    | none => b
    | some r =>
      (b.modGov fun g =>
        { g with railReq := none
                 railMv := if code = 0 then r else if code = 2 then mv.toNat else g.railMv }).setDeficit

/-- RAIL_REQUEST_TIMEOUT: R58. -/
def execRailRequestTimeout (s : State) : Host.Outcome State Fault Refusal :=
  onBlock s fun b =>
    match b.gov.railReq with
    | none => b
    | some mv =>
      (b.modGov fun g => { g with railReq := none, railTimeouts := g.railTimeouts + 1 }).raisePf 0x31 0x75 [(0, mv)]

/-- V - (r - n) / k of one canary, rounded up to a whole mV; a part without a slope gives no value (R420, log 4). -/
def canaryNeed (v k : Nat) (c : CanaryRate) : Nat :=
  if k = 0 then (Config.open64 10 c.rate).toNat % 1024
  else (-(((c.rate : Int) - c.need - v * k) / k)).toNat

/-- The need of every engine as its canary last showed it, after a measurement (R420). -/
def Block.canaryNeeds (b : Block) (rates : List CanaryRate) : Tab Nat :=
  rates.foldl (fun t c => t.put c.engine (canaryNeed b.gov.railMv b.otp.slope c)) b.gov.needs

/-- The voltage to request for a need (R420). -/
def railTarget (need : Nat) : Nat := min (max (ceilDiv (need + 30) 5 * 5) 700) 850

/-- Whether the engine of a canary withholds credits from now on (R21, R421). -/
def Block.setShort (b : Block) (c : CanaryRate) : Block :=
  let d : Bool := c.rate < c.need
  if c.engine < b.build.mces then
    let b := b.modMce c.engine fun m => { m with short := d }
    if d then b else b.payCredits c.engine
  else if 0x40 ≤ c.engine && c.engine < 0x40 + b.build.lpes then
    (b.modLpe (c.engine - 0x40) fun l => { l with short := d }).payLpe (c.engine - 0x40)
  else b

/-- CANARY_MEASURE: R420, R421. -/
def execCanaryMeasure (rates : List CanaryRate) (s : State) : Host.Outcome State Fault Refusal :=
  onBlock s fun b =>
    let rates := rates.filter fun c => c.engine < 0x60 && b.build.engineBuilt c.engine
    if b.pins.blockSafe || rates.isEmpty then b
    else
      let needs := b.canaryNeeds rates
      let need := (Tab.vals needs).foldl max 0
      let b := rates.foldl Block.setShort (b.modGov fun g => { g with needs := needs, needMv := need })
      let b := b.setDeficit
      if b.gov.railMv < railTarget need then b.requestRail (railTarget need) else b

/-- RAIL_LOWER_REQUEST: R420. -/
def execRailLowerRequest (s : State) : Host.Outcome State Fault Refusal :=
  onBlock s fun b =>
    if b.pins.blockSafe || b.gov.railMv < b.gov.needMv + 50 || b.gov.railMv ≤ railTarget b.gov.needMv then b
    else b.requestRail (railTarget b.gov.needMv)

/-! ## Bandwidth windows (R422, R470) -/

/-- Background work is pending at an engine: a bind, a rekey or a rake pass over lines of it (R470). -/
def Block.background (b : Block) (e : Nat) : Bool :=
  e < b.build.mces &&
  ((b.regions.binds.any fun j => Tab.has j.2.next e) || (b.regions.rekeys.any fun j => Tab.has j.2.next e) ||
    !b.seq.rakes.isEmpty)

/-- What each requester may take of a window at least, and whether the minimums had to be scaled. -/
def Block.windowMins (b : Block) (capacity : Nat) : Tab Nat × Bool :=
  let m := (b.limits.minLines.map fun e => (e.1, e.2.toNat)).filter fun e => 0 < e.2
  let sum := (m.map fun e => e.2).sum
  if capacity < sum then (m.map fun e => (e.1, e.2 * capacity / sum), true) else (m, false)

/-- BANDWIDTH_WINDOW: R422, R470. -/
def execBandwidthWindow (engine : Nat) (capacity : Nat) (s : State) : Host.Outcome State Fault Refusal :=
  atEngine engine s <| onBlock s fun b =>
    let left := if b.background engine then capacity - ceilDiv capacity 64 else capacity
    let w := b.windowMins left
    if engine < b.build.mces then
      b.modMce engine fun m =>
        { m with capacity := capacity, minLeft := w.1, deficit := [], minShort := m.minShort + bit w.2 }
    else if 0x40 ≤ engine && engine < 0x60 then
      b.modLpe (engine - 0x40) fun l =>
        { l with capacity := capacity, minLeft := w.1, deficit := [], minShort := l.minShort + bit w.2 }
    else b

end Sys2Proof.Machine
end

