-- ==== Sys2Proof/Machine/Boot.lean ====
section
/-! DEFINITION. Power, kindling and shut-down, signed objects, patch bundles, and the opening of debug (R60 to R63, R111 to
R113, R148, R384, R429 to R431, R434, R435, R439, R441 to R457, R499). -/

namespace Sys2Proof.Machine

open Sys2Proof Sys2Proof.Machine.Crypto

/-! ## Life-cycle codewords (R429, R430) -/

/-- The codeword of a state. -/
def LifeCycle.word : LifeCycle → Nat
  | .blank => 0
  | .test => 0xFFFF
  | .production => 0xFFFF_FFFF
  | .endOfLife => 0xFFFF_FFFF_FFFF_FFFF
  | .invalid => 0

/-- The bitwise majority of the three copies (R430). -/
def Otp.lcPattern (o : Otp) : BitVec 64 := (o.lc0 &&& o.lc1) ||| (o.lc0 &&& o.lc2) ||| (o.lc1 &&& o.lc2)

/-- The state that kindling decodes. -/
def Otp.lifeCycle (o : Otp) : LifeCycle :=
  (([.blank, .test, .production, .endOfLife] : List LifeCycle).find? fun l => l.word = o.lcPattern.toNat).getD .invalid

/-- The bit of a state in STATES of a signed object (R434). -/
def LifeCycle.bitOf (l : LifeCycle) : Nat := l.code

/-! ## Signed objects (R434, R435) -/

/-- The form of a signed object of a kind, without its signature and key. -/
def objectForm (kind : Nat) (o : Bytes) : Bool :=
  o.length = 7347 && bfld o 0 4 = 0x43565843 && bfld o 4 1 = kind && (kind < 3 || bfld o 5 1 = 0) && allZero (slice o 7 1) &&
  (3 ≤ kind || bfld o 8 4 = 0) && (kind = 3 || bfld o 12 4 = 0) && (kind = 4 || allZero (slice o 24 48)) &&
  allZero (slice o 72 56)

/-- R435, given the verdict on the signer's key and the signature. -/
def Block.objectOk (b : Block) (kind : Nat) (o : Bytes) (sigOk : Bool) : Bool :=
  objectForm kind o && sigOk && bfld o 16 8 = b.otp.serial.toNat && (bfld o 6 1).testBit b.boot.lc.bitOf

/-- Every right that R439 defines. -/
def rightsMask : Nat := 0x7F

/-- TRIM of R439. -/
def trimRight : Nat := 4

/-- A debug certificate is accepted: R435, R439, R441. -/
def Block.certOk (b : Block) (o : Bytes) (sigOk : Bool) : Bool :=
  let early := b.boot.lc = .blank || b.boot.lc = .test
  b.objectOk 3 o sigOk && bfld o 8 4 ≤ rightsMask &&
  (if bfld o 12 4 = 0 then early else bfld o 12 4 = b.boot.meterEpoch.toNat) &&
  (early || !(bfld o 8 4).testBit trimRight)

/-! ## Block-owned slots (R94, R99, R499) -/

/-- Writes a block-owned slot. Its PARENT_GEN is slot 0's generation; slot 0 has no parent, and the model gives it the same
value (log 122). -/
def Block.ownSlot (b : Block) (n : Nat) (mat : Bytes) (typ usage mask level : Nat) : Block :=
  b.writeSlot n mat (BitVec.ofNat 16 mask) (makeAttr usage level typ false false false) 0 0 0 (b.slot 0).gen 0 true

/-- X of the alias labels. -/
def Block.aliasInput (b : Block) : Bytes :=
  toBe 48 b.boot.digest.toNat ++ toLe 2 b.boot.otpSvn.toNat ++ toLe 1 b.boot.lc.code ++ toLe 4 b.boot.rights.toNat

/-- Slots 3 to 5 (R442 step 4). -/
def Block.aliasSlots (b : Block) : Block :=
  let root := b.deriveKey 0
  let x := b.aliasInput
  ((b.ownSlot 3 (derive root "CX.alias.pq" x 256) 4 useE 0x40 1).ownSlot 4
    (p384Reduce (derive root "CX.alias.ec" x 448)) 5 useE 0x40 1).ownSlot 5 (derive root "CX.alias.kem" x 512) 3 useD 0x40 1

/-- The alias certificates are signed with a draw of their own (R388). -/
def Block.signAlias (b : Block) : Block := { b.drew with boot := { b.drew.boot with certDraw := b.fresh } }

/-- Slots 0 to 7 (R499); until a manifest assigns one, the block's id is the provisional one. -/
def Block.identitySlots (b : Block) : Block :=
  let b := b.ownSlot 0 [] 2 useV 0xFFF 0
  let root := b.deriveKey 0
  let b := (b.ownSlot 1 (derive root "CX.devid.pq" [] 256) 4 useE 0x40 1).ownSlot 2
    (p384Reduce (derive root "CX.devid.ec" [] 448)) 5 useE 0x40 1
  let b := (b.aliasSlots.ownSlot 6 (derive root "CX.seal" (toLe 1 b.boot.lc.code) 256) 1 useV 0xFFF 1).ownSlot 7
    b.otp.rpmbKey 1 (useE + useD) 0x80 1
  { b.signAlias with boot := { b.signAlias.boot with blockId := BitVec.ofNat 12 b.provisional, assigned := false } }

/-! ## Opening debug (R442) -/

/-- Slots from 8 upward that hold a key. -/
def Block.keysFrom8 (b : Block) : List Nat :=
  Tab.keys (α := KeySlot) (b.keys.slots.filter fun e => 8 ≤ e.1 && !e.2.isEmpty)

/-- Slots 3 to 5 are derived again: each is emptied first, so that its generation rises (R89, R110, R442 step 4). -/
def Block.newAlias (b : Block) : Block :=
  if b.otp.root.isSome then (((b.emptySlot 3).emptySlot 4).emptySlot 5).aliasSlots.signAlias else b

/-- A command of families 0x01 to 0x09 (R82). -/
def Cmd.closedByDebug (c : Cmd) : Bool := 0x0100 ≤ c.opcode && c.opcode < 0x0A00

/-- The commands of families 0x01 to 0x09 that have not committed fail with DEBUG_OPEN: those that have not begun, and those
that wait for a relayed operation (R82, R323, R324). -/
def Block.failOpen (b : Block) : Block :=
  let early := Tab.keys (α := Cmd) (b.seq.cmds.filter fun e => e.2.closedByDebug && e.2.stage ≠ .waiting)
  let held := b.seq.relays.filter fun r => r.live && (r.what.cmd?.any fun id => (b.cmd? id).any Cmd.closedByDebug)
  held.foldl (fun b r => b.abandonRelay .debugOpen r.seq r.what) (early.foldl (fun b id => b.fail id .debugOpen) b)

/-- Debug opens with new rights (R82, R442). -/
def Work.openDebug (w : Work) (acc : Access) (rights : Nat) : Work :=
  let w := w.on fun b => { b with boot := { b.boot with rights := b.boot.rights ||| BitVec.ofNat 32 rights } }
  (w.leaveDomain acc).on fun b =>
    let b := (b.invalidateAll b.keysFrom8).kxpDropAll.newAlias
    ({ b with boot := { b.boot with debugOpen := true } } : Block).failOpen

/-! ## Patch bundles (R451 to R455) -/

/-- Both keys of a bundle have the digests held in ROM, and both signatures verify (R451, R454). -/
def bundleSigned (i : Bytes) : Bool :=
  let n := 64 + bfld i 20 4
  sha384 (slice i n 2592) = Config.romDigest 2 && mldsaVerify (slice i n 2592) (i.take n) (slice i (n + 2592) 4627) &&
  sha384 (slice i (n + 7219) 97) = Config.romDigest 3 && p384Verify (slice i (n + 7219) 97) (i.take n) (slice i (n + 7316) 96)

/-- A bundle in a slot of the flash passes the checks of PATCH_VERIFY. -/
def Block.flashBundleOk (b : Block) (f : FlashRead) : Bool :=
  let i := f.image
  let n := bfld i 16 4
  n ≤ 2 ^ 24 && n = 64 + bfld i 20 4 + 7412 && n ≤ i.length && bfld i 0 4 = 0x42505843 && bfld i 4 2 = 1 && bfld i 6 2 ≤ 128 &&
  bfld i 12 2 = 0x17 && bfld i 14 1 = 2 && allZero (slice i 15 1) && allZero (slice i 24 40) && bundleSigned i && b.otp.svn ≤ bfld i 6 2

/-- The bundle digest. -/
def flashDigest (f : FlashRead) : BitVec 384 := BitVec.ofNat 384 (be (sha384 (f.image.take (bfld f.image 16 4))))

def PatchRecord.slot (r : PatchRecord) : SlotName → SlotRecord
  | .a => r.slotA
  | .b => r.slotB

def PatchRecord.setSlot (r : PatchRecord) (n : SlotName) (s : SlotRecord) : PatchRecord :=
  match n with
  | .a => { r with slotA := s }
  | .b => { r with slotB := s }

/-- The inactive slot (R453). -/
def PatchRecord.inactive (r : PatchRecord) : SlotName := if r.active = some .a then .b else .a

/-- check(s) of R455. -/
def Block.slotCheck (b : Block) (rec : PatchRecord) (s : SlotName) (f : FlashRead) : Bool :=
  b.flashBundleOk f && flashDigest f = (rec.slot s).digest

/-- The thermometer code of a security version (R452). -/
def thermometer (n : Nat) : BitVec 128 := BitVec.ofNat 128 (2 ^ n - 1)

/-- Raises the security version in all three copies (R452). -/
def Block.raiseSvn (b : Block) (n : Nat) : Block :=
  if b.otp.svn < n then
    { b with otp := { b.otp with svn0 := b.otp.svn0 ||| thermometer n, svn1 := b.otp.svn1 ||| thermometer n,
                                 svn2 := b.otp.svn2 ||| thermometer n } }
  else b

/-- A record write that kindling makes and waits for (R443, R455). -/
def Block.bootWrite (b : Block) (w : RelayFor) : Block :=
  let b := b.message w.op [w.frame b.store b.otp.rpmbKey b.store.writes 0]
  { b with store := (b.store.accept w).counted w }

/-- A relayed read of kindling, under a fresh nonce (R68, R443). -/
def Block.bootRead (b : Block) (op : BitVec 8) (f : Frame) : Block :=
  b.drew.message op [({ f with nonce := (b.random 128).toNat } : Frame).bytes []]

/-- The block programs a device's authentication key with the slot 7 key: the device has held nothing until now (R113,
log 120). -/
def Block.programKey (b : Block) : Block :=
  let b := b.message 0x01 [({ kind := kindKey } : Frame).bytes b.otp.rpmbKey]
  { b with store := {} }

/-- Recovery: the ROM firmware alone (R456). -/
def Block.enterRecovery (b : Block) : Block := { b with boot := { b.boot with recovery := true } }

/-- Runs a slot. -/
def Block.runSlot (b : Block) (rec : PatchRecord) (s : SlotName) (trial : Bool) : Block :=
  let x := rec.slot s
  { b with boot := { b.boot with slot := some s, onTrial := trial, version := x.version, svn := x.svn, digest := x.digest } }

/-- Where a patch slot stands in the boot flash (R450). -/
def slotBase : SlotName → Nat
  | .a => 0x100_0000
  | .b => 0x200_0000

/-- Step 5 (R455); each slot that is checked is read (R65). -/
def Block.chooseSlot (b : Block) (flash : SlotName → FlashRead) : Block :=
  let read (b : Block) (s : SlotName) : Block := b.emit (.flashRead (slotBase s) (flash s).image.length)
  let rec0 := b.store.patch
  let clear : PatchRecord := { rec0 with trial := none, trialBoots := false }
  let active (b : Block) : Block :=
    match rec0.active with
    | none => b
    | some s =>
      let b := read b s
      if b.slotCheck rec0 s (flash s) then (b.raiseSvn (rec0.slot s).svn.toNat).runSlot rec0 s false else b.enterRecovery
  match rec0.trial with
  | none => active b
  | some t =>
    if rec0.trialBoots then active (b.bootWrite (.patch none clear))
    else
      let b := read (b.bootWrite (.patch none { rec0 with trialBoots := true })) t
      if b.slotCheck rec0 t (flash t) then b.runSlot rec0 t true else active (b.bootWrite (.patch none clear))

/-! ## Kindling (R443 to R446) -/

/-- A step that fails stops kindling there; the spec gives its status no number (R444, log 4). -/
def Block.stopKindling (b : Block) : Block :=
  { b with
    boot := { b.boot with
      running := false, failed := true
      code := (Status.ofCode ((Config.open64 14 (b.boot.step + 1)).toNat % 2 ^ 16)).getD .notReady } }

/-- Step n has been completed. -/
def Block.stepped (b : Block) (n : Nat) : Block := { b with boot := { b.boot with step := n } }

/-- The root is drawn and programmed when it is due (R111, R112). -/
def Block.makeRoot (b : Block) : Block :=
  if !b.boot.lc.serves || b.otp.root.isSome then b
  else
    let r := b.random 512
    let check (bank : Nat) : BitVec 64 := BitVec.ofNat 64 (le (kmac256 (toLe 64 r.toNat) [BitVec.ofNat 8 bank] 64 "CX.rootchk"))
    if b.otp.emptyA then { b.drewReseeded with otp := { b.otp with rootA := r, checkA := check 0 } }
    else if b.otp.emptyB then { b.drewReseeded with otp := { b.otp with rootB := r, checkB := check 1 } }
    else { b with boot := { b.boot with noRoot := true } }

/-- The tree key, the scramble keys and, in tier 1, the root of one MCE (R134, R142, R148). -/
def Block.drawMce (b : Block) (e : Nat) : Block :=
  let k := b.random 256
  let b := b.drewReseeded
  let k0 := b.random 64
  let b := b.drewReseeded
  let k1 := b.random 64
  let b := b.drewReseeded
  let major := b.random 48
  let root : Node := { major := major.zeroExtend 49 }
  let b := b.drew.modMce e fun m =>
    { m with treeKey := k, k0 := k0, k1 := k1, roots := if e < b.build.t0 then [] else [(0, root)] }
  if e < b.build.t0 then b else b.emit (.mctlTree e root.major)

/-- Step 2: the root when it is due, the slot-protection key, tree and scramble keys. -/
def Block.drawKeys (b : Block) : Block :=
  let b := b.makeRoot
  let b := { b.drewReseeded with keys := { b.keys with spk := b.random 256 } }
  (List.range b.build.mces).foldl Block.drawMce b

/-- Step 3: the replay-protected store (R113, R443, R444, R446). Without a root no frame can be authenticated, and no key
check passes. -/
def Block.openStore (b : Block) (a : StoreAnswer) : Block :=
  let b := b.bootRead 0x03 { kind := kindCounter }
  match if b.otp.root.isNone ∧ a ≠ .absent then .mismatch else a with
  | .absent => b.alarm 6 { code := 0x35, blockwide := true, data := [(0, 2)] } [0]
  | .mismatch => b.alarm 6 { code := 0x35, blockwide := true, data := [(0, 1)] } [0]
  | a =>
    let b := (if a = .unprogrammed then b.programKey else b).bootRead 0x02 { kind := kindRead, blocks := 2 }
    let epoch := b.store.boot.meterEpoch + 1
    ({ b with boot := { b.boot with storeOk := true, unwarned := b.store.boot.running, meterEpoch := epoch } }).bootWrite
      (.boot { running := true, meterEpoch := epoch, tick := b.tick })

/-- Step 4: the boot flash is read for the first time, and a start-up debug certificate opens debug, or is refused by count
(R65, R441, R442, R450). -/
def Block.startupCert (b : Block) (o : Option Bytes) : Block :=
  let b := b.emits [.flashSfdp, .flashOctal, .flashRead 0x010_0000 7347]
  match o with
  | none => b
  | some x =>
    if b.certOk x (objectSigned x) then
      { b with boot := { b.boot with rights := BitVec.ofNat 32 (bfld x 8 4), debugOpen := true } }
    else { b with boot := { b.boot with certRefused := b.boot.certRefused + 1 } }

/-- Credits of the memory request ports (R34). -/
def Block.grantMce (b : Block) (e : Nat) : Block :=
  ((b.modMce e fun m => { m with aCrd := 64, wCrd := 64 }).emitTimes (.mreqACrd e) 64).emitTimes (.mreqWCrd e) 64

/-- Credits of an LPE: its request port, and the beats that it may receive (R41, R44). -/
def Block.grantLpe (b : Block) (n : Nat) : Block :=
  (((b.modLpe n fun l => { l with aCrd := 64, wCrd := 128, rxCrd := 128 }).emitTimes (.lreqACrd n) 64).emitTimes (.lreqWCrd n) 128).emit
    (.lphyRxCrd n 128)

/-- The certificates of the flash: the chains are offered when the device certificates hold the keys that the block derives and
the Akoirno certificates verify (R388, R389, R450). -/
def Block.takeCerts (b : Block) (area : Bytes) (rootsOk : Bool) : Block :=
  let b := { b with boot := { b.boot with flashCerts := (List.range 4).map (areaCert area), rootsOk := rootsOk } }
  { b with
    boot := { b.boot with
      certs := rootsOk && (readCert true (b.flashCert 0)).key = b.devidPq && (readCert false (b.flashCert 2)).key = b.devidEc } }

/-- Step 6: identities, the certificates of the flash, and the LPEs send HELLO (R398, R443). -/
def Block.bringUpLinks (b : Block) (area : Bytes) (rootsOk : Bool) : Block :=
  let b := if b.boot.noRoot then b else b.identitySlots
  let b := ((b.emit (.flashRead 0 area.length)).takeCerts area rootsOk).stepped 6
  let b := (List.range b.build.lpes).foldl Block.grantLpe b
  (List.range b.build.lpes).foldl Block.sendHello b

/-- The meter records are read: counts resume at their marks, and after an unwarned loss every live record is flagged
(R284, R290). -/
def Block.readMeters (b : Block) : Block :=
  let b := { b with boot := { b.boot with metersRead := true } }
  let b := { b with meters := (b.store.meters.filter fun (e : Nat × MeterRecord) => e.2.state ≠ MeterState.free).map fun (e : Nat × MeterRecord) =>
    (e.1, ({ life := e.2.lifeMarks, period := e.2.openMarks } : Meter)) }
  let b := b.turnPeriods (fun _ => 0) b.openRecords
  if b.boot.unwarned then
    (b.openRecords.filter fun k => (b.latestRecord k).state = .live).foldl (fun b k => b.relay (.meter k { b.latestRecord k with unwarned := true })) b
  else b

/-- Step 7: READY. -/
def Block.becomeReady (b : Block) : Block :=
  let b := { b with boot := { b.boot with step := 7, ready := true, running := false } }
  let b := (List.range b.build.mces).foldl Block.grantMce b
  if b.boot.storeOk then b.relay .readMeters else b

/-- Step 1: the life-cycle state, the tick and the first request for the rail (R56, R427, R430). -/
def Block.wakeUp (b : Block) : Block :=
  (({ b with boot := { b.boot with lc := b.otp.lifeCycle }, time := { b.time with valid := true, tick := 0 } }).stepped 1).requestRail 800

/-- An entropy failure at step 2 is retried until the third (R387, R444). -/
def Block.entropyRetry (b : Block) : Block :=
  let b := ({ b with boot := { b.boot with entropyFails := b.boot.entropyFails + 1 } }).alarm 5
    { code := 0x34, engine := 0x72, blockwide := true, data := [(0, 3)] } [0]
  if 3 ≤ b.boot.entropyFails then b.stopKindling else b

/-- KINDLING_STEP_DONE: R443 to R446, R455. Outside Test and Production only steps 1, 2 and 7 run; without a store step 4
is skipped and step 5 enters recovery. -/
def execKindlingStepDone (r : StepReport) (s : State) : Host.Outcome State Fault Refusal :=
  onBlock s fun b =>
    if !b.boot.running || b.pins.blockSafe then b
    else
      match b.boot.step with
      | 0 => if r.pass then b.wakeUp else b.stopKindling
      | 1 =>
        if !r.pass then b.entropyRetry
        else ({ b.drawKeys with boot := { b.drawKeys.boot with entropyFails := 0 } } : Block).stepped 2
      | 2 =>
        if !b.boot.lc.serves then
          (if r.pass then ((List.range b.build.lpes).foldl Block.grantLpe b).becomeReady else b.stopKindling)
        else if !r.pass then b.stopKindling
        else
          let b := b.openStore r.store
          b.stepped (if b.boot.storeOk then 3 else 4)
      | 3 => if r.pass then (b.startupCert r.startupCert).stepped 4 else b.stopKindling
      | 4 =>
        if !r.pass then b.stopKindling
        else
          let b := if b.boot.storeOk then b.chooseSlot (fun
              | .a => r.slotA
              | .b => r.slotB) else b.enterRecovery
          ({ b with boot := { b.boot with otpSvn := BitVec.ofNat 16 b.otp.svn } }).stepped 5
      | 5 => if r.pass then b.bringUpLinks r.certs r.rootsOk else b.stopKindling
      | 6 => if r.pass then b.becomeReady else b.stopKindling
      | _ => b

/-- KINDLING: R443: both `por_n` and `pwr_good` come to be high. -/
def execKindling (s : State) : Host.Outcome State Fault Refusal :=
  onBlock s fun b =>
    if b.pins.porN && b.pins.pwrGood && !b.pins.warn then b
    else ({ b with pins := { b.pins with porN := true, pwrGood := true, warn := false } }).startKindling

/-- Crossings of the `mgmt_*` shell, which the auxiliary rail powers (R63). -/
def Cross.auxiliary (c : Cross) : Bool := c.shell = .mgmt

/-- The block loses everything volatile without a shut-down (R62): every shell but that of `mgmt_*` loses what it held (R27,
R63). -/
def Block.lose (b : Block) : Block :=
  let b := b.cutRoot
  let b := { b.cold with time := {}, held := b.held.filter Cross.auxiliary, seq := { b.cold.seq with writes := [], reads := [] } }
  { b with pins := { b.pins with blockSafe := true } }

/-- POR_ASSERT: R60, R62, R73. -/
def execPorAssert (s : State) : Host.Outcome State Fault Refusal :=
  onBlock s fun b => { b.lose with pins := { b.pins with porN := false, alarmFatal := false, blockSafe := true } }

/-- PWR_GOOD_FALL: R62. -/
def execPwrGoodFall (s : State) : Host.Outcome State Fault Refusal :=
  onBlock s fun b => { b.lose with pins := { b.pins with pwrGood := false, blockSafe := true } }

/-- PWR_FAIL_WARN: R61, R447 to R449. -/
def execPwrFailWarn (supplyBack : Bool) (s : State) : Host.Outcome State Fault Refusal :=
  onBlock s fun b =>
    if b.pins.blockSafe then b
    else
      let b := b.shutDown
      if supplyBack then b.startKindling else { b with pins := { b.pins with warn := true } }

/-! ## Whole-block rung and power cycle (R73, R475) -/

/-- ALARM_FATAL_TIMEOUT: R73, R475. -/
def execAlarmFatalTimeout (s : State) : Host.Outcome State Fault Refusal :=
  onBlock s fun b =>
    if b.pins.alarmFatal && !b.boot.powerCycling then
      ({ b with boot := { b.boot with powerCycling := true } }).message 0x10 []
    else b

/-- POWER_CYCLE_RETRY: R475. -/
def execPowerCycleRetry (s : State) : Host.Outcome State Fault Refusal :=
  onBlock s fun b => if b.boot.powerCycling then b.message 0x10 [] else b

/-- POWER_CYCLE_ACK: R68, R475. -/
def execPowerCycleAck (s : State) : Host.Outcome State Fault Refusal :=
  atPort .mgmt s <| onBlock s fun b => { b with boot := { b.boot with powerCycling := false } }

end Sys2Proof.Machine
end

