-- ==== Sys2Proof/Machine/LifeCycle.lean ====
section
/-! DEFINITION. Life-cycle transitions, debug commands, patch commands and the test access port (R70, R348, R431, R433,
R436 to R442, R454). -/

namespace Sys2Proof.Machine

open Sys2Proof Sys2Proof.Machine.Crypto

/-- A command succeeds, and the block restarts once its record has been written (R436, R454). -/
def Block.succeedRestart (b : Block) (id : Nat) : Block :=
  match b.cmd? id with
  | none => b
  | some c =>
    if !(b.qp c.qp).enabled then (b.succeed id 0 0).restart
    else (b.succeed id 0 0).modQp c.qp fun p => { p with done := match p.done.reverse with
      | [] => []
      | r :: rest => (({ r with restart := true } : Rec) :: rest).reverse }

/-- Every VF is QUIESCED or not ENABLED (R436, R454). -/
def Block.vfsQuiet (b : Block) : Bool := b.fns.all fun e => e.1 = 0 || !e.2.enabled || e.2.quiesced

/-! ## LC_TRANSITION (R433, R436 to R438) -/

/-- The codeword that a TARGET programs. -/
def targetWord : Nat → Option Nat
  | 0x01 => some LifeCycle.test.word
  | 0x02 => some LifeCycle.production.word
  | 0x03 => some LifeCycle.endOfLife.word
  | 0x0F => some LifeCycle.endOfLife.word
  | _ => none

/-- The kind of signed object that a transition needs: 0 none; no transition otherwise (R433). -/
def transitionKind (l : LifeCycle) (target : Nat) : Option Nat :=
  match l with
  | .blank => if target = 1 ∨ target = 3 ∨ target = 0x0F then some 1 else none
  | .test => if target = 2 ∨ target = 3 ∨ target = 0x0F then some 1 else none
  | .production => if target = 3 ∨ target = 0x0F then some 0 else none
  | .endOfLife => none
  | .invalid => if (targetWord target).isSome then some 2 else none

/-- The authority of a transition: a signed object of the kind, or none and SRC zero (R433, R435). -/
def Block.transitionAuth (b : Block) (c : Cmd) (kind target : Nat) : Bool :=
  if kind = 0 then dfld c.desc 24 8 = 0 && dfld c.desc 32 4 = 0
  else b.objectOk kind c.buf c.verified && bfld c.buf 5 1 = target

/-- Bits are programmed in all three copies (R436). -/
def Otp.program (o : Otp) (word : Nat) : Otp :=
  { o with lc0 := o.lc0 ||| BitVec.ofNat 64 word, lc1 := o.lc1 ||| BitVec.ofNat 64 word, lc2 := o.lc2 ||| BitVec.ofNat 64 word }

/-- The groups that a codeword sets and the copies lack, in descending order (R436). -/
def Otp.lacks (o : Otp) (word : Nat) : List Nat :=
  ((List.range 8).reverse).filter fun g => fld (word - (word &&& o.lcPattern.toNat)) (8 * g) 8 ≠ 0

/-- One group of a codeword, in its place. -/
def groupOf (word g : Nat) : Nat := fld word (8 * g) 8 <<< (8 * g)

/-- What scrapping blows first: the root banks and check words, the security version and the coefficients (R438). -/
def Otp.blow (o : Otp) : Otp :=
  { o with rootA := BitVec.allOnes 512, rootB := BitVec.allOnes 512, checkA := BitVec.allOnes 64, checkB := BitVec.allOnes 64,
           svn0 := BitVec.allOnes 128, svn1 := BitVec.allOnes 128, svn2 := BitVec.allOnes 128, coef := [], slope := 0 }

/-- The last group has been programmed, which is the commit: scrapping blows the serial, and the block restarts (R436, R438). -/
def Block.endTransition (b : Block) (cmd target : Nat) : Block :=
  ({ b with otp := if target = 0x0F then { b.otp with serial := BitVec.allOnes 64 } else b.otp
            boot := { b.boot with lcJob := none } }).succeedRestart cmd

/-- Programs the next group of a transition (R436). -/
def Block.programGroup (b : Block) (cmd target word : Nat) : Block :=
  match b.otp.lacks word with
  | [] => b.endTransition cmd target
  | [g] => ({ b with otp := b.otp.program (groupOf word g) }).endTransition cmd target
  | g :: _ => { b with otp := b.otp.program (groupOf word g) }

/-- A transition begins: the block has left its domain; scrapping blows the first part of the OTP, and any other transition
programs its first group (R436, R438). -/
def Block.beginTransition (b : Block) (cmd target word : Nat) : Block :=
  let b := { b with boot := { b.boot with lcJob := some cmd } }
  if target = 0x0F then { b with otp := b.otp.blow } else b.programGroup cmd target word

/-- A transition of another command is under way. -/
def Block.transitionBusy (b : Block) : Bool := b.boot.lcJob.any fun j => (b.cmd? j).isSome

/-- LC_TRANSITION: R433, R436 to R438. It programs one group each time that its row comes, and a loss of power in between leaves
what has been programmed. -/
def execLcTransition (cmd : Nat) (acc : Access) (s : State) : Host.Outcome State Fault Refusal :=
  onCommandMem s cmd 0x0D01 fun c w =>
    let target := dfld c.desc 16 1
    let b := w.blk
    match transitionKind b.boot.lc target, targetWord target with
    | some kind, some word =>
      if b.boot.lcJob = some cmd then w.on fun b => b.programGroup cmd target word
      else if b.transitionBusy then w
      else if !b.transitionAuth c kind target || (kind ≠ 2 && !b.vfsQuiet) ||
          (kind = 2 && b.otp.lcPattern.toNat &&& word ≠ b.otp.lcPattern.toNat) then
        w.on fun b => b.fail cmd .badOperand
      else
        (w.leaveDomain acc).on fun b => b.beginTransition cmd target word
    | _, _ => w.on fun b => b.fail cmd .deniedLifecycle

/-! ## Debug (R439 to R442) -/

/-- The challenge (R440). -/
def Block.challengeBytes (b : Block) : Bytes :=
  toLe 4 0x48435843 ++ toLe 1 b.boot.lc.code ++ [0] ++ toLe 2 b.boot.otpSvn.toNat ++ toLe 8 b.otp.serial.toNat ++
  toLe 32 (b.random 256).toNat ++ b.devid ++ toBe 48 b.boot.digest.toNat ++ toLe 16 0

/-- DEBUG_CHALLENGE: R387, R440. -/
def execDebugChallenge (cmd : Nat) (s : State) : Host.Outcome State Fault Refusal :=
  onCommand s cmd 0x0D02 fun c b =>
    if b.boot.lc ≠ .production then b.fail cmd .deniedLifecycle
    else if dfld c.desc 24 4 < 160 then b.fail cmd .badOperand
    else if b.boot.entropyDown then b.fail cmd .notReady
    else
      let x := b.challengeBytes
      ({ b.drew with boot := { b.drew.boot with challenge := some x } } : Block).output cmd (dfld c.desc 16 8) x .ok 160 0

/-- The rights that Production debug opens (R440). -/
def productionRights : Nat := 0x43

/-- DEBUG_RESPONSE: R440, R442; the outstanding challenge is consumed. -/
def execDebugResponse (cmd : Nat) (acc : Access) (s : State) : Host.Outcome State Fault Refusal :=
  onCommandMem s cmd 0x0D03 fun c w =>
    if w.blk.boot.lc ≠ .production then w.on fun b => b.fail cmd .deniedLifecycle
    else
      let ok := w.blk.objectOk 4 c.buf c.verified && bfld c.buf 8 4 = productionRights &&
        w.blk.boot.challenge.any fun x => slice c.buf 24 48 = sha384 x
      let w := w.on fun b => { b with boot := { b.boot with challenge := none } }
      if ok then (w.openDebug acc productionRights).on fun b => b.succeed cmd 0 0 else w.on fun b => b.fail cmd .badOperand

/-- DEBUG_CERT: R441, R442. -/
def execDebugCert (cmd : Nat) (acc : Access) (s : State) : Host.Outcome State Fault Refusal :=
  onCommandMem s cmd 0x0D04 fun c w =>
    let l := w.blk.boot.lc
    if !(l = .blank || l = .test || (l = .production && w.blk.boot.recovery)) then w.on fun b => b.fail cmd .deniedLifecycle
    else if !w.blk.certOk c.buf c.verified then w.on fun b => b.fail cmd .badOperand
    else (w.openDebug acc (bfld c.buf 8 4)).on fun b => b.succeed cmd 0 0

/-! ## Patches (R454) -/

/-- A write of the patch state record is under way. -/
def Block.patchWriting (b : Block) : Bool :=
  b.seq.relays.any fun r => r.live && match r.what with
    | .patch _ _ => true
    | _ => false

/-- What every patch command checks first; one waits while another's record write is under way. -/
def Block.patchCommand (b : Block) (cmd : Nat) (confirm : Bool) (act : Block → Block) : Block :=
  if !b.boot.lc.serves then b.fail cmd .deniedLifecycle
  else if !b.boot.storeOk then b.fail cmd .notReady
  else if b.patchWriting then b
  else if !confirm && b.store.patch.trial.isSome then b.fail cmd .badOperand
  else act b

/-- Writes the patch state record for a command (R454). -/
def Block.writePatch (b : Block) (cmd : Nat) (r : PatchRecord) : Block := (b.wait cmd).relay (.patch (some cmd) r)

/-- PATCH_WRITE's length. -/
def pieceOk (c : Cmd) : Bool := 1 ≤ dfld c.desc 24 4 && dfld c.desc 24 4 ≤ 2 ^ 20

/-- PATCH_WRITE_FIRST: R454; the flash is erased and written once the record has been. -/
def execPatchWriteFirst (cmd : Nat) (s : State) : Host.Outcome State Fault Refusal :=
  onCommand s cmd 0x0D05 fun c b =>
    if dfld c.desc 32 1 = 0 then b
    else
      b.patchCommand cmd false fun b =>
        if dfld c.desc 28 4 ≠ 0 || !pieceOk c then b.fail cmd .badOperand
        else b.writePatch cmd (b.store.patch.setSlot b.store.patch.inactive { state := .downloading })

/-- PATCH_WRITE: R454. -/
def execPatchWrite (cmd : Nat) (s : State) : Host.Outcome State Fault Refusal :=
  onCommand s cmd 0x0D05 fun c b =>
    if dfld c.desc 32 1 ≠ 0 then b
    else
      b.patchCommand cmd false fun b =>
        let off := dfld c.desc 28 4
        let n := b.store.patch.inactive
        if (b.store.patch.slot n).state ≠ .downloading || off % 256 ≠ 0 || !pieceOk c || 2 ^ 24 < off + dfld c.desc 24 4 then
          b.fail cmd .badOperand
        else (b.emit (.flashWrite n off c.buf)).succeed cmd 0 0

/-- PATCH_VERIFY: R451, R454. -/
def execPatchVerify (cmd : Nat) (flash : FlashRead) (s : State) : Host.Outcome State Fault Refusal :=
  onCommand s cmd 0x0D06 fun _ b =>
    b.patchCommand cmd false fun b =>
      let r := b.store.patch
      if (r.slot r.inactive).state = .empty then b.fail cmd .badOperand
      else if !b.flashBundleOk flash then (b.emit (.flashRead (slotBase r.inactive) flash.image.length)).fail cmd .badOperand
      else
        (b.emit (.flashRead (slotBase r.inactive) flash.image.length)).writePatch cmd (r.setSlot r.inactive
          { state := .verified, version := BitVec.ofNat 32 (bfld flash.image 8 4), svn := BitVec.ofNat 16 (bfld flash.image 6 2)
            digest := (flashDigest flash) })

/-- PATCH_ACTIVATE: R454. -/
def execPatchActivate (cmd : Nat) (s : State) : Host.Outcome State Fault Refusal :=
  onCommand s cmd 0x0D07 fun _ b =>
    b.patchCommand cmd false fun b =>
      let r := b.store.patch
      if (r.slot r.inactive).state ≠ .verified || !b.vfsQuiet then b.fail cmd .badOperand
      else b.writePatch cmd { r with trial := some r.inactive, trialBoots := false }

/-- PATCH_CONFIRM: R454. -/
def execPatchConfirm (cmd : Nat) (s : State) : Host.Outcome State Fault Refusal :=
  onCommand s cmd 0x0D08 fun _ b =>
    b.patchCommand cmd true fun b =>
      if !b.boot.onTrial then b.fail cmd .badOperand
      else b.writePatch cmd { b.store.patch with active := b.boot.slot, trial := none, trialBoots := false }

/-- What follows the record write of a patch command (R454). -/
def Block.patchDone (b : Block) (cmd : Nat) (r : PatchRecord) : Block :=
  match b.cmd? cmd with
  | none => b
  | some c =>
    match c.opcode with
    | 0x0D05 => ((b.emit (.flashErase r.inactive)).emit (.flashWrite r.inactive 0 c.buf)).succeed cmd 0 0
    | 0x0D07 => b.succeedRestart cmd
    | 0x0D08 =>
      let n := (r.active.map fun s => (r.slot s).svn.toNat).getD 0
      (({ b with boot := { b.boot with onTrial := false } }).raiseSvn n).succeed cmd 0 0
    | _ => b.succeed cmd 0 0

/-! ## Test access port (R70, R439) -/

/-- The right that an instruction needs. -/
def tapRight : TapInstr → Option Nat
  | .bypass => none
  | .idcode => none
  | .observe => some 0
  | .seqDebug => some 1
  | .sramRead => some 2
  | .scan => some 3
  | .trim => some 4
  | .lcRead => some 5
  | .bist => some 6

/-- An instruction is offered. -/
def Block.tapOffers (b : Block) (t : TapInstr) : Bool :=
  match tapRight t with
  | none => true
  | some k => b.boot.rights.toNat.testBit k && b.boot.lc ≠ .endOfLife && b.boot.lc ≠ .invalid

/-- IDCODE (R71). -/
def Block.idcode (b : Block) : BitVec 32 := BitVec.ofNat 32 (1 + 2 * b.build.tapMfr.toNat + 0xC7C4 * 2 ^ 12 + 2 * 2 ^ 28)

/-- TAP_INSTRUCTION: R70, R71, R439; an instruction that is not offered selects BYPASS, as IEEE 1149.1 has it. The spec
gives the debug instructions no data (log 4). -/
def execTapInstruction (t : TapInstr) (s : State) : Host.Outcome State Fault Refusal :=
  atPort .tap s <| onBlock s fun b =>
    let u : TapInstr := if b.tapOffers t then t else .bypass
    let v : BitVec 32 :=
      match u with
      | .bypass => 0
      | .idcode => b.idcode
      | _ => (Config.open64 16 b.fresh).truncate 32
    (({ b with boot := { b.boot with tap := u :: b.boot.tap } }).emit (.tap u v)).freshen

/-! ## SELFTEST (R349, R350) -/

/-- The events of failed tests. -/
def Block.testsFailed (b : Block) : List Nat → Block
  | [] => b
  | k :: r => (b.raisePf 0x36 ([0x70, 0x71, 0x72, 0x75].getD k 0x74) [(0, k)]).testsFailed r

/-- SELFTEST: R349, R350; a failed entropy health test takes the effect of R387, whose test number the spec leaves open. -/
def execSelftest (cmd : Nat) (failed : BitVec 4) (s : State) : Host.Outcome State Fault Refusal :=
  onCommand s cmd 0x0E02 fun c b =>
    let tests := dfld c.desc 16 4
    if tests = 0 ∨ 16 ≤ tests then b.fail cmd .badOperand
    else
      let f := tests &&& failed.toNat
      let b := b.testsFailed ((List.range 4).filter fun k => f.testBit k)
      let b := if f.testBit 2 then b.entropyFail (openByte 17 0) else b
      b.succeed cmd f 0

/-! ## Shell clocks (R26) -/

/-- SHELL_CLOCK_STOP: R26. -/
def execShellClockStop (shell : Shell) (s : State) : Host.Outcome State Fault Refusal :=
  behindPort shell s <| onBlock s fun b => if b.stopped.contains shell then b else { b with stopped := b.stopped ++ [shell] }

/-- SHELL_CLOCK_RETURN: R26: what the shell held crosses now, in order. -/
def execShellClockReturn (shell : Shell) (s : State) : Host.Outcome State Fault Refusal :=
  behindPort shell s <| onBlock s fun b =>
    if b.stopped.contains shell then
      { b with stopped := b.stopped.filter fun x => x ≠ shell, held := b.held.filter fun c => c.shell ≠ shell
               out := b.out ++ b.held.filter fun c => c.shell = shell }
    else b

end Sys2Proof.Machine
end

