-- ==== Sys2Proof/Machine/Answers.lean ====
section
/-! DEFINITION. What follows the answers of the host chip at `hcp_*` and of the management controller at `mgmt_*` (R46, R49,
R68, R69, R113, R116 to R119, R274, R276, R289, R291, R309, R311, R320 to R322, R454). -/

namespace Sys2Proof.Machine

open Sys2Proof Sys2Proof.Machine.Crypto

/-! ## Host chip -/

/-- A write at `hcp_*` has been answered whole. -/
def Block.writeAnswered (b : Block) (err : Bool) : WriteFor → Block
  | .record q => b.recordAnswered q err
  | .block cmd st r0 r1 => b.outputAnswered cmd st r0 r1 err
  | .meter cmd k r r0 => b.reported cmd k r r0 err
  | .fault f => b.faultAnswered f err
  | .ash f => b.ashAnswered f
  | .dma d => (if err then b.endDma d .translationFault else b).finishDma d
  | .part _ => b
  | .void => b

/-- A read at `hcp_*` has been answered whole. -/
def Block.readAnswered (b : Block) (r : HostRead) : ReadFor → Block
  | .queueEntry f q => b.entryRead f q.toNat r
  | .buffer id =>
    match b.cmd? id with
    | none => b
    | some c =>
      match r with
      | .data buf => b.makeReady id c buf
      | .err => b.fail id .translationFault
  | .part _ _ => b
  | .void => b

/-- A group after one of its pieces has been answered. -/
def HostGroup.took (g : HostGroup) (place : Nat) (r : HostRead) : HostGroup :=
  match r with
  | .data d => { g with left := g.left - 1, back := g.back.put place d }
  | .err => { g with left := g.left - 1, err := true }

/-- A piece of a longer access has been answered; the last one answers the access (R46, R320, R321). -/
def Block.pieceAnswered (b : Block) (k place : Nat) (r : HostRead) : Block :=
  match b.seq.groups.get? k with
  | none => b
  | some g =>
    let g := g.took place r
    if 0 < g.left then { b with seq := { b.seq with groups := b.seq.groups.put k g } }
    else
      let b := { b with seq := { b.seq with groups := Tab.del b.seq.groups k } }
      let b := match g.write with
        | some w => b.writeAnswered g.err w
        | none => b
      match g.read with
      | some w => b.readAnswered (if g.err then .err else .data (g.back.vals.flatten)) w
      | none => b

/-- HCP_WRITE_RESPONSE: R46, R49, R309, R311, R320 to R322. -/
def execHcpWriteResponse (tag : Nat) (err : Bool) (s : State) : Host.Outcome State Fault Refusal :=
  atPort .hcp s <| onBlock s fun b =>
    match b.seq.writes.get? tag with
    | none => b
    | some why =>
      let b := ({ b with seq := { b.seq with writes := Tab.del b.seq.writes tag } } : Block).hostNext true
      match why with
      | .part k => b.pieceAnswered k 0 (if err then .err else .data [])
      | w => b.writeAnswered err w

/-- HCP_READ_RETURN: R46, R298, R321. -/
def execHcpReadReturn (tag : Nat) (r : HostRead) (s : State) : Host.Outcome State Fault Refusal :=
  atPort .hcp s <| onBlock s fun b =>
    match b.seq.reads.get? tag with
    | none => b
    | some why =>
      let b := ({ b with seq := { b.seq with reads := Tab.del b.seq.reads tag } } : Block).hostNext false
      match why with
      | .part k i => b.pieceAnswered k i r
      | w => b.readAnswered r w

/-! ## Replay-protected store -/

/-- A command that waited runs anew. -/
def Block.again (b : Block) (id : Nat) : Block := b.modCmd id fun c => { c with stage := .ready }

/-- The old key of a replacement or a deletion goes as KEY_INVALIDATE makes it go, and the command completes when that has;
a slot that has been emptied since is left alone (R95, R105, R117 step 4, R119). -/
def Block.retireKey (b : Block) (cmd : Option Nat) (old : Option (Nat × BitVec 16)) (res0 : Nat) : Block :=
  match old with
  | some k => if b.stillHolds k then b.invalidateFor k.1 cmd res0 else b.succeedSome cmd res0
  | none => b.succeedSome cmd res0

/-- What follows an accepted write, or a read's data. -/
def Block.relayDone (b : Block) (data : Bytes) : RelayFor → Block
  | .boot _ => b
  | .patch cmd r =>
    match cmd with
    | some id => b.patchDone id r
    | none => b
  | .meter k _ => b.raiseMarks k
  | .install cmd k _ i key parent mask => b.installDone cmd k i key parent mask
  | .revokeRecord cmd k _ => (b.endLicence k).succeed cmd 0 0
  | .revokeList cmd _ _ k =>
    let b := match k with
      | some k => ({ b with meters := Tab.del b.meters k } : Block).relay (.meter k {})
      | none => b
    (b.succeedSome cmd 0).listNext
  | .blob cmd index _ p n old => b.relay (.pointer cmd index p (some n) old)
  | .pointer cmd index p (some n) old =>
    let b := b.releaseIndex index
    let b := if b.stillHolds n then
        { b with keys := { b.keys with slots := b.keys.slots.upd n.1 fun s => { s with usable := true } } }
      else b
    b.retireKey cmd old (n.1 + 2 ^ 32 * p.persistId.toNat)
  | .pointer cmd index _ none old => (b.releaseIndex index).retireKey cmd old 0
  | .readPointer cmd index =>
    let b := { b with
      keys := { b.keys with dirDoubt := b.keys.dirDoubt.erase index }
      store := { b.store with pointers := b.store.pointers.put index (pointerOf data) }
      seq := { b.seq with relays := b.seq.relays.filter fun r => !(!r.live && match r.what with
        | .pointer _ n _ _ _ => n == index
        | _ => false) } }
    b.again cmd
  | .readMeters => b.readMeters

/-- The first relayed operation with a sequence number, and the others. -/
def takeRelay (seq : BitVec 8) : List Relay → Option (Relay × List Relay)
  | [] => none
  | r :: rest => if r.seq = seq then some (r, rest) else (takeRelay seq rest).map fun x => (x.1, r :: x.2)

/-- An answer that nothing waits for, of a reserved operation, or that does not verify is ignored and counted (R68). -/
def Block.strayRelay (b : Block) : Block := { b with seq := { b.seq with relayStrays := b.seq.relayStrays + 1 } }

/-- RPMB_RESULT: R63, R68, R69, R84, R113 to R119, R274, R276, R289 to R291, R454. What the device holds follows its answer
even when the boot that asked for it has ended. -/
def execRpmbResult (seq : BitVec 8) (a : RpmbAnswer) (s : State) : Host.Outcome State Fault Refusal :=
  atPort .mgmt s <| onBlock s fun b =>
    match takeRelay seq b.seq.relays with
    | none => b.strayRelay
    | some (r, rest) =>
      match r.answer b.store b.otp.rpmbKey a with
      | .stray => b.strayRelay
      | .accepted data =>
        let b := { b with seq := { b.seq with relays := rest }, store := (b.store.accept r.what).counted r.what }
        if r.live then b.relayDone data r.what else b
      | .rejected =>
        let b := { b with seq := { b.seq with relays := rest } }
        if !r.live then b
        else if r.what.owned then b.resend r.what
        else b.relayFailed .notReady r.what

/-- RPMB_RELAY_TIMEOUT: R119: the command fails with TIMEOUT and a new slot goes; an operation of the block's own is sent
again. A command's write may still reach the device, whose late answer then counts. -/
def execRpmbRelayTimeout (seq : BitVec 8) (s : State) : Host.Outcome State Fault Refusal :=
  onBlock s fun b =>
    match takeRelay seq b.seq.relays with
    | none => b
    | some (r, rest) =>
      if !r.live then b
      else
        let b := b.raisePf 0x35 0x74 [(0, 2)]
        if r.what.owned then ({ b with seq := { b.seq with relays := rest } } : Block).resend r.what
        else b.abandonRelay .timeout seq r.what

end Sys2Proof.Machine
end

