-- ==== Sys2Proof/Machine/Mce.lean ====
section
/-! DEFINITION. Meanings of the commands at the memory ports, of key fills and drops, of `kxp_done`, of region cache
drops and of tier-1 deadlines. -/

namespace Sys2Proof.Machine

open Sys2Proof Sys2Proof.Machine.Crypto

/-- MREQ_READ: R28 to R34, R127, R164, R422. -/
def execMreqRead (r : MemReq) (s : State) : Host.Outcome State Fault Refusal :=
  atPort (.mreq r.mce) s (onMemory s fun w => (w.arrive r false 0 []).retryRx)

/-- MREQ_WRITE: R28 to R34, R127, R131 to R134, R146, R164. -/
def execMreqWrite (r : MemReq) (data : Beat) (sibs : List LineReturn) (s : State) : Host.Outcome State Fault Refusal :=
  atPort (.mreq r.mce) s (onMemory s fun w => (w.arrive r true data sibs).retryRx)

/-- The data of a read in the terms of its request (R36): the first `len` bytes of the beat. -/
def Block.readBack (b : Block) (e id : Nat) (r : MctlRead) (err : Bool) (data : Beat) : Block :=
  b.modReq e id fun q =>
    { q with
      back :=
        q.back ++ [({ part := r.part, addr := r.addr, len := r.len, err := err
                      data := BitVec.ofNat 2048 (data.toNat % 2 ^ (8 * r.len)) } : PartReturn)] }

/-- MCTL_READ_RETURN: R36 to R38, R158 to R163, R207. -/
def execMctlReadReturn (mce : Nat) (tag : BitVec 12) (err : Bool) (data : Beat) (sibs : List LineReturn) (s : State) :
    Host.Outcome State Fault Refusal :=
  atPort (.mctl mce) s <| onMemory s fun w =>
    match (w.blk.mce mce).reads.get? tag.toNat with
    | some r =>
      let w := w.on fun b => b.modMce mce fun m => { m with reads := Tab.del m.reads tag.toNat }
      match r.req with
      | some id => ((w.on fun b => b.readBack mce id r err data).pump mce sibs).retryRx
      | none => (w.pump mce sibs).retryRx
    | none =>
      if List.contains (w.blk.mce mce).quarantine tag.toNat then
        w.on fun b => b.modMce mce fun m =>
          { m with quarantine := m.quarantine.filter fun k => k ≠ tag.toNat, discarded := m.discarded + 1 }
      else w

/-- Looks up again the keys of every request of an MCE that waits for a fill (R106). -/
def Block.retryFills (b : Block) (e : Nat) : List MceReq → Block
  | [] => b
  | q :: r => (b.findReqKeys e q).retryFills e r

/-- The first fill of a slot, and the rest. -/
def takeFill (n : Nat) : List Fill → Option (Fill × List Fill)
  | [] => none
  | f :: r => if f.key.slot = n then some (f, r) else (takeFill n r).map fun x => (x.1, f :: x.2)

/-- KEY_FILL_ARRIVAL: installed, or discarded and asked for again when it is stale (R14, R106). -/
def execKeyFillArrival (engine : Nat) (slot : Nat) (sibs : List LineReturn) (s : State) :
    Host.Outcome State Fault Refusal :=
  atEngine engine s <| onMemory s fun w =>
    match takeFill slot (w.blk.cache engine).fills with
    | none => w
    | some (f, rest) =>
      let w := w.on fun b => b.modCache engine fun c =>
        if f.seq < c.lastDrop then { c with fills := rest }
        else ({ c with fills := rest } : KeyCache).install f.key (b.build.cacheDepth engine)
      (w.on fun b => b.retryFills engine ((b.mce engine).reqs.filter fun q => q.stage = .fill)).pump engine sibs |>.retryRx

/-- The cipher engine holds a running operation under a chain with a slot: it answers its drop order after the
operation (R379). -/
def Block.cipherHolds (b : Block) (e n : Nat) (gen : BitVec 16) : Bool :=
  e = 0x70 && b.fns.any fun p => p.2.cipher.running.isSome && Chain.holds p.2.cipher.chain n gen

/-- Frames of an LPE's remote line cache that came under a dropped key go with it (R210). -/
def Block.dropFrames (b : Block) (e n : Nat) (gen : BitVec 16) : Block :=
  if 0x40 ≤ e && e < 0x60 then
    { b with lpes := b.lpes.upd (e - 0x40) fun l => { l with remote := l.remote.filter fun f => !Chain.holds f.chain n gen } }
  else b

/-- DROP_ORDER: R105, R106. Drop orders wait for a sequencer in reset (R19). -/
def execDropOrder (engine : Nat) (s : State) : Host.Outcome State Fault Refusal :=
  atEngine engine s <| onBlock s fun b =>
    match (b.cache engine).orders with
    | [] => b
    | o :: r =>
      if b.boot.seqReset || b.cipherHolds engine o.slot o.gen then b
      else (b.dropFrames engine o.slot o.gen).modCache engine fun c =>
        { c.drop o.slot o.gen with orders := r, lastDrop := o.seq, acks := c.acks ++ [o.seq] }

/-- An invalidation no longer waits for one engine. -/
def Inval.acked (seq e : Nat) (i : Inval) : Inval := if i.seq = seq then { i with engines := i.engines.erase e } else i

/-- DROP_ACK: R105. -/
def execDropAck (engine : Nat) (s : State) : Host.Outcome State Fault Refusal :=
  atEngine engine s <| onBlock s fun b =>
    match (b.cache engine).acks with
    | [] => b
    | n :: r =>
      if b.boot.seqReset then b
      else
        let b := b.modCache engine fun c => { c with acks := r }
        ({ b with keys := { b.keys with invals := b.keys.invals.map (Inval.acked n engine) } }).settleInvals

/-- The first order of a destination, and the rest. -/
def takeOrder (d : Nat) : List KxpOrder → Option (KxpOrder × List KxpOrder)
  | [] => none
  | o :: r => if o.dest = d then some (o, r) else (takeOrder d r).map fun x => (x.1, o :: x.2)

/-- An invalidation no longer waits for one order at `kxp_*`. -/
def Inval.unexported (k : Nat) (i : Inval) : Inval := { i with exports := i.exports.filter fun x => x ≠ k }

/-- The next order of a destination goes out (R50). -/
def Block.kxpNext (b : Block) (d : Nat) : Block :=
  match takeOrder d b.keys.kxp with
  | some (o, _) => b.emit (.kxp o.dest o.op o.slot o.shareA o.shareB)
  | none => b

/-- KXP_DONE: R50 to R52, R104, R105. -/
def execKxpDone (dest : Nat) (s : State) : Host.Outcome State Fault Refusal :=
  atPort .kxp s <| onBlock s fun b =>
    match takeOrder dest b.keys.kxp with
    | none => b
    | some (o, rest) =>
      let b := { b with keys := { b.keys with kxp := rest, invals := b.keys.invals.map (Inval.unexported o.id) } }
      let b := b.kxpNext dest
      let b := match o.cmd with
        | some id => b.succeed id 0 0
        | none => b
      b.settleInvals

/-- Presents held accesses while the controller grants credit (R37). -/
def Block.drainHeld (b : Block) (e : Nat) : Nat → Block
  | 0 => b
  | f + 1 =>
    match (b.mce e).held with
    | [] => b
    | o :: r =>
      if 0 < (b.mce e).ctlA && (!o.write || 0 < (b.mce e).ctlW) then
        ((b.modMce e fun m => { m with held := r }).mctlIssue e o).drainHeld e f
      else b

/-- CONTROLLER_CREDIT: R37. -/
def execControllerCredit (mce : Nat) (write : Bool) (s : State) : Host.Outcome State Fault Refusal :=
  atPort (.mctl mce) s <| onMemory s fun w =>
    (w.on fun b =>
      let b := b.modMce mce fun m => if write then { m with ctlW := m.ctlW + 1 } else { m with ctlA := m.ctlA + 1 }
      b.drainHeld mce (b.mce mce).held.length).pump mce [] |>.retryRx

/-- MCTL_QOCC_UPDATE: R39, R423. -/
def execMctlQoccUpdate (mce : Nat) (occ : BitVec 8) (s : State) : Host.Outcome State Fault Refusal :=
  atPort (.mctl mce) s <| onMemory s fun w => (w.on fun b => b.modMce mce fun m => { m with qocc := occ }).pump mce [] |>.retryRx

/-- The line of a request that a part belongs to: 1 when only the second line needs it, else 0. -/
def MceReq.partLine (q : MceReq) (m : Mce) (t : Tier) (chan a : Nat) : Nat :=
  if (m.lineParts t chan q.entry.mode (q.req.op = 1) q.req.sector q.req.base).any fun p => p.2.1 = a then 0
  else if q.req.lines.length = 2 then 1 else 0

/-- T1_TIMEOUT: the read's tag is quarantined; its request ends with TIMEOUT, or works on with its first line alone
(R205, R207, R500). -/
def execT1Timeout (mce : Nat) (tag : BitVec 12) (s : State) : Host.Outcome State Fault Refusal :=
  behindPort (.mctl mce) s <| onMemory s fun w =>
    match if w.blk.build.t0 ≤ mce then (w.blk.mce mce).reads.get? tag.toNat else none with
    | none => w
    | some r =>
      let w := w.on fun b => b.modMce mce fun m =>
        { m with reads := Tab.del m.reads tag.toNat, quarantine := m.quarantine ++ [tag.toNat] }
      match r.req.bind fun id => (w.blk.mce mce).reqs.find? fun q => q.id = id with
      | none => w
      | some q =>
        let line := q.partLine (w.blk.mce mce) w.blk.build.tier1 (mce - w.blk.build.t0) r.addr
        let w := w.on fun b => (b.modMce mce fun m => { m with timeouts := m.timeouts + 1 }).raise
          { code := 0x24, engine := mce, fn := q.entry.ownerFn.toNat, ctx := q.req.ctx.toNat
            data := [(0, q.req.base + 128 * line)] } (ownerAndPf q.entry.ownerFn.toNat)
        (if line = 0 then (w.on fun b => b.refuseReq mce q .timeout).pump mce []
          else (w.on fun b => b.modReq mce q.id fun q => { q with cut := true }).pump mce []).retryRx

/-- A region drop no longer waits for one MCE. -/
def RegionDrop.acked (e : Nat) (d : RegionDrop) : RegionDrop := { d with mces := d.mces.erase e }

/-- Marks the first drop of a region that still waits for an MCE. -/
def ackDrop (r e : Nat) : List RegionDrop → List RegionDrop
  | [] => []
  | d :: rest => if d.region = r && List.contains d.mces e then d.acked e :: rest else d :: ackDrop r e rest

/-- Ends the drops that every MCE has acknowledged; an unbind completes with them (R151). -/
def Block.finishDrops (b : Block) : List RegionDrop → List RegionDrop → Block
  | [], keep => { b with regions := { b.regions with drops := keep } }
  | d :: r, keep =>
    if d.mces.isEmpty then
      match d.cmd with
      | some id => (b.succeed id 0 0).finishDrops r keep
      | none => b.finishDrops r keep
    else b.finishDrops r (keep ++ [d])

/-- An MCE drops an entry and acknowledges (R151, R152). -/
def Block.ackRegion (b : Block) (e r : Nat) : Block :=
  let b := b.modMce e fun m => { m with regions := m.regions.filter fun x => x.1 ≠ r }
  (b.finishDrops (ackDrop r e b.regions.drops) []).settleResets

/-- REGION_CACHE_DROP_ACK: R151, R152, R159. Drop orders wait for a sequencer in reset (R19). -/
def execRegionCacheDropAck (mce : Nat) (s : State) : Host.Outcome State Fault Refusal :=
  behindPort (.mreq mce) s <| onBlock s fun b =>
    match (b.mce mce).regionDrops with
    | [] => b
    | r :: rest => if b.boot.seqReset then b else (b.modMce mce fun m => { m with regionDrops := rest }).ackRegion mce r

end Sys2Proof.Machine
end

