-- ==== Sys2Proof/Machine/Recover.lean ====
section
/-! DEFINITION. Engine resets, the ember, the watchdog and the restart of the sequencer, and the bounds of the escalation
ladder (R19, R64, R101, R105, R238, R347, R364, R387, R402, R464, R473 to R479). -/

namespace Sys2Proof.Machine

open Sys2Proof Sys2Proof.Machine.Crypto

/-! ## The start of an engine reset (R478) -/

/-- Requests that an MCE holds and has not begun fail. -/
def Block.failIdle (b : Block) (e : Nat) : List MceReq → Block
  | [] => b
  | q :: r =>
    (if q.stage = .reading then b
      else (if q.stage = .ingress then b.giveA e else b).refuseReq e q .engineReset).failIdle e r

/-- Requests that wait for an RTAG at an LPE fail. -/
def Block.failIngress (b : Block) (n : Nat) : Block :=
  (b.lpe n).ingress.foldl (fun b r => b.answerLreq n r.1.tag .engineReset [])
    (b.modLpe n fun l => l.evict fun _ => true)

/-- An engine enters reset: its credits are withheld, and requests that have not begun fail with ENGINE_RESET (R478). -/
def Block.beginReset (b : Block) (e cause : Nat) (cmds : List Nat) : Block :=
  let b := { b with resets := b.resets.put e { cause := cause, cmds := cmds } }
  if e < b.build.mces then b.failIdle e (b.mce e).reqs
  else if 0x40 ≤ e ∧ e < 0x60 then b.failIngress (e - 0x40)
  else if e = 0x72 then { b with boot := { b.boot with entropyDown := true, entropyFails := 0 } }
  else if e = 0x74 then { b with boot := { b.boot with seqReset := true } }
  else b

/-- A reset that no command asked for; an engine in reset already goes on. -/
def Block.escalateReset (b : Block) (e cause : Nat) : Block :=
  if Tab.has b.resets e then b else b.beginReset e cause []

/-- ENGINE_RESET: R12, R347, R478; a command for an engine in reset waits for that reset. -/
def execEngineReset (cmd : Nat) (s : State) : Host.Outcome State Fault Refusal :=
  onCommand s cmd 0x0C02 fun c b =>
    let e := dfld c.desc 16 1
    if !b.build.engineBuilt e || e = 0x73 then b.fail cmd .badOperand
    else
      match b.resets.get? e with
      | some r => { b.wait cmd with resets := b.resets.put e { r with cmds := r.cmds ++ [cmd] } }
      | none => (b.wait cmd).beginReset e 1 [cmd]

/-! ## The end of an engine reset (R478) -/

/-- The key cache of an engine is zeroised: invalidations that waited for it go on (R105, R478). -/
def Block.zeroCache (b : Block) (e : Nat) : Block :=
  (b.modCache e fun _ => { lastDrop := b.keys.invSeq }).engineDropped e true

/-- The lowest dirty node of an MCE that can be written back. -/
def Mce.lowestDirty (m : Mce) : Option CachedNode :=
  let mine := m.nodes.filter fun n => n.dirty && !n.withheld
  ((List.range 5).filterMap fun k => mine.find? fun n => n.level = k).head?

/-- Dirty nodes are written back, lower levels first (R145). -/
def Nx.drainAll : Nat → Nx → Nx
  | 0, x => x
  | f + 1, x =>
    match (x.b.mce x.e).lowestDirty with
    | none => x
    | some v => Nx.drainAll f (x.evict v)

/-- Drops of region entries that an MCE had not taken are done. -/
def Block.ackRegions (b : Block) (e : Nat) : List Nat → Block
  | [] => b
  | r :: rest => (b.ackRegion e r).ackRegions e rest

/-- An MCE after its drain: what it still served fails, its outstanding reads are never delivered, and its caches start
over; a node whose way is withheld stays (R145, R478). -/
def Block.clearMce (b : Block) (e : Nat) : Block :=
  let b := (b.mce e).reqs.foldl (fun b q => b.refuseReq e q .engineReset) b
  let b := b.spillTags e (b.mce e).tags
  let drops := (b.mce e).regionDrops
  let b := b.modMce e fun m =>
    { m with
      quarantine := m.quarantine ++ Tab.keys m.reads, reads := []
      regions := [], regionDrops := [], tags := []
      nodes := m.nodes.filter fun n => n.withheld }
  (b.ackRegions e drops).zeroCache e

/-- The end of an MCE's reset. -/
def Work.resetMce (w : Work) (e : Nat) (feed : List LineReturn) : Work :=
  let x := ({ w := w, feed := feed } : Serving).begin e (w.blk.build.tierOfMce e) {} []
  (w.passEnd (Nx.drainAll 65536 x)).on fun b => if b.pins.blockSafe then b else b.clearMce e

/-- Every frame of an LPE's cache goes: dirty lines of a state region are written back, reader lines go without EVICT
(R478). -/
def Lx.dropLines (x : Lx) : Lx :=
  (x.lpe.remote.foldl (fun x f => if f.own then x.evictFrame f else x) x).mod fun l => { l with remote := [] }

/-- Outstanding requests fail, and their RTAGs are quarantined (R206, R478). -/
def Lx.failOutstanding (x : Lx) : Lx :=
  let l := x.lpe
  let y := x.mod fun l =>
    { l with
      rtags := [], outWait := [], lane := [], raises := [], invals := [], evicts := 0
      quarantine := l.quarantine ++ l.rtags.map fun (o : Nat × Outstanding) => ({ rtag := o.1, seqs := o.2.seqs } : Quarantined) }
  y.on fun b =>
    let b := l.rtags.foldl (fun b o => b.answerOut x.n o.2 .engineReset) b
    let b := (l.outWait.filterMap fun o => o.answer).foldl (fun b t => b.answerLreq x.n t .engineReset []) b
    l.raises.foldl (fun b g => b.endReduction g.slot .engineReset) b

/-- The end of an LPE's reset: the port is readmitted, and packets held meanwhile meet the receive checks (R402, R478). -/
def Work.resetLpe (w : Work) (n : Nat) (feed : List LineReturn) : Work :=
  let x := ((w.lx n { rets := feed }).dropLines.failOutstanding).on fun b => ((b.zeroCache (lpeId n)).abandon n).sendHello n
  ((x.on fun b => { b with resets := Tab.del b.resets (lpeId n) }).retry).done

/-- Running descriptors of a unit end with what they moved (R364). -/
def Block.endRunning (b : Block) (p : DmaDesc → Bool) : Block :=
  b.endDmas .engineReset (Tab.keys (α := DmaDesc) (b.seq.dma.filter fun d => d.2.stage = .running && p d.2))

/-- Page operations end with ENGINE_RESET and release nothing (R380, R478). -/
def Block.endPages (b : Block) : List Nat → Block
  | [] => b
  | f :: r =>
    (if (b.fn f).cipher.running.isNone then b
      else if (b.fn f).cipher.discard then (b.modFn f fun p => { p with cipher := {} }).settleResets
      else b.cipherEnd f .engineReset).endPages r

/-- Requests of the public-key and hash engine are discarded, the signing of usage reports excepted (R478). -/
def Block.dropPkh (b : Block) : Block :=
  let lost := (((b.pkhLattice ++ b.pkhCurve).filter fun r => !b.signsUsage r).map fun (r : Nat × Nat) => r.1).eraseDups
  let b' := lost.foldl (fun b id => b.fail id .engineReset)
    { b with pkhLattice := b.pkhLattice.filter b.signsUsage, pkhCurve := b.pkhCurve.filter b.signsUsage
             pkhIssuers := b.pkhIssuers.filter fun (r : Nat × Nat) => !List.contains lost r.1 }
  b'.pkhRefill b'.pkhIssuers.length

/-- Records in transit are dropped and counted (R311, R478). -/
def AshStream.dropTransit (a : AshStream) : AshStream := { a with dropped := a.dropped + a.transit.length, transit := [] }

/-- What the end of a reset does to an engine other than an MCE or LPE. -/
def Block.resetUnit (b : Block) (e : Nat) : Block :=
  if e < 0x68 then
    ({ b.endReductions .engineReset (fun _ => true) with
      frames := Tab.del (b.endReductions .engineReset fun _ => true).frames e } : Block).zeroCache e
  else if e < 0x70 then
    ({ b.endRunning (fun d => d.engine = e) with
      frames := Tab.del (b.endRunning fun d => d.engine = e).frames e } : Block).zeroCache e
  else if e = 0x70 then
    ((b.endPages (Tab.keys b.fns)).endRunning fun d => d.kind = .ingest).zeroCache e
  else if e = 0x71 then b.dropPkh.endRunning fun d => d.kind = .measure
  else if e = 0x75 then
    b.modGov fun g => { g with parts := g.parts.map fun (p : Nat × Partition) => (p.1, { p.2 with level := bucketDepth p.2.cap }) }
  else if e = 0x76 then { b with time := { b.time with valid := false, dropped := true } }
  else if e = 0x77 then { b with fns := b.fns.map fun (f : Nat × FnPage) => (f.1, { f.2 with ash := f.2.ash.dropTransit }) }
  else b

/-- Commands that waited for a reset succeed. -/
def Block.succeedAll (b : Block) : List Nat → Block
  | [] => b
  | id :: r => (b.succeed id 0 0).succeedAll r

/-- The reset ends: ENGINE_RESET to the PF, the commands' records, and the credits withheld (R461, R478). -/
def Block.endReset (b : Block) (e : Nat) (r : EngineReset) : Block :=
  let b := ({ b with resets := Tab.del b.resets e } : Block).raisePf 0x03 e [(0, r.cause)]
  let b := b.succeedAll r.cmds
  if e < b.build.mces then b.payCredits e else if 0x40 ≤ e ∧ e < 0x60 then b.payLpe (e - 0x40) else b

/-- ENGINE_RESET_COMPLETE: R105, R238, R364, R387, R402, R478. An MCE first finishes the lines that it is writing; the
sequencer's reset ends with its restart. -/
def execEngineResetComplete (engine : Nat) (sibs : List LineReturn) (s : State) : Host.Outcome State Fault Refusal :=
  atEngine engine s <| onMemory s fun w =>
    match w.blk.resets.get? engine with
    | none => w
    | some r =>
      if engine = 0x74 || w.blk.pins.blockSafe || (w.blk.mce engine).held.any (fun o => o.write) then w
      else
        let w :=
          if engine < w.blk.build.mces then w.resetMce engine sibs
          else if 0x40 ≤ engine ∧ engine < 0x60 then w.resetLpe (engine - 0x40) sibs
          else w.on fun b => b.resetUnit engine
        w.on fun b => if b.pins.blockSafe then b else b.endReset engine r

/-! ## Missed bounds (R475) -/

/-- An engine owes an acknowledgement on the control ring (R105, R151). -/
def Block.owesAck (b : Block) (e : Nat) : Bool :=
  !(b.cache e).orders.isEmpty || !(b.cache e).acks.isEmpty || !(b.mce e).regionDrops.isEmpty

/-- ENGINE_ACK_TIMEOUT: R105, R475. Orders of a sequencer in reset have not gone out (R19). -/
def execEngineAckTimeout (engine : Nat) (s : State) : Host.Outcome State Fault Refusal :=
  atEngine engine s <| onBlock s fun b =>
    if b.owesAck engine && !b.boot.seqReset && !b.pins.blockSafe then b.escalateReset engine 2 else b

/-- ENGINE_DRAIN_TIMEOUT: R475, R478. -/
def execEngineDrainTimeout (engine : Nat) (s : State) : Host.Outcome State Fault Refusal :=
  atEngine engine s <| onBlock s fun b =>
    if Tab.has b.resets engine && (b.mce engine).held.any (fun o => o.write) && !b.pins.blockSafe then
      b.blockReset .missedBound engine
    else b

/-- Each engine that holds work of a context is reset. -/
def Block.resetHolders (b : Block) : List Nat → Block
  | [] => b
  | e :: r => (b.escalateReset e 5).resetHolders r

/-- CONTEXT_KILL_TIMEOUT: R475. -/
def execContextKillTimeout (ctx : BitVec 16) (s : State) : Host.Outcome State Fault Refusal :=
  onBlock s fun b =>
    if List.contains b.seq.killing ctx.toNat && !b.pins.blockSafe then
      ({ b with seq := { b.seq with killing := b.seq.killing.filter fun c => c ≠ ctx.toNat } }).resetHolders (b.holders ctx.toNat)
    else b

/-! ## Ember and watchdog (R347, R473, R474) -/

/-- HEARTBEAT_CONFIG: R347. -/
def execHeartbeatConfig (cmd : Nat) (s : State) : Host.Outcome State Fault Refusal :=
  onCommand s cmd 0x0C05 fun c b =>
    ({ b with
      obs :=
        { b.obs with
          hbAsh := (dfld c.desc 16 1).testBit 0, hbIrq := (dfld c.desc 16 1).testBit 1
          hbVector := BitVec.ofNat 11 (dfld c.desc 18 2) } } : Block).succeed cmd 0 0

/-- The firmware runs: kindling step 1 has ended, and the sequencer is not in reset. -/
def Block.firmware (b : Block) : Bool := 1 ≤ b.boot.step && !b.boot.seqReset && !b.pins.blockSafe

/-- EMBER: R347, R461, R473; the event is the record that ASH asks for. -/
def execEmber (s : State) : Host.Outcome State Fault Refusal :=
  onBlock s fun b =>
    if !b.firmware then b
    else
      let b := { b with obs := { b.obs with beats := b.obs.beats + 1 } }
      if b.obs.hbAsh then b.raise { code := 0x01, blockwide := true, data := [(0, b.obs.beats.toNat)] } [] else b

/-- Ticks within the last second. -/
def withinSecond (now : BitVec 64) (l : List (BitVec 64)) : List (BitVec 64) := l.filter fun t => (now - t).toNat < 10 ^ 9

/-- WATCHDOG: R347, R473, R474; the third within a second takes the whole-block rung. -/
def execWatchdog (s : State) : Host.Outcome State Fault Refusal :=
  onBlock s fun b =>
    if !b.firmware then b
    else
      let dogs := b.tick :: withinSecond b.tick b.obs.recentDogs
      let b := { b with obs := { b.obs with watchdogs := b.obs.watchdogs + 1, recentDogs := dogs } }
      let b := if b.obs.hbIrq then b.irq 0 b.obs.hbVector else b
      if 3 ≤ dogs.length then b.blockReset .thirdWatchdog 0x74 else { b with boot := { b.boot with seqReset := true } }

/-- A command that has not committed; a FENCE_WAIT that still waits has changed nothing. -/
def Cmd.uncommitted (c : Cmd) : Bool := c.stage ≠ .waiting || c.opcode = 0x0A02

/-- A KILN_SUM that has not committed is as if it had not been given. -/
def Reduction.ungive (k : Reduction) (ids : List Nat) : Reduction :=
  (k.sumWait.filter fun y => List.contains ids y.1).foldl (fun k y => k.modWin y.2 fun v => { v with sumGiven := false })
    { k with sumWait := k.sumWait.filter fun y => !List.contains ids y.1 }

/-- Commands that have not committed complete with ENGINE_RESET and no effect; an LC_TRANSITION under way is carried to its end
(R474). -/
def Block.dropUncommitted (b : Block) : Block :=
  let ids := Tab.keys (α := Cmd) (b.seq.cmds.filter fun c => c.2.uncommitted && b.boot.lcJob ≠ some c.1)
  ids.foldl (fun b id => b.fail id .engineReset)
    { b with reductions := b.reductions.map fun k => (k.1, k.2.ungive ids)
             seq := { b.seq with waits := b.seq.waits.filter fun w => !List.contains ids w.cmd }
             pkhLattice := b.pkhLattice.filter fun (r : Nat × Nat) => !List.contains ids r.1
             pkhCurve := b.pkhCurve.filter fun (r : Nat × Nat) => !List.contains ids r.1
             pkhIssuers := b.pkhIssuers.filter fun (r : Nat × Nat) => !List.contains ids r.1 }

/-- Kill notices taken while the sequencer was in reset (R64). -/
def Block.takeKills (b : Block) : List (BitVec 16 × BitVec 4) → Block
  | [] => b
  | k :: r => (b.killNotice k.1.toNat k.2.toNat).takeKills r

/-- SEQUENCER_RESTART: R19, R64, R474. Committed commands and meter writes go on; an ENGINE_RESET of the sequencer is
reported as such, a watchdog reset as WATCHDOG. -/
def execSequencerRestart (digestSame : Bool) (s : State) : Host.Outcome State Fault Refusal :=
  onBlock s fun b =>
    if !b.boot.seqReset || b.pins.blockSafe then b
    else if !digestSame then b.blockReset .reloadMismatch 0x74
    else
      let b := { b.dropUncommitted with boot := { b.dropUncommitted.boot with seqReset := false } }
      let b := ({ b with seq := { b.seq with heldWrites := [] } } : Block).applyWrites s.mem b.seq.heldWrites
      let b := match b.resets.get? 0x74 with
        | some r => b.endReset 0x74 r
        | none => b.raisePf 0x02 0x74 [(0, b.obs.watchdogs.toNat)]
      ({ b with seq := { b.seq with kills := [] } } : Block).takeKills b.seq.kills

/-- ECC_LEAK: R464. -/
def execEccLeak (s : State) : Host.Outcome State Fault Refusal :=
  onBlock s fun b => { b with obs := { b.obs with buckets := (b.obs.buckets.map fun (x : Nat × Nat) => (x.1, x.2 - 1)).filter fun x => x.2 ≠ 0 } }

end Sys2Proof.Machine
end

