-- ==== Sys2Proof/Machine/Rake.lean ====
section
/-! DEFINITION. The rake: passes over memory and over the block's own SRAMs, and the effect of SRAM errors (R101, R347,
R464 to R472). -/

namespace Sys2Proof.Machine

open Sys2Proof Sys2Proof.Machine.Crypto

/-! ## Memory passes (R466 to R468) -/

/-- Lines that the rake visits: those of bound regions that are neither tripped nor a traffic generator's; for a VF, its
own (R347, R466). -/
def Block.rakes (b : Block) (k : Rake) (r : Nat) : Bool :=
  let e := b.region r
  e.bound && !e.tripped && !e.generator && (!k.vf || e.ownerFn.toNat = k.fn)

/-- Moves past the regions that a pass skips. -/
def Block.rakeSkip (b : Block) : Nat → Rake → Rake
  | 0, k => k
  | f + 1, k =>
    if k.stop ≤ k.next || b.rakes k (regionOf k.next) then k
    else b.rakeSkip f { k with next := (regionOf k.next + 1) * 2 ^ 28 }

/-- Regions of the protected address space. -/
def regionCount : Nat := 2 ^ 14

/-- The range lies in the data of one tier: no line of it is in a carve-out (R347, R466). Lines of the last row of data are
looked at one by one, because carve-outs may begin within it. -/
def Block.rangeData (b : Block) (a n : Nat) : Bool :=
  match b.build.dataTier a, b.build.dataTier (a + n - 128) with
  | some t, some u =>
    let whole := t.base + t.cu / t.gran * t.gran * t.chans
    let stop := min (a + n) (whole + t.gran * t.chans)
    t.base = u.base && (a + n ≤ whole ||
      (List.range ((stop - max a whole) / 128)).all fun i => (b.build.dataTier (max a whole + 128 * i)).isSome)
  | _, _ => false

/-- Every region of a range belongs to a function. -/
def Block.ownsRegions (b : Block) (fn a n : Nat) : Bool :=
  (List.range (regionOf (a + n - 1) + 1 - regionOf a)).all fun i =>
    (b.region (regionOf a + i)).mode ≠ .none && (b.region (regionOf a + i)).ownerFn.toNat = fn

/-- The 32-byte result block (R347). -/
def rakeBlock (checked corrected poisoned integrity : Nat) : Bytes :=
  toLe 8 checked ++ toLe 8 corrected ++ toLe 8 poisoned ++ toLe 8 integrity

/-- A pass completes with its counts (R347). -/
def Block.rakeEnds (b : Block) (id checked corrected poisoned integrity : Nat) : Block :=
  match b.cmd? id with
  | none => b
  | some c =>
    if dfld c.desc 32 8 = 0 then b.succeed id checked 0
    else b.output id (dfld c.desc 32 8) (rakeBlock checked corrected poisoned integrity) .ok checked 0

/-- Stores a pass, which completes after its last line. -/
def Block.rakeGoes (b : Block) (k : Rake) : Block :=
  let k := b.rakeSkip (regionCount + 1) k
  let rest := b.seq.rakes.filter fun x => x.cmd ≠ k.cmd
  if k.stop ≤ k.next then
    ({ b with seq := { b.seq with rakes := rest } } : Block).rakeEnds k.cmd k.checked 0 k.poisoned k.integrity
  else { b with seq := { b.seq with rakes := rest ++ [k] } }

/-- SCRUB_RANGE: R347, R466. -/
def execScrubRange (cmd : Nat) (s : State) : Host.Outcome State Fault Refusal :=
  onCommand s cmd 0x0C01 fun c b =>
    let a := dfld c.desc 16 8
    let n := dfld c.desc 24 8
    if dfld c.desc 40 1 = 1 then b
    else if dfld c.desc 40 1 ≠ 0 || a % 128 ≠ 0 || n % 128 ≠ 0 || n < 128 || !b.rangeData a n ||
        (c.fn ≠ 0 && !b.ownsRegions c.fn a n) then
      b.fail cmd .badOperand
    else (b.wait cmd).rakeGoes { cmd := cmd, next := a, stop := a + n, fn := c.fn, vf := c.fn ≠ 0 }

/-- What the rake finds in a line (R466). -/
inductive Found where
  | ok | poisoned | integrity
  deriving DecidableEq, Repr

/-- The first outcome for one unit: its tag under a key as it serves, its poison tag under any key. -/
def rakeUnit (serving all : List (BitVec 512)) (s : Sealing) (ct tag : Nat) : Found :=
  let under (k : BitVec 512) : Opened := ({ s with key := k } : Sealing).open1 ct tag
  let plain (k : BitVec 512) : Bool :=
    match under k with
    | .plain _ => true
    | _ => false
  if serving.any plain then .ok
  else if all.any fun k => ({ s with key := k } : Sealing).tag ct true = tag then .poisoned
  else .integrity

/-- A line is as bad as its worst sector. -/
def Found.worst (x y : Found) : Found :=
  if x = .integrity || y = .integrity then .integrity else if x = .poisoned || y = .poisoned then .poisoned else .ok

/-- The rake poisons the line at `a`, or each line whose tag is lost with that line's, under KEYSET entry 0; with no schedule
of it, it leaves them (R162, R467). -/
def Nx.rakePoison (x : Nx) (a : Nat) (group : Bool) : Nx :=
  match x.firstKey x.entry with
  | (some k, y) =>
    if group then Nx.poisonGroup y.entry.mode k (regionOf a) 1 (y.t.tagMates a) y else y.poisonLine y.entry.mode k a 1
  | (none, y) => y

/-- Reads the line at `a` (R162, R163, R466 to R468). -/
def Nx.rakeLine (x : Nx) (a : Nat) (ret : LineReturn) : Found × Nx :=
  let mode := x.entry.mode
  if mode = .scramble then (if ret.err then .poisoned else .ok, x)
  else
    let x := x.takeSectors mode a none ret
    let serving := x.b.tryMaterial x.entry (regionOf a) x.e (x.t.loc a / 128)
    let all := x.b.keysetMaterial x.entry x.e
    if x.tagGone mode a none then (.poisoned, x.rakePoison a true)
    else if ret.err then (.poisoned, x.rakePoison a false)
    else if mode = .narrow then
      ((List.range 4).foldl (fun f s =>
        f.worst (rakeUnit serving all { mode := .narrow, key := 0, addr := a + 32 * s } (fld ret.data.toNat (256 * s) 256)
          ((x.b.mce x.e).tagOf (x.t.sectorSlot a s) 4))) .ok, x)
    else
      let tr := x.t.treeOf a
      let leaf := if mode = .replay then x.node tr.1 0 (tr.2 / 64) else (some {}, x)
      match leaf with
      | (none, y) => (if y.status = .poisoned then .poisoned else .integrity, y)
      | (some l, y) =>
        (rakeUnit serving all { mode := mode, key := 0, addr := a, ctr := if mode = .replay then l.counter (tr.2 % 64) else 0 }
          ret.data.toNat ((y.b.mce y.e).tagOf (x.t.tagAddr a) 8), y)

/-- What a finding calls for: the alarm with INTEGRITY; a line that verifies counts as read (R466, R480). -/
def Nx.rakeFound (x : Nx) (a : Nat) : Found → Nx
  | .ok => { x with b := x.b.count 0 x.entry.mode.code 1 }
  | .poisoned => x
  | .integrity => { x with b := x.b.integrity x.e a x.fn x.ctx 1 }

/-- One line of a pass. -/
def Work.rakeAt (w : Work) (k : Rake) (e : Nat) (t : Tier) (ret : LineReturn) : Work :=
  let entry := w.blk.region (regionOf k.next)
  let x := (w.passBegin e (t.loc k.next / 128) entry [ret]).passReads entry.mode k.next false false
  let y := { x with feed := [] }.rakeLine k.next ret
  if y.2.status = .timeout || (ret.late && t.one) then w.passLate x k.next
  else (w.passEnd (y.2.rakeFound k.next y.1)).on fun b =>
    b.rakeGoes
      { k with next := k.next + 128, checked := k.checked + 1, poisoned := k.poisoned + bit (y.1 = .poisoned)
               integrity := k.integrity + bit (y.1 = .integrity) }

/-- RAKE_LINE: R466 to R468, R470. -/
def execRakeLine (cmd : Nat) (ret : LineReturn) (s : State) : Host.Outcome State Fault Refusal :=
  onMemory s fun w =>
    match (w.blk.seq.rakes.find? fun k => k.cmd = cmd).map (w.blk.rakeSkip (regionCount + 1)) with
    | none => w
    | some k =>
      if k.stop ≤ k.next then w.on fun b => b.rakeGoes k
      else
        match w.blk.build.dataTier k.next with
        | none => w
        | some t =>
          if w.blk.passFree (regionOf k.next) (t.mce k.next) [k.next] then w.rakeAt k (t.mce k.next) t ret else w

/-! ## SRAM errors (R464, R465) -/

/-- A correctable error joins its class's bucket (R464). -/
def Block.eccCorrected (b : Block) (cls : Nat) : Block :=
  let n := b.obs.buckets.getD cls 0 + 1
  if n ≤ b.obs.eccThreshold.toNat then { b with obs := { b.obs with buckets := b.obs.buckets.put cls n } }
  else
    let b := ({ b with obs := { b.obs with
      buckets := Tab.del b.obs.buckets cls, eccOverflow := b.obs.eccOverflow ||| BitVec.ofNat 10 (2 ^ cls) } }).raisePf 0x16 0x74
        [(0, cls)]
    if b.obs.eccEnable then b.irq 0 b.obs.eccVector else b

/-- A reading of an index of an array as an engine and a place in it (log 4): the spec numbers no words. -/
def placeOf (i : Nat) : Nat × Nat := (i / 65536, i % 65536)

/-- A list without its element at a place. -/
def dropAt {α : Type} (l : List α) (i : Nat) : List α := l.take i ++ l.drop (i + 1)

/-- A slot of the key store reads with an uncorrectable error (R101, R465). -/
def Block.loseSlot (b : Block) (n : Nat) : Block :=
  if (b.slot n).isEmpty then b
  else
    ({ b with keys := { b.keys with slots := b.keys.slots.upd n fun s => { s with eccBad := true } } } : Block).raise
      { code := 0x14, engine := 0x73, fn := (b.slot n).ownerFn.toNat, data := [(0, n), (2, 1)] }
      (ownerAndPf (b.slot n).ownerFn.toNat)

/-- A node of a counter cache: dropped; a dirty one at level 2 or above takes the whole-block rung, and below it fails the
requests beneath it until it is written anew (R163, R465). -/
def Block.loseNode (b : Block) (e i : Nat) : Block :=
  match (b.mce e).nodes[i]? with
  | none => b
  | some v =>
    if v.dirty && 2 ≤ v.level then b.blockReset .highNode e
    else
      b.modMce e fun m =>
        { m with nodes := dropAt m.nodes i
                 lost := if v.dirty then (v.tree, v.level, v.index) :: m.lost else m.lost }

/-- A frame of a remote line cache: a reader line goes with EVICT, a clean state line goes, a dirty one tears its job down
and kills the contexts that joined it (R199, R210, R465). -/
def Work.loseFrame (w : Work) (n i : Nat) : Work :=
  match (w.blk.lpe n).remote[i]? with
  | none => w
  | some f =>
    let w := w.on fun b => b.modLpe n fun l => { l with remote := dropAt l.remote i }
    if !f.own then (Lx.flush 64 ((w.lx n {}).evictFrame f)).done
    else if !f.dirty then w
    else
      let job := f.job.toNat
      let joined := Tab.keys (α := Ctx) (w.blk.ctxs.filter fun c => List.contains c.2.jobs job)
      (w.tearJob {} job openDead).on fun b => joined.foldl (fun b c => b.kill c 4 0 none) b

/-- Work that runs a program at an engine: its function, its context, the program, and where it stands. -/
structure ProgUser where
  fn : Nat
  ctx : Nat
  prog : Nat
  pos : Nat

/-- The first element that a reduction has not retired. -/
def Reduction.reached (k : Reduction) : Nat := k.cntRetired * k.window

/-- Running descriptors of a unit and live reductions of a kiln that run programs. -/
def Block.programUsers (b : Block) (e : Nat) : List ProgUser :=
  (b.seq.dma.filterMap fun d => if d.2.engine = e && d.2.stage = .running
    then d.2.prog.map fun h => { fn := d.2.fn, ctx := d.2.ctx.toNat, prog := h, pos := d.2.read } else none) ++
  (if 0x60 ≤ e ∧ e < 0x68 then b.reductions.filterMap fun k => if k.2.ended then none
    else some { fn := k.2.fn, ctx := k.2.ctx.toNat, prog := k.2.prog, pos := k.2.reached } else [])

/-- A FRAME fault of one of them; at which instruction, the spec leaves open (log 4). -/
def Block.frameFault (b : Block) (e : Nat) (u : ProgUser) : Block :=
  b.programFault e u.fn u.ctx u.prog { code := 5, pc := (Config.open64 19 u.pos).toNat % 2 ^ 16, k := 0, pos := u.pos }

/-- Program frames and lane registers: what runs the program of the frame meets a FRAME fault, which kills its context; a
place past the frames is one of the lane's registers, and the first that runs a program there meets the fault (R257, R258,
R465, log 4). -/
def Block.loseProgram (b : Block) (e i : Nat) : Block :=
  match (b.frames.getD e [])[i]? with
  | none => if i < (if e < 0x68 then 8 else 16) then b else ((b.programUsers e).take 1).foldl (fun b u => b.frameFault e u) b
  | some h =>
    ((b.programUsers e).filter fun u => u.prog = h).foldl (fun b u => b.frameFault e u)
      { b with frames := b.frames.put e (dropAt (b.frames.getD e []) i) }

/-- Fetched commands of a queue pair whose order is lost start. -/
def Block.startFetched (b : Block) : List (Nat × Cmd) → Block
  | [] => b
  | c :: r => (if c.2.stage = .fetched then b.startCmd c.1 c.2 else b).startFetched r

/-- A queue pair is lost: it is disabled without records, and QP_LOST goes to its function (R298, R465). -/
def Block.loseQp (b : Block) (q : Nat) : Block :=
  if !(b.qp q).enabled then b
  else
    let fn := (b.qp q).fn
    let b := b.modQp q fun p => { p with enabled := false, done := [] }
    (b.startFetched (b.seq.cmds.filter fun c => c.2.qp = q)).raise { code := 0x0B, fn := fn, data := [(0, q)] } [fn]

/-- A counter or a record of a ring reads zero (R465). -/
def Observe.loseWord (o : Observe) (i : Nat) : Observe :=
  let p := placeOf i
  if p.1 = 0 then { o with events := Tab.del o.events p.2 }
  else if p.1 = 1 then { o with ops := Tab.del o.ops p.2 }
  else
    let none1 : Event :=
      { tick := 0, code := 0, engine := 0, alarm := false, blockwide := false, redacted := false, fn := 0, ctx := 0, data := 0 }
    { o with rings := o.rings.upd (p.1 - 2) fun r => { r with events := r.events.set p.2 none1 } }

/-- The effect of an uncorrectable error by class (R465). -/
def Work.sramEffect (w : Work) (cls i : Nat) : Work :=
  let p := placeOf i
  match cls with
  | 0 => w.on fun b => if i < regionCount then b.loseSlot i else b.blockReset .keyStoreState 0x73
  | 1 => w.on fun b =>
    if i < regionCount then (if (b.region i).mode = .none then b else b.trip i 0x73)
    else b.modMce (p.1 - 1) fun m => { m with regions := dropAt m.regions p.2 }
  | 2 => w.on fun b => b.modCache p.1 fun c => { c with keys := dropAt c.keys p.2 }
  | 3 => w.on fun b => b.loseNode p.1 p.2
  | 4 => w.loseFrame p.1 p.2
  | 5 => w.on fun b => b.endReduction i .poisoned
  | 6 => w.on fun b => b.loseProgram p.1 p.2
  | 7 => w.on fun b => b.loseQp i
  | 8 => w.on fun b => { b with obs := b.obs.loseWord i }
  | _ => w.on fun b => b.blockReset .commandTable 0x74

/-- One error that a pass meets; after a whole-block rung there is nothing left to read. -/
def Work.sramError (w : Work) (x : SramError) : Work :=
  if w.blk.pins.blockSafe || 10 ≤ x.cls then w
  else if x.correctable then w.on fun b => b.eccCorrected x.cls
  else (w.on fun b => b.raisePf 0x15 0x74 [(0, x.cls), (4, x.index)]).sramEffect x.cls x.index

def Work.sramErrors (w : Work) : List SramError → Work
  | [] => w
  | x :: r => (w.sramError x).sramErrors r

/-- Slots that fail their MAC (R101). -/
def Block.forgedSlots (b : Block) : List Nat :=
  Tab.keys (α := KeySlot) (b.keys.slots.filter fun s => !s.2.isEmpty && !s.2.eccBad && !b.slotOk s.1)

/-- The events of slots that fail their MAC. -/
def Block.noticeForged (b : Block) : List Nat → Block
  | [] => b
  | n :: r => (b.noticeCorrupt n .keyCorrupt).noticeForged r

/-- SCRUB_SRAM: R101, R347, R464, R465, R469. The number of words that a pass reads is the implementation's (log 4). -/
def execScrubSram (cmd : Nat) (found : List SramError) (s : State) : Host.Outcome State Fault Refusal :=
  onCommandMem s cmd 0x0C01 fun c w =>
    if dfld c.desc 40 1 ≠ 1 then w
    else if c.fn ≠ 0 || dfld c.desc 16 8 ≠ 0 || dfld c.desc 24 8 ≠ 0 then w.on fun b => b.fail cmd .badOperand
    else
      let hit := found.filter fun x => x.cls < 10
      let forged := w.blk.forgedSlots
      let w := (w.on fun b => (b.wait cmd).noticeForged forged).sramErrors hit
      w.on fun b =>
        (b.rakeEnds cmd (Config.open64 18 b.fresh).toNat (hit.filter fun x => x.correctable).length
          (hit.filter fun x => !x.correctable).length forged.length).freshen

end Sys2Proof.Machine
end

