-- ==== Sys2Proof/Machine/Spdm.lean ====
section
/-! DEFINITION. SPDM 1.3 at `mgmt_*` with secured messages (R67, R75, R393). What SPDM fixes and R393 does not state of a
response is an opaque body; codes are those of DSP0274, and the record is that of DSP0277 (log 116). -/

namespace Sys2Proof.Machine

open Sys2Proof Sys2Proof.Machine.Crypto

/-- Response codes (DSP0274). -/
def spdmVersion : Nat := 0x04
def spdmCapabilities : Nat := 0x61
def spdmAlgorithms : Nat := 0x63
def spdmDigests : Nat := 0x01
def spdmCertificate : Nat := 0x02
def spdmChallengeAuth : Nat := 0x03
def spdmMeasurements : Nat := 0x60
def spdmKeyExchangeRsp : Nat := 0x64
def spdmFinishRsp : Nat := 0x65
def spdmHeartbeatAck : Nat := 0x68
def spdmEndSessionAck : Nat := 0x6C
def spdmChunkResponse : Nat := 0x06
def spdmErrorCode : Nat := 0x7F

/-- Error codes (DSP0274). -/
def spdmInvalid : Nat := 0x01
def spdmUnexpected : Nat := 0x04
def spdmUnspecified : Nat := 0x05
def spdmDecrypt : Nat := 0x06

/-- A response crosses `mgmt_*`. -/
def Block.spdmAnswer (b : Block) (code : Nat) (body : Bytes) : Block := b.emit (.spdm code body)

def Block.spdmError (b : Block) (code : Nat) : Block := b.spdmAnswer spdmErrorCode [BitVec.ofNat 8 code]

/-- A response whose body SPDM fixes. -/
def Block.spdmPlain (b : Block) (code : Nat) : Block := (b.spdmAnswer code (Config.spdmBody code b.fresh)).freshen

/-- A response of a session crosses as a secured message: AES-256-GCM under the keys of the session's phase, with the session,
the sequence number and the length as associated data (R67, R393). -/
def Block.spdmSealed (b : Block) (code : Nat) (body : Bytes) : Block :=
  let p := b.spdm
  let text : Bytes := [0x05, 0x13, BitVec.ofNat 8 code] ++ body
  let head := toLe 4 p.id.toNat ++ toLe 2 p.sent ++ toLe 2 (2 + text.length + 16)
  let r := gcmSeal (Config.spdmKey p.secret p.established).toNat
    (toLe 12 ((Config.spdmIv p.secret p.established).toNat ^^^ p.sent)) head (toLe 2 text.length ++ text)
  { b.emit (.secured p.id (BitVec.ofNat 16 p.sent) (r.1 ++ r.2)) with spdm := { p with sent := p.sent + 1 } }

/-- A secured response whose body SPDM fixes. -/
def Block.spdmInSession (b : Block) (code : Nat) : Block := (b.spdmSealed code (Config.spdmBody code b.fresh)).freshen

def Block.setSpdm (b : Block) (f : Spdm → Spdm) : Block := { b with spdm := f b.spdm }

/-- A request at `mgmt_*`: it meets no responder while the block is safe or the sequencer is in reset. -/
def onSpdm (s : State) (f : Block → Block) : Host.Outcome State Fault Refusal :=
  atPort .mgmt s <| onBlock s fun b => if b.pins.blockSafe || b.boot.seqReset then b else f b

/-- A request that SPDM admits once algorithms have been negotiated. -/
def afterNegotiation (f : Block → Block) (b : Block) : Block := if b.spdm.negotiated then f b else b.spdmError spdmUnexpected

/-- A request that needs new DRBG output (R387). -/
def needsEntropy (f : Block → Block) (b : Block) : Block := if b.boot.entropyDown then b.spdmError spdmUnspecified else f b

/-- Certificate slot 0: the EC chain with the Akoirno P-384 certificate first (R393), in the form of DSP0274. -/
def Block.spdmChain (b : Block) : Bytes :=
  let root := b.flashCert 3
  let certs := root ++ b.chains.getD 2 [] ++ b.chains.getD 3 []
  toLe 2 (52 + certs.length) ++ toLe 2 0 ++ sha384 root ++ certs

/-- SPDM_GET_VERSION: R393; a new connection starts. -/
def execSpdmGetVersion (s : State) : Host.Outcome State Fault Refusal :=
  onSpdm s fun b => (b.setSpdm fun _ => { versioned := true }).spdmPlain spdmVersion

/-- SPDM_GET_CAPABILITIES: R393. -/
def execSpdmGetCapabilities (_flags : BitVec 32) (s : State) : Host.Outcome State Fault Refusal :=
  onSpdm s fun b =>
    if b.spdm.versioned then (b.setSpdm fun p => { p with capable := true }).spdmPlain spdmCapabilities
    else b.spdmError spdmUnexpected

/-- The only algorithms that the block negotiates are offered (R393). -/
def spdmOffer (a : SpdmAlgs) : Bool := a.asym.toNat.testBit 7 && a.hash.toNat.testBit 1 && a.dhe.toNat.testBit 4 && a.aead.toNat.testBit 1

/-- SPDM_NEGOTIATE_ALGORITHMS: R393. -/
def execSpdmNegotiateAlgorithms (a : SpdmAlgs) (s : State) : Host.Outcome State Fault Refusal :=
  onSpdm s fun b =>
    if !b.spdm.capable then b.spdmError spdmUnexpected
    else if spdmOffer a then (b.setSpdm fun p => { p with negotiated := true }).spdmPlain spdmAlgorithms
    else b.spdmError spdmInvalid

/-- SPDM_GET_DIGESTS: R393: one slot, the digest of its chain. -/
def execSpdmGetDigests (s : State) : Host.Outcome State Fault Refusal :=
  onSpdm s <| afterNegotiation fun b => b.spdmAnswer spdmDigests (sha384 b.spdmChain)

/-- SPDM_GET_CERTIFICATE: R393. -/
def execSpdmGetCertificate (slot : BitVec 8) (offset length : Nat) (s : State) : Host.Outcome State Fault Refusal :=
  onSpdm s <| afterNegotiation fun b =>
    let c := b.spdmChain
    if slot ≠ 0 ∨ c.length ≤ offset then b.spdmError spdmInvalid
    else
      let part := (c.drop offset).take length
      b.spdmAnswer spdmCertificate (toLe 2 part.length ++ toLe 2 (c.length - offset - part.length) ++ part)

/-- SPDM_CHALLENGE: R393: signed under ALIAS_EC. -/
def execSpdmChallenge (slot : BitVec 8) (nonce : BitVec 256) (s : State) : Host.Outcome State Fault Refusal :=
  onSpdm s <| afterNegotiation <| needsEntropy fun b =>
    if slot ≠ 0 then b.spdmError spdmInvalid
    else
      let body := sha384 b.spdmChain ++ toLe 32 nonce.toNat ++ Config.spdmBody spdmChallengeAuth b.fresh
      (b.spdmAnswer spdmChallengeAuth (body ++ b.signEc 4 body)).freshen.drew

/-- SPDM_GET_MEASUREMENTS: R393: one measurement block, at index 0xFD: a block report with the request's nonce. -/
def execSpdmGetMeasurements (index : BitVec 8) (nonce : BitVec 256) (s : State) : Host.Outcome State Fault Refusal :=
  onSpdm s <| afterNegotiation <| needsEntropy fun b =>
    if index = 0 then b.spdmAnswer spdmMeasurements [1]
    else if index ≠ 0xFD ∧ index ≠ 0xFF then b.spdmError spdmInvalid
    else
      let r := b.report .block (toLe 32 nonce.toNat)
      let body := [(0xFD : Byte), 0x01] ++ toLe 2 (3 + r.length) ++ [(0x84 : Byte)] ++ toLe 2 r.length ++ r
      ((b.setSpdm fun p => { p with large := body }).spdmAnswer spdmMeasurements body).freshen

/-- SPDM_KEY_EXCHANGE: R393: the ephemeral scalar is drawn, and a session opens on the shared secret; a point off the curve is
refused. -/
def execSpdmKeyExchange (point : Bytes) (s : State) : Host.Outcome State Fault Refusal :=
  onSpdm s <| afterNegotiation <| needsEntropy fun b =>
    if b.spdm.session then b.spdmError spdmUnexpected
    else
      match p384Secret (p384Reduce (toLe 56 (b.random 448).toNat)) point with
      | none => b.spdmError spdmInvalid
      | some z =>
        ((b.setSpdm fun p =>
          { p with session := true, established := false, secret := z
                   id := (Config.open64 21 b.fresh).truncate 32, sent := 0 }).drew).spdmPlain spdmKeyExchangeRsp

/-- A session ends. -/
def Spdm.closed (p : Spdm) : Spdm := { p with session := false, established := false, secret := [], id := 0, sent := 0 }

/-- SPDM_FINISH: R67, R393: it and its answer travel under the keys of the handshake. -/
def execSpdmFinish (macOk : Bool) (s : State) : Host.Outcome State Fault Refusal :=
  onSpdm s fun b =>
    if !b.spdm.session || b.spdm.established then b.spdmError spdmUnexpected
    else if macOk then (b.spdmInSession spdmFinishRsp).setSpdm fun p => { p with established := true, sent := 0 }
    else (b.spdmSealed spdmErrorCode [BitVec.ofNat 8 spdmDecrypt]).setSpdm Spdm.closed

/-- SPDM_HEARTBEAT: R67, R393. -/
def execSpdmHeartbeat (s : State) : Host.Outcome State Fault Refusal :=
  onSpdm s fun b => if b.spdm.established then b.spdmInSession spdmHeartbeatAck else b.spdmError spdmUnexpected

/-- SPDM_END_SESSION: R67, R393. -/
def execSpdmEndSession (s : State) : Host.Outcome State Fault Refusal :=
  onSpdm s fun b =>
    if b.spdm.session then (b.spdmInSession spdmEndSessionAck).setSpdm Spdm.closed else b.spdmError spdmUnexpected

/-- Bytes of a chunk: SPDM's transfer size, which the spec does not give (log 4). -/
def spdmChunkSize : Nat := (Config.open64 13 0).toNat % 2 ^ 16 + 1

/-- SPDM_CHUNK_GET: R393. -/
def execSpdmChunkGet (handle : BitVec 8) (chunk : Nat) (s : State) : Host.Outcome State Fault Refusal :=
  onSpdm s <| afterNegotiation fun b =>
    if b.spdm.large.length ≤ chunk * spdmChunkSize then b.spdmError spdmInvalid
    else
      b.spdmAnswer spdmChunkResponse
        (toLe 1 handle.toNat ++ toLe 2 chunk ++ (b.spdm.large.drop (chunk * spdmChunkSize)).take spdmChunkSize)

end Sys2Proof.Machine
end

