-- ==== Sys2Proof/Machine/Time.lean ====
section
/-! DEFINITION. Time transfer between link partners (R60, R425 to R428). -/

namespace Sys2Proof.Machine

open Sys2Proof Sys2Proof.Machine.Crypto

/-- The payload of a TIME packet (R425). -/
structure TimeMsg where
  msg : Nat
  hops : Nat
  exch : Nat
  t1 : Nat
  f1 : Nat
  f2 : Nat := 0
  f3 : Nat := 0
  t2 : Nat := 0
  t3 : Nat := 0

def TimeMsg.bytes (t : TimeMsg) : Bytes :=
  toLe 1 t.msg ++ toLe 1 t.hops ++ toLe 2 0 ++ toLe 4 t.exch ++ toLe 8 t.t1 ++ toLe 2 t.f1 ++ toLe 2 t.f2 ++ toLe 2 t.f3 ++
  toLe 2 0 ++ toLe 8 t.t2 ++ toLe 8 t.t3 ++ toLe 24 0

def TimeMsg.read (p : Bytes) : TimeMsg :=
  { msg := bfld p 0 1, hops := bfld p 1 1, exch := bfld p 4 4, t1 := bfld p 8 8, f1 := bfld p 16 2, f2 := bfld p 18 2,
    f3 := bfld p 20 2, t2 := bfld p 24 8, t3 := bfld p 32 8 }

/-- The reserved bytes are zero, and a REQ carries no RESP fields. -/
def TimeMsg.ok (t : TimeMsg) (p : Bytes) : Bool :=
  t.bytes = p && (t.msg = 2 || (t.msg = 1 && t.t2 = 0 && t.t3 = 0 && t.f2 = 0 && t.f3 = 0))

/-- A TIME packet of one MSG arrives on an admitted port; a malformed one is discarded (R181, R425). -/
def atTime (s : State) (p : RxPacket) (msg : Nat) (act : TimeMsg → Block → Block) : Host.Outcome State Fault Refusal :=
  atPort (.lphy p.lpe) s <| onBlock s fun b =>
    b.linkArrives 0x40 p fun h body b =>
      let t := TimeMsg.read body
      if h.epoch = 1 && t.ok body then
        if t.msg ≠ msg then none else some (if (b.lpe p.lpe).admitted then act t b else b)
      else if (t.msg = 1 || t.msg = 2) && t.msg ≠ msg then none
      else some (b.discard p.lpe 1 h.src 0 0)

/-- The partner's hop count is known, and the parent follows it. -/
def Block.partnerAt (b : Block) (n hops : Nat) : Block :=
  (b.modLpe n fun l => { l with partnerHops := BitVec.ofNat 8 hops }).retime

/-- TIME_EXCHANGE: R425. -/
def execTimeExchange (lpe : Nat) (stamp : Stamp) (s : State) : Host.Outcome State Fault Refusal :=
  behindPort (.lphy lpe) s <| onBlock s fun b =>
    let l := b.lpe lpe
    if !l.admitted || !l.member then b
    else
      let b := b.modLpe lpe fun l =>
        { l with exchange := l.exchange + 1, reqTick := stamp.tick, reqFrac := stamp.frac }
      let t : TimeMsg :=
        { msg := 1, hops := b.time.hops.toNat, exch := (b.lpe lpe).exchange.toNat, t1 := stamp.tick.toNat
          f1 := stamp.frac.toNat }
      b.linkSend lpe 0x40 1 t.bytes

/-- RX_TIME_REQ: the answer carries T2, and T3, the instant at which the LPE lets it go, which no rule fixes (R425,
log 4). -/
def execRxTimeReq (p : RxPacket) (stamp : Stamp) (s : State) : Host.Outcome State Fault Refusal :=
  atTime s p 1 fun t b =>
    let b := b.partnerAt p.lpe t.hops
    let r : TimeMsg :=
      { t with msg := 2, hops := b.time.hops.toNat, t2 := stamp.tick.toNat, f2 := stamp.frac.toNat
               t3 := (Config.open64 11 b.fresh).toNat, f3 := (Config.open64 12 b.fresh).toNat % 65536 }
    b.freshen.linkSend p.lpe 0x40 1 r.bytes

/-- ASYM_PS of a port in 1/65,536 ns (R426). -/
def Block.asymmetry (b : Block) (n : Nat) : Int := (b.time.asym.getD n 0).toInt * 65536 / 1000

/-- An instant in 1/65,536 ns. -/
def instant (tick frac : Nat) : Int := (tick * 65536 + frac : Nat)

/-- The offset from the partner in 1/65,536 ns (R426). -/
def timeOffset (a : Int) (t : TimeMsg) (t4 : Stamp) : Int :=
  (a - (instant t.t2 t.f2 - instant t.t1 t.f1) + (instant t4.tick.toNat t4.frac.toNat - instant t.t3 t.f3)) / 2

/-- The mean of a list. -/
def meanOf (l : List Int) : Int := if l.isEmpty then 0 else l.sum / l.length

/-- The fastest slew: 200 ppm over 250 us is 50 ns (R426). -/
def maxSlew : Int := 50 * 65536

/-- Steers the tick by the mean offset from the parent: the first lock steps forward, or drops `dtick_valid` for one edge
and loads the parent's time; tracking slews (R426). -/
def Block.steer (b : Block) (mean : Int) : Block :=
  let t := { b.time with offset := BitVec.ofInt 32 (mean / 4096) }
  if b.time.locked then { b with time := { t with slew := clampInt (-mean) (-maxSlew) maxSlew } }
  else
    let tick := BitVec.ofInt 64 ((b.time.tick.toNat : Int) - mean / 65536)
    ({ b with
      time :=
        if mean < 0 then { t with tick := tick, step := true, locked := true }
        else if 0 < mean then { t with tick := tick, valid := false, dropped := true, locked := true }
        else { t with locked := true } }).retime

/-- RX_TIME_RESP: R426. -/
def execRxTimeResp (p : RxPacket) (stamp : Stamp) (s : State) : Host.Outcome State Fault Refusal :=
  atTime s p 2 fun t b =>
    let n := p.lpe
    if t.exch ≠ (b.lpe n).exchange.toNat || t.t1 ≠ (b.lpe n).reqTick.toNat || t.f1 ≠ (b.lpe n).reqFrac.toNat then b
    else
      let b := b.partnerAt n t.hops
      let o := timeOffset (b.asymmetry n) t stamp
      let b := b.modLpe n fun l => { l with offsets := (o :: l.offsets).take 16 }
      if b.domain.state = .member && (b.timeParent.map fun x => x.1) = some n && !(b.domain.seed && b.time.locked) then
        b.steer (meanOf (b.lpe n).offsets)
      else b

end Sys2Proof.Machine
end

