-- ==== Sys2Proof/Machine/Dispatch.lean ====
section
/-! DEFINITION. One arm per command: each calls the command's own meaning. -/

namespace Sys2Proof.Machine

open Sys2Proof

def exec (i : Instr) (s : State) : Host.Outcome State Fault Refusal :=
  match i with
  | .porAssert => Sys2Proof.Machine.execPorAssert s
  | .kindling => Sys2Proof.Machine.execKindling s
  | .kindlingStepDone r => Sys2Proof.Machine.execKindlingStepDone r s
  | .pwrGoodFall => Sys2Proof.Machine.execPwrGoodFall s
  | .pwrFailWarn supplyBack => Sys2Proof.Machine.execPwrFailWarn supplyBack s
  | .mreqRead r => Sys2Proof.Machine.execMreqRead r s
  | .mreqWrite r data sibs => Sys2Proof.Machine.execMreqWrite r data sibs s
  | .mctlReadReturn mce tag err data sibs => Sys2Proof.Machine.execMctlReadReturn mce tag err data sibs s
  | .keyFillArrival engine slot sibs => Sys2Proof.Machine.execKeyFillArrival engine slot sibs s
  | .dropOrder engine => Sys2Proof.Machine.execDropOrder engine s
  | .dropAck engine => Sys2Proof.Machine.execDropAck engine s
  | .kxpDone dest => Sys2Proof.Machine.execKxpDone dest s
  | .lreqLoad r acc => Sys2Proof.Machine.execLreqLoad r acc s
  | .lreqLoadCache r acc => Sys2Proof.Machine.execLreqLoadCache r acc s
  | .lreqStore r beats acc => Sys2Proof.Machine.execLreqStore r beats acc s
  | .lreqAtomic r beats acc => Sys2Proof.Machine.execLreqAtomic r beats acc s
  | .lreqCopy r beats acc => Sys2Proof.Machine.execLreqCopy r beats acc s
  | .lreqReduce r beats acc => Sys2Proof.Machine.execLreqReduce r beats acc s
  | .lreqInvalidate r acc => Sys2Proof.Machine.execLreqInvalidate r acc s
  | .rxLoad p acc => Sys2Proof.Machine.execRxLoad p acc s
  | .rxLoadCache p acc => Sys2Proof.Machine.execRxLoadCache p acc s
  | .rxStore p acc => Sys2Proof.Machine.execRxStore p acc s
  | .rxAtomic p acc => Sys2Proof.Machine.execRxAtomic p acc s
  | .rxCopy p acc => Sys2Proof.Machine.execRxCopy p acc s
  | .rxReduce p acc => Sys2Proof.Machine.execRxReduce p acc s
  | .windowRetired slot acc => Sys2Proof.Machine.execWindowRetired slot acc s
  | .rxInvalidate p acc => Sys2Proof.Machine.execRxInvalidate p acc s
  | .rxCpl p acc => Sys2Proof.Machine.execRxCpl p acc s
  | .rxCplData p acc => Sys2Proof.Machine.execRxCplData p acc s
  | .rxCplDataNc p acc => Sys2Proof.Machine.execRxCplDataNc p acc s
  | .rxInval p acc => Sys2Proof.Machine.execRxInval p acc s
  | .rxInvalAck p acc => Sys2Proof.Machine.execRxInvalAck p acc s
  | .rxEvict p acc => Sys2Proof.Machine.execRxEvict p acc s
  | .rxTear p acc => Sys2Proof.Machine.execRxTear p acc s
  | .rxAgg p acc => Sys2Proof.Machine.execRxAgg p acc s
  | .rxTimeReq p stamp => Sys2Proof.Machine.execRxTimeReq p stamp s
  | .rxTimeResp p stamp => Sys2Proof.Machine.execRxTimeResp p stamp s
  | .hello p => Sys2Proof.Machine.execHello p s
  | .deferred p => Sys2Proof.Machine.execDeferred p s
  | .evidence p v => Sys2Proof.Machine.execEvidence p v s
  | .kem p => Sys2Proof.Machine.execKem p s
  | .finish p => Sys2Proof.Machine.execFinish p s
  | .ready p => Sys2Proof.Machine.execReady p s
  | .cred p => Sys2Proof.Machine.execCred p s
  | .reject p => Sys2Proof.Machine.execReject p s
  | .leave p => Sys2Proof.Machine.execLeave p s
  | .lphyUpRise lpe => Sys2Proof.Machine.execLphyUpRise lpe s
  | .lphyUpFall lpe => Sys2Proof.Machine.execLphyUpFall lpe s
  | .ctxKillNotice ctx cause => Sys2Proof.Machine.execCtxKillNotice ctx cause s
  | .govActReport part op count => Sys2Proof.Machine.execGovActReport part op count s
  | .govTelReport rail mv ca => Sys2Proof.Machine.execGovTelReport rail mv ca s
  | .railAck code mv => Sys2Proof.Machine.execRailAck code mv s
  | .rpmbResult seq accepted => Sys2Proof.Machine.execRpmbResult seq accepted s
  | .powerCycleAck => Sys2Proof.Machine.execPowerCycleAck s
  | .spdmGetVersion => Sys2Proof.Machine.execSpdmGetVersion s
  | .spdmGetCapabilities flags => Sys2Proof.Machine.execSpdmGetCapabilities flags s
  | .spdmNegotiateAlgorithms a => Sys2Proof.Machine.execSpdmNegotiateAlgorithms a s
  | .spdmGetDigests => Sys2Proof.Machine.execSpdmGetDigests s
  | .spdmGetCertificate slot offset length => Sys2Proof.Machine.execSpdmGetCertificate slot offset length s
  | .spdmChallenge slot nonce => Sys2Proof.Machine.execSpdmChallenge slot nonce s
  | .spdmGetMeasurements index nonce => Sys2Proof.Machine.execSpdmGetMeasurements index nonce s
  | .spdmKeyExchange point => Sys2Proof.Machine.execSpdmKeyExchange point s
  | .spdmFinish macOk => Sys2Proof.Machine.execSpdmFinish macOk s
  | .spdmHeartbeat => Sys2Proof.Machine.execSpdmHeartbeat s
  | .spdmEndSession => Sys2Proof.Machine.execSpdmEndSession s
  | .spdmChunkGet handle chunk => Sys2Proof.Machine.execSpdmChunkGet handle chunk s
  | .tapInstruction t => Sys2Proof.Machine.execTapInstruction t s
  | .hcpWriteResponse tag err => Sys2Proof.Machine.execHcpWriteResponse tag err s
  | .hcpReadReturn tag r => Sys2Proof.Machine.execHcpReadReturn tag r s
  | .descriptorFetch qp desc => Sys2Proof.Machine.execDescriptorFetch qp desc s
  | .descriptorFetchFault qp => Sys2Proof.Machine.execDescriptorFetchFault qp s
  | .doorbellWrite fn qp val => Sys2Proof.Machine.execDoorbellWrite fn qp val s
  | .fnAllocWrite fn page val => Sys2Proof.Machine.execFnAllocWrite fn page val s
  | .qpEnable fn page qp => Sys2Proof.Machine.execQpEnable fn page qp s
  | .qpDisable fn page qp => Sys2Proof.Machine.execQpDisable fn page qp s
  | .qpDisableDone page => Sys2Proof.Machine.execQpDisableDone page s
  | .upSet fn page => Sys2Proof.Machine.execUpSet fn page s
  | .upClr fn page => Sys2Proof.Machine.execUpClr fn page s
  | .downSet fn page => Sys2Proof.Machine.execDownSet fn page s
  | .downClr fn page => Sys2Proof.Machine.execDownClr fn page s
  | .faultqCtlWrite fn page val => Sys2Proof.Machine.execFaultqCtlWrite fn page val s
  | .ashEnable fn page val => Sys2Proof.Machine.execAshEnable fn page val s
  | .ashRelease fn page val => Sys2Proof.Machine.execAshRelease fn page val s
  | .flush fn page => Sys2Proof.Machine.execFlush fn page s
  | .ashRecord fn => Sys2Proof.Machine.execAshRecord fn s
  | .cipherGo fn page val => Sys2Proof.Machine.execCipherGo fn page val s
  | .cipherDone fn agree => Sys2Proof.Machine.execCipherDone fn agree s
  | .cipIvWrite fn page high val => Sys2Proof.Machine.execCipIvWrite fn page high val s
  | .domainLoad fn len manifest => Sys2Proof.Machine.execDomainLoad fn len manifest s
  | .domainLeave fn acc => Sys2Proof.Machine.execDomainLeave fn acc s
  | .calibrationStart fn => Sys2Proof.Machine.execCalibrationStart fn s
  | .calibrationEnd => Sys2Proof.Machine.execCalibrationEnd s
  | .ccWayWrite fn g val => Sys2Proof.Machine.execCcWayWrite fn g val s
  | .ccWayApplied g sibs => Sys2Proof.Machine.execCcWayApplied g sibs s
  | .ringSelect fn val => Sys2Proof.Machine.execRingSelect fn val s
  | .alarmClear fn val => Sys2Proof.Machine.execAlarmClear fn val s
  | .registerWrite fn off val => Sys2Proof.Machine.execRegisterWrite fn off val s
  | .keyGenerate cmd => Sys2Proof.Machine.execKeyGenerate cmd s
  | .keyDerive cmd => Sys2Proof.Machine.execKeyDerive cmd s
  | .keyImport cmd => Sys2Proof.Machine.execKeyImport cmd s
  | .keyExport cmd => Sys2Proof.Machine.execKeyExport cmd s
  | .keyInvalidate cmd => Sys2Proof.Machine.execKeyInvalidate cmd s
  | .keyQuery cmd => Sys2Proof.Machine.execKeyQuery cmd s
  | .keyPush cmd => Sys2Proof.Machine.execKeyPush cmd s
  | .regionBind cmd => Sys2Proof.Machine.execRegionBind cmd s
  | .regionUnbind cmd => Sys2Proof.Machine.execRegionUnbind cmd s
  | .regionRekey cmd => Sys2Proof.Machine.execRegionRekey cmd s
  | .regionQuery cmd => Sys2Proof.Machine.execRegionQuery cmd s
  | .ctxOpen cmd => Sys2Proof.Machine.execCtxOpen cmd s
  | .ctxClose cmd => Sys2Proof.Machine.execCtxClose cmd s
  | .ctxKill cmd acc => Sys2Proof.Machine.execCtxKill cmd acc s
  | .jobJoin cmd => Sys2Proof.Machine.execJobJoin cmd s
  | .jobLeave cmd => Sys2Proof.Machine.execJobLeave cmd s
  | .jobKeys cmd => Sys2Proof.Machine.execJobKeys cmd s
  | .progLoad cmd => Sys2Proof.Machine.execProgLoad cmd s
  | .progBind cmd => Sys2Proof.Machine.execProgBind cmd s
  | .progUnload cmd => Sys2Proof.Machine.execProgUnload cmd s
  | .kilnSetup cmd acc => Sys2Proof.Machine.execKilnSetup cmd acc s
  | .kilnExponent cmd acc => Sys2Proof.Machine.execKilnExponent cmd acc s
  | .kilnSum cmd acc => Sys2Proof.Machine.execKilnSum cmd acc s
  | .kilnFinish cmd => Sys2Proof.Machine.execKilnFinish cmd s
  | .dmaCopy cmd => Sys2Proof.Machine.execDmaCopy cmd s
  | .dmaIngest cmd => Sys2Proof.Machine.execDmaIngest cmd s
  | .ingestChunk desc chunk acc => Sys2Proof.Machine.execIngestChunk desc chunk acc s
  | .laneInvocation desc src acc => Sys2Proof.Machine.execLaneInvocation desc src acc s
  | .dmaLine desc src acc => Sys2Proof.Machine.execDmaLine desc src acc s
  | .dmaMap cmd acc => Sys2Proof.Machine.execDmaMap cmd acc s
  | .dmaUnmap cmd acc => Sys2Proof.Machine.execDmaUnmap cmd acc s
  | .addrConvert cmd => Sys2Proof.Machine.execAddrConvert cmd s
  | .translationWalkDone desc header acc => Sys2Proof.Machine.execTranslationWalkDone desc header acc s
  | .attestReport cmd => Sys2Proof.Machine.execAttestReport cmd s
  | .measureLoad cmd => Sys2Proof.Machine.execMeasureLoad cmd s
  | .licenseInstall cmd => Sys2Proof.Machine.execLicenseInstall cmd s
  | .licenseRevoke cmd => Sys2Proof.Machine.execLicenseRevoke cmd s
  | .meterReport cmd => Sys2Proof.Machine.execMeterReport cmd s
  | .shuffleEpoch cmd => Sys2Proof.Machine.execShuffleEpoch cmd s
  | .timeAnchor cmd => Sys2Proof.Machine.execTimeAnchor cmd s
  | .signal cmd acc => Sys2Proof.Machine.execSignal cmd acc s
  | .create cmd acc => Sys2Proof.Machine.execCreate cmd acc s
  | .destroy cmd acc => Sys2Proof.Machine.execDestroy cmd acc s
  | .fenceWait cmd acc => Sys2Proof.Machine.execFenceWait cmd acc s
  | .eventNotify cmd => Sys2Proof.Machine.execEventNotify cmd s
  | .partitionSet cmd => Sys2Proof.Machine.execPartitionSet cmd s
  | .ledgerRead cmd => Sys2Proof.Machine.execLedgerRead cmd s
  | .scrubRange cmd => Sys2Proof.Machine.execScrubRange cmd s
  | .scrubSram cmd found => Sys2Proof.Machine.execScrubSram cmd found s
  | .rakeLine cmd ret => Sys2Proof.Machine.execRakeLine cmd ret s
  | .engineReset cmd => Sys2Proof.Machine.execEngineReset cmd s
  | .engineResetComplete engine sibs => Sys2Proof.Machine.execEngineResetComplete engine sibs s
  | .functionQuiesce cmd => Sys2Proof.Machine.execFunctionQuiesce cmd s
  | .functionResume cmd => Sys2Proof.Machine.execFunctionResume cmd s
  | .functionReset cmd => Sys2Proof.Machine.execFunctionReset cmd s
  | .heartbeatConfig cmd => Sys2Proof.Machine.execHeartbeatConfig cmd s
  | .lcTransition cmd acc => Sys2Proof.Machine.execLcTransition cmd acc s
  | .debugChallenge cmd => Sys2Proof.Machine.execDebugChallenge cmd s
  | .debugResponse cmd acc => Sys2Proof.Machine.execDebugResponse cmd acc s
  | .debugCert cmd acc => Sys2Proof.Machine.execDebugCert cmd acc s
  | .patchWriteFirst cmd => Sys2Proof.Machine.execPatchWriteFirst cmd s
  | .patchWrite cmd => Sys2Proof.Machine.execPatchWrite cmd s
  | .patchVerify cmd flash => Sys2Proof.Machine.execPatchVerify cmd flash s
  | .patchActivate cmd => Sys2Proof.Machine.execPatchActivate cmd s
  | .patchConfirm cmd => Sys2Proof.Machine.execPatchConfirm cmd s
  | .trafficGen cmd g => Sys2Proof.Machine.execTrafficGen cmd g s
  | .selftest cmd failed => Sys2Proof.Machine.execSelftest cmd failed s
  | .bindLineWrite region mce sibs => Sys2Proof.Machine.execBindLineWrite region mce sibs s
  | .rekeyLine region mce ret sibs => Sys2Proof.Machine.execRekeyLine region mce ret sibs s
  | .keySweep slot => Sys2Proof.Machine.execKeySweep slot s
  | .ember => Sys2Proof.Machine.execEmber s
  | .watchdog => Sys2Proof.Machine.execWatchdog s
  | .sequencerRestart digestSame => Sys2Proof.Machine.execSequencerRestart digestSame s
  | .alarmFatalTimeout => Sys2Proof.Machine.execAlarmFatalTimeout s
  | .powerCycleRetry => Sys2Proof.Machine.execPowerCycleRetry s
  | .contextKillTimeout ctx => Sys2Proof.Machine.execContextKillTimeout ctx s
  | .engineAckTimeout engine => Sys2Proof.Machine.execEngineAckTimeout engine s
  | .engineDrainTimeout engine => Sys2Proof.Machine.execEngineDrainTimeout engine s
  | .fabTimeout lpe rtag => Sys2Proof.Machine.execFabTimeout lpe rtag s
  | .t1Timeout mce tag => Sys2Proof.Machine.execT1Timeout mce tag s
  | .rtagQuarantineExpiry engine tag acc => Sys2Proof.Machine.execRtagQuarantineExpiry engine tag acc s
  | .leaseExpiry dest dslot => Sys2Proof.Machine.execLeaseExpiry dest dslot s
  | .coalesceTimeout qp => Sys2Proof.Machine.execCoalesceTimeout qp s
  | .ashPacketTimeout fn => Sys2Proof.Machine.execAshPacketTimeout fn s
  | .xlateBatchTimeout fn => Sys2Proof.Machine.execXlateBatchTimeout fn s
  | .periodBoundary record => Sys2Proof.Machine.execPeriodBoundary record s
  | .fenceWaitTimeout cmd => Sys2Proof.Machine.execFenceWaitTimeout cmd s
  | .quiesceDeadline fn => Sys2Proof.Machine.execQuiesceDeadline fn s
  | .railRequestTimeout => Sys2Proof.Machine.execRailRequestTimeout s
  | .rpmbRelayTimeout seq => Sys2Proof.Machine.execRpmbRelayTimeout seq s
  | .admissionTimeout lpe => Sys2Proof.Machine.execAdmissionTimeout lpe s
  | .deferredRetry lpe => Sys2Proof.Machine.execDeferredRetry lpe s
  | .rejectRetry lpe => Sys2Proof.Machine.execRejectRetry lpe s
  | .seedWaitExpiry => Sys2Proof.Machine.execSeedWaitExpiry s
  | .governorTick => Sys2Proof.Machine.execGovernorTick s
  | .bandwidthWindow engine capacity => Sys2Proof.Machine.execBandwidthWindow engine capacity s
  | .canaryMeasure rates => Sys2Proof.Machine.execCanaryMeasure rates s
  | .railLowerRequest => Sys2Proof.Machine.execRailLowerRequest s
  | .timeExchange lpe stamp => Sys2Proof.Machine.execTimeExchange lpe stamp s
  | .entropyTestFail test => Sys2Proof.Machine.execEntropyTestFail test s
  | .entropyRestart pass => Sys2Proof.Machine.execEntropyRestart pass s
  | .drbgReseed => Sys2Proof.Machine.execDrbgReseed s
  | .maskRekey => Sys2Proof.Machine.execMaskRekey s
  | .eccLeak => Sys2Proof.Machine.execEccLeak s
  | .shellClockStop shell => Sys2Proof.Machine.execShellClockStop shell s
  | .shellClockReturn shell => Sys2Proof.Machine.execShellClockReturn shell s
  | .controllerCredit mce write => Sys2Proof.Machine.execControllerCredit mce write s
  | .linkTxCredit lpe => Sys2Proof.Machine.execLinkTxCredit lpe s
  | .mctlQoccUpdate mce occ => Sys2Proof.Machine.execMctlQoccUpdate mce occ s
  | .refusedRead fn off => Sys2Proof.Machine.execRefusedRead fn off s
  | .malformedPacket lpe p len16 => Sys2Proof.Machine.execMalformedPacket lpe p len16 s
  | .pairKeyDerivation lpe acc => Sys2Proof.Machine.execPairKeyDerivation lpe acc s
  | .pkhRequestDone lattice r => Sys2Proof.Machine.execPkhRequestDone lattice r s
  | .regionCacheDropAck mce => Sys2Proof.Machine.execRegionCacheDropAck mce s
  | .functionBoundMissed fn => Sys2Proof.Machine.execFunctionBoundMissed fn s

end Sys2Proof.Machine
end

