-- ==== Sys2Proof/Laws/Memory.lean ====
section
/-! SUPPORT. The laws of memory: what a byte reads as after a store, and that every store keeps the canonical form. -/

namespace Sys2Proof.Machine

open Sys2Proof

/-! ## The canonical form -/

theorem Memory.wfFrom_weaken {lo hi : Nat} {m : List Host.Cell} (h : lo ≤ hi) (w : Memory.wfFrom hi m = true) :
    Memory.wfFrom lo m = true := by
  cases m with
  | nil => rfl
  | cons c t =>
    simp only [Memory.wfFrom, Bool.and_eq_true, decide_eq_true_eq] at w ⊢
    exact ⟨⟨⟨by omega, w.1.1.2⟩, w.1.2⟩, w.2⟩

theorem Memory.wfFrom_set {lo a : Nat} {m : List Host.Cell} (v : Byte) (hlo : lo ≤ a) (ha : a < memSize)
    (w : Memory.wfFrom lo m = true) : Memory.wfFrom lo (Memory.set m a v) = true := by
  induction m generalizing lo with
  | nil =>
    unfold Memory.set
    split
    · rfl
    · rename_i hv
      simp only [Memory.wfFrom, Bool.and_eq_true, decide_eq_true_eq]
      exact ⟨⟨⟨hlo, ha⟩, hv⟩, trivial⟩
  | cons c t ih =>
    obtain ⟨k, x⟩ := c
    simp only [Memory.wfFrom, Bool.and_eq_true, decide_eq_true_eq] at w
    obtain ⟨⟨⟨h1, h2⟩, h3⟩, h4⟩ := w
    unfold Memory.set
    split
    · rename_i hak
      split
      · simp only [Memory.wfFrom, Bool.and_eq_true, decide_eq_true_eq]
        exact ⟨⟨⟨h1, h2⟩, h3⟩, h4⟩
      · rename_i hv
        simp only [Memory.wfFrom, Bool.and_eq_true, decide_eq_true_eq]
        exact ⟨⟨⟨hlo, ha⟩, hv⟩, ⟨⟨by omega, h2⟩, h3⟩, h4⟩
    · split
      · rename_i hak
        split
        · exact Memory.wfFrom_weaken (by omega) h4
        · rename_i hv
          subst hak
          simp only [Memory.wfFrom, Bool.and_eq_true, decide_eq_true_eq]
          exact ⟨⟨⟨hlo, ha⟩, hv⟩, h4⟩
      · simp only [Memory.wfFrom, Bool.and_eq_true, decide_eq_true_eq]
        exact ⟨⟨⟨h1, h2⟩, h3⟩, ih (by omega) h4⟩

/-- One byte's store keeps the canonical form. -/
theorem Memory.wf_set {a : Nat} {m : List Host.Cell} (v : Byte) (ha : a < memSize) (w : Memory.wf m = true) :
    Memory.wf (Memory.set m a v) = true := Memory.wfFrom_set v (Nat.zero_le a) ha w

/-- A store of bytes keeps the canonical form. -/
theorem Memory.wf_write (d : Bytes) {a : Nat} {m : List Host.Cell} (w : Memory.wf m = true) :
    Memory.wf (Memory.write m a d) = true := by
  induction d generalizing a m with
  | nil => exact w
  | cons v r ih => exact ih (Memory.wf_set v (Nat.mod_lt _ (by decide)) w)

/-- Stores keep the canonical form. -/
theorem wf_applyStores (l : List Store1) {m : List Host.Cell} (w : Memory.wf m = true) :
    Memory.wf (applyStores m l) = true := by
  induction l generalizing m with
  | nil => exact w
  | cons x r ih => exact ih (Memory.wf_write _ w)

/-! ## What a byte reads as -/

theorem Memory.get_of_below {lo a : Nat} {m : List Host.Cell} (w : Memory.wfFrom lo m = true) (h : a < lo) :
    Memory.get m a = 0 := by
  induction m generalizing lo with
  | nil => rfl
  | cons c t ih =>
    obtain ⟨k, x⟩ := c
    simp only [Memory.wfFrom, Bool.and_eq_true, decide_eq_true_eq] at w
    have hk : ¬ k = a := by omega
    simp only [Memory.get, if_neg hk]
    exact ih w.2 (by omega)

/-- A byte reads as what was stored there last. -/
theorem Memory.get_set_same {lo a : Nat} {m : List Host.Cell} (v : Byte) (w : Memory.wfFrom lo m = true) :
    Memory.get (Memory.set m a v) a = v := by
  induction m generalizing lo with
  | nil =>
    unfold Memory.set
    split
    · rename_i hv
      exact hv.symm
    · simp [Memory.get]
  | cons c t ih =>
    obtain ⟨k, x⟩ := c
    simp only [Memory.wfFrom, Bool.and_eq_true, decide_eq_true_eq] at w
    unfold Memory.set
    split
    · rename_i hak
      split
      · rename_i hv
        have hk : ¬ k = a := by omega
        simp only [Memory.get, if_neg hk, hv]
        exact Memory.get_of_below w.2 (by omega)
      · simp [Memory.get]
    · split
      · rename_i hak
        subst hak
        split
        · rename_i hv
          rw [hv]
          exact Memory.get_of_below w.2 (by omega)
        · simp [Memory.get]
      · rename_i h1 h2
        have hk : ¬ k = a := fun h => h2 h.symm
        simp only [Memory.get, if_neg hk]
        exact ih w.2

/-- A store leaves every other byte. -/
theorem Memory.get_set_other {a b : Nat} (m : List Host.Cell) (v : Byte) (h : b ≠ a) :
    Memory.get (Memory.set m a v) b = Memory.get m b := by
  have hab : ¬ a = b := fun e => h e.symm
  induction m with
  | nil =>
    unfold Memory.set
    split <;> simp [Memory.get, hab]
  | cons c t ih =>
    obtain ⟨k, x⟩ := c
    unfold Memory.set
    split
    · split <;> simp [Memory.get, hab]
    · split
      · rename_i hak
        subst hak
        split <;> simp [Memory.get, hab]
      · simp only [Memory.get, ih]

/-- A store of bytes that stays inside the address space leaves every byte outside it. -/
theorem Memory.get_write_outside (d : Bytes) {a b : Nat} (m : List Host.Cell) (hi : a + d.length ≤ memSize)
    (h : b < a ∨ a + d.length ≤ b) : Memory.get (Memory.write m a d) b = Memory.get m b := by
  induction d generalizing a m with
  | nil => rfl
  | cons v r ih =>
    simp only [List.length_cons] at hi h
    have hm : a % memSize = a := Nat.mod_eq_of_lt (by omega)
    rw [Memory.write, hm, ih _ (by omega) (by omega), Memory.get_set_other _ _ (by omega)]

/-- A store of bytes that stays inside the address space puts byte i at the i-th address. -/
theorem Memory.get_write_inside (d : Bytes) {a i : Nat} {m : List Host.Cell} (w : Memory.wf m = true)
    (hi : a + d.length ≤ memSize) (h : i < d.length) : Memory.get (Memory.write m a d) (a + i) = d[i] := by
  induction d generalizing a i m with
  | nil => exact absurd h (Nat.not_lt_zero i)
  | cons v r ih =>
    simp only [List.length_cons] at hi h
    have hm : a % memSize = a := Nat.mod_eq_of_lt (by omega)
    rw [Memory.write, hm]
    cases i with
    | zero =>
      rw [Memory.get_write_outside r _ (by omega) (by omega)]
      exact Memory.get_set_same v w
    | succ j =>
      have := ih (a := a + 1) (i := j) (m := Memory.set m a v) (Memory.wf_set v (by omega) w) (by omega) (by omega)
      rw [show a + (j + 1) = a + 1 + j by omega, this]
      rfl

/-! ## The two shapes in which a command acts -/

/-- Everything that a command on the block alone can do. -/
theorem onBlock_eq (s : State) (f : Block → Block) : onBlock s f = .next { s with blk := f s.blk.begin } := rfl

/-- Everything that a command on protected memory can do. -/
theorem onMemory_cases {s t : State} {f : Work → Work} (h : onMemory s f = .next t) :
    t.pending = s.pending ∧ t.blk = (f { blk := s.blk.begin, base := s.mem }).blk ∧
      t.mem = applyStores s.mem (f { blk := s.blk.begin, base := s.mem }).stores := by
  injection h with h
  subst h
  exact ⟨rfl, rfl, rfl⟩

/-- Everything that a command that waits for a controller's answer can do: it stays where it was while the answer is
out, and else acts as a command on protected memory does. -/
theorem onMemoryWait_cases {s t : State} {f : Work → Work} (h : onMemoryWait s f = .next t) :
    ((f { blk := s.blk.begin, base := s.mem, patient := true }).stuck = true ∧ t = { s with blk := s.blk.begin }) ∨
      ((f { blk := s.blk.begin, base := s.mem, patient := true }).stuck = false ∧ t.pending = s.pending ∧
        t.blk = (f { blk := s.blk.begin, base := s.mem, patient := true }).blk ∧
        t.mem = applyStores s.mem (f { blk := s.blk.begin, base := s.mem, patient := true }).stores) := by
  unfold onMemoryWait at h
  dsimp only at h
  split at h
  · rename_i hs
    injection h with h
    exact .inl ⟨hs, h.symm⟩
  · rename_i hs
    injection h with h
    subst h
    exact .inr ⟨by simpa using hs, rfl, rfl, rfl⟩

theorem onBlock_cases {s t : State} {f : Block → Block} (h : onBlock s f = .next t) :
    t.pending = s.pending ∧ t.mem = s.mem ∧ t.blk = f s.blk.begin := by
  injection h with h
  subst h
  exact ⟨rfl, rfl, rfl⟩

/-- A command at a port answers as its effect does, or does nothing while the shell's clock stands; without the port
it faults. -/
theorem atPort_cases {sh : Shell} {s t : State} {act : Host.Outcome State Fault Refusal} (h : atPort sh s act = .next t) :
    s.blk.build.shellBuilt sh = true ∧
      ((s.blk.stopped.contains sh = true ∧ t = { s with blk := s.blk.begin }) ∨
       (s.blk.stopped.contains sh = false ∧ act = .next t)) := by
  unfold atPort at h
  split at h
  · cases h
  · rename_i hb
    split at h
    · rename_i hs
      injection h with h
      exact ⟨by simpa using hb, .inl ⟨hs, h.symm⟩⟩
    · rename_i hs
      exact ⟨by simpa using hb, .inr ⟨by simpa using hs, h⟩⟩

theorem atEngine_cases {e : Nat} {s t : State} {act : Host.Outcome State Fault Refusal} (h : atEngine e s act = .next t) :
    s.blk.build.engineBuilt e = true ∧ act = .next t := by
  unfold atEngine at h
  split at h
  · rename_i hb
    exact ⟨hb, h⟩
  · cases h

theorem behindPort_cases {sh : Shell} {s t : State} {act : Host.Outcome State Fault Refusal}
    (h : behindPort sh s act = .next t) : s.blk.build.shellBuilt sh = true ∧ act = .next t := by
  unfold behindPort at h
  split at h
  · rename_i hb
    exact ⟨hb, h⟩
  · cases h

theorem behindPort_open {sh : Shell} {s : State} (act : Host.Outcome State Fault Refusal)
    (hb : s.blk.build.shellBuilt sh = true) : behindPort sh s act = act := by
  simp [behindPort, hb]

/-- A port that is built and whose clock runs lets the command have its effect. -/
theorem atPort_open {sh : Shell} {s : State} (act : Host.Outcome State Fault Refusal)
    (hb : s.blk.build.shellBuilt sh = true) (hs : s.blk.stopped.contains sh = false) : atPort sh s act = act := by
  unfold atPort
  rw [hb, hs]
  rfl

theorem atEngine_open {e : Nat} {s : State} (act : Host.Outcome State Fault Refusal)
    (hb : s.blk.build.engineBuilt e = true) : atEngine e s act = act := by
  simp [atEngine, hb]

end Sys2Proof.Machine
end

