-- ==== Sys2Proof/Laws/Tables.lean ====
section
/-! SUPPORT. The laws of sparse tables and free lists. -/

namespace Sys2Proof.Machine

open Sys2Proof

variable {α : Type}

@[simp] theorem Tab.get?_nil (k : Nat) : Tab.get? ([] : Tab α) k = none := rfl

@[simp] theorem Tab.get?_put_same (t : Tab α) (k : Nat) (a : α) : Tab.get? (Tab.put t k a) k = some a := by
  induction t with
  | nil => simp [Tab.put, Tab.get?]
  | cons e r ih =>
    obtain ⟨j, v⟩ := e
    unfold Tab.put
    split
    · simp [Tab.get?]
    · split
      · simp [Tab.get?]
      · rename_i h
        have : ¬ j = k := fun e => h e.symm
        simp [Tab.get?, this, ih]

/-- A second value for a key replaces the first. -/
@[simp] theorem Tab.put_put (t : Tab α) (k : Nat) (a c : α) : Tab.put (Tab.put t k a) k c = Tab.put t k c := by
  induction t with
  | nil => simp [Tab.put]
  | cons e r ih =>
    obtain ⟨j, v⟩ := e
    by_cases h : k < j
    · simp [Tab.put, h]
    · by_cases hj : k = j
      · simp [Tab.put, hj]
      · simp [Tab.put, h, hj, ih]

theorem Tab.get?_put_other (t : Tab α) {k j : Nat} (a : α) (h : j ≠ k) : Tab.get? (Tab.put t k a) j = Tab.get? t j := by
  have hk : ¬ k = j := fun e => h e.symm
  induction t with
  | nil => simp [Tab.put, Tab.get?, hk]
  | cons e r ih =>
    obtain ⟨i, v⟩ := e
    unfold Tab.put
    split
    · simp [Tab.get?, hk]
    · split
      · rename_i hi
        subst hi
        simp [Tab.get?, hk]
      · simp [Tab.get?, ih]

@[simp] theorem Tab.getD_put_same (t : Tab α) (k : Nat) (a d : α) : Tab.getD (Tab.put t k a) k d = a := by simp [Tab.getD]

theorem Tab.getD_put_other (t : Tab α) {k j : Nat} (a d : α) (h : j ≠ k) :
    Tab.getD (Tab.put t k a) j d = Tab.getD t j d := by simp [Tab.getD, Tab.get?_put_other t a h]

@[simp] theorem Tab.get?_del_same (t : Tab α) (k : Nat) : Tab.get? (Tab.del t k) k = none := by
  unfold Tab.del
  induction t with
  | nil => rfl
  | cons e r ih =>
    obtain ⟨j, v⟩ := e
    by_cases h : j = k
    · subst h
      simpa [List.filter] using ih
    · simp only [List.filter, ne_eq, h, not_false_eq_true, decide_true, Tab.get?]
      exact ih

theorem Tab.get?_del_other (t : Tab α) {k j : Nat} (h : j ≠ k) : Tab.get? (Tab.del t k) j = Tab.get? t j := by
  unfold Tab.del
  induction t with
  | nil => rfl
  | cons e r ih =>
    obtain ⟨i, v⟩ := e
    by_cases hi : i = k
    · subst hi
      have hij : ¬ i = j := fun e => h e.symm
      simpa [List.filter, Tab.get?, hij] using ih
    · simp only [List.filter, ne_eq, hi, not_false_eq_true, decide_true, Tab.get?]
      rw [ih]

theorem Tab.get?_upd_same (t : Tab α) (k : Nat) (f : α → α) : Tab.get? (Tab.upd t k f) k = (Tab.get? t k).map f := by
  unfold Tab.upd
  induction t with
  | nil => rfl
  | cons e r ih =>
    obtain ⟨j, v⟩ := e
    by_cases h : j = k
    · simp [Tab.get?, h]
    · simp only [List.map_cons, if_neg h, Tab.get?]
      exact ih

theorem Tab.get?_upd_other (t : Tab α) {k j : Nat} (f : α → α) (h : j ≠ k) : Tab.get? (Tab.upd t k f) j = Tab.get? t j := by
  unfold Tab.upd
  induction t with
  | nil => rfl
  | cons e r ih =>
    obtain ⟨i, v⟩ := e
    by_cases hi : i = k
    · subst hi
      have hij : ¬ i = j := fun e => h e.symm
      simp only [List.map_cons, if_true, Tab.get?, if_neg hij]
      exact ih
    · simp only [List.map_cons, if_neg hi, Tab.get?]
      rw [ih]

@[simp] theorem Tab.has_put_same (t : Tab α) (k : Nat) (a : α) : Tab.has (Tab.put t k a) k = true := by simp [Tab.has]

@[simp] theorem Tab.has_del_same (t : Tab α) (k : Nat) : Tab.has (Tab.del t k) k = false := by simp [Tab.has]

/-- A number that a free list gives lies below its limit. -/
theorem FreeList.take_lt {f : FreeList} {limit n : Nat} {g : FreeList} (h : f.take limit = some (n, g))
    (hf : ∀ x ∈ f.freed, x < limit) : n < limit := by
  unfold FreeList.take at h
  split at h
  · rename_i hn
    injection h with h
    injection h with h _
    omega
  · split at h
    · cases h
    · rename_i x r e
      injection h with h
      injection h with h _
      subst h
      exact hf _ (by simp [e])

end Sys2Proof.Machine
end

