-- ==== Sys2Proof/Laws/State.lean ====
section
/-! SUPPORT. The small updates of the state and the fields that each leaves, so that no later proof unfolds a record
update. -/

namespace Sys2Proof.Machine

open Sys2Proof

section Updates

variable (b : Block)

@[simp] theorem Block.begin_build : (b.begin).build = b.build := rfl
@[simp] theorem Block.begin_otp : (b.begin).otp = b.otp := rfl
@[simp] theorem Block.begin_store : (b.begin).store = b.store := rfl
@[simp] theorem Block.begin_pins : (b.begin).pins = b.pins := rfl
@[simp] theorem Block.begin_boot : (b.begin).boot = b.boot := rfl
@[simp] theorem Block.begin_keys : (b.begin).keys = b.keys := rfl
@[simp] theorem Block.begin_caches : (b.begin).caches = b.caches := rfl
@[simp] theorem Block.begin_regions : (b.begin).regions = b.regions := rfl
@[simp] theorem Block.begin_mces : (b.begin).mces = b.mces := rfl
@[simp] theorem Block.begin_lpes : (b.begin).lpes = b.lpes := rfl
@[simp] theorem Block.begin_resets : (b.begin).resets = b.resets := rfl
@[simp] theorem Block.begin_reductions : (b.begin).reductions = b.reductions := rfl
@[simp] theorem Block.begin_programs : (b.begin).programs = b.programs := rfl
@[simp] theorem Block.begin_frames : (b.begin).frames = b.frames := rfl
@[simp] theorem Block.begin_fns : (b.begin).fns = b.fns := rfl
@[simp] theorem Block.begin_qps : (b.begin).qps = b.qps := rfl
@[simp] theorem Block.begin_ctxs : (b.begin).ctxs = b.ctxs := rfl
@[simp] theorem Block.begin_ctxFree : (b.begin).ctxFree = b.ctxFree := rfl
@[simp] theorem Block.begin_jobs : (b.begin).jobs = b.jobs := rfl
@[simp] theorem Block.begin_seq : (b.begin).seq = b.seq := rfl
@[simp] theorem Block.begin_installs : (b.begin).installs = b.installs := rfl
@[simp] theorem Block.begin_meters : (b.begin).meters = b.meters := rfl
@[simp] theorem Block.begin_anchor : (b.begin).anchor = b.anchor := rfl
@[simp] theorem Block.begin_pkhLattice : (b.begin).pkhLattice = b.pkhLattice := rfl
@[simp] theorem Block.begin_pkhCurve : (b.begin).pkhCurve = b.pkhCurve := rfl
@[simp] theorem Block.begin_pkhIssuers : (b.begin).pkhIssuers = b.pkhIssuers := rfl
@[simp] theorem Block.begin_cipherAt : (b.begin).cipherAt = b.cipherAt := rfl
@[simp] theorem Block.begin_ways : (b.begin).ways = b.ways := rfl
@[simp] theorem Block.begin_limits : (b.begin).limits = b.limits := rfl
@[simp] theorem Block.begin_gov : (b.begin).gov = b.gov := rfl
@[simp] theorem Block.begin_time : (b.begin).time = b.time := rfl
@[simp] theorem Block.begin_obs : (b.begin).obs = b.obs := rfl
@[simp] theorem Block.begin_spdm : (b.begin).spdm = b.spdm := rfl
@[simp] theorem Block.begin_domain : (b.begin).domain = b.domain := rfl
@[simp] theorem Block.begin_stopped : (b.begin).stopped = b.stopped := rfl
@[simp] theorem Block.begin_held : (b.begin).held = b.held := rfl
@[simp] theorem Block.begin_fresh : (b.begin).fresh = b.fresh := rfl
@[simp] theorem Block.drew_build : (b.drew).build = b.build := rfl
@[simp] theorem Block.drew_otp : (b.drew).otp = b.otp := rfl
@[simp] theorem Block.drew_store : (b.drew).store = b.store := rfl
@[simp] theorem Block.drew_pins : (b.drew).pins = b.pins := rfl
@[simp] theorem Block.drew_keys : (b.drew).keys = b.keys := rfl
@[simp] theorem Block.drew_caches : (b.drew).caches = b.caches := rfl
@[simp] theorem Block.drew_regions : (b.drew).regions = b.regions := rfl
@[simp] theorem Block.drew_mces : (b.drew).mces = b.mces := rfl
@[simp] theorem Block.drew_lpes : (b.drew).lpes = b.lpes := rfl
@[simp] theorem Block.drew_resets : (b.drew).resets = b.resets := rfl
@[simp] theorem Block.drew_reductions : (b.drew).reductions = b.reductions := rfl
@[simp] theorem Block.drew_programs : (b.drew).programs = b.programs := rfl
@[simp] theorem Block.drew_frames : (b.drew).frames = b.frames := rfl
@[simp] theorem Block.drew_fns : (b.drew).fns = b.fns := rfl
@[simp] theorem Block.drew_qps : (b.drew).qps = b.qps := rfl
@[simp] theorem Block.drew_ctxs : (b.drew).ctxs = b.ctxs := rfl
@[simp] theorem Block.drew_ctxFree : (b.drew).ctxFree = b.ctxFree := rfl
@[simp] theorem Block.drew_jobs : (b.drew).jobs = b.jobs := rfl
@[simp] theorem Block.drew_seq : (b.drew).seq = b.seq := rfl
@[simp] theorem Block.drew_installs : (b.drew).installs = b.installs := rfl
@[simp] theorem Block.drew_meters : (b.drew).meters = b.meters := rfl
@[simp] theorem Block.drew_anchor : (b.drew).anchor = b.anchor := rfl
@[simp] theorem Block.drew_pkhLattice : (b.drew).pkhLattice = b.pkhLattice := rfl
@[simp] theorem Block.drew_pkhCurve : (b.drew).pkhCurve = b.pkhCurve := rfl
@[simp] theorem Block.drew_pkhIssuers : (b.drew).pkhIssuers = b.pkhIssuers := rfl
@[simp] theorem Block.drew_cipherAt : (b.drew).cipherAt = b.cipherAt := rfl
@[simp] theorem Block.drew_ways : (b.drew).ways = b.ways := rfl
@[simp] theorem Block.drew_limits : (b.drew).limits = b.limits := rfl
@[simp] theorem Block.drew_gov : (b.drew).gov = b.gov := rfl
@[simp] theorem Block.drew_time : (b.drew).time = b.time := rfl
@[simp] theorem Block.drew_obs : (b.drew).obs = b.obs := rfl
@[simp] theorem Block.drew_spdm : (b.drew).spdm = b.spdm := rfl
@[simp] theorem Block.drew_domain : (b.drew).domain = b.domain := rfl
@[simp] theorem Block.drew_stopped : (b.drew).stopped = b.stopped := rfl
@[simp] theorem Block.drew_out : (b.drew).out = b.out := rfl
@[simp] theorem Block.drew_held : (b.drew).held = b.held := rfl
@[simp] theorem Block.freshen_build : (b.freshen).build = b.build := rfl
@[simp] theorem Block.freshen_otp : (b.freshen).otp = b.otp := rfl
@[simp] theorem Block.freshen_store : (b.freshen).store = b.store := rfl
@[simp] theorem Block.freshen_pins : (b.freshen).pins = b.pins := rfl
@[simp] theorem Block.freshen_boot : (b.freshen).boot = b.boot := rfl
@[simp] theorem Block.freshen_keys : (b.freshen).keys = b.keys := rfl
@[simp] theorem Block.freshen_caches : (b.freshen).caches = b.caches := rfl
@[simp] theorem Block.freshen_regions : (b.freshen).regions = b.regions := rfl
@[simp] theorem Block.freshen_mces : (b.freshen).mces = b.mces := rfl
@[simp] theorem Block.freshen_lpes : (b.freshen).lpes = b.lpes := rfl
@[simp] theorem Block.freshen_resets : (b.freshen).resets = b.resets := rfl
@[simp] theorem Block.freshen_reductions : (b.freshen).reductions = b.reductions := rfl
@[simp] theorem Block.freshen_programs : (b.freshen).programs = b.programs := rfl
@[simp] theorem Block.freshen_frames : (b.freshen).frames = b.frames := rfl
@[simp] theorem Block.freshen_fns : (b.freshen).fns = b.fns := rfl
@[simp] theorem Block.freshen_qps : (b.freshen).qps = b.qps := rfl
@[simp] theorem Block.freshen_ctxs : (b.freshen).ctxs = b.ctxs := rfl
@[simp] theorem Block.freshen_ctxFree : (b.freshen).ctxFree = b.ctxFree := rfl
@[simp] theorem Block.freshen_jobs : (b.freshen).jobs = b.jobs := rfl
@[simp] theorem Block.freshen_seq : (b.freshen).seq = b.seq := rfl
@[simp] theorem Block.freshen_installs : (b.freshen).installs = b.installs := rfl
@[simp] theorem Block.freshen_meters : (b.freshen).meters = b.meters := rfl
@[simp] theorem Block.freshen_anchor : (b.freshen).anchor = b.anchor := rfl
@[simp] theorem Block.freshen_pkhLattice : (b.freshen).pkhLattice = b.pkhLattice := rfl
@[simp] theorem Block.freshen_pkhCurve : (b.freshen).pkhCurve = b.pkhCurve := rfl
@[simp] theorem Block.freshen_pkhIssuers : (b.freshen).pkhIssuers = b.pkhIssuers := rfl
@[simp] theorem Block.freshen_cipherAt : (b.freshen).cipherAt = b.cipherAt := rfl
@[simp] theorem Block.freshen_ways : (b.freshen).ways = b.ways := rfl
@[simp] theorem Block.freshen_limits : (b.freshen).limits = b.limits := rfl
@[simp] theorem Block.freshen_gov : (b.freshen).gov = b.gov := rfl
@[simp] theorem Block.freshen_time : (b.freshen).time = b.time := rfl
@[simp] theorem Block.freshen_obs : (b.freshen).obs = b.obs := rfl
@[simp] theorem Block.freshen_spdm : (b.freshen).spdm = b.spdm := rfl
@[simp] theorem Block.freshen_domain : (b.freshen).domain = b.domain := rfl
@[simp] theorem Block.freshen_stopped : (b.freshen).stopped = b.stopped := rfl
@[simp] theorem Block.freshen_out : (b.freshen).out = b.out := rfl
@[simp] theorem Block.freshen_held : (b.freshen).held = b.held := rfl
@[simp] theorem Block.setFn_build (f : Nat) (p : FnPage) : (b.setFn f p).build = b.build := rfl
@[simp] theorem Block.setFn_otp (f : Nat) (p : FnPage) : (b.setFn f p).otp = b.otp := rfl
@[simp] theorem Block.setFn_store (f : Nat) (p : FnPage) : (b.setFn f p).store = b.store := rfl
@[simp] theorem Block.setFn_pins (f : Nat) (p : FnPage) : (b.setFn f p).pins = b.pins := rfl
@[simp] theorem Block.setFn_boot (f : Nat) (p : FnPage) : (b.setFn f p).boot = b.boot := rfl
@[simp] theorem Block.setFn_keys (f : Nat) (p : FnPage) : (b.setFn f p).keys = b.keys := rfl
@[simp] theorem Block.setFn_caches (f : Nat) (p : FnPage) : (b.setFn f p).caches = b.caches := rfl
@[simp] theorem Block.setFn_regions (f : Nat) (p : FnPage) : (b.setFn f p).regions = b.regions := rfl
@[simp] theorem Block.setFn_mces (f : Nat) (p : FnPage) : (b.setFn f p).mces = b.mces := rfl
@[simp] theorem Block.setFn_lpes (f : Nat) (p : FnPage) : (b.setFn f p).lpes = b.lpes := rfl
@[simp] theorem Block.setFn_resets (f : Nat) (p : FnPage) : (b.setFn f p).resets = b.resets := rfl
@[simp] theorem Block.setFn_reductions (f : Nat) (p : FnPage) : (b.setFn f p).reductions = b.reductions := rfl
@[simp] theorem Block.setFn_programs (f : Nat) (p : FnPage) : (b.setFn f p).programs = b.programs := rfl
@[simp] theorem Block.setFn_frames (f : Nat) (p : FnPage) : (b.setFn f p).frames = b.frames := rfl
@[simp] theorem Block.setFn_qps (f : Nat) (p : FnPage) : (b.setFn f p).qps = b.qps := rfl
@[simp] theorem Block.setFn_ctxs (f : Nat) (p : FnPage) : (b.setFn f p).ctxs = b.ctxs := rfl
@[simp] theorem Block.setFn_ctxFree (f : Nat) (p : FnPage) : (b.setFn f p).ctxFree = b.ctxFree := rfl
@[simp] theorem Block.setFn_jobs (f : Nat) (p : FnPage) : (b.setFn f p).jobs = b.jobs := rfl
@[simp] theorem Block.setFn_seq (f : Nat) (p : FnPage) : (b.setFn f p).seq = b.seq := rfl
@[simp] theorem Block.setFn_installs (f : Nat) (p : FnPage) : (b.setFn f p).installs = b.installs := rfl
@[simp] theorem Block.setFn_meters (f : Nat) (p : FnPage) : (b.setFn f p).meters = b.meters := rfl
@[simp] theorem Block.setFn_anchor (f : Nat) (p : FnPage) : (b.setFn f p).anchor = b.anchor := rfl
@[simp] theorem Block.setFn_pkhLattice (f : Nat) (p : FnPage) : (b.setFn f p).pkhLattice = b.pkhLattice := rfl
@[simp] theorem Block.setFn_pkhCurve (f : Nat) (p : FnPage) : (b.setFn f p).pkhCurve = b.pkhCurve := rfl
@[simp] theorem Block.setFn_pkhIssuers (f : Nat) (p : FnPage) : (b.setFn f p).pkhIssuers = b.pkhIssuers := rfl
@[simp] theorem Block.setFn_cipherAt (f : Nat) (p : FnPage) : (b.setFn f p).cipherAt = b.cipherAt := rfl
@[simp] theorem Block.setFn_ways (f : Nat) (p : FnPage) : (b.setFn f p).ways = b.ways := rfl
@[simp] theorem Block.setFn_limits (f : Nat) (p : FnPage) : (b.setFn f p).limits = b.limits := rfl
@[simp] theorem Block.setFn_gov (f : Nat) (p : FnPage) : (b.setFn f p).gov = b.gov := rfl
@[simp] theorem Block.setFn_time (f : Nat) (p : FnPage) : (b.setFn f p).time = b.time := rfl
@[simp] theorem Block.setFn_obs (f : Nat) (p : FnPage) : (b.setFn f p).obs = b.obs := rfl
@[simp] theorem Block.setFn_spdm (f : Nat) (p : FnPage) : (b.setFn f p).spdm = b.spdm := rfl
@[simp] theorem Block.setFn_domain (f : Nat) (p : FnPage) : (b.setFn f p).domain = b.domain := rfl
@[simp] theorem Block.setFn_stopped (f : Nat) (p : FnPage) : (b.setFn f p).stopped = b.stopped := rfl
@[simp] theorem Block.setFn_out (f : Nat) (p : FnPage) : (b.setFn f p).out = b.out := rfl
@[simp] theorem Block.setFn_held (f : Nat) (p : FnPage) : (b.setFn f p).held = b.held := rfl
@[simp] theorem Block.setFn_fresh (f : Nat) (p : FnPage) : (b.setFn f p).fresh = b.fresh := rfl
@[simp] theorem Block.modFn_build (f : Nat) (g : FnPage → FnPage) : (b.modFn f g).build = b.build := rfl
@[simp] theorem Block.modFn_otp (f : Nat) (g : FnPage → FnPage) : (b.modFn f g).otp = b.otp := rfl
@[simp] theorem Block.modFn_store (f : Nat) (g : FnPage → FnPage) : (b.modFn f g).store = b.store := rfl
@[simp] theorem Block.modFn_pins (f : Nat) (g : FnPage → FnPage) : (b.modFn f g).pins = b.pins := rfl
@[simp] theorem Block.modFn_boot (f : Nat) (g : FnPage → FnPage) : (b.modFn f g).boot = b.boot := rfl
@[simp] theorem Block.modFn_keys (f : Nat) (g : FnPage → FnPage) : (b.modFn f g).keys = b.keys := rfl
@[simp] theorem Block.modFn_caches (f : Nat) (g : FnPage → FnPage) : (b.modFn f g).caches = b.caches := rfl
@[simp] theorem Block.modFn_regions (f : Nat) (g : FnPage → FnPage) : (b.modFn f g).regions = b.regions := rfl
@[simp] theorem Block.modFn_mces (f : Nat) (g : FnPage → FnPage) : (b.modFn f g).mces = b.mces := rfl
@[simp] theorem Block.modFn_lpes (f : Nat) (g : FnPage → FnPage) : (b.modFn f g).lpes = b.lpes := rfl
@[simp] theorem Block.modFn_resets (f : Nat) (g : FnPage → FnPage) : (b.modFn f g).resets = b.resets := rfl
@[simp] theorem Block.modFn_reductions (f : Nat) (g : FnPage → FnPage) : (b.modFn f g).reductions = b.reductions := rfl
@[simp] theorem Block.modFn_programs (f : Nat) (g : FnPage → FnPage) : (b.modFn f g).programs = b.programs := rfl
@[simp] theorem Block.modFn_frames (f : Nat) (g : FnPage → FnPage) : (b.modFn f g).frames = b.frames := rfl
@[simp] theorem Block.modFn_qps (f : Nat) (g : FnPage → FnPage) : (b.modFn f g).qps = b.qps := rfl
@[simp] theorem Block.modFn_ctxs (f : Nat) (g : FnPage → FnPage) : (b.modFn f g).ctxs = b.ctxs := rfl
@[simp] theorem Block.modFn_ctxFree (f : Nat) (g : FnPage → FnPage) : (b.modFn f g).ctxFree = b.ctxFree := rfl
@[simp] theorem Block.modFn_jobs (f : Nat) (g : FnPage → FnPage) : (b.modFn f g).jobs = b.jobs := rfl
@[simp] theorem Block.modFn_seq (f : Nat) (g : FnPage → FnPage) : (b.modFn f g).seq = b.seq := rfl
@[simp] theorem Block.modFn_installs (f : Nat) (g : FnPage → FnPage) : (b.modFn f g).installs = b.installs := rfl
@[simp] theorem Block.modFn_meters (f : Nat) (g : FnPage → FnPage) : (b.modFn f g).meters = b.meters := rfl
@[simp] theorem Block.modFn_anchor (f : Nat) (g : FnPage → FnPage) : (b.modFn f g).anchor = b.anchor := rfl
@[simp] theorem Block.modFn_pkhLattice (f : Nat) (g : FnPage → FnPage) : (b.modFn f g).pkhLattice = b.pkhLattice := rfl
@[simp] theorem Block.modFn_pkhCurve (f : Nat) (g : FnPage → FnPage) : (b.modFn f g).pkhCurve = b.pkhCurve := rfl
@[simp] theorem Block.modFn_pkhIssuers (f : Nat) (g : FnPage → FnPage) : (b.modFn f g).pkhIssuers = b.pkhIssuers := rfl
@[simp] theorem Block.modFn_cipherAt (f : Nat) (g : FnPage → FnPage) : (b.modFn f g).cipherAt = b.cipherAt := rfl
@[simp] theorem Block.modFn_ways (f : Nat) (g : FnPage → FnPage) : (b.modFn f g).ways = b.ways := rfl
@[simp] theorem Block.modFn_limits (f : Nat) (g : FnPage → FnPage) : (b.modFn f g).limits = b.limits := rfl
@[simp] theorem Block.modFn_gov (f : Nat) (g : FnPage → FnPage) : (b.modFn f g).gov = b.gov := rfl
@[simp] theorem Block.modFn_time (f : Nat) (g : FnPage → FnPage) : (b.modFn f g).time = b.time := rfl
@[simp] theorem Block.modFn_obs (f : Nat) (g : FnPage → FnPage) : (b.modFn f g).obs = b.obs := rfl
@[simp] theorem Block.modFn_spdm (f : Nat) (g : FnPage → FnPage) : (b.modFn f g).spdm = b.spdm := rfl
@[simp] theorem Block.modFn_domain (f : Nat) (g : FnPage → FnPage) : (b.modFn f g).domain = b.domain := rfl
@[simp] theorem Block.modFn_stopped (f : Nat) (g : FnPage → FnPage) : (b.modFn f g).stopped = b.stopped := rfl
@[simp] theorem Block.modFn_out (f : Nat) (g : FnPage → FnPage) : (b.modFn f g).out = b.out := rfl
@[simp] theorem Block.modFn_held (f : Nat) (g : FnPage → FnPage) : (b.modFn f g).held = b.held := rfl
@[simp] theorem Block.modFn_fresh (f : Nat) (g : FnPage → FnPage) : (b.modFn f g).fresh = b.fresh := rfl
@[simp] theorem Block.count_build (g k n : Nat) : (b.count g k n).build = b.build := rfl
@[simp] theorem Block.count_otp (g k n : Nat) : (b.count g k n).otp = b.otp := rfl
@[simp] theorem Block.count_store (g k n : Nat) : (b.count g k n).store = b.store := rfl
@[simp] theorem Block.count_pins (g k n : Nat) : (b.count g k n).pins = b.pins := rfl
@[simp] theorem Block.count_boot (g k n : Nat) : (b.count g k n).boot = b.boot := rfl
@[simp] theorem Block.count_keys (g k n : Nat) : (b.count g k n).keys = b.keys := rfl
@[simp] theorem Block.count_caches (g k n : Nat) : (b.count g k n).caches = b.caches := rfl
@[simp] theorem Block.count_regions (g k n : Nat) : (b.count g k n).regions = b.regions := rfl
@[simp] theorem Block.count_mces (g k n : Nat) : (b.count g k n).mces = b.mces := rfl
@[simp] theorem Block.count_lpes (g k n : Nat) : (b.count g k n).lpes = b.lpes := rfl
@[simp] theorem Block.count_resets (g k n : Nat) : (b.count g k n).resets = b.resets := rfl
@[simp] theorem Block.count_reductions (g k n : Nat) : (b.count g k n).reductions = b.reductions := rfl
@[simp] theorem Block.count_programs (g k n : Nat) : (b.count g k n).programs = b.programs := rfl
@[simp] theorem Block.count_frames (g k n : Nat) : (b.count g k n).frames = b.frames := rfl
@[simp] theorem Block.count_fns (g k n : Nat) : (b.count g k n).fns = b.fns := rfl
@[simp] theorem Block.count_qps (g k n : Nat) : (b.count g k n).qps = b.qps := rfl
@[simp] theorem Block.count_ctxs (g k n : Nat) : (b.count g k n).ctxs = b.ctxs := rfl
@[simp] theorem Block.count_ctxFree (g k n : Nat) : (b.count g k n).ctxFree = b.ctxFree := rfl
@[simp] theorem Block.count_jobs (g k n : Nat) : (b.count g k n).jobs = b.jobs := rfl
@[simp] theorem Block.count_seq (g k n : Nat) : (b.count g k n).seq = b.seq := rfl
@[simp] theorem Block.count_installs (g k n : Nat) : (b.count g k n).installs = b.installs := rfl
@[simp] theorem Block.count_meters (g k n : Nat) : (b.count g k n).meters = b.meters := rfl
@[simp] theorem Block.count_anchor (g k n : Nat) : (b.count g k n).anchor = b.anchor := rfl
@[simp] theorem Block.count_pkhLattice (g k n : Nat) : (b.count g k n).pkhLattice = b.pkhLattice := rfl
@[simp] theorem Block.count_pkhCurve (g k n : Nat) : (b.count g k n).pkhCurve = b.pkhCurve := rfl
@[simp] theorem Block.count_pkhIssuers (g k n : Nat) : (b.count g k n).pkhIssuers = b.pkhIssuers := rfl
@[simp] theorem Block.count_cipherAt (g k n : Nat) : (b.count g k n).cipherAt = b.cipherAt := rfl
@[simp] theorem Block.count_ways (g k n : Nat) : (b.count g k n).ways = b.ways := rfl
@[simp] theorem Block.count_limits (g k n : Nat) : (b.count g k n).limits = b.limits := rfl
@[simp] theorem Block.count_gov (g k n : Nat) : (b.count g k n).gov = b.gov := rfl
@[simp] theorem Block.count_time (g k n : Nat) : (b.count g k n).time = b.time := rfl
@[simp] theorem Block.count_spdm (g k n : Nat) : (b.count g k n).spdm = b.spdm := rfl
@[simp] theorem Block.count_domain (g k n : Nat) : (b.count g k n).domain = b.domain := rfl
@[simp] theorem Block.count_stopped (g k n : Nat) : (b.count g k n).stopped = b.stopped := rfl
@[simp] theorem Block.count_out (g k n : Nat) : (b.count g k n).out = b.out := rfl
@[simp] theorem Block.count_held (g k n : Nat) : (b.count g k n).held = b.held := rfl
@[simp] theorem Block.count_fresh (g k n : Nat) : (b.count g k n).fresh = b.fresh := rfl
@[simp] theorem Block.modQp_build (q : Nat) (g : QueuePair → QueuePair) : (b.modQp q g).build = b.build := rfl
@[simp] theorem Block.modQp_otp (q : Nat) (g : QueuePair → QueuePair) : (b.modQp q g).otp = b.otp := rfl
@[simp] theorem Block.modQp_store (q : Nat) (g : QueuePair → QueuePair) : (b.modQp q g).store = b.store := rfl
@[simp] theorem Block.modQp_pins (q : Nat) (g : QueuePair → QueuePair) : (b.modQp q g).pins = b.pins := rfl
@[simp] theorem Block.modQp_boot (q : Nat) (g : QueuePair → QueuePair) : (b.modQp q g).boot = b.boot := rfl
@[simp] theorem Block.modQp_keys (q : Nat) (g : QueuePair → QueuePair) : (b.modQp q g).keys = b.keys := rfl
@[simp] theorem Block.modQp_caches (q : Nat) (g : QueuePair → QueuePair) : (b.modQp q g).caches = b.caches := rfl
@[simp] theorem Block.modQp_regions (q : Nat) (g : QueuePair → QueuePair) : (b.modQp q g).regions = b.regions := rfl
@[simp] theorem Block.modQp_mces (q : Nat) (g : QueuePair → QueuePair) : (b.modQp q g).mces = b.mces := rfl
@[simp] theorem Block.modQp_lpes (q : Nat) (g : QueuePair → QueuePair) : (b.modQp q g).lpes = b.lpes := rfl
@[simp] theorem Block.modQp_resets (q : Nat) (g : QueuePair → QueuePair) : (b.modQp q g).resets = b.resets := rfl
@[simp] theorem Block.modQp_reductions (q : Nat) (g : QueuePair → QueuePair) : (b.modQp q g).reductions = b.reductions := rfl
@[simp] theorem Block.modQp_programs (q : Nat) (g : QueuePair → QueuePair) : (b.modQp q g).programs = b.programs := rfl
@[simp] theorem Block.modQp_frames (q : Nat) (g : QueuePair → QueuePair) : (b.modQp q g).frames = b.frames := rfl
@[simp] theorem Block.modQp_fns (q : Nat) (g : QueuePair → QueuePair) : (b.modQp q g).fns = b.fns := rfl
@[simp] theorem Block.modQp_ctxs (q : Nat) (g : QueuePair → QueuePair) : (b.modQp q g).ctxs = b.ctxs := rfl
@[simp] theorem Block.modQp_ctxFree (q : Nat) (g : QueuePair → QueuePair) : (b.modQp q g).ctxFree = b.ctxFree := rfl
@[simp] theorem Block.modQp_jobs (q : Nat) (g : QueuePair → QueuePair) : (b.modQp q g).jobs = b.jobs := rfl
@[simp] theorem Block.modQp_seq (q : Nat) (g : QueuePair → QueuePair) : (b.modQp q g).seq = b.seq := rfl
@[simp] theorem Block.modQp_installs (q : Nat) (g : QueuePair → QueuePair) : (b.modQp q g).installs = b.installs := rfl
@[simp] theorem Block.modQp_meters (q : Nat) (g : QueuePair → QueuePair) : (b.modQp q g).meters = b.meters := rfl
@[simp] theorem Block.modQp_anchor (q : Nat) (g : QueuePair → QueuePair) : (b.modQp q g).anchor = b.anchor := rfl
@[simp] theorem Block.modQp_pkhLattice (q : Nat) (g : QueuePair → QueuePair) : (b.modQp q g).pkhLattice = b.pkhLattice := rfl
@[simp] theorem Block.modQp_pkhCurve (q : Nat) (g : QueuePair → QueuePair) : (b.modQp q g).pkhCurve = b.pkhCurve := rfl
@[simp] theorem Block.modQp_pkhIssuers (q : Nat) (g : QueuePair → QueuePair) : (b.modQp q g).pkhIssuers = b.pkhIssuers := rfl
@[simp] theorem Block.modQp_cipherAt (q : Nat) (g : QueuePair → QueuePair) : (b.modQp q g).cipherAt = b.cipherAt := rfl
@[simp] theorem Block.modQp_ways (q : Nat) (g : QueuePair → QueuePair) : (b.modQp q g).ways = b.ways := rfl
@[simp] theorem Block.modQp_limits (q : Nat) (g : QueuePair → QueuePair) : (b.modQp q g).limits = b.limits := rfl
@[simp] theorem Block.modQp_gov (q : Nat) (g : QueuePair → QueuePair) : (b.modQp q g).gov = b.gov := rfl
@[simp] theorem Block.modQp_time (q : Nat) (g : QueuePair → QueuePair) : (b.modQp q g).time = b.time := rfl
@[simp] theorem Block.modQp_obs (q : Nat) (g : QueuePair → QueuePair) : (b.modQp q g).obs = b.obs := rfl
@[simp] theorem Block.modQp_spdm (q : Nat) (g : QueuePair → QueuePair) : (b.modQp q g).spdm = b.spdm := rfl
@[simp] theorem Block.modQp_domain (q : Nat) (g : QueuePair → QueuePair) : (b.modQp q g).domain = b.domain := rfl
@[simp] theorem Block.modQp_stopped (q : Nat) (g : QueuePair → QueuePair) : (b.modQp q g).stopped = b.stopped := rfl
@[simp] theorem Block.modQp_out (q : Nat) (g : QueuePair → QueuePair) : (b.modQp q g).out = b.out := rfl
@[simp] theorem Block.modQp_held (q : Nat) (g : QueuePair → QueuePair) : (b.modQp q g).held = b.held := rfl
@[simp] theorem Block.modQp_fresh (q : Nat) (g : QueuePair → QueuePair) : (b.modQp q g).fresh = b.fresh := rfl
@[simp] theorem Block.modCmd_build (id : Nat) (g : Cmd → Cmd) : (b.modCmd id g).build = b.build := rfl
@[simp] theorem Block.modCmd_otp (id : Nat) (g : Cmd → Cmd) : (b.modCmd id g).otp = b.otp := rfl
@[simp] theorem Block.modCmd_store (id : Nat) (g : Cmd → Cmd) : (b.modCmd id g).store = b.store := rfl
@[simp] theorem Block.modCmd_pins (id : Nat) (g : Cmd → Cmd) : (b.modCmd id g).pins = b.pins := rfl
@[simp] theorem Block.modCmd_boot (id : Nat) (g : Cmd → Cmd) : (b.modCmd id g).boot = b.boot := rfl
@[simp] theorem Block.modCmd_keys (id : Nat) (g : Cmd → Cmd) : (b.modCmd id g).keys = b.keys := rfl
@[simp] theorem Block.modCmd_caches (id : Nat) (g : Cmd → Cmd) : (b.modCmd id g).caches = b.caches := rfl
@[simp] theorem Block.modCmd_regions (id : Nat) (g : Cmd → Cmd) : (b.modCmd id g).regions = b.regions := rfl
@[simp] theorem Block.modCmd_mces (id : Nat) (g : Cmd → Cmd) : (b.modCmd id g).mces = b.mces := rfl
@[simp] theorem Block.modCmd_lpes (id : Nat) (g : Cmd → Cmd) : (b.modCmd id g).lpes = b.lpes := rfl
@[simp] theorem Block.modCmd_resets (id : Nat) (g : Cmd → Cmd) : (b.modCmd id g).resets = b.resets := rfl
@[simp] theorem Block.modCmd_reductions (id : Nat) (g : Cmd → Cmd) : (b.modCmd id g).reductions = b.reductions := rfl
@[simp] theorem Block.modCmd_programs (id : Nat) (g : Cmd → Cmd) : (b.modCmd id g).programs = b.programs := rfl
@[simp] theorem Block.modCmd_frames (id : Nat) (g : Cmd → Cmd) : (b.modCmd id g).frames = b.frames := rfl
@[simp] theorem Block.modCmd_fns (id : Nat) (g : Cmd → Cmd) : (b.modCmd id g).fns = b.fns := rfl
@[simp] theorem Block.modCmd_qps (id : Nat) (g : Cmd → Cmd) : (b.modCmd id g).qps = b.qps := rfl
@[simp] theorem Block.modCmd_ctxs (id : Nat) (g : Cmd → Cmd) : (b.modCmd id g).ctxs = b.ctxs := rfl
@[simp] theorem Block.modCmd_ctxFree (id : Nat) (g : Cmd → Cmd) : (b.modCmd id g).ctxFree = b.ctxFree := rfl
@[simp] theorem Block.modCmd_jobs (id : Nat) (g : Cmd → Cmd) : (b.modCmd id g).jobs = b.jobs := rfl
@[simp] theorem Block.modCmd_installs (id : Nat) (g : Cmd → Cmd) : (b.modCmd id g).installs = b.installs := rfl
@[simp] theorem Block.modCmd_meters (id : Nat) (g : Cmd → Cmd) : (b.modCmd id g).meters = b.meters := rfl
@[simp] theorem Block.modCmd_anchor (id : Nat) (g : Cmd → Cmd) : (b.modCmd id g).anchor = b.anchor := rfl
@[simp] theorem Block.modCmd_pkhLattice (id : Nat) (g : Cmd → Cmd) : (b.modCmd id g).pkhLattice = b.pkhLattice := rfl
@[simp] theorem Block.modCmd_pkhCurve (id : Nat) (g : Cmd → Cmd) : (b.modCmd id g).pkhCurve = b.pkhCurve := rfl
@[simp] theorem Block.modCmd_pkhIssuers (id : Nat) (g : Cmd → Cmd) : (b.modCmd id g).pkhIssuers = b.pkhIssuers := rfl
@[simp] theorem Block.modCmd_cipherAt (id : Nat) (g : Cmd → Cmd) : (b.modCmd id g).cipherAt = b.cipherAt := rfl
@[simp] theorem Block.modCmd_ways (id : Nat) (g : Cmd → Cmd) : (b.modCmd id g).ways = b.ways := rfl
@[simp] theorem Block.modCmd_limits (id : Nat) (g : Cmd → Cmd) : (b.modCmd id g).limits = b.limits := rfl
@[simp] theorem Block.modCmd_gov (id : Nat) (g : Cmd → Cmd) : (b.modCmd id g).gov = b.gov := rfl
@[simp] theorem Block.modCmd_time (id : Nat) (g : Cmd → Cmd) : (b.modCmd id g).time = b.time := rfl
@[simp] theorem Block.modCmd_obs (id : Nat) (g : Cmd → Cmd) : (b.modCmd id g).obs = b.obs := rfl
@[simp] theorem Block.modCmd_spdm (id : Nat) (g : Cmd → Cmd) : (b.modCmd id g).spdm = b.spdm := rfl
@[simp] theorem Block.modCmd_domain (id : Nat) (g : Cmd → Cmd) : (b.modCmd id g).domain = b.domain := rfl
@[simp] theorem Block.modCmd_stopped (id : Nat) (g : Cmd → Cmd) : (b.modCmd id g).stopped = b.stopped := rfl
@[simp] theorem Block.modCmd_out (id : Nat) (g : Cmd → Cmd) : (b.modCmd id g).out = b.out := rfl
@[simp] theorem Block.modCmd_held (id : Nat) (g : Cmd → Cmd) : (b.modCmd id g).held = b.held := rfl
@[simp] theorem Block.modCmd_fresh (id : Nat) (g : Cmd → Cmd) : (b.modCmd id g).fresh = b.fresh := rfl
@[simp] theorem Block.wait_build (id : Nat) : (b.wait id).build = b.build := rfl
@[simp] theorem Block.wait_otp (id : Nat) : (b.wait id).otp = b.otp := rfl
@[simp] theorem Block.wait_store (id : Nat) : (b.wait id).store = b.store := rfl
@[simp] theorem Block.wait_pins (id : Nat) : (b.wait id).pins = b.pins := rfl
@[simp] theorem Block.wait_boot (id : Nat) : (b.wait id).boot = b.boot := rfl
@[simp] theorem Block.wait_keys (id : Nat) : (b.wait id).keys = b.keys := rfl
@[simp] theorem Block.wait_caches (id : Nat) : (b.wait id).caches = b.caches := rfl
@[simp] theorem Block.wait_regions (id : Nat) : (b.wait id).regions = b.regions := rfl
@[simp] theorem Block.wait_mces (id : Nat) : (b.wait id).mces = b.mces := rfl
@[simp] theorem Block.wait_lpes (id : Nat) : (b.wait id).lpes = b.lpes := rfl
@[simp] theorem Block.wait_resets (id : Nat) : (b.wait id).resets = b.resets := rfl
@[simp] theorem Block.wait_reductions (id : Nat) : (b.wait id).reductions = b.reductions := rfl
@[simp] theorem Block.wait_programs (id : Nat) : (b.wait id).programs = b.programs := rfl
@[simp] theorem Block.wait_frames (id : Nat) : (b.wait id).frames = b.frames := rfl
@[simp] theorem Block.wait_fns (id : Nat) : (b.wait id).fns = b.fns := rfl
@[simp] theorem Block.wait_qps (id : Nat) : (b.wait id).qps = b.qps := rfl
@[simp] theorem Block.wait_ctxs (id : Nat) : (b.wait id).ctxs = b.ctxs := rfl
@[simp] theorem Block.wait_ctxFree (id : Nat) : (b.wait id).ctxFree = b.ctxFree := rfl
@[simp] theorem Block.wait_jobs (id : Nat) : (b.wait id).jobs = b.jobs := rfl
@[simp] theorem Block.wait_installs (id : Nat) : (b.wait id).installs = b.installs := rfl
@[simp] theorem Block.wait_meters (id : Nat) : (b.wait id).meters = b.meters := rfl
@[simp] theorem Block.wait_anchor (id : Nat) : (b.wait id).anchor = b.anchor := rfl
@[simp] theorem Block.wait_pkhLattice (id : Nat) : (b.wait id).pkhLattice = b.pkhLattice := rfl
@[simp] theorem Block.wait_pkhCurve (id : Nat) : (b.wait id).pkhCurve = b.pkhCurve := rfl
@[simp] theorem Block.wait_pkhIssuers (id : Nat) : (b.wait id).pkhIssuers = b.pkhIssuers := rfl
@[simp] theorem Block.wait_cipherAt (id : Nat) : (b.wait id).cipherAt = b.cipherAt := rfl
@[simp] theorem Block.wait_ways (id : Nat) : (b.wait id).ways = b.ways := rfl
@[simp] theorem Block.wait_limits (id : Nat) : (b.wait id).limits = b.limits := rfl
@[simp] theorem Block.wait_gov (id : Nat) : (b.wait id).gov = b.gov := rfl
@[simp] theorem Block.wait_time (id : Nat) : (b.wait id).time = b.time := rfl
@[simp] theorem Block.wait_obs (id : Nat) : (b.wait id).obs = b.obs := rfl
@[simp] theorem Block.wait_spdm (id : Nat) : (b.wait id).spdm = b.spdm := rfl
@[simp] theorem Block.wait_domain (id : Nat) : (b.wait id).domain = b.domain := rfl
@[simp] theorem Block.wait_stopped (id : Nat) : (b.wait id).stopped = b.stopped := rfl
@[simp] theorem Block.wait_out (id : Nat) : (b.wait id).out = b.out := rfl
@[simp] theorem Block.wait_held (id : Nat) : (b.wait id).held = b.held := rfl
@[simp] theorem Block.wait_fresh (id : Nat) : (b.wait id).fresh = b.fresh := rfl

@[simp] theorem Block.begin_out : b.begin.out = [] := rfl
@[simp] theorem Block.drew_fresh : b.drew.fresh = b.fresh + 1 := rfl
@[simp] theorem Block.freshen_fresh : b.freshen.fresh = b.fresh + 1 := rfl

end Updates

/-! ## What is read after an update -/

@[simp] theorem Block.setFn_fn (b : Block) (f : Nat) (p : FnPage) : (b.setFn f p).fn f = p := by simp [Block.setFn, Block.fn]

theorem Block.setFn_fn_other (b : Block) {f g : Nat} (p : FnPage) (h : g ≠ f) : (b.setFn f p).fn g = b.fn g := by
  simp [Block.setFn, Block.fn, Tab.getD_put_other _ _ _ h]

@[simp] theorem Block.modFn_fn (b : Block) (f : Nat) (g : FnPage → FnPage) : (b.modFn f g).fn f = g (b.fn f) := by
  simp [Block.modFn]

theorem Block.modFn_fn_other (b : Block) {f g : Nat} (u : FnPage → FnPage) (h : g ≠ f) : (b.modFn f u).fn g = b.fn g :=
  Block.setFn_fn_other b _ h

@[simp] theorem Block.modQp_qp (b : Block) (q : Nat) (g : QueuePair → QueuePair) : (b.modQp q g).qp q = g (b.qp q) := by
  simp [Block.modQp, Block.qp]

theorem Block.modQp_qp_other (b : Block) {q r : Nat} (g : QueuePair → QueuePair) (h : r ≠ q) : (b.modQp q g).qp r = b.qp r := by
  simp [Block.modQp, Block.qp, Tab.getD_put_other _ _ _ h]

@[simp] theorem Block.modCmd_cmd (b : Block) (id : Nat) (g : Cmd → Cmd) : (b.modCmd id g).cmd? id = (b.cmd? id).map g :=
  Tab.get?_upd_same _ _ _

theorem Block.modCmd_cmd_other (b : Block) {id j : Nat} (g : Cmd → Cmd) (h : j ≠ id) : (b.modCmd id g).cmd? j = b.cmd? j :=
  Tab.get?_upd_other _ _ h

/-! ## Crossings -/

theorem Block.emit_running (b : Block) (c : Cross) (h : b.stopped.contains c.shell = false) :
    b.emit c = { b with out := b.out ++ [c] } := by
  unfold Block.emit
  rw [h]
  rfl

theorem Block.emit_held (b : Block) (c : Cross) (h : b.stopped.contains c.shell = true) :
    b.emit c = { b with held := b.held ++ [c] } := by
  unfold Block.emit
  rw [h]
  rfl

/-- A crossing touches only what has crossed and what is held. -/
theorem Block.emit_cases (b : Block) (c : Cross) :
    b.emit c = { b with out := b.out ++ [c] } ∨ b.emit c = { b with held := b.held ++ [c] } := by
  unfold Block.emit
  split
  · exact .inr rfl
  · exact .inl rfl

@[simp] theorem Block.emit_build (b : Block) (c : Cross) : (b.emit c).build = b.build := by
  rcases b.emit_cases c with h | h <;> rw [h]
@[simp] theorem Block.emit_otp (b : Block) (c : Cross) : (b.emit c).otp = b.otp := by
  rcases b.emit_cases c with h | h <;> rw [h]
@[simp] theorem Block.emit_store (b : Block) (c : Cross) : (b.emit c).store = b.store := by
  rcases b.emit_cases c with h | h <;> rw [h]
@[simp] theorem Block.emit_pins (b : Block) (c : Cross) : (b.emit c).pins = b.pins := by
  rcases b.emit_cases c with h | h <;> rw [h]
@[simp] theorem Block.emit_boot (b : Block) (c : Cross) : (b.emit c).boot = b.boot := by
  rcases b.emit_cases c with h | h <;> rw [h]
@[simp] theorem Block.emit_keys (b : Block) (c : Cross) : (b.emit c).keys = b.keys := by
  rcases b.emit_cases c with h | h <;> rw [h]
@[simp] theorem Block.emit_caches (b : Block) (c : Cross) : (b.emit c).caches = b.caches := by
  rcases b.emit_cases c with h | h <;> rw [h]
@[simp] theorem Block.emit_regions (b : Block) (c : Cross) : (b.emit c).regions = b.regions := by
  rcases b.emit_cases c with h | h <;> rw [h]
@[simp] theorem Block.emit_mces (b : Block) (c : Cross) : (b.emit c).mces = b.mces := by
  rcases b.emit_cases c with h | h <;> rw [h]
@[simp] theorem Block.emit_lpes (b : Block) (c : Cross) : (b.emit c).lpes = b.lpes := by
  rcases b.emit_cases c with h | h <;> rw [h]
@[simp] theorem Block.emit_resets (b : Block) (c : Cross) : (b.emit c).resets = b.resets := by
  rcases b.emit_cases c with h | h <;> rw [h]
@[simp] theorem Block.emit_reductions (b : Block) (c : Cross) : (b.emit c).reductions = b.reductions := by
  rcases b.emit_cases c with h | h <;> rw [h]
@[simp] theorem Block.emit_programs (b : Block) (c : Cross) : (b.emit c).programs = b.programs := by
  rcases b.emit_cases c with h | h <;> rw [h]
@[simp] theorem Block.emit_frames (b : Block) (c : Cross) : (b.emit c).frames = b.frames := by
  rcases b.emit_cases c with h | h <;> rw [h]
@[simp] theorem Block.emit_fns (b : Block) (c : Cross) : (b.emit c).fns = b.fns := by
  rcases b.emit_cases c with h | h <;> rw [h]
@[simp] theorem Block.emit_qps (b : Block) (c : Cross) : (b.emit c).qps = b.qps := by
  rcases b.emit_cases c with h | h <;> rw [h]
@[simp] theorem Block.emit_ctxs (b : Block) (c : Cross) : (b.emit c).ctxs = b.ctxs := by
  rcases b.emit_cases c with h | h <;> rw [h]
@[simp] theorem Block.emit_ctxFree (b : Block) (c : Cross) : (b.emit c).ctxFree = b.ctxFree := by
  rcases b.emit_cases c with h | h <;> rw [h]
@[simp] theorem Block.emit_jobs (b : Block) (c : Cross) : (b.emit c).jobs = b.jobs := by
  rcases b.emit_cases c with h | h <;> rw [h]
@[simp] theorem Block.emit_seq (b : Block) (c : Cross) : (b.emit c).seq = b.seq := by
  rcases b.emit_cases c with h | h <;> rw [h]
@[simp] theorem Block.emit_installs (b : Block) (c : Cross) : (b.emit c).installs = b.installs := by
  rcases b.emit_cases c with h | h <;> rw [h]
@[simp] theorem Block.emit_meters (b : Block) (c : Cross) : (b.emit c).meters = b.meters := by
  rcases b.emit_cases c with h | h <;> rw [h]
@[simp] theorem Block.emit_anchor (b : Block) (c : Cross) : (b.emit c).anchor = b.anchor := by
  rcases b.emit_cases c with h | h <;> rw [h]
@[simp] theorem Block.emit_pkhLattice (b : Block) (c : Cross) : (b.emit c).pkhLattice = b.pkhLattice := by
  rcases b.emit_cases c with h | h <;> rw [h]
@[simp] theorem Block.emit_pkhCurve (b : Block) (c : Cross) : (b.emit c).pkhCurve = b.pkhCurve := by
  rcases b.emit_cases c with h | h <;> rw [h]
@[simp] theorem Block.emit_pkhIssuers (b : Block) (c : Cross) : (b.emit c).pkhIssuers = b.pkhIssuers := by
  rcases b.emit_cases c with h | h <;> rw [h]
@[simp] theorem Block.emit_cipherAt (b : Block) (c : Cross) : (b.emit c).cipherAt = b.cipherAt := by
  rcases b.emit_cases c with h | h <;> rw [h]
@[simp] theorem Block.emit_ways (b : Block) (c : Cross) : (b.emit c).ways = b.ways := by
  rcases b.emit_cases c with h | h <;> rw [h]
@[simp] theorem Block.emit_limits (b : Block) (c : Cross) : (b.emit c).limits = b.limits := by
  rcases b.emit_cases c with h | h <;> rw [h]
@[simp] theorem Block.emit_gov (b : Block) (c : Cross) : (b.emit c).gov = b.gov := by
  rcases b.emit_cases c with h | h <;> rw [h]
@[simp] theorem Block.emit_time (b : Block) (c : Cross) : (b.emit c).time = b.time := by
  rcases b.emit_cases c with h | h <;> rw [h]
@[simp] theorem Block.emit_obs (b : Block) (c : Cross) : (b.emit c).obs = b.obs := by
  rcases b.emit_cases c with h | h <;> rw [h]
@[simp] theorem Block.emit_spdm (b : Block) (c : Cross) : (b.emit c).spdm = b.spdm := by
  rcases b.emit_cases c with h | h <;> rw [h]
@[simp] theorem Block.emit_domain (b : Block) (c : Cross) : (b.emit c).domain = b.domain := by
  rcases b.emit_cases c with h | h <;> rw [h]
@[simp] theorem Block.emit_stopped (b : Block) (c : Cross) : (b.emit c).stopped = b.stopped := by
  rcases b.emit_cases c with h | h <;> rw [h]
@[simp] theorem Block.emit_fresh (b : Block) (c : Cross) : (b.emit c).fresh = b.fresh := by
  rcases b.emit_cases c with h | h <;> rw [h]

/-! ## Records -/

/-- A completed command leaves the command table (R319). -/
theorem Block.complete_none (b : Block) (id : Nat) (st : Status) (x y : BitVec 64) (r : Bool) (h : b.cmd? id = none) :
    b.complete id st x y r = b := by simp [Block.complete, h]

/-- A completed command's record joins those of its queue pair (R300, R319). -/
theorem Block.complete_some {b : Block} {id : Nat} {c : Cmd} (st : Status) (x y : BitVec 64) (r : Bool)
    (h : b.cmd? id = some c) :
    b.complete id st x y r =
      ({ b with seq := { b.seq with cmds := b.seq.cmds.del id } } : Block).queueRecord c.qp
        { cookie := c.cookie, res0 := x, res1 := y, status := st, sqIdx := c.sqIdx, opcode := BitVec.ofNat 16 c.opcode,
          rblock := r, irq := c.flags.testBit 0, force := c.opcode = 0x0A03 } := by
  simp [Block.complete, h]

/-- A queue pair that has been lost takes no record (R465). -/
theorem Block.queueRecord_lost (b : Block) (q : Nat) (r : Rec) (h : (b.qp q).enabled = false) : b.queueRecord q r = b := by
  simp [Block.queueRecord, h]

/-- A record behind another waits for it (R301). -/
theorem Block.queueRecord_behind (b : Block) (q : Nat) (r : Rec) (h : (b.qp q).enabled = true)
    (hd : (b.qp q).done.isEmpty = false) : b.queueRecord q r = b.modQp q fun p => { p with done := p.done ++ [r] } := by
  simp [Block.queueRecord, h, hd]

/-- The only record of a queue pair is written at once (R300). -/
theorem Block.queueRecord_first (b : Block) (q : Nat) (r : Rec) (h : (b.qp q).enabled = true)
    (hd : (b.qp q).done.isEmpty = true) :
    b.queueRecord q r = (b.modQp q fun p => { p with done := p.done ++ [r] }).writeRecord q := by
  simp [Block.queueRecord, h, hd]

end Sys2Proof.Machine
end

