-- ==== Sys2Proof/WellFormed.lean ====
section
/-! DEFINITION. What makes a command well formed: each operand within the width of the port signal or the range of the
number that it stands for. An ill-formed command is one that no port can carry; `exec` gives it no special meaning. -/

namespace Sys2Proof

/-! ## Numbers -/

/-- The number of an MCE (R12). -/
def mceOk (n : Nat) : Bool := n < 64

/-- The number of an LPE (R12). -/
def lpeOk (n : Nat) : Bool := n < 32

/-- An engine id that R12 assigns. -/
def engineOk (e : Nat) : Bool := e < 0x6A || (0x70 ≤ e && e < 0x78)

/-- A function number, or the number of its page (R46, R292). -/
def fnOk (f : Nat) : Bool := f < 256

/-- A queue pair number (R297). -/
def qpOk (q : Nat) : Bool := q < 65536

/-- An offset that bits [22:3] of an address in the register window give (R46). -/
def offOk (o : Nat) : Bool := o < 2 ^ 23 && o % 8 = 0

/-- A region number (R122). -/
def regionOk (r : Nat) : Bool := r < 16384

/-- A key slot number (R88). -/
def slotOk (k : Nat) : Bool := k < 16384

/-- A destination at `kxp_*` (R50). -/
def destOk (d : Nat) : Bool := d < 4

/-- A key slot of a destination at `kxp_*` (R50). -/
def dslotOk (k : Nat) : Bool := k < 256

/-- A meter record's number (R287). -/
def recordOk (k : Nat) : Bool := k < 256

/-- A reduction slot's number (R220). -/
def reductionOk (k : Nat) : Bool := k < 8

/-! ## Data -/

/-- Counter nodes of a line: a leaf and at most three levels above it (R139, R141). -/
def LineReturn.wf (r : LineReturn) : Bool := r.nodes.length ≤ 5

def Access.wf (a : Access) : Bool := a.rets.all LineReturn.wf

/-- A scale stream gives a line at most 128 bytes (R250). -/
def SourceLine.wf : SourceLine → Bool
  | .mem r scale => r.wf && scale.length ≤ 128
  | .host _ scale => scale.length ≤ 128

def MemReq.wf (r : MemReq) : Bool := mceOk r.mce

def LinkReq.wf (r : LinkReq) : Bool := lpeOk r.lpe

/-- Beats of a request's data or payload (R41). -/
def LinkReq.dataBeats (r : LinkReq) : Nat := (64 * (r.len.toNat + 1) + 255) / 256

/-- A request is followed by exactly its beats (R41). -/
def beatsOk (n : Nat) (l : List Beat) : Bool := l.length = n

/-- A packet's payload has at most 64 units (R170). -/
def RxPacket.wf (p : RxPacket) : Bool := lpeOk p.lpe && p.payload.length ≤ 64


/-- A patch slot of the boot flash has 16 MiB (R450). -/
def FlashRead.wf (f : FlashRead) : Bool := f.image.length ≤ 2 ^ 24

def StepReport.wf (r : StepReport) : Bool := r.slotA.wf && r.slotB.wf

/-- Array classes are 0 to 9 (R465). -/
def SramError.wf (e : SramError) : Bool := e.cls < 10

/-- A canary stands in an MCE or an LPE (R11). -/
def CanaryRate.wf (c : CanaryRate) : Bool := c.engine < 0x60

/-- A shell that exists in some valid configuration (R22, R25). -/
def Shell.wf : Shell → Bool
  | .mreq n => mceOk n
  | .mctl n => mceOk n
  | .lreq n => lpeOk n
  | .lphy n => lpeOk n
  | .hcp => true
  | .kxp => true
  | .gov => true
  | .tref => true
  | .boot => true
  | .mgmt => true
  | .tap => true

/-! ## Commands -/

/-- A command whose operands are all within their ranges. -/
def Instr.wf : Instr → Bool
  | .porAssert => true
  | .kindling => true
  | .kindlingStepDone r => r.wf
  | .pwrGoodFall => true
  | .pwrFailWarn _ => true
  | .mreqRead r => r.wf
  | .mreqWrite r _ sibs => r.wf && sibs.all LineReturn.wf
  | .mctlReadReturn mce _ _ _ sibs => mceOk mce && sibs.all LineReturn.wf
  | .keyFillArrival engine slot sibs => engineOk engine && slotOk slot && sibs.all LineReturn.wf
  | .dropOrder engine => engineOk engine
  | .dropAck engine => engineOk engine
  | .kxpDone dest => destOk dest
  | .lreqLoad r acc => r.wf && acc.wf
  | .lreqLoadCache r acc => r.wf && acc.wf
  | .lreqStore r beats acc => r.wf && beatsOk r.dataBeats beats && acc.wf
  | .lreqAtomic r beats acc => r.wf && beatsOk 1 beats && acc.wf
  | .lreqCopy r beats acc => r.wf && beatsOk (1 + r.dataBeats) beats && acc.wf
  | .lreqReduce r beats acc => r.wf && beatsOk r.dataBeats beats && acc.wf
  | .lreqInvalidate r acc => r.wf && acc.wf
  | .rxLoad p acc => p.wf && acc.wf
  | .rxLoadCache p acc => p.wf && acc.wf
  | .rxStore p acc => p.wf && acc.wf
  | .rxAtomic p acc => p.wf && acc.wf
  | .rxCopy p acc => p.wf && acc.wf
  | .rxReduce p acc => p.wf && acc.wf
  | .windowRetired slot acc => reductionOk slot && acc.wf
  | .rxInvalidate p acc => p.wf && acc.wf
  | .rxCpl p acc => p.wf && acc.wf
  | .rxCplData p acc => p.wf && acc.wf
  | .rxCplDataNc p acc => p.wf && acc.wf
  | .rxInval p acc => p.wf && acc.wf
  | .rxInvalAck p acc => p.wf && acc.wf
  | .rxEvict p acc => p.wf && acc.wf
  | .rxTear p acc => p.wf && acc.wf
  | .rxAgg p acc => p.wf && acc.wf
  | .rxTimeReq p _ => p.wf
  | .rxTimeResp p _ => p.wf
  | .hello p => p.wf
  | .deferred p => p.wf
  | .evidence p _ => p.wf
  | .kem p => p.wf
  | .finish p => p.wf
  | .ready p => p.wf
  | .cred p => p.wf
  | .reject p => p.wf
  | .leave p => p.wf
  | .lphyUpRise lpe => lpeOk lpe
  | .lphyUpFall lpe => lpeOk lpe
  | .ctxKillNotice _ _ => true
  | .govActReport _ _ _ => true
  | .govTelReport _ _ _ => true
  | .railAck _ _ => true
  | .rpmbResult _ _ => true
  | .powerCycleAck => true
  | .spdmGetVersion => true
  | .spdmGetCapabilities _ => true
  | .spdmNegotiateAlgorithms _ => true
  | .spdmGetDigests => true
  | .spdmGetCertificate _ _ _ => true
  | .spdmChallenge _ _ => true
  | .spdmGetMeasurements _ _ => true
  | .spdmKeyExchange _ => true
  | .spdmFinish _ => true
  | .spdmHeartbeat => true
  | .spdmEndSession => true
  | .spdmChunkGet _ _ => true
  | .tapInstruction _ => true
  | .hcpWriteResponse _ _ => true
  | .hcpReadReturn _ _ => true
  | .descriptorFetch qp _ => qpOk qp
  | .descriptorFetchFault qp => qpOk qp
  | .doorbellWrite fn qp _ => fnOk fn && qpOk qp
  | .fnAllocWrite fn page _ => fnOk fn && fnOk page
  | .qpEnable fn page _ => fnOk fn && fnOk page
  | .qpDisable fn page _ => fnOk fn && fnOk page
  | .qpDisableDone page => fnOk page
  | .upSet fn page => fnOk fn && fnOk page
  | .upClr fn page => fnOk fn && fnOk page
  | .downSet fn page => fnOk fn && fnOk page
  | .downClr fn page => fnOk fn && fnOk page
  | .faultqCtlWrite fn page _ => fnOk fn && fnOk page
  | .ashEnable fn page _ => fnOk fn && fnOk page
  | .ashRelease fn page _ => fnOk fn && fnOk page
  | .flush fn page => fnOk fn && fnOk page
  | .ashRecord fn => fnOk fn
  | .cipherGo fn page _ => fnOk fn && fnOk page
  | .cipherDone fn _ => fnOk fn
  | .cipIvWrite fn page _ _ => fnOk fn && fnOk page
  | .domainLoad fn _ _ => fnOk fn
  | .domainLeave fn acc => fnOk fn && acc.wf
  | .calibrationStart fn => fnOk fn
  | .calibrationEnd => true
  | .ccWayWrite fn _ _ => fnOk fn
  | .ccWayApplied _ sibs => sibs.all fun l => l.all LineReturn.wf
  | .ringSelect fn _ => fnOk fn
  | .alarmClear fn _ => fnOk fn
  | .registerWrite fn off _ => fnOk fn && offOk off
  | .keyGenerate _ => true
  | .keyDerive _ => true
  | .keyImport _ => true
  | .keyExport _ => true
  | .keyInvalidate _ => true
  | .keyQuery _ => true
  | .keyPush _ => true
  | .regionBind _ => true
  | .regionUnbind _ => true
  | .regionRekey _ => true
  | .regionQuery _ => true
  | .ctxOpen _ => true
  | .ctxClose _ => true
  | .ctxKill _ acc => acc.wf
  | .jobJoin _ => true
  | .jobLeave _ => true
  | .jobKeys _ => true
  | .progLoad _ => true
  | .progBind _ => true
  | .progUnload _ => true
  | .kilnSetup _ acc => acc.wf
  | .kilnExponent _ acc => acc.wf
  | .kilnSum _ acc => acc.wf
  | .kilnFinish _ => true
  | .dmaCopy _ => true
  | .dmaIngest _ => true
  | .ingestChunk _ _ acc => acc.wf
  | .laneInvocation _ src acc => src.all SourceLine.wf && acc.wf
  | .dmaLine _ src acc => src.wf && acc.wf
  | .dmaMap _ acc => acc.wf
  | .dmaUnmap _ acc => acc.wf
  | .addrConvert _ => true
  | .translationWalkDone _ _ acc => acc.wf
  | .attestReport _ => true
  | .measureLoad _ => true
  | .licenseInstall _ => true
  | .licenseRevoke _ => true
  | .meterReport _ => true
  | .shuffleEpoch _ => true
  | .timeAnchor _ => true
  | .signal _ acc => acc.wf
  | .create _ acc => acc.wf
  | .destroy _ acc => acc.wf
  | .fenceWait _ acc => acc.wf
  | .eventNotify _ => true
  | .partitionSet _ => true
  | .ledgerRead _ => true
  | .scrubRange _ => true
  | .scrubSram _ found => found.all SramError.wf
  | .rakeLine _ ret => ret.wf
  | .engineReset _ => true
  | .engineResetComplete engine sibs => engineOk engine && sibs.all LineReturn.wf
  | .functionQuiesce _ => true
  | .functionResume _ => true
  | .functionReset _ => true
  | .heartbeatConfig _ => true
  | .lcTransition _ acc => acc.wf
  | .debugChallenge _ => true
  | .debugResponse _ acc => acc.wf
  | .debugCert _ acc => acc.wf
  | .patchWriteFirst _ => true
  | .patchWrite _ => true
  | .patchVerify _ flash => flash.wf
  | .patchActivate _ => true
  | .patchConfirm _ => true
  | .trafficGen _ _ => true
  | .selftest _ _ => true
  | .bindLineWrite region mce sibs => regionOk region && mceOk mce && sibs.all LineReturn.wf
  | .rekeyLine region mce ret sibs => regionOk region && mceOk mce && ret.wf && sibs.all LineReturn.wf
  | .keySweep slot => slotOk slot
  | .ember => true
  | .watchdog => true
  | .sequencerRestart _ => true
  | .alarmFatalTimeout => true
  | .powerCycleRetry => true
  | .contextKillTimeout _ => true
  | .engineAckTimeout engine => engineOk engine
  | .engineDrainTimeout engine => engineOk engine
  | .fabTimeout lpe _ => lpeOk lpe
  | .t1Timeout mce _ => mceOk mce
  | .rtagQuarantineExpiry engine _ acc => engineOk engine && acc.wf
  | .leaseExpiry dest dslot => destOk dest && dslotOk dslot
  | .coalesceTimeout qp => qpOk qp
  | .ashPacketTimeout fn => fnOk fn
  | .xlateBatchTimeout fn => fnOk fn
  | .periodBoundary record => recordOk record
  | .fenceWaitTimeout _ => true
  | .quiesceDeadline fn => fnOk fn
  | .railRequestTimeout => true
  | .rpmbRelayTimeout _ => true
  | .admissionTimeout lpe => lpeOk lpe
  | .deferredRetry lpe => lpeOk lpe
  | .rejectRetry lpe => lpeOk lpe
  | .seedWaitExpiry => true
  | .governorTick => true
  | .bandwidthWindow engine _ => engineOk engine
  | .canaryMeasure rates => rates.all CanaryRate.wf
  | .railLowerRequest => true
  | .timeExchange lpe _ => lpeOk lpe
  | .entropyTestFail _ => true
  | .entropyRestart _ => true
  | .drbgReseed => true
  | .maskRekey => true
  | .eccLeak => true
  | .shellClockStop shell => shell.wf
  | .shellClockReturn shell => shell.wf
  | .controllerCredit mce _ => mceOk mce
  | .linkTxCredit lpe => lpeOk lpe
  | .mctlQoccUpdate mce _ => mceOk mce
  | .refusedRead fn off => fnOk fn && offOk off
  | .malformedPacket lpe p _ => p.lpe == lpe && p.wf
  | .pairKeyDerivation lpe acc => lpeOk lpe && acc.wf
  | .pkhRequestDone _ _ => true
  | .regionCacheDropAck mce => mceOk mce
  | .functionBoundMissed fn => fnOk fn

end Sys2Proof
end

