-- ==== Sys2Proof/Safety.lean ====
section
/-! DEFINITION. What the statements say of a run: where a command occurs, whether it can store to protected memory, which
commands are at the front of what, and the invariant of the state that every step keeps. -/

namespace Sys2Proof.Machine

open Sys2Proof Sys2Proof.Machine.Crypto

/-! ## Where a command occurs -/

/-- Where a command occurs: at the shell of a port, in the engine or clock domain
behind it, in an engine that can be built in several instances, or in a part
that every configuration has (R11, R22, R25). -/
inductive Site where
  | anywhere
  | port (sh : Shell)
  | behind (sh : Shell)
  | engine (e : Nat)
  deriving DecidableEq, Repr

/-- The site of each command. -/
def siteOf : Instr → Site
  | .porAssert => .anywhere
  | .kindling => .anywhere
  | .kindlingStepDone _ => .anywhere
  | .pwrGoodFall => .anywhere
  | .pwrFailWarn _ => .anywhere
  | .mreqRead r => .port (.mreq r.mce)
  | .mreqWrite r _ _ => .port (.mreq r.mce)
  | .mctlReadReturn mce _ _ _ _ => .port (.mctl mce)
  | .keyFillArrival engine _ _ => .engine engine
  | .dropOrder engine => .engine engine
  | .dropAck engine => .engine engine
  | .kxpDone _ => .port .kxp
  | .lreqLoad r _ => .port (.lreq r.lpe)
  | .lreqLoadCache r _ => .port (.lreq r.lpe)
  | .lreqStore r _ _ => .port (.lreq r.lpe)
  | .lreqAtomic r _ _ => .port (.lreq r.lpe)
  | .lreqCopy r _ _ => .port (.lreq r.lpe)
  | .lreqReduce r _ _ => .port (.lreq r.lpe)
  | .lreqInvalidate r _ => .port (.lreq r.lpe)
  | .rxLoad p _ => .port (.lphy p.lpe)
  | .rxLoadCache p _ => .port (.lphy p.lpe)
  | .rxStore p _ => .port (.lphy p.lpe)
  | .rxAtomic p _ => .port (.lphy p.lpe)
  | .rxCopy p _ => .port (.lphy p.lpe)
  | .rxReduce p _ => .port (.lphy p.lpe)
  | .windowRetired _ _ => .anywhere
  | .rxInvalidate p _ => .port (.lphy p.lpe)
  | .rxCpl p _ => .port (.lphy p.lpe)
  | .rxCplData p _ => .port (.lphy p.lpe)
  | .rxCplDataNc p _ => .port (.lphy p.lpe)
  | .rxInval p _ => .port (.lphy p.lpe)
  | .rxInvalAck p _ => .port (.lphy p.lpe)
  | .rxEvict p _ => .port (.lphy p.lpe)
  | .rxTear p _ => .port (.lphy p.lpe)
  | .rxAgg p _ => .port (.lphy p.lpe)
  | .rxTimeReq p _ => .port (.lphy p.lpe)
  | .rxTimeResp p _ => .port (.lphy p.lpe)
  | .hello p => .port (.lphy p.lpe)
  | .deferred p => .port (.lphy p.lpe)
  | .evidence p _ => .port (.lphy p.lpe)
  | .kem p => .port (.lphy p.lpe)
  | .finish p => .port (.lphy p.lpe)
  | .ready p => .port (.lphy p.lpe)
  | .cred p => .port (.lphy p.lpe)
  | .reject p => .port (.lphy p.lpe)
  | .leave p => .port (.lphy p.lpe)
  | .lphyUpRise lpe => .port (.lphy lpe)
  | .lphyUpFall lpe => .port (.lphy lpe)
  | .ctxKillNotice _ _ => .anywhere
  | .govActReport _ _ _ => .port .gov
  | .govTelReport _ _ _ => .port .gov
  | .railAck _ _ => .port .tref
  | .rpmbResult _ _ => .port .mgmt
  | .powerCycleAck => .port .mgmt
  | .spdmGetVersion => .port .mgmt
  | .spdmGetCapabilities _ => .port .mgmt
  | .spdmNegotiateAlgorithms _ => .port .mgmt
  | .spdmGetDigests => .port .mgmt
  | .spdmGetCertificate _ _ _ => .port .mgmt
  | .spdmChallenge _ _ => .port .mgmt
  | .spdmGetMeasurements _ _ => .port .mgmt
  | .spdmKeyExchange _ => .port .mgmt
  | .spdmFinish _ => .port .mgmt
  | .spdmHeartbeat => .port .mgmt
  | .spdmEndSession => .port .mgmt
  | .spdmChunkGet _ _ => .port .mgmt
  | .tapInstruction _ => .port .tap
  | .hcpWriteResponse _ _ => .port .hcp
  | .hcpReadReturn _ _ => .port .hcp
  | .descriptorFetch _ _ => .port .hcp
  | .descriptorFetchFault _ => .port .hcp
  | .doorbellWrite _ _ _ => .port .hcp
  | .fnAllocWrite _ _ _ => .port .hcp
  | .qpEnable _ _ _ => .port .hcp
  | .qpDisable _ _ _ => .port .hcp
  | .qpDisableDone _ => .anywhere
  | .upSet _ _ => .port .hcp
  | .upClr _ _ => .port .hcp
  | .downSet _ _ => .port .hcp
  | .downClr _ _ => .port .hcp
  | .faultqCtlWrite _ _ _ => .port .hcp
  | .ashEnable _ _ _ => .port .hcp
  | .ashRelease _ _ _ => .port .hcp
  | .flush _ _ => .port .hcp
  | .ashRecord _ => .anywhere
  | .cipherGo _ _ _ => .port .hcp
  | .cipherDone _ _ => .anywhere
  | .cipIvWrite _ _ _ _ => .port .hcp
  | .domainLoad _ _ _ => .port .hcp
  | .domainLeave _ _ => .port .hcp
  | .calibrationStart _ => .port .hcp
  | .calibrationEnd => .anywhere
  | .ccWayWrite _ _ _ => .port .hcp
  | .ccWayApplied _ _ => .anywhere
  | .ringSelect _ _ => .port .hcp
  | .alarmClear _ _ => .port .hcp
  | .registerWrite _ _ _ => .port .hcp
  | .keyGenerate _ => .anywhere
  | .keyDerive _ => .anywhere
  | .keyImport _ => .anywhere
  | .keyExport _ => .anywhere
  | .keyInvalidate _ => .anywhere
  | .keyQuery _ => .anywhere
  | .keyPush _ => .anywhere
  | .regionBind _ => .anywhere
  | .regionUnbind _ => .anywhere
  | .regionRekey _ => .anywhere
  | .regionQuery _ => .anywhere
  | .ctxOpen _ => .anywhere
  | .ctxClose _ => .anywhere
  | .ctxKill _ _ => .anywhere
  | .jobJoin _ => .anywhere
  | .jobLeave _ => .anywhere
  | .jobKeys _ => .anywhere
  | .progLoad _ => .anywhere
  | .progBind _ => .anywhere
  | .progUnload _ => .anywhere
  | .kilnSetup _ _ => .anywhere
  | .kilnExponent _ _ => .anywhere
  | .kilnSum _ _ => .anywhere
  | .kilnFinish _ => .anywhere
  | .dmaCopy _ => .anywhere
  | .dmaIngest _ => .anywhere
  | .ingestChunk _ _ _ => .anywhere
  | .laneInvocation _ _ _ => .anywhere
  | .dmaLine _ _ _ => .anywhere
  | .dmaMap _ _ => .anywhere
  | .dmaUnmap _ _ => .anywhere
  | .addrConvert _ => .anywhere
  | .translationWalkDone _ _ _ => .anywhere
  | .attestReport _ => .anywhere
  | .measureLoad _ => .anywhere
  | .licenseInstall _ => .anywhere
  | .licenseRevoke _ => .anywhere
  | .meterReport _ => .anywhere
  | .shuffleEpoch _ => .anywhere
  | .timeAnchor _ => .anywhere
  | .signal _ _ => .anywhere
  | .create _ _ => .anywhere
  | .destroy _ _ => .anywhere
  | .fenceWait _ _ => .anywhere
  | .eventNotify _ => .anywhere
  | .partitionSet _ => .anywhere
  | .ledgerRead _ => .anywhere
  | .scrubRange _ => .anywhere
  | .scrubSram _ _ => .anywhere
  | .rakeLine _ _ => .anywhere
  | .engineReset _ => .anywhere
  | .engineResetComplete engine _ => .engine engine
  | .functionQuiesce _ => .anywhere
  | .functionResume _ => .anywhere
  | .functionReset _ => .anywhere
  | .heartbeatConfig _ => .anywhere
  | .lcTransition _ _ => .anywhere
  | .debugChallenge _ => .anywhere
  | .debugResponse _ _ => .anywhere
  | .debugCert _ _ => .anywhere
  | .patchWriteFirst _ => .anywhere
  | .patchWrite _ => .anywhere
  | .patchVerify _ _ => .anywhere
  | .patchActivate _ => .anywhere
  | .patchConfirm _ => .anywhere
  | .trafficGen _ _ => .anywhere
  | .selftest _ _ => .anywhere
  | .bindLineWrite _ mce _ => .port (.mctl mce)
  | .rekeyLine _ mce _ _ => .port (.mctl mce)
  | .keySweep _ => .anywhere
  | .ember => .anywhere
  | .watchdog => .anywhere
  | .sequencerRestart _ => .anywhere
  | .alarmFatalTimeout => .anywhere
  | .powerCycleRetry => .anywhere
  | .contextKillTimeout _ => .anywhere
  | .engineAckTimeout engine => .engine engine
  | .engineDrainTimeout engine => .engine engine
  | .fabTimeout lpe _ => .behind (.lreq lpe)
  | .t1Timeout mce _ => .behind (.mctl mce)
  | .rtagQuarantineExpiry engine _ _ => .engine engine
  | .leaseExpiry _ _ => .anywhere
  | .coalesceTimeout _ => .anywhere
  | .ashPacketTimeout _ => .anywhere
  | .xlateBatchTimeout _ => .anywhere
  | .periodBoundary _ => .anywhere
  | .fenceWaitTimeout _ => .anywhere
  | .quiesceDeadline _ => .anywhere
  | .railRequestTimeout => .anywhere
  | .rpmbRelayTimeout _ => .anywhere
  | .admissionTimeout lpe => .behind (.lphy lpe)
  | .deferredRetry lpe => .behind (.lphy lpe)
  | .rejectRetry lpe => .behind (.lphy lpe)
  | .seedWaitExpiry => .anywhere
  | .governorTick => .anywhere
  | .bandwidthWindow engine _ => .engine engine
  | .canaryMeasure _ => .anywhere
  | .railLowerRequest => .anywhere
  | .timeExchange lpe _ => .behind (.lphy lpe)
  | .entropyTestFail _ => .anywhere
  | .entropyRestart _ => .anywhere
  | .drbgReseed => .anywhere
  | .maskRekey => .anywhere
  | .eccLeak => .anywhere
  | .shellClockStop shell => .behind shell
  | .shellClockReturn shell => .behind shell
  | .controllerCredit mce _ => .port (.mctl mce)
  | .linkTxCredit lpe => .port (.lphy lpe)
  | .mctlQoccUpdate mce _ => .port (.mctl mce)
  | .refusedRead _ _ => .port .hcp
  | .malformedPacket lpe _ _ => .port (.lphy lpe)
  | .pairKeyDerivation lpe _ => .behind (.lphy lpe)
  | .pkhRequestDone _ _ => .anywhere
  | .regionCacheDropAck mce => .behind (.mreq mce)
  | .functionBoundMissed _ => .anywhere

/-- Whether the built configuration has the site (R11, R12, R22). -/
def Site.isBuilt (b : Build) : Site → Bool
  | .anywhere => true
  | .port sh => b.shellBuilt sh
  | .behind sh => b.shellBuilt sh
  | .engine e => b.engineBuilt e

/-- Whether the site's clock runs (R26). -/
def Site.runs (b : Block) : Site → Bool
  | .anywhere => true
  | .port sh => !b.stopped.contains sh
  | .behind _ => true
  | .engine _ => true

/-- The command can occur: its site is built, and its clock runs. -/
def canOccur (c : Instr) (b : Block) : Bool := (siteOf c).isBuilt b.build && (siteOf c).runs b

/-! ## Which commands can store -/

/-- Whether a command can change a byte of protected memory: the requests and packets that store, the sealed accesses
to the block's own records, and the background lines (R127, R183, R305, R355). -/
def mayStore : Instr → Bool
  | .porAssert => false
  | .kindling => false
  | .kindlingStepDone _ => false
  | .pwrGoodFall => false
  | .pwrFailWarn _ => false
  | .mreqRead _ => true
  | .mreqWrite _ _ _ => true
  | .mctlReadReturn _ _ _ _ _ => true
  | .keyFillArrival _ _ _ => true
  | .dropOrder _ => false
  | .dropAck _ => false
  | .kxpDone _ => false
  | .lreqLoad _ _ => true
  | .lreqLoadCache _ _ => true
  | .lreqStore _ _ _ => true
  | .lreqAtomic _ _ _ => true
  | .lreqCopy _ _ _ => true
  | .lreqReduce _ _ _ => true
  | .lreqInvalidate _ _ => true
  | .rxLoad _ _ => true
  | .rxLoadCache _ _ => true
  | .rxStore _ _ => true
  | .rxAtomic _ _ => true
  | .rxCopy _ _ => true
  | .rxReduce _ _ => true
  | .windowRetired _ _ => true
  | .rxInvalidate _ _ => true
  | .rxCpl _ _ => true
  | .rxCplData _ _ => true
  | .rxCplDataNc _ _ => true
  | .rxInval _ _ => true
  | .rxInvalAck _ _ => true
  | .rxEvict _ _ => true
  | .rxTear _ _ => true
  | .rxAgg _ _ => true
  | .rxTimeReq _ _ => false
  | .rxTimeResp _ _ => false
  | .hello _ => false
  | .deferred _ => false
  | .evidence _ _ => false
  | .kem _ => false
  | .finish _ => false
  | .ready _ => false
  | .cred _ => false
  | .reject _ => false
  | .leave _ => false
  | .lphyUpRise _ => false
  | .lphyUpFall _ => false
  | .ctxKillNotice _ _ => false
  | .govActReport _ _ _ => false
  | .govTelReport _ _ _ => false
  | .railAck _ _ => false
  | .rpmbResult _ _ => false
  | .powerCycleAck => false
  | .spdmGetVersion => false
  | .spdmGetCapabilities _ => false
  | .spdmNegotiateAlgorithms _ => false
  | .spdmGetDigests => false
  | .spdmGetCertificate _ _ _ => false
  | .spdmChallenge _ _ => false
  | .spdmGetMeasurements _ _ => false
  | .spdmKeyExchange _ => false
  | .spdmFinish _ => false
  | .spdmHeartbeat => false
  | .spdmEndSession => false
  | .spdmChunkGet _ _ => false
  | .tapInstruction _ => false
  | .hcpWriteResponse _ _ => false
  | .hcpReadReturn _ _ => false
  | .descriptorFetch _ _ => false
  | .descriptorFetchFault _ => false
  | .doorbellWrite _ _ _ => false
  | .fnAllocWrite _ _ _ => false
  | .qpEnable _ _ _ => false
  | .qpDisable _ _ _ => false
  | .qpDisableDone _ => false
  | .upSet _ _ => false
  | .upClr _ _ => false
  | .downSet _ _ => false
  | .downClr _ _ => false
  | .faultqCtlWrite _ _ _ => false
  | .ashEnable _ _ _ => false
  | .ashRelease _ _ _ => false
  | .flush _ _ => false
  | .ashRecord _ => false
  | .cipherGo _ _ _ => false
  | .cipherDone _ _ => false
  | .cipIvWrite _ _ _ _ => false
  | .domainLoad _ _ _ => false
  | .domainLeave _ _ => true
  | .calibrationStart _ => false
  | .calibrationEnd => false
  | .ccWayWrite _ _ _ => false
  | .ccWayApplied _ _ => true
  | .ringSelect _ _ => false
  | .alarmClear _ _ => false
  | .registerWrite _ _ _ => false
  | .keyGenerate _ => false
  | .keyDerive _ => false
  | .keyImport _ => false
  | .keyExport _ => false
  | .keyInvalidate _ => false
  | .keyQuery _ => false
  | .keyPush _ => false
  | .regionBind _ => false
  | .regionUnbind _ => false
  | .regionRekey _ => false
  | .regionQuery _ => false
  | .ctxOpen _ => false
  | .ctxClose _ => false
  | .ctxKill _ _ => true
  | .jobJoin _ => false
  | .jobLeave _ => false
  | .jobKeys _ => false
  | .progLoad _ => false
  | .progBind _ => false
  | .progUnload _ => false
  | .kilnSetup _ _ => true
  | .kilnExponent _ _ => true
  | .kilnSum _ _ => true
  | .kilnFinish _ => false
  | .dmaCopy _ => false
  | .dmaIngest _ => false
  | .ingestChunk _ _ _ => true
  | .laneInvocation _ _ _ => true
  | .dmaLine _ _ _ => true
  | .dmaMap _ _ => true
  | .dmaUnmap _ _ => true
  | .addrConvert _ => false
  | .translationWalkDone _ _ _ => true
  | .attestReport _ => false
  | .measureLoad _ => false
  | .licenseInstall _ => false
  | .licenseRevoke _ => false
  | .meterReport _ => false
  | .shuffleEpoch _ => false
  | .timeAnchor _ => false
  | .signal _ _ => true
  | .create _ _ => true
  | .destroy _ _ => true
  | .fenceWait _ _ => true
  | .eventNotify _ => false
  | .partitionSet _ => false
  | .ledgerRead _ => false
  | .scrubRange _ => false
  | .scrubSram _ _ => true
  | .rakeLine _ _ => true
  | .engineReset _ => false
  | .engineResetComplete _ _ => true
  | .functionQuiesce _ => false
  | .functionResume _ => false
  | .functionReset _ => true
  | .heartbeatConfig _ => false
  | .lcTransition _ _ => true
  | .debugChallenge _ => false
  | .debugResponse _ _ => true
  | .debugCert _ _ => true
  | .patchWriteFirst _ => false
  | .patchWrite _ => false
  | .patchVerify _ _ => false
  | .patchActivate _ => false
  | .patchConfirm _ => false
  | .trafficGen _ _ => true
  | .selftest _ _ => false
  | .bindLineWrite _ _ _ => true
  | .rekeyLine _ _ _ _ => true
  | .keySweep _ => false
  | .ember => false
  | .watchdog => false
  | .sequencerRestart _ => false
  | .alarmFatalTimeout => false
  | .powerCycleRetry => false
  | .contextKillTimeout _ => false
  | .engineAckTimeout _ => false
  | .engineDrainTimeout _ => false
  | .fabTimeout _ _ => false
  | .t1Timeout _ _ => true
  | .rtagQuarantineExpiry _ _ _ => true
  | .leaseExpiry _ _ => false
  | .coalesceTimeout _ => false
  | .ashPacketTimeout _ => false
  | .xlateBatchTimeout _ => false
  | .periodBoundary _ => false
  | .fenceWaitTimeout _ => false
  | .quiesceDeadline _ => false
  | .railRequestTimeout => false
  | .rpmbRelayTimeout _ => false
  | .admissionTimeout _ => false
  | .deferredRetry _ => false
  | .rejectRetry _ => false
  | .seedWaitExpiry => false
  | .governorTick => false
  | .bandwidthWindow _ _ => false
  | .canaryMeasure _ => false
  | .railLowerRequest => false
  | .timeExchange _ _ => false
  | .entropyTestFail _ => false
  | .entropyRestart _ => false
  | .drbgReseed => false
  | .maskRekey => false
  | .eccLeak => false
  | .shellClockStop _ => false
  | .shellClockReturn _ => false
  | .controllerCredit _ _ => true
  | .linkTxCredit _ => false
  | .mctlQoccUpdate _ _ => true
  | .refusedRead _ _ => false
  | .malformedPacket _ _ _ => false
  | .pairKeyDerivation _ _ => true
  | .pkhRequestDone _ _ => false
  | .regionCacheDropAck _ => false
  | .functionBoundMissed _ => false

/-! ## What holds in every state that a step reaches -/

/-- The invariant of the state: memory is in its canonical form. -/
def State.Inv (s : State) : Prop := Memory.wf s.mem = true

/-! ## What the statements about single commands say -/

/-- A state with another block: memory and the queue stay. -/
def State.withBlock (s : State) (b : Block) : State := { s with blk := b }

/-- A command answers with a block; memory and the queue stay. -/
def Answers (c : Instr) (s : State) (b : Block) : Prop := exec c s = .next (s.withBlock b)

/-- A command answers with a block and stores; the queue stays. -/
def AnswersStores (c : Instr) (s : State) (b : Block) (l : List Store1) : Prop :=
  exec c s = .next { s with blk := b, mem := applyStores s.mem l }

/-- The register window answers: the clock of `hcp_*` runs, `block_safe` is low and kindling has not failed
(R26, R444, R447). -/
def HcpOpen (s : State) : Prop :=
  s.blk.stopped.contains .hcp = false ∧ s.blk.pins.blockSafe = false ∧ s.blk.boot.failed = false

/-- The port is built and its shell's clock runs (R22, R26). -/
def PortOpen (sh : Shell) (s : State) : Prop :=
  s.blk.build.shellBuilt sh = true ∧ s.blk.stopped.contains sh = false

/-- A command of the command set with this opcode has been fetched, has what it reads, and can run: the sequencer is
up, and no request of it at the public-key and hash engine is unanswered (R301, R321, R382). -/
def CmdReady (s : State) (id op : Nat) (c : Cmd) : Prop := s.blk.runnable id op = some c

/-- A block with other OTP contents. -/
def Block.setOtp (b : Block) (o : Otp) : Block := { b with otp := o }

/-- A block with another program store. -/
def Block.setPrograms (b : Block) (p : Tab Program) : Block := { b with programs := p }


/-- A block with other relayed operations waiting. -/
def Block.setRelays (b : Block) (l : List Relay) : Block := { b with seq := { b.seq with relays := l } }

/-- The work that a command starts from. -/
def State.work (s : State) : Work := { blk := s.blk.begin, base := s.mem }

/-- The same for a command whose accesses over the crossbar can wait at an MCE: while one must, the work is `stuck` and the
command's row is taken again (R15, R17). -/
def State.waitWork (s : State) : Work := { blk := s.blk.begin, base := s.mem, patient := true }

/-- A command answers with what a piece of work leaves: its block, and memory after its stores; the queue stays. -/
def AnswersWork (c : Instr) (s : State) (w : Work) : Prop := exec c s = .next { s with blk := w.blk, mem := applyStores s.mem w.stores }

/-- The same for work whose accesses can wait at their MCE: once none of them must (R15, R17). -/
def AnswersOnce (c : Instr) (s : State) (w : Work) : Prop := w.stuck = false → AnswersWork c s w

/-! ### Requests at `lreq_*` -/

/-- A request of a row with its credits taken, in the ingress queue of its LPE (R34, R40, R41). -/
def State.lreqEntered (s : State) (r : LinkReq) (ty : Nat) (beats : List Beat) (acc : Access) : Lx :=
  (s.work.lx r.lpe acc).mod fun l =>
    { l with
      aCrd := l.aCrd - 1
      wCrd := l.wCrd - requestBeats (typedReq r ty).ty.toNat r.len.toNat
      ingress := l.ingress ++ [(typedReq r ty, beats)] }

/-- The LPE with the request that its arbitration chose out of the ingress queue, its beats consumed, and the free value of
its ports drawn (R40, R41, R422). -/
def Lx.chosen (x : Lx) (r : LinkReq) : Lx :=
  (((x.chooseReq.map fun e => e.2).getD x).mod fun l => l.leaves r).on fun b => b.freshen

/-- A request of a row for job `j` that its checks let pass and that its LPE serves at once: it has its credits, the engine
is up, and nothing waits there before it (R34, R40, R41, R174, R409, R422). -/
def RequestServed (s : State) (r : LinkReq) (ty : Nat) (beats : List Beat) (acc : Access) (j : Job) : Prop :=
  PortOpen (.lreq r.lpe) s ∧ s.blk.pins.blockSafe = false ∧ (s.blk.lpe r.lpe).halted = false ∧ r.ty.toNat < 7 ∧
  0 < (s.blk.lpe r.lpe).aCrd ∧ requestBeats ty r.len.toNat ≤ (s.blk.lpe r.lpe).wCrd ∧
  Tab.has s.blk.resets (lpeId r.lpe) = false ∧
  s.blk.lreqCheck r.lpe (typedReq r ty) (lreqData (typedReq r ty) beats) = .ok ∧ s.blk.jobs.get? r.job.toNat = some j ∧
  (s.blk.lpe r.lpe).ingress = [] ∧ (s.blk.lpe r.lpe).raises = [] ∧
  (s.lreqEntered r ty beats acc).chooseReq.map (fun e => e.1) = some (typedReq r ty, beats)

/-- The packets of that request. -/
def State.lreqPackets (s : State) (r : LinkReq) (ty : Nat) (beats : List Beat) (acc : Access) (j : Job) : List Outgoing :=
  ((s.lreqEntered r ty beats acc).chosen (typedReq r ty)).packets (typedReq r ty) (lreqData (typedReq r ty) beats) j
    (s.blk.requestPort (typedReq r ty) (lreqData (typedReq r ty) beats))

/-- An LPE's step with its credits that are due. -/
def Lx.paid (x : Lx) : Work := (x.on fun b => b.payLpe x.n).w

/-! ### Packets at `lphy_*` -/

/-- The LPE with a packet's beats taken (R42, R44). -/
def State.rxStart (s : State) (p : RxPacket) (acc : Access) : Lx :=
  ((s.work.lx p.lpe acc).on fun b => b.takeBeats p.lpe (rxBeats p)).patient true

/-- The receive checks on a packet (R181). -/
def State.rxCheck (s : State) (p : RxPacket) (acc : Access) : Received × Lx :=
  (s.rxStart p acc).openRx p.hdr (unitBytes p.payload) (toLe 16 p.tag.toNat)

/-- The LPE after them. -/
def State.rxAfter (s : State) (p : RxPacket) (acc : Access) : Lx := (s.rxCheck p acc).2

/-- A packet of a TYPE, for which no packet waits, passes R181 and opens. -/
def Passes (ty : Nat) (s : State) (p : RxPacket) (acc : Access) (r : Rx) : Prop :=
  PortOpen (.lphy p.lpe) s ∧ (Hdr.read p.hdr).ty = ty ∧ s.blk.mayReceive p = true ∧ s.blk.rxFormOk p = true ∧
  (s.rxStart p acc).mustHold p = false ∧ (s.rxCheck p acc).1 = .ok r

/-- The LPE with the packet's payload counted (R480). -/
def State.rxOpened (s : State) (p : RxPacket) (acc : Access) (r : Rx) : Lx := (s.rxAfter p acc).countOpened r.h

/-- A packet's row answers with what its service leaves, once no access of it must wait at its MCE (R15, R17). -/
def ServesPacket (c : Instr) (s : State) (x : Lx) : Prop := x.w.stuck = false → AnswersWork c s (x.patient false).done

/-- The request that a completion ends is settled: its tag is free and its answer goes out (R191, R206). -/
def Lx.settle (x : Lx) (r : Rx) (o : Outstanding) (st : Status) : Lx :=
  (x.mod fun l => { l with rtags := Tab.del l.rtags r.h.rtag }).on fun b => b.answerLreq x.n o.req.tag st o.answer

/-- The request with what its one completion brought. -/
def Outstanding.completed (o : Outstanding) (r : Rx) (st : Status) : Outstanding :=
  { o with status := st, seqs := o.seqs.erase r.h.opd, data := if st = .ok then r.brought o else o.data }

/-- A completion answers the one packet of a request of a context (R191, R206). -/
def Completes (x : Lx) (r : Rx) (o : Outstanding) (st : Status) : Prop :=
  r.h.multi = false ∧ x.lpe.rtags.get? r.h.rtag = some o ∧ o.seqs = [r.h.opd] ∧ o.unsent = 0 ∧ o.kiln = none ∧
  o.status = .ok ∧ r.status = some st

/-- A range of the home's memory as an operation reads it, and as it writes it (R189). -/
def Lx.loads (x : Lx) (o : OpBlock) (n : Nat) (k : Asker) : Status × Bytes × Serving :=
  Serving.readPieces k (linePieces 33 o.addr n) x.serving
def Lx.saves (x : Lx) (r : Rx) (o : OpBlock) (n : Nat) (k : Asker) : Status × Serving :=
  Serving.writePieces k (linePieces 33 o.addr n) (r.body.drop 64) x.serving

/-- A change of 8 bytes at an address (R190). -/
def Lx.changes (x : Lx) (k : Asker) (a : Nat) (f : Nat → Nat) : Status × Nat × Serving :=
  x.serving.modify k (a / 128 * 128) (a % 128) 8 f

/-! ### Packets of the link class -/

/-- The receive checks on a link-class packet, and the block after them (R181, R397). -/
def State.linkCheck (s : State) (p : RxPacket) : Option (Hdr × Bytes) × Block := (s.blk.begin.linkBeats p).openLink p
def State.linkAfter (s : State) (p : RxPacket) : Block := (s.linkCheck p).2

/-- A link-class packet of a TYPE passes R181 and opens. -/
def LinkPasses (ty : Nat) (s : State) (p : RxPacket) (h : Hdr) (body : Bytes) : Prop :=
  PortOpen (.lphy p.lpe) s ∧ (Hdr.read p.hdr).ty = ty ∧ s.blk.takesLink p = true ∧ (s.linkCheck p).1 = some (h, body)

/-- A well-formed admission message of a kind, under its epoch's key (R395 to R397). -/
def AdmissionPasses (msg : Nat) (s : State) (p : RxPacket) (h : Hdr) (body : Bytes) : Prop :=
  LinkPasses 0x41 s p h body ∧ (Adm.read body).ok body = true ∧ h.epoch = msgEpoch msg ∧ (Adm.read body).msg = msg

/-- A well-formed TIME packet of a kind from an admitted partner (R425). -/
def TimePasses (msg : Nat) (s : State) (p : RxPacket) (h : Hdr) (body : Bytes) : Prop :=
  LinkPasses 0x40 s p h body ∧ h.epoch = 1 ∧ (TimeMsg.read body).ok body = true ∧ (TimeMsg.read body).msg = msg ∧
  ((s.linkAfter p).lpe p.lpe).admitted = true

/-! ### The block's own records -/

/-- A fence's record as its command reads it (R305). -/
def State.fenceRead (s : State) (c : Cmd) (acc : Access) (r : Nat) : Status × Bytes × Work :=
  s.waitWork.readRecord (s.blk.begin.fenceAsker c r) acc (fenceAddr r c.fence) 16

/-- The fence that it finds. -/
def State.fenceFound (s : State) (c : Cmd) (acc : Access) (r : Nat) : FenceRec :=
  { value := bfld (s.fenceRead c acc r).2.1 0 8, live := bfld (s.fenceRead c acc r).2.1 8 1 = 1 }

/-- The work after the read. -/
def State.fenceWork (s : State) (c : Cmd) (acc : Access) (r : Nat) : Work := (s.fenceRead c acc r).2.2

/-- The record's write after the read. -/
def State.fenceWrite (s : State) (c : Cmd) (acc : Access) (r value : Nat) (live : Bool) : Status × Work :=
  (s.fenceWork c acc r).writeRecord ((s.fenceWork c acc r).blk.fenceAsker c r) acc (fenceAddr r c.fence)
    (toLe 8 value ++ toLe 1 (bit live) ++ toLe 7 0)

/-- The first read of a function's translation table by a command that changes it (R355). -/
def State.tableRead (s : State) (c : Cmd) (acc : Access) (r : Nat) : Status × Bytes × Work :=
  s.waitWork.readRecord (s.blk.begin.tableAsker c.fn c.ctx r) acc (level1At r c.mapArgs.va) 8

/-- The work after it. -/
def State.tableWork (s : State) (c : Cmd) (acc : Access) (r : Nat) : Work := (s.tableRead c acc r).2.2

/-- The entries that DMA_MAP writes, and those that DMA_UNMAP does (R356). -/
def State.mapWrite (s : State) (c : Cmd) (acc : Access) (r : Nat) : Status × List LineReturn × Work :=
  c.mapArgs.pages.foldl (mapPage c.fn r (s.blk.begin.tableAsker c.fn c.ctx r) c.mapArgs) (.ok, acc.rets, s.tableWork c acc r)
def State.unmapWrite (s : State) (c : Cmd) (acc : Access) (r : Nat) : Status × List LineReturn × Work :=
  c.mapArgs.pages.foldl (unmapPage c.fn r (s.blk.begin.tableAsker c.fn c.ctx r)) (.ok, acc.rets, s.tableWork c acc r)

/-- The translation of ranges of a descriptor, and the work after it (R358). -/
def State.walk (s : State) (d : DmaDesc) (acc : Access) (w : Work) (ps : List Page) (l : List Range) :
    Except Walked (List Page) × Work :=
  w.walkAll (s.blk.begin.fencesOf d.fn) (s.blk.begin.tableAsker d.fn d.ctx.toNat ((s.blk.begin.fencesOf d.fn).getD 0)) acc ps l

/-- A descriptor whose pages are known, and may be what they are, waits for its stream (R359, R362). -/
def Block.queueDma (b : Block) (n : Nat) (d : DmaDesc) (ps : List Page) : Block :=
  ({ b with
    seq := { b.seq with
      dma := b.seq.dma.put n { d with pages := ps, stage := .queued, read := if d.kind = .ingest then 64 else 0 } } } :
    Block).runStreams

/-- A mover that has met no failure leaves its descriptor as far as it has come (R359, R364). -/
def Mover.moved (m : Mover) (n : Nat) : Work :=
  m.p.w.on fun b => ({ b with seq := { b.seq with dma := b.seq.dma.upd n fun _ => m.d } } : Block).finishDma n

/-! ### The kiln -/

/-- The LPE in front of a kiln once every run of a list has been rounded and written; none when one fails (R231 to R233, R241). -/
def Lx.runsWritten (x : Lx) (slot w : Nat) (k : Reduction) (seed : Option Bytes) : List Nat → Option Lx
  | [] => some x
  | r :: rest =>
    match x.retireRun slot w r k seed with
    | (.ok, y) => y.runsWritten slot w k seed rest
    | _ => none
end Sys2Proof.Machine
end

