-- ==== Sys2Proof/Certificates/Slice0/Obligations.lean ====
section
/-! DEFINITION. The statements for the provers. -/

open Sys2Proof Sys2Proof.Machine Sys2Proof.Machine.Crypto

/-! ## The machine -/

/-- A step with a command at the front of the queue is that command's execution on the state with the queue's rest; it is
the block's only way of taking a command. -/
def Obligations.StepRunsTheFrontCommand : Prop :=
  ∀ (c : Instr) (rest : List Instr) (s : State),
    step { s with pending := c :: rest } = exec c { s with pending := rest }

/-- No command is refused, and a command ends in a fault in one case: when it names an instance of a port or engine that
the built configuration lacks. In every other case it answers a next state, whatever its operands and the state. -/
def Obligations.EveryCommandAnswersWhereItsSiteIsBuilt : Prop :=
  ∀ (c : Instr) (s : State),
    ((siteOf c).isBuilt s.blk.build = true → ∃ t, exec c s = .next t) ∧
    ((siteOf c).isBuilt s.blk.build = false → exec c s = .fault .portNotBuilt)

/-- A command adds nothing to the queue and takes nothing from it: the step took the command itself. -/
def Obligations.CommandsLeaveTheQueue : Prop :=
  ∀ (c : Instr) (s t : State), exec c s = .next t → t.pending = s.pending

/-- Every step keeps memory in its canonical form: addresses rising and below 2^42, and no byte listed that reads as an
unlisted one does. -/
def Obligations.EveryStepKeepsMemoryCanonical : Prop :=
  ∀ (s t : State), s.Inv → step s = .next t → t.Inv

/-- A command that stores nothing (register accesses, key, context, licence, life-cycle and power commands, admission,
time, credits, timeouts of the sequencer) leaves every byte of protected memory. -/
def Obligations.OnlyStoringCommandsChangeMemory : Prop :=
  ∀ (c : Instr) (s t : State), mayStore c = false → exec c s = .next t →
    t.mem = s.mem ∧ ∀ a, Memory.get t.mem a = Memory.get s.mem a

/-- A command at a port whose shell clock stands does not arrive: only the record of the last crossings starts anew. -/
def Parts.StoppedShellsTakeNothing : Prop :=
  ∀ (c : Instr) (sh : Shell) (s : State), siteOf c = .port sh →
    s.blk.build.shellBuilt sh = true → s.blk.stopped.contains sh = true →
    exec c s = .next { s with blk := { s.blk with out := [] } }

/-- After reset the invariant holds and the block stands as the spec says: `por_n` low, `block_safe` high, no command
waiting, no key, no bound region, no live context, no job; the tick 0 and invalid; CX_FAB_TIMEOUT 0xC8, CX_T1_TIMEOUT
0x14, class weights 64, QHIGH 192, calibration factor 0x4000_0000; the PF page's 64 queue pairs and vectors with ENABLE,
its key quota and region range; the PF alone enabled; CX_ECC_CTL threshold 16. -/
def Obligations.ResetLeavesTheBlockSafe : Prop :=
  State.reset.Inv ∧ State.reset.pending = [] ∧ State.reset.mem = [] ∧
  State.reset.blk.pins.porN = false ∧ State.reset.blk.pins.blockSafe = true ∧
  State.reset.blk.keys.slots = [] ∧ State.reset.blk.regions.table = [] ∧ State.reset.blk.ctxs = [] ∧
  State.reset.blk.jobs = [] ∧ State.reset.blk.time.tick = 0 ∧ State.reset.blk.time.valid = false ∧
  State.reset.blk.regRead 0x0000 = 0xC8 ∧ State.reset.blk.regRead 0x0008 = 0x14 ∧
  (∀ c < 16, State.reset.blk.regRead (0x2300 + 8 * c) = 64) ∧ State.reset.blk.regRead 0x2380 = 192 ∧
  State.reset.blk.gov.scale = 0x4000_0000 ∧
  (State.reset.blk.fn 0).qpCount = 64 ∧ (State.reset.blk.fn 0).msix = 64 ∧ (State.reset.blk.fn 0).enabled = true ∧
  (∀ f, f ≠ 0 → State.reset.blk.fn f = ({} : FnPage)) ∧ State.reset.blk.obs.eccThreshold = 16

/-! ## The register window -/

/-- UP_SET by the VF posts its mailbox and raises UP_VEC of the PF when the post rises; UP_CLR by the PF clears it. Nothing
else of the page, the block or memory changes. -/
def Parts.UpMailboxPostsAndClears : Prop :=
  ∀ (s : State) (f : Nat), HcpOpen s → 0 < f → f < 256 →
    Answers (.upSet f f) s
      { s.blk with
        out := (if (s.blk.fn f).upPost then [] else [.irq 0 (s.blk.fn f).upVec]) ++ [.hcpT 0 false]
        fns := Tab.put s.blk.fns f { s.blk.fn f with upPost := true } } ∧
    Answers (.upClr 0 f) s
      { s.blk with out := [.hcpT 0 false], fns := Tab.put s.blk.fns f { s.blk.fn f with upPost := false } } ∧
    (∀ g, g ≠ f → ((s.blk.setFn f { s.blk.fn f with upPost := true }).fn g = s.blk.fn g))

/-- DOWN_SET by the PF posts a VF's mailbox and raises DOWN_VEC of that VF when the post rises; DOWN_CLR by the VF clears
it. -/
def Parts.DownMailboxPostsAndClears : Prop :=
  ∀ (s : State) (f : Nat), HcpOpen s → 0 < f → f < 256 →
    Answers (.downSet 0 f) s
      { s.blk with
        out := (if (s.blk.fn f).downPost then [] else [.irq f (s.blk.fn f).downVec]) ++ [.hcpT 0 false]
        fns := Tab.put s.blk.fns f { s.blk.fn f with downPost := true } } ∧
    Answers (.downClr f f) s
      { s.blk with out := [.hcpT 0 false], fns := Tab.put s.blk.fns f { s.blk.fn f with downPost := false } }

/-- A whole-register write to a VF page's CX_FN_MBOX by the VF or the PF takes each bit and vector as R296 lets its writer; a
read shows the posts and vectors and zeros elsewhere; a posted mailbox refuses its poster's writes; and in the PF page the
register and both mailboxes read zero and ignore writes. -/
def Parts.MailboxRegister : Prop :=
  (∀ (s : State) (f g : Nat) (v : BitVec 64), HcpOpen s → 0 < f → f < 256 → (g = f ∨ g = 0) →
    ∃ t, exec (.registerWrite g (pageOff f 0xC40) v) s = .next t ∧ t.mem = s.mem ∧
      t.blk.fn f =
        { s.blk.fn f with
          upPost := if g = f ∧ rbit v 2 = true then true else if g = 0 ∧ rbit v 3 = true then false else (s.blk.fn f).upPost
          downPost := if g = 0 ∧ rbit v 4 = true then true else if g = f ∧ rbit v 5 = true then false else (s.blk.fn f).downPost
          upVec := if g = 0 then BitVec.ofNat 11 (rfld v 16 11) else (s.blk.fn f).upVec
          downVec := if g = f then BitVec.ofNat 11 (rfld v 32 11) else (s.blk.fn f).downVec } ∧
      (∀ h, h ≠ f → t.blk.fn h = s.blk.fn h) ∧
      t.blk.out =
        (if (t.blk.fn f).upPost = true ∧ (s.blk.fn f).upPost = false then [.irq 0 (t.blk.fn f).upVec] else []) ++
        (if (t.blk.fn f).downPost = true ∧ (s.blk.fn f).downPost = false then [.irq f (t.blk.fn f).downVec] else []) ++
        [.hcpT 0 false]) ∧
  (∀ (b : Block) (f : Nat), 0 < f → f < 256 →
    rbit (b.regRead (pageOff f 0xC40)) 0 = (b.fn f).upPost ∧ rbit (b.regRead (pageOff f 0xC40)) 1 = (b.fn f).downPost ∧
    rfld (b.regRead (pageOff f 0xC40)) 2 14 = 0 ∧ rfld (b.regRead (pageOff f 0xC40)) 16 11 = (b.fn f).upVec.toNat ∧
    rfld (b.regRead (pageOff f 0xC40)) 27 5 = 0 ∧ rfld (b.regRead (pageOff f 0xC40)) 32 11 = (b.fn f).downVec.toNat ∧
    rfld (b.regRead (pageOff f 0xC40)) 43 21 = 0 ∧
    (∀ o, o < 0x400 → (b.fn f).upPost = true → b.reach f (pageOff f o) true = false) ∧
    (∀ o, 0x400 ≤ o → o < 0x800 → (b.fn f).downPost = true → b.reach 0 (pageOff f o) true = false)) ∧
  (∀ (s : State) (o : Nat) (v : BitVec 64), HcpOpen s → o % 8 = 0 → (o < 0x800 ∨ o = 0xC40) →
    s.blk.regRead (pageOff 0 o) = 0 ∧
    ∃ t, exec (.registerWrite 0 (pageOff 0 o) v) s = .next t ∧ t.mem = s.mem ∧ t.blk.fn 0 = s.blk.fn 0)

/-- A write to CX_FN_FAULTQ_CTL by the function or the PF takes LOG2, ENABLE, VECTOR and HEAD, clears OVERFLOW by a 1 and
leaves TAIL; a LOG2 outside 6 to 16 makes the write change nothing of the page. -/
def Obligations.FaultQueueControl : Prop :=
  ∀ (s : State) (f g : Nat) (v : BitVec 64), HcpOpen s → f < 256 → (g = f ∨ g = 0) →
    (6 ≤ rfld v 0 5 → rfld v 0 5 ≤ 16 →
      Answers (.faultqCtlWrite g f v) s
        { s.blk with
          out := [.hcpT 0 false]
          fns := Tab.put s.blk.fns f
            { s.blk.fn f with
              faultq :=
                { (s.blk.fn f).faultq with
                  log2 := BitVec.ofNat 5 (rfld v 0 5), enable := rbit v 5
                  overflow := (s.blk.fn f).faultq.overflow && !rbit v 6
                  vector := BitVec.ofNat 11 (rfld v 16 11), head := BitVec.ofNat 16 (rfld v 32 16) } } }) ∧
    ((rfld v 0 5 < 6 ∨ 16 < rfld v 0 5) →
      ∃ t, exec (.faultqCtlWrite g f v) s = .next t ∧ t.mem = s.mem ∧ (t.blk.fn f).faultq = (s.blk.fn f).faultq ∧
        t.blk.obs.events.getD 0x0A 0 = satAdd64 (s.blk.obs.events.getD 0x0A 0) 1)

/-- A write that sets ENABLE of a function that is not enabled sets it, with the allocation fields of the write, exactly
when every condition of R294 holds for them; otherwise the write changes nothing of the page and is counted. A write that
clears ENABLE clears it exactly when the function is QUIESCED, and is counted otherwise. -/
def Obligations.EnableTakesEffectOnlyWhenAllowed : Prop :=
  ∀ (s : State) (f : Nat) (v : BitVec 64), HcpOpen s → s.blk.boot.seqReset = false → f < 256 →
    ((s.blk.fn f).enabled = false → rbit v 63 = true →
      ∃ t, exec (.fnAllocWrite 0 f v) s = .next t ∧ t.mem = s.mem ∧
        ((t.blk.fn f).enabled = true ↔
          rfld v 0 16 + rfld v 16 17 ≤ 65536 ∧ rfld v 33 12 ≤ 2048 ∧
          (∀ e ∈ s.blk.fns, e.1 ≠ f → e.2.enabled = true →
            e.2.qpCount = 0 ∨ rfld v 16 17 = 0 ∨
            overlaps e.2.qpBase.toNat e.2.qpCount.toNat (rfld v 0 16) (rfld v 16 17) = false) ∧
          (s.blk.fn f).resetting = false ∧ (s.blk.fn f).quiesced = false ∧ (∀ e ∈ s.blk.ctxs, e.2.fn ≠ f) ∧
          (∀ e ∈ s.blk.keys.slots, e.2.isEmpty = false → e.2.ownerFn.toNat ≠ f) ∧
          (∀ e ∈ s.blk.regions.table, e.2.ownerFn.toNat ≠ f) ∧ (∀ e ∈ s.blk.programs, e.2.fn ≠ f) ∧
          (∀ e ∈ s.blk.jobs, e.2.fn = f → s.blk.holdsJob e.1 e.2 = false)) ∧
        ((t.blk.fn f).enabled = true →
          (t.blk.fn f).qpBase = BitVec.ofNat 16 (rfld v 0 16) ∧ (t.blk.fn f).qpCount = BitVec.ofNat 17 (rfld v 16 17) ∧
          (t.blk.fn f).msix = BitVec.ofNat 12 (rfld v 33 12) ∧ ∀ g, g ≠ f → t.blk.fn g = s.blk.fn g) ∧
        ((t.blk.fn f).enabled = false →
          t.blk.obs.events.getD 0x0A 0 = satAdd64 (s.blk.obs.events.getD 0x0A 0) 1 ∧
          ∀ g, { t.blk.fn g with ash := (s.blk.fn g).ash } = s.blk.fn g)) ∧
    ((s.blk.fn f).enabled = true → rbit v 63 = false → rfld v 0 45 = rfld (s.blk.fn f).alloc 0 45 →
      ∃ t, exec (.fnAllocWrite 0 f v) s = .next t ∧ t.mem = s.mem ∧
        ((t.blk.fn f).enabled = false ↔ (s.blk.fn f).quiesced = true) ∧
        ((s.blk.fn f).quiesced = false →
          t.blk.obs.events.getD 0x0A 0 = satAdd64 (s.blk.obs.events.getD 0x0A 0) 1 ∧
          ∀ g, { t.blk.fn g with ash := (s.blk.fn g).ash } = s.blk.fn g) ∧
        ((s.blk.fn f).quiesced = true → ∀ g, g ≠ f → t.blk.fn g = s.blk.fn g))

/-- A doorbell write by the owner with indices below their rings moves the SQ tail when SET_SQ is 1 and the CQ head when
SET_CQ is 1, and nothing else; a write that breaks this moves neither and is counted. While the sequencer is in reset a
doorbell write moves nothing and is held for its restart. -/
def Obligations.DoorbellsMoveTheirIndices : Prop :=
  (∀ (s : State) (f q : Nat) (v : BitVec 64), HcpOpen s → q < 65536 → s.blk.qpOwner q = some f → s.blk.boot.seqReset = true →
    Answers (.doorbellWrite f q v) s
      { s.blk with
        out := [.hcpT 0 false]
        seq := { s.blk.seq with heldWrites := s.blk.seq.heldWrites ++ [(f, 0x40_0000 + 8 * q, v)] } }) ∧
  ∀ (s : State) (f q : Nat) (v : BitVec 64), HcpOpen s → q < 65536 → s.blk.qpOwner q = some f → s.blk.boot.seqReset = false →
    ((s.blk.qp q).enabled = true → (rbit v 32 = true → rfld v 0 16 < 2 ^ (s.blk.qp q).sqLog2) →
      (rbit v 33 = true → rfld v 16 16 < 2 ^ (s.blk.qp q).cqLog2) →
      Answers (.doorbellWrite f q v) s
        { s.blk with
          out := [.hcpT 0 false]
          qps := Tab.put s.blk.qps q
            { s.blk.qp q with
              sqTail := if rbit v 32 then rfld v 0 16 else (s.blk.qp q).sqTail
              cqHead := if rbit v 33 then rfld v 16 16 else (s.blk.qp q).cqHead } }) ∧
    (((s.blk.qp q).enabled = false ∨ (rbit v 32 = true ∧ 2 ^ (s.blk.qp q).sqLog2 ≤ rfld v 0 16) ∨
        (rbit v 33 = true ∧ 2 ^ (s.blk.qp q).cqLog2 ≤ rfld v 16 16)) →
      ∃ t, exec (.doorbellWrite f q v) s = .next t ∧ t.mem = s.mem ∧ t.blk.qps = s.blk.qps ∧
        t.blk.obs.events.getD 0x09 0 = satAdd64 (s.blk.obs.events.getD 0x09 0) 1)

/-- Enabling and disabling a queue pair. QP_ENABLE of a pair of the function's range that is not enabled reads its 64-byte
entry and sets BUSY; the entry's return enables the pair with both indices 0 and phase 1 and clears BUSY with OK;
QP_DISABLE stops its fetching, and QP_DISABLE_DONE ends it once none of its commands or records is out. -/
def Obligations.QueuePairsEnableAndDisable : Prop :=
  (∀ (s : State) (f : Nat) (q : BitVec 16), HcpOpen s → f < 256 → s.blk.boot.ready = true → s.blk.boot.seqReset = false →
    (s.blk.fn f).qpCtlBusy = false → (s.blk.fn f).holdsQp q.toNat = true →
    ((s.blk.qp q.toNat).enabled = false → ∀ tag, s.blk.seq.reads.lowest hcpTags = some tag →
      ∃ t, exec (.qpEnable f f q) s = .next t ∧ t.mem = s.mem ∧ (t.blk.fn f).qpCtlBusy = true ∧ t.blk.qps = s.blk.qps ∧
        t.blk.seq.reads = Tab.put s.blk.seq.reads tag (.queueEntry f q) ∧
        t.blk.out =
          [.hcpRead f (BitVec.ofNat 64 ((s.blk.fn f).qtable.toNat * 4096 + 64 * (q.toNat - (s.blk.fn f).qpBase.toNat))) 64
            tag, .hcpT 0 false]) ∧
    ((s.blk.qp q.toNat).enabled = true →
      ∃ t, exec (.qpDisable f f q) s = .next t ∧ t.mem = s.mem ∧ (t.blk.fn f).qpCtlBusy = true ∧
        t.blk.qp q.toNat = { s.blk.qp q.toNat with closing := true } ∧ t.blk.seq = s.blk.seq)) ∧
  (∀ (s : State) (f tag : Nat) (q : BitVec 16) (e : Bytes), PortOpen .hcp s → s.blk.seq.reads.get? tag = some (.queueEntry f q) →
    (s.blk.fn f).qpCtlBusy = true → s.blk.seq.hostWait = [] → entryOk e (s.blk.fn f).msix.toNat = true →
    Answers (.hcpReadReturn tag (.data e)) s
      { s.blk with
        out := []
        seq := { s.blk.seq with reads := Tab.del s.blk.seq.reads tag }
        qps := Tab.put s.blk.qps q.toNat (entryQp e f)
        fns := Tab.put s.blk.fns f { s.blk.fn f with qpCtlBusy := false, qpCtlStatus := .ok } } ∧
    (entryQp e f).sqHead = 0 ∧ (entryQp e f).sqTail = 0 ∧ (entryQp e f).cqHead = 0 ∧ (entryQp e f).cqTail = 0 ∧
    (entryQp e f).phase = true ∧ (entryQp e f).enabled = true) ∧
  (∀ (s : State) (f : Nat), (s.blk.fn f).qpCtlBusy = true → (s.blk.fn f).qpCtlOp = 2 →
    (s.blk.qp (s.blk.fn f).qpCtlQp.toNat).closing = true → s.blk.qpIdle (s.blk.fn f).qpCtlQp.toNat = true →
    Answers (.qpDisableDone f) s
      { s.blk with
        out := []
        qps := Tab.put s.blk.qps (s.blk.fn f).qpCtlQp.toNat
          { s.blk.qp (s.blk.fn f).qpCtlQp.toNat with enabled := false, closing := false }
        fns := Tab.put s.blk.fns f { s.blk.fn f with qpCtlBusy := false, qpCtlStatus := .ok } })

/-- The global registers with a row of their own: CX_ALARM bits are cleared by ones; a ring selection copies the ring
into the window; CAL starts a calibration with both integrals zero; a way group that a write changes is BUSY until the
change applies. The registers whose writes the sequencer carries out take them while it is not in reset. -/
def Obligations.GlobalRegisterWrites : Prop :=
  ∀ (s : State) (v : BitVec 64), HcpOpen s →
    Answers (.alarmClear 0 v) s
      { s.blk with out := [.hcpT 0 false], obs := { s.blk.obs with alarm := s.blk.obs.alarm &&& ~~~(v.truncate 7) } } ∧
    Answers (.ringSelect 0 v) s
      { s.blk with
        out := [.hcpT 0 false]
        obs := { s.blk.obs with ringSel := v.truncate 8, window := s.blk.obs.rings.getD (rfld v 0 8) {} } } ∧
    (s.blk.gov.cal = none →
      Answers (.calibrationStart 0) s
        { s.blk with out := [.hcpT 0 false], gov := { s.blk.gov with cal := some (0, 0) } }) ∧
    (∀ g : BitVec 3, s.blk.boot.seqReset = false → 2 ≤ g.toNat → (s.blk.ways.getD g.toNat {}).busy = false → (rbit v 9 = true → rbit v 8 = true) →
      (s.blk.ways.getD g.toNat {}).differs v = true →
      Answers (.ccWayWrite 0 g v) s
        { s.blk with
          out := [.hcpT 0 false]
          ways := Tab.put s.blk.ways g.toNat
            { s.blk.ways.getD g.toNat {} with busy := true, next := some (v.truncate 8, rbit v 8, rbit v 9) } }) ∧
    (s.blk.boot.seqReset = false →
      Answers (.registerWrite 0 0x2380 v) s
        { s.blk with out := [.hcpT 0 false], limits := { s.blk.limits with qhigh := v.truncate 8 } }) ∧
    (s.blk.boot.seqReset = false → 10 ≤ rfld v 0 16 →
      Answers (.registerWrite 0 0x0000 v) s
        { s.blk with out := [.hcpT 0 false], limits := { s.blk.limits with fabUs := v.truncate 16 } }) ∧
    (s.blk.boot.seqReset = false → 2 ≤ rfld v 0 16 →
      Answers (.registerWrite 0 0x0008 v) s
        { s.blk with out := [.hcpT 0 false], limits := { s.blk.limits with t1Us := v.truncate 16 } })

/-- A refused access reads zero, raises `hcp_t_err`, changes no register and counts an event: whatever the function, an
offset that R47 does not let it reach, and so with `block_safe` high, when no fault queue takes the event; and a PF-only
register never answers a VF. -/
def Parts.RefusedAccessesChangeNothing : Prop :=
  (∀ (s : State) (f off : Nat), PortOpen .hcp s → s.blk.pins.blockSafe = false → s.blk.reach f off false = false →
    ∃ t, exec (.refusedRead f off) s = .next t ∧ t.mem = s.mem ∧ .hcpT 0 true ∈ t.blk.out ∧
      t.blk.obs.events.getD 0x0A 0 = satAdd64 (s.blk.obs.events.getD 0x0A 0) 1 ∧
      t.blk.qps = s.blk.qps ∧ t.blk.limits = s.blk.limits ∧ t.blk.gov = s.blk.gov ∧ t.blk.keys = s.blk.keys ∧
      t.blk.regions = s.blk.regions ∧ t.blk.domain = s.blk.domain) ∧
  (∀ (s : State) (f off : Nat) (v : BitVec 64), PortOpen .hcp s → s.blk.pins.blockSafe = false →
    s.blk.reach f off true = false →
    ∃ t, exec (.registerWrite f off v) s = .next t ∧ t.mem = s.mem ∧ .hcpT 0 true ∈ t.blk.out ∧
      t.blk.qps = s.blk.qps ∧ t.blk.limits = s.blk.limits ∧ t.blk.gov = s.blk.gov ∧ t.blk.keys = s.blk.keys ∧
      t.blk.regions = s.blk.regions ∧ t.blk.domain = s.blk.domain) ∧
  (∀ (s : State) (f off : Nat) (v : BitVec 64), PortOpen .hcp s → s.blk.pins.blockSafe = true → s.blk.pins.porN = true →
    s.blk.reach f off true = false →
    ∃ t, exec (.registerWrite f off v) s = .next t ∧ t.mem = s.mem ∧ t.blk.out = [.hcpT 0 true] ∧
      t.blk.obs.events.getD 0x0A 0 = satAdd64 (s.blk.obs.events.getD 0x0A 0) 1 ∧
      (∀ g, { t.blk.fn g with ash := (s.blk.fn g).ash } = s.blk.fn g) ∧
      t.blk.qps = s.blk.qps ∧ t.blk.limits = s.blk.limits ∧ t.blk.gov = s.blk.gov ∧ t.blk.keys = s.blk.keys ∧
      t.blk.regions = s.blk.regions ∧ t.blk.domain = s.blk.domain) ∧
  (∀ (b : Block) (f off : Nat) (w : Bool), f ≠ 0 → off < 0x01_0000 → b.reach f off w = false) ∧
  (∀ (b : Block) (f off : Nat) (w : Bool), off % 8 ≠ 0 → b.reach f off w = false)

/-- A read that the function reaches answers its register. -/
def Parts.ReachedReadsAnswer : Prop :=
  ∀ (s : State) (f off : Nat), PortOpen .hcp s → s.blk.reach f off false = true →
    Answers (.refusedRead f off) s { s.blk with out := [.hcpT (s.blk.regRead off) false] }

/-! ## Descriptors, commands and records -/

/-- A descriptor is fetched from the queue pair whose turn it is: its SQ entry is read, the SQ head moves on and a CQ slot is
reserved. When nothing of its queue pair is before it, it starts: having passed checks 1 to 6 it stands in the command
table, reading its host buffer or ready; failing one it leaves the table, and its record carries the status with zero
results. Behind a FENCE_WAIT of its queue pair that has not completed, it waits unjudged. -/
def Parts.DescriptorsEnterOrFail : Prop :=
  ∀ (s : State) (q : Nat) (d : Descriptor), PortOpen .hcp s → s.blk.mayFetch q = true →
    (∃ t, exec (.descriptorFetch q d) s = .next t ∧ t.mem = s.mem ∧
      (t.blk.qp q).sqHead = ((s.blk.qp q).sqHead + 1) % 2 ^ (s.blk.qp q).sqLog2 ∧
      (t.blk.qp q).reserved = (s.blk.qp q).reserved + 1 ∧ t.blk.keys = s.blk.keys ∧ t.blk.regions = s.blk.regions ∧
      t.blk.seq.nextCmd = s.blk.seq.nextCmd + 1 ∧ t.blk.seq.turnQp = q ∧
      t.blk.out.head? =
        some (.hcpRead (s.blk.qp q).fn (BitVec.ofNat 64 ((s.blk.qp q).sqBase.toNat + 64 * (s.blk.qp q).sqHead)) 64
          ((s.blk.seq.reads.lowest hcpTags).getD 255))) ∧
    ((∀ e ∈ s.blk.seq.cmds, e.2.qp ≠ q ∧ e.1 < s.blk.seq.nextCmd) → (s.blk.qp q).done = [] →
      s.blk.firstChecks (s.blk.qp q).fn d = .ok →
      ∃ t, exec (.descriptorFetch q d) s = .next t ∧
        (t.blk.cmd? s.blk.seq.nextCmd).map (fun c => (c.qp, c.fn, c.sqIdx, c.desc)) =
          some (q, (s.blk.qp q).fn, (s.blk.qp q).sqHead, d) ∧
        (t.blk.cmd? s.blk.seq.nextCmd).map (fun c => c.stage) =
          some (if (hostBuffer d).isSome then .reading else .ready) ∧
        (t.blk.qp q).done = []) ∧
    (∀ st, (∀ e ∈ s.blk.seq.cmds, e.2.qp ≠ q ∧ e.1 < s.blk.seq.nextCmd) → (s.blk.qp q).done = [] →
      st ≠ .ok → s.blk.firstChecks (s.blk.qp q).fn d = st →
      ∃ t, exec (.descriptorFetch q d) s = .next t ∧ t.blk.seq.cmds = s.blk.seq.cmds ∧
        (t.blk.qp q).done =
          [{ cookie := BitVec.ofNat 64 (dfld d 8 8), status := st, sqIdx := (s.blk.qp q).sqHead
             opcode := BitVec.ofNat 16 (dfld d 0 2), irq := (dfld d 2 2).testBit 0, force := dfld d 0 2 = 0x0A03 }]) ∧
    ((∃ e ∈ s.blk.seq.cmds, e.2.qp = q ∧ e.2.opcode = 0x0A02 ∧ e.1 < s.blk.seq.nextCmd ∧
        ∀ x ∈ s.blk.seq.cmds, x.2.qp = q → x.2.stage = .fetched → e.1 < x.1) →
      ∃ t, exec (.descriptorFetch q d) s = .next t ∧
        t.blk.cmd? s.blk.seq.nextCmd =
          some { qp := q, fn := (s.blk.qp q).fn, sqIdx := (s.blk.qp q).sqHead, desc := d, stage := .fetched })

/-- A descriptor fetch that returns an error: the head moves past the entry, a record with TRANSLATION_FAULT, SQ_IDX of the
entry, COOKIE, results and OPCODE zero and the interrupt flag joins the queue pair's records in the slot reserved, and the
command has no other effect. -/
def Parts.DescriptorFetchFault : Prop :=
  ∀ (s : State) (q : Nat), PortOpen .hcp s → s.blk.mayFetch q = true →
    ∃ t, exec (.descriptorFetchFault q) s = .next t ∧ t.mem = s.mem ∧ t.blk.seq.cmds = s.blk.seq.cmds ∧
      t.blk.qp q =
        { s.blk.qp q with
          sqHead := ((s.blk.qp q).sqHead + 1) % 2 ^ (s.blk.qp q).sqLog2
          reserved := (s.blk.qp q).reserved + 1
          done := (s.blk.qp q).done ++
            [{ cookie := 0, res0 := 0, res1 := 0, status := .translationFault, sqIdx := (s.blk.qp q).sqHead, opcode := 0, irq := true }] } ∧
      (∀ p, p ≠ q → t.blk.qp p = s.blk.qp p) ∧
      (∀ tag, (s.blk.qp q).done = [] → s.blk.seq.writes.lowest hcpTags = some tag →
        t.blk.out =
          [.hcpRead (s.blk.qp q).fn (BitVec.ofNat 64 ((s.blk.qp q).sqBase.toNat + 64 * (s.blk.qp q).sqHead)) 64
            ((s.blk.seq.reads.lowest hcpTags).getD 255),
           .hcpWrite (s.blk.qp q).fn (BitVec.ofNat 64 ((s.blk.qp q).cqBase.toNat + 32 * (s.blk.qp q).cqTail))
            (({ status := .translationFault, sqIdx := (s.blk.qp q).sqHead, irq := true } : Rec).bytes (s.blk.qp q).phase)
            tag]) ∧
      (∀ g, { t.blk.fn g with lastSq := (s.blk.fn g).lastSq } = s.blk.fn g) ∧
      t.blk = { s.blk with out := t.blk.out, qps := t.blk.qps, seq := t.blk.seq, fns := t.blk.fns }

/-- A record write that returns an error raises no interrupt; an event with the queue pair, SQ_IDX, OPCODE and STATUS goes to
the function's fault queue, and the CQ tail advances as though the record had been written. -/
def Parts.RecordWriteFault : Prop :=
  ∀ (s : State) (tag q : Nat) (r : Rec), PortOpen .hcp s → s.blk.seq.writes.get? tag = some (.record q) →
    (s.blk.qp q).done = [r] → r.restart = false → s.blk.seq.cmds = [] → (s.blk.fn (s.blk.qp q).fn).faultq.room = true →
    ∃ t, exec (.hcpWriteResponse tag true) s = .next t ∧ t.mem = s.mem ∧
      (∀ f vec, .irq f vec ∉ t.blk.out) ∧
      (t.blk.fn (s.blk.qp q).fn).faultq.queue =
        (s.blk.fn (s.blk.qp q).fn).faultq.queue ++
          [{ event := s.blk.record { code := 0x08, fn := (s.blk.qp q).fn
                                     data := [(0, q), (2, r.sqIdx), (4, r.opcode.toNat), (6, r.status.code.toNat)] } false }] ∧
      (t.blk.qp q).cqTail = ((s.blk.qp q).cqTail + 1) % 2 ^ (s.blk.qp q).cqLog2 ∧ (t.blk.qp q).done = [] ∧
      (t.blk.qp q).reserved = (s.blk.qp q).reserved - 1

/-- A completion record is 32 bytes: COOKIE, RESULT0, RESULT1, STATUS, SQ_IDX, OPCODE and RFLAGS at the offsets of R319. A
command that completes fills it with its descriptor's COOKIE and OPCODE, the SQ entry that held the descriptor, its results
and status, and it goes to the CQ tail of the command's queue pair with the pair's phase. -/
def Obligations.RecordLayout : Prop :=
  (∀ (r : Rec) (phase : Bool), r.sqIdx < 65536 →
    (r.bytes phase).length = 32 ∧ bfld (r.bytes phase) 0 8 = r.cookie.toNat ∧ bfld (r.bytes phase) 8 8 = r.res0.toNat ∧
    bfld (r.bytes phase) 16 8 = r.res1.toNat ∧ bfld (r.bytes phase) 24 2 = r.status.code.toNat ∧
    bfld (r.bytes phase) 26 2 = r.sqIdx ∧ bfld (r.bytes phase) 28 2 = r.opcode.toNat ∧
    bfld (r.bytes phase) 30 2 = bit phase + 2 * bit r.rblock) ∧
  (∀ (b : Block) (id tag : Nat) (c : Cmd) (st : Status) (r0 r1 : BitVec 64) (rb : Bool), b.cmd? id = some c →
    b.seq.writes.lowest hcpTags = some tag → (b.qp c.qp).enabled = true → (b.qp c.qp).done = [] → b.stopped.contains .hcp = false →
    ∃ r : Rec, r.cookie = BitVec.ofNat 64 (dfld c.desc 8 8) ∧ r.res0 = r0 ∧ r.res1 = r1 ∧ r.status = st ∧ r.sqIdx = c.sqIdx ∧
      r.opcode.toNat = dfld c.desc 0 2 ∧ r.rblock = rb ∧
      (b.complete id st r0 r1 rb).out = b.out ++
        [.hcpWrite (b.qp c.qp).fn (BitVec.ofNat 64 ((b.qp c.qp).cqBase.toNat + 32 * (b.qp c.qp).cqTail))
          (r.bytes (b.qp c.qp).phase) tag])

/-- The codes of the statuses are those of R325, no two alike, and no other value is a status. -/
def Obligations.StatusCodes : Prop :=
  Status.ok.code = 0x0000 ∧ Status.retryLater.code = 0x0101 ∧ Status.notReady.code = 0x0102 ∧ Status.timeout.code = 0x0103 ∧
  Status.quiesced.code = 0x0104 ∧ Status.engineReset.code = 0x0105 ∧ Status.badOpcode.code = 0x0201 ∧
  Status.badOperand.code = 0x0202 ∧ Status.translationFault.code = 0x0203 ∧ Status.fenceRegression.code = 0x0204 ∧
  Status.noKey.code = 0x0301 ∧ Status.keyOrphaned.code = 0x0302 ∧ Status.keyCorrupt.code = 0x0303 ∧
  Status.keyUsage.code = 0x0304 ∧ Status.keyEngine.code = 0x0305 ∧ Status.ctrExhausted.code = 0x0306 ∧
  Status.integrityFail.code = 0x0401 ∧ Status.poisoned.code = 0x0402 ∧ Status.jobTorn.code = 0x0403 ∧
  Status.licenseExhausted.code = 0x0404 ∧ Status.locked.code = 0x0501 ∧ Status.deniedLifecycle.code = 0x0502 ∧
  Status.debugOpen.code = 0x0503 ∧
  ∀ (n : Nat) (x : Status), Status.ofCode n = some x ↔ x.code.toNat = n

/-- The write response of a record whose queue pair holds no other moves the CQ tail on, inverting PHASE when it wraps to
0, and ends the record's reservation; an error raises no interrupt and sends an event, and the tail advances all the
same. -/
def Parts.RecordResponsesAdvanceTheQueue : Prop :=
  ∀ (s : State) (tag q : Nat) (r : Rec) (err : Bool), PortOpen .hcp s → s.blk.seq.writes.get? tag = some (.record q) →
    (s.blk.qp q).done = [r] → r.restart = false → s.blk.seq.cmds = [] →
    ∃ t, exec (.hcpWriteResponse tag err) s = .next t ∧ t.mem = s.mem ∧ (t.blk.qp q).done = [] ∧
      (t.blk.qp q).cqTail = ((s.blk.qp q).cqTail + 1) % 2 ^ (s.blk.qp q).cqLog2 ∧
      (t.blk.qp q).phase =
        (if ((s.blk.qp q).cqTail + 1) % 2 ^ (s.blk.qp q).cqLog2 = 0 then !(s.blk.qp q).phase else (s.blk.qp q).phase) ∧
      (t.blk.qp q).reserved = (s.blk.qp q).reserved - 1 ∧
      (err = false → r.force = true → s.blk.seq.hostWait = [] → t.blk.out = [.irq (s.blk.qp q).fn (s.blk.qp q).vector]) ∧
      (err = true → .irq (s.blk.qp q).fn (s.blk.qp q).vector ∉ t.blk.out ∧
        t.blk.obs.events.getD 0x08 0 = satAdd64 (s.blk.obs.events.getD 0x08 0) 1)

/-- COAL_NS after the first record it covers, the interrupt of a queue pair is raised; EVENT_NOTIFY completes, once every
earlier command of its queue pair has, with a record that raises the vector at once; an answered request of the public-key and hash engine leaves its datapath and
counts for its command, a verification with what FIPS 204 gives of the command's buffer, and a request that waited at its
issuer takes the room. -/
def Parts.NotificationsAndEngineAnswers : Prop :=
  (∀ (s : State) (q : Nat), 0 < (s.blk.qp q).uncovered → s.blk.stopped.contains .hcp = false →
    Answers (.coalesceTimeout q) s
      { s.blk with
        out := [.irq (s.blk.qp q).fn (s.blk.qp q).vector]
        qps := Tab.put s.blk.qps q { s.blk.qp q with uncovered := 0 } }) ∧
  (∀ (s : State) (id : Nat) (c : Cmd), CmdReady s id 0x0A03 c → (s.blk.qp c.qp).enabled = true →
    (s.blk.qp c.qp).done = [] → (∀ e ∈ s.blk.seq.cmds, e.1 < id → e.2.qp ≠ c.qp) →
    ∃ t, exec (.eventNotify id) s = .next t ∧ t.mem = s.mem ∧ t.blk.cmd? id = none ∧
      (t.blk.qp c.qp).done =
        [{ cookie := c.cookie, status := .ok, sqIdx := c.sqIdx, opcode := 0x0A03, irq := c.flags.testBit 0, force := true }]) ∧
  (∀ (s : State) (lattice : Bool) (r : PkhResult) (id row : Nat) (rest : List (Nat × Nat)) (c : Cmd),
    Tab.has s.blk.resets 0x71 = false → (if lattice then s.blk.pkhLattice else s.blk.pkhCurve) = (id, row) :: rest →
    s.blk.cmd? id = some c →
    ∃ t, exec (.pkhRequestDone lattice r) s = .next t ∧ t.mem = s.mem ∧
      (s.blk.pkhIssuers = [] →
        (if lattice then t.blk.pkhLattice else t.blk.pkhCurve) = rest ∧
        (if lattice then t.blk.pkhCurve else t.blk.pkhLattice) = (if lattice then s.blk.pkhCurve else s.blk.pkhLattice)) ∧
      (s.blk.pkhHeld ≤ 128 → t.blk.pkhHeld = min 128 (s.blk.pkhHeld + s.blk.pkhIssuers.length - 1)) ∧
      t.blk.cmd? id =
        some { c with pkhLeft := c.pkhLeft - 1
                      pkh := c.pkh ++ [if row = 1 then .verdict c.verify else r] } ∧
      t.blk.obs.ops.getD (16 * 11 + row) 0 = satAdd64 (s.blk.obs.ops.getD (16 * 11 + row) 0) 1)

/-! ## Fences -/

/-- SIGNAL of a live fence to a value that is not below it, CREATE of a free one and DESTROY of a live one write the
fence's record and complete with OK: SIGNAL releases every wait on the fence whose value is at most the new one, DESTROY
fails its pending waits with BAD_OPERAND (`waitWork` is stuck, and the row is taken again, while the access waits at its
MCE). SIGNAL below the fence's value completes with FENCE_REGRESSION and changes
nothing; SIGNAL or DESTROY of a free fence, CREATE of a live one and a reserved operation fail with BAD_OPERAND. -/
def Parts.FenceCommandsWriteTheRecord : Prop :=
  ∀ (s : State) (id r : Nat) (c : Cmd) (acc : Access), s.Inv → CmdReady s id 0x0A01 c →
    s.blk.begin.fencesOf c.fn = some r → (s.fenceRead c acc r).1 = .ok →
    (dfld c.desc 18 1 = 0 → (s.fenceFound c acc r).live = true → (s.fenceFound c acc r).value ≤ c.value →
      (s.fenceWrite c acc r c.value true).1 = .ok → (s.fenceWrite c acc r c.value true).2.stuck = false →
      AnswersStores (.signal id acc) s
        (((s.fenceWrite c acc r c.value true).2.blk.releaseWaits c.fn c.fence c.value).succeed id c.value 0)
        (s.fenceWrite c acc r c.value true).2.stores ∧
      ∃ t, exec (.signal id acc) s = .next t ∧ t.blk.cmd? id = none ∧
        Memory.read t.mem (fenceAddr r c.fence) 16 = toLe 8 c.value ++ toLe 1 1 ++ toLe 7 0) ∧
    (dfld c.desc 18 1 = 1 → (s.fenceFound c acc r).live = false →
      (s.fenceWrite c acc r c.value true).1 = .ok → (s.fenceWrite c acc r c.value true).2.stuck = false →
      AnswersStores (.create id acc) s ((s.fenceWrite c acc r c.value true).2.blk.succeed id c.value 0)
        (s.fenceWrite c acc r c.value true).2.stores ∧
      ∃ t, exec (.create id acc) s = .next t ∧ t.blk.cmd? id = none ∧
        Memory.read t.mem (fenceAddr r c.fence) 16 = toLe 8 c.value ++ toLe 1 1 ++ toLe 7 0) ∧
    (∀ value, dfld c.desc 18 1 = 2 → (s.fenceFound c acc r).live = true → value = (s.fenceFound c acc r).value →
      (s.fenceWrite c acc r value false).1 = .ok → (s.fenceWrite c acc r value false).2.stuck = false →
      AnswersStores (.destroy id acc) s
        (((s.fenceWrite c acc r value false).2.blk.endWaits .badOperand fun x => x.on c.fn c.fence).succeed id value 0)
        (s.fenceWrite c acc r value false).2.stores ∧
      ∃ t, exec (.destroy id acc) s = .next t ∧ t.blk.cmd? id = none ∧
        Memory.read t.mem (fenceAddr r c.fence) 16 = toLe 8 value ++ toLe 1 0 ++ toLe 7 0) ∧
    (dfld c.desc 18 1 = 0 → (s.fenceFound c acc r).live = true → c.value < (s.fenceFound c acc r).value →
      AnswersStores (.signal id acc) s
        ((s.fenceWork c acc r).blk.complete id .fenceRegression (BitVec.ofNat 64 (s.fenceFound c acc r).value) 0 false) []) ∧
    (dfld c.desc 18 1 = 0 → (s.fenceFound c acc r).live = false →
      AnswersStores (.signal id acc) s ((s.fenceWork c acc r).blk.fail id .badOperand) []) ∧
    (dfld c.desc 18 1 = 1 → (s.fenceFound c acc r).live = true →
      AnswersStores (.create id acc) s ((s.fenceWork c acc r).blk.fail id .badOperand) []) ∧
    (dfld c.desc 18 1 = 2 → (s.fenceFound c acc r).live = false →
      AnswersStores (.destroy id acc) s ((s.fenceWork c acc r).blk.fail id .badOperand) [])

/-- A reserved operation of FENCE_SIGNAL is refused; and which waits a signal releases and a destruction ends. -/
def Parts.FenceWaitsReleased : Prop :=
  (∀ (s : State) (id : Nat) (c : Cmd) (acc : Access), CmdReady s id 0x0A01 c → 2 < dfld c.desc 18 1 →
    Answers (.signal id acc) s (s.blk.begin.fail id .badOperand)) ∧
  (∀ (b : Block) (fn fence value : Nat),
    (b.releaseWaits fn fence value).seq.waits =
      b.seq.waits.filter (fun x => !(decide (x.fn = fn) && decide (x.fence = fence) && decide (x.value.toNat ≤ value))) ∧
    (∀ x ∈ b.seq.waits, x.fn = fn → x.fence = fence → x.value.toNat ≤ value → (b.releaseWaits fn fence value).cmd? x.cmd = none) ∧
    (b.endWaits .badOperand fun x => x.on fn fence).seq.waits =
      b.seq.waits.filter (fun x => !(decide (x.fn = fn) && decide (x.fence = fence))) ∧
    (∀ x ∈ b.seq.waits, x.fn = fn → x.fence = fence → (b.endWaits .badOperand fun x => x.on fn fence).cmd? x.cmd = none))

/-- A FENCE_WAIT of a live fence completes with OK and the fence's value when the fence holds the value or more, and waits
otherwise; its timeout ends the wait with TIMEOUT. -/
def Obligations.FenceWaitsCompleteOrWait : Prop :=
  (∀ (s : State) (id r : Nat) (c : Cmd) (acc : Access), CmdReady s id 0x0A02 c → s.blk.begin.fencesOf c.fn = some r →
    (s.fenceRead c acc r).1 = .ok → (s.fenceFound c acc r).live = true →
    (c.value ≤ (s.fenceFound c acc r).value →
      AnswersStores (.fenceWait id acc) s ((s.fenceWork c acc r).blk.succeed id (s.fenceFound c acc r).value 0) [] ∧
      ∃ t, exec (.fenceWait id acc) s = .next t ∧ t.mem = s.mem ∧ t.blk.cmd? id = none ∧ t.blk.seq.waits = s.blk.seq.waits) ∧
    ((s.fenceFound c acc r).value < c.value → s.blk.seq.waits.length < 4096 →
      ∃ t, exec (.fenceWait id acc) s = .next t ∧ t.mem = s.mem ∧
        t.blk.seq.waits = s.blk.seq.waits ++ [{ cmd := id, fn := c.fn, fence := c.fence, value := BitVec.ofNat 64 c.value }])) ∧
  (∀ (s : State) (id : Nat) (c : Cmd), s.blk.cmd? id = some c → dfld c.desc 18 2 ≠ 0 →
    Answers (.fenceWaitTimeout id) s (s.blk.begin.endWaits .timeout fun w => w.cmd = id))

/-- A fence's record is 16 bytes, and the three commands that write one leave every byte outside it. -/
def Parts.FenceCommandsStoreSixteenBytes : Prop :=
  ∀ (s t : State) (id r : Nat) (c : Cmd) (acc : Access) (i : Instr), s.Inv → CmdReady s id 0x0A01 c →
    s.blk.begin.fencesOf c.fn = some r → i = .signal id acc ∨ i = .create id acc ∨ i = .destroy id acc →
    exec i s = .next t →
    ∀ a, a < memSize → (a < fenceAddr r c.fence ∨ fenceAddr r c.fence + 16 ≤ a) →
      Memory.get t.mem a = Memory.get s.mem a

/-! ## Energy, bandwidth and time -/

/-- An activity report adds COUNT times the operation's coefficient to what its partition has counted in the present
microsecond and to the operation's counter, and touches nothing else; a telemetry report replaces its rail's reading. -/
def Parts.GovernorReports : Prop :=
  ∀ (s : State), PortOpen .gov s → s.blk.pins.blockSafe = false →
    (∀ (p : BitVec 4) (op : BitVec 6) (n : BitVec 16),
      ∃ t, exec (.govActReport p op n) s = .next t ∧ t.mem = s.mem ∧
        t.blk.gov.now.getD p.toNat 0 = s.blk.gov.now.getD p.toNat 0 + n.toNat * s.blk.otp.coefOf op.toNat ∧
        (∀ q, q ≠ p.toNat → t.blk.gov.now.getD q 0 = s.blk.gov.now.getD q 0) ∧
        t.blk.obs.ops.getD (16 * (12 + op.toNat / 16) + op.toNat % 16) 0 =
          satAdd64 (s.blk.obs.ops.getD (16 * (12 + op.toNat / 16) + op.toNat % 16) 0) n.toNat ∧
        t.blk = { s.blk with out := [], gov := { s.blk.gov with now := t.blk.gov.now }
                             obs := { s.blk.obs with ops := t.blk.obs.ops } }) ∧
    (∀ (rail : BitVec 3) (mv : BitVec 12) (ca : BitVec 16),
      Answers (.govTelReport rail mv ca) s
        { s.blk with out := [], gov := { s.blk.gov with
            telemetry := Tab.put s.blk.gov.telemetry rail.toNat (mv.toNat, ca.toNat) } })

/-- CALIBRATION_END sets the factor that the next microsecond takes: the ratio of the integrals held to 0.875 to 1.125, and
CAL_CLAMP when it was held. -/
def Parts.CalibrationEndClampsTheFactor : Prop :=
  ∀ (s : State) (tel counted : Nat), s.blk.gov.cal = some (tel, counted) → counted ≠ 0 →
    Answers .calibrationEnd s
      { s.blk with out := [], gov := { s.blk.gov with
          cal := none
          nextScale := some (min (max (tel * 2 ^ 30 / counted) 0x3800_0000) 0x4800_0000)
          calClamp := s.blk.gov.calClamp || tel * 2 ^ 30 / counted < 0x3800_0000 || 0x4800_0000 < tel * 2 ^ 30 / counted } }

/-- Each microsecond a capped partition's bucket and limit follow the formulas of R418, and an uncapped partition's target is
1,024; the limit moves by at most 16 and stays within 0 to 1,024; the account takes the energy counted, the counts start
anew, and a factor set by a calibration comes into force. PARTITION_SET fills the bucket. Levels and energies stand in
1/256 pJ with 30 fraction bits, in which 1 mW for 1 us is `nanojoule`. -/
def Obligations.GovernorTickRampsLimits : Prop :=
  (∀ (p : Partition) (e : Nat), p.cap ≠ 0 →
    ∀ (depth level target : Int), depth = p.cap * 1000 * nanojoule →
      level = max (-depth) (min depth (p.level + p.cap * nanojoule - e)) →
      target = max 0 (min 1024 (2048 * level / depth)) →
      (p.step e).level = level ∧
      ((p.limit : Int) < target → ((p.step e).limit : Int) = min target (p.limit + 16)) ∧
      (target < p.limit → ((p.step e).limit : Int) = max target ((p.limit : Int) - 16)) ∧
      (target = p.limit → (p.step e).limit = p.limit)) ∧
  (∀ (p : Partition) (e : Nat), p.cap = 0 → (p.step e).limit = if p.limit < 1024 then min 1024 (p.limit + 16) else max 1024 (p.limit - 16)) ∧
  (∀ (s : State) (id : Nat) (c : Cmd), CmdReady s id 0x0B01 c → dfld c.desc 56 4 ≤ 4000000 →
    ∃ t, exec (.partitionSet id) s = .next t ∧
      (t.blk.partition (dfld c.desc 16 1)).level = ((dfld c.desc 56 4) * 1000 * nanojoule : Nat)) ∧
  (∀ (p : Partition) (e : Nat), p.limit ≤ 1024 →
    (p.step e).limit ≤ 1024 ∧ (p.step e).limit ≤ p.limit + 16 ∧ p.limit ≤ (p.step e).limit + 16 ∧
    (p.step e).cap = p.cap ∧ (p.step e).owner = p.owner ∧
    (p.cap ≠ 0 → -(p.cap * 1000 * nanojoule : Nat) ≤ (p.step e).level ∧ (p.step e).level ≤ (p.cap * 1000 * nanojoule : Nat))) ∧
  (∀ (s : State), s.blk.pins.blockSafe = false → Tab.has s.blk.resets 0x75 = false →
    ∃ t, exec .governorTick s = .next t ∧ t.mem = s.mem ∧ t.blk.gov.now = [] ∧
      t.blk.gov.scale = s.blk.gov.nextScale.getD s.blk.gov.scale ∧ t.blk.gov.nextScale = none ∧
      (∀ p, p < 16 → t.blk.gov.accounts.getD p 0 = s.blk.gov.accounts.getD p 0 + s.blk.gov.now.getD p 0 * s.blk.gov.scale ∧
        (t.blk.gov.parts.getD p {}).limit = ((s.blk.gov.parts.getD p {}).step (s.blk.gov.now.getD p 0 * s.blk.gov.scale)).limit))

/-- PARTITION_SET with a cap of at most 4,000,000 mW maps the engines named, sets the partition's cap and owner and fills
its bucket; LEDGER_READ returns the counted energy, the limit and the cap to the PF or the owner. -/
def Parts.PartitionCommands : Prop :=
  (∀ (s : State) (id : Nat) (c : Cmd), CmdReady s id 0x0B01 c → dfld c.desc 56 4 ≤ 4000000 →
    ∃ t, exec (.partitionSet id) s = .next t ∧ t.mem = s.mem ∧ t.blk.cmd? id = none ∧
      (t.blk.partition (dfld c.desc 16 1)).cap = dfld c.desc 56 4 ∧
      (t.blk.partition (dfld c.desc 16 1)).owner = dfld c.desc 17 1 ∧
      (t.blk.partition (dfld c.desc 16 1)).level = bucketDepth (dfld c.desc 56 4) ∧
      (∀ e, e < 256 → t.blk.gov.engineMap.getD e 0 =
        if (dfld c.desc 24 32).testBit e then dfld c.desc 16 1 else s.blk.gov.engineMap.getD e 0)) ∧
  (∀ (s : State) (id : Nat) (c : Cmd), CmdReady s id 0x0B02 c →
    (c.fn = 0 ∨ (s.blk.partition (dfld c.desc 16 1)).owner = c.fn) →
    Answers (.ledgerRead id) s
      (s.blk.begin.succeed id (s.blk.countedUj (dfld c.desc 16 1))
        ((s.blk.partition (dfld c.desc 16 1)).limit + 2 ^ 32 * (s.blk.partition (dfld c.desc 16 1)).cap)))

/-- The regulator's answer to the outstanding request: SET takes the voltage requested, LIMITED the voltage returned,
REFUSED none; the request ends, and DEFICIT shows whether the rail lies below the need. A request unanswered for 200 us
ends as refused, is counted and sends its event; a lower voltage is requested only with at least 20 mV to spare. -/
def Parts.RailRequests : Prop :=
  (∀ (s : State) (code : BitVec 2) (mv : BitVec 10) (r : Nat), PortOpen .tref s → s.blk.gov.railReq = some r →
    ∃ t, exec (.railAck code mv) s = .next t ∧ t.mem = s.mem ∧ t.blk.gov.railReq = none ∧
      t.blk.gov.railMv = (if code = 0 then r else if code = 2 then mv.toNat else s.blk.gov.railMv) ∧
      (t.blk.gov.deficit = true ↔ t.blk.gov.railMv < s.blk.gov.needMv) ∧
      t.blk.gov.deficitSeen = (s.blk.gov.deficitSeen || t.blk.gov.deficit)) ∧
  (∀ (s : State) (mv : Nat), s.blk.gov.railReq = some mv →
    ∃ t, exec .railRequestTimeout s = .next t ∧ t.mem = s.mem ∧ t.blk.gov.railReq = none ∧
      t.blk.gov.railTimeouts = s.blk.gov.railTimeouts + 1 ∧ t.blk.gov.railMv = s.blk.gov.railMv ∧
      t.blk.obs.events.getD 0x31 0 = satAdd64 (s.blk.obs.events.getD 0x31 0) 1) ∧
  (∀ (s : State), s.blk.pins.blockSafe = false → s.blk.gov.railReq = none → s.blk.gov.needMv + 50 ≤ s.blk.gov.railMv →
    railTarget s.blk.gov.needMv < s.blk.gov.railMv → s.blk.stopped.contains .tref = false →
    Answers .railLowerRequest s
      { s.blk with out := [.railReq (railTarget s.blk.gov.needMv)]
                   gov := { s.blk.gov with railReq := some (railTarget s.blk.gov.needMv) } }) ∧
  (∀ need, 700 ≤ railTarget need ∧ railTarget need ≤ 850 ∧ railTarget need % 5 = 0)

/-- A canary measurement sets NEED_MV to the highest need of the engines, each as its canary last showed it, rounded up to
whole mV, and requests a higher voltage at once when NEED_MV + 30 mV exceeds the rail and no answer is owed. -/
def Parts.CanariesSetTheNeed : Prop :=
  ∀ (s : State) (rates : List CanaryRate), s.blk.pins.blockSafe = false → rates ≠ [] →
    (∀ c ∈ rates, c.engine < 0x60 ∧ s.blk.build.engineBuilt c.engine = true) →
    ∃ t, exec (.canaryMeasure rates) s = .next t ∧ t.mem = s.mem ∧
      t.blk.gov.needMv = (Tab.vals (s.blk.canaryNeeds rates)).foldl max 0 ∧
      (∀ e, Tab.has (s.blk.canaryNeeds rates) e = true ↔ Tab.has s.blk.gov.needs e = true ∨ ∃ c ∈ rates, c.engine = e) ∧
      (∀ c, rates = [c] →
        Tab.get? (s.blk.canaryNeeds rates) c.engine = some (canaryNeed s.blk.gov.railMv s.blk.otp.slope c)) ∧
      t.blk.gov.railMv = s.blk.gov.railMv ∧
      (s.blk.gov.railReq = none → s.blk.gov.railMv < railTarget t.blk.gov.needMv →
        t.blk.gov.railReq = some (railTarget t.blk.gov.needMv))

/-- A bandwidth window starts: the port's capacity is set, its minimums are MIN_LINES or, when their sum exceeds the
capacity, scaled down and counted, and no class carries a deficit. -/
def Parts.BandwidthWindowsStartAnew : Prop :=
  ∀ (s : State) (e c : Nat), e < s.blk.build.mces → s.blk.build.engineBuilt e = true → s.blk.background e = false →
    Answers (.bandwidthWindow e c) s
      (s.blk.begin.modMce e fun m =>
        { m with capacity := c, minLeft := (s.blk.windowMins c).1, deficit := []
                 minShort := m.minShort + bit (s.blk.windowMins c).2 }) ∧
    ((s.blk.windowMins c).2 = true ↔
      c < (((s.blk.limits.minLines.map fun x => (x.1, x.2.toNat)).filter fun x => 0 < x.2).map fun x => x.2).sum) ∧
    ((s.blk.windowMins c).1.map fun x => x.2).sum ≤
      max c (((s.blk.limits.minLines.map fun x => (x.1, x.2.toNat)).filter fun x => 0 < x.2).map fun x => x.2).sum

/-- An edge of `tref_clk` with no command waiting advances a valid domain tick by 9 ns to 11 ns and nothing else that a
register shows (the edge in place of idling is the model's choice, log 10). -/
def Obligations.IdleEdgesAdvanceTheTick : Prop :=
  ∀ (s : State), s.pending = [] → s.blk.time.valid = true → s.blk.stopped.contains .tref = false →
    ∃ t, step s = .next t ∧ t.mem = s.mem ∧ t.pending = [] ∧
      (∃ d, 9 ≤ d ∧ d ≤ 11 ∧ t.blk.time.tick = s.blk.time.tick + BitVec.ofNat 64 d) ∧
      t.blk = { s.blk with out := [], fresh := s.blk.fresh + 1, time := { s.blk.time with tick := t.blk.time.tick, step := false } }

/-! ## Observation, entropy and the cipher pages -/

/-- An ash stream with both buffers free: setting ENABLE starts it at buffer A with packet number 0 and nothing dropped; a
release clears the HELD bits named; FLUSH closes the open packet; the next record in transit is written behind the open
packet's records; and the open packet closes 10 us after its first record. -/
def Obligations.AshStreamControl : Prop :=
  (∀ (s : State) (f g : Nat) (v : BitVec 64), HcpOpen s → f < 256 → (g = f ∨ g = 0) → 12 ≤ rfld v 0 5 → rfld v 0 5 ≤ 20 →
    rbit v 10 = false →
    ((s.blk.fn f).ash.enable = false → rbit v 5 = true →
      ∃ t, exec (.ashEnable g f v) s = .next t ∧ t.mem = s.mem ∧ t.blk.out = [.hcpT 0 false] ∧
        (t.blk.fn f).ash.enable = true ∧ (t.blk.fn f).ash.active = false ∧ (t.blk.fn f).ash.aHeld = false ∧
        (t.blk.fn f).ash.bHeld = false ∧ (t.blk.fn f).ash.seq = 0 ∧ (t.blk.fn f).ash.dropped = 0 ∧
        (t.blk.fn f).ash.sizeLog2 = BitVec.ofNat 5 (rfld v 0 5) ∧ (t.blk.fn f).ash.vector = BitVec.ofNat 11 (rfld v 16 11)) ∧
    ((s.blk.fn f).ash.enable = true → rbit v 5 = true → rfld v 0 5 = (s.blk.fn f).ash.sizeLog2.toNat →
      ∃ t, exec (.ashRelease g f v) s = .next t ∧ t.mem = s.mem ∧ t.blk.out = [.hcpT 0 false] ∧
        (t.blk.fn f).ash.aHeld = ((s.blk.fn f).ash.aHeld && !rbit v 6) ∧
        (t.blk.fn f).ash.bHeld = ((s.blk.fn f).ash.bHeld && !rbit v 7) ∧
        (t.blk.fn f).ash.overrun = ((s.blk.fn f).ash.overrun && !rbit v 8) ∧
        (t.blk.fn f).ash.enable = true ∧ (t.blk.fn f).ash.seq = (s.blk.fn f).ash.seq)) ∧
  (∀ (s : State) (f : Nat), HcpOpen s → f < 256 → (s.blk.fn f).ash.enable = true → (s.blk.fn f).ash.stalled = false →
    (s.blk.fn f).ash.phase = .filling → 0 < (s.blk.fn f).ash.records → 0 < (s.blk.fn f).ash.writes →
    12 ≤ (s.blk.fn f).ash.sizeLog2.toNat → (s.blk.fn f).ash.sizeLog2.toNat ≤ 20 →
    ∃ t, exec (.flush f f) s = .next t ∧ t.mem = s.mem ∧
      (t.blk.fn f).ash = { (s.blk.fn f).ash with phase := .closing true }) ∧
  (∀ (s : State) (f : Nat), (s.blk.fn f).ash.enable = true → (s.blk.fn f).ash.phase = .filling →
    0 < (s.blk.fn f).ash.records → 0 < (s.blk.fn f).ash.writes →
    Answers (.ashPacketTimeout f) s (s.blk.begin.modAsh f fun a => { a with phase := .closing false })) ∧
  (∀ (s : State) (f : Nat) (e : Event) (r : List Event), (s.blk.fn f).ash.enable = true → (s.blk.fn f).ash.phase = .filling →
    Tab.has s.blk.resets 0x77 = false → (s.blk.fn f).ash.transit = e :: r →
    Answers (.ashRecord f) s ((s.blk.begin.modAsh f fun a => { a with transit := r }).ashPut f e) ∧
    ((s.blk.fn f).ash.stalled = true →
      ∃ t, exec (.ashRecord f) s = .next t ∧ (t.blk.fn f).ash.dropped = (s.blk.fn f).ash.dropped + 1 ∧
        (t.blk.fn f).ash.overrun = true))

/-- GO with a key and fields that pass the checks of R376 sets BUSY and starts the operation; CIPHER_DONE with both cores in
agreement clears BUSY, sets DONE and CODE, releases the output, counts the blocks and moves the IV on; a disagreement
releases nothing, sets CHECK_FAIL and the alarm, and resets the engine; writing IV clears CTR_END. The operation that ends
is the one whose turn cores 2 and 3 have taken, and the next takes its turn. -/
def Parts.CipherPagesRun : Prop :=
  (∀ (s : State) (f : Nat) (v : BitVec 64), HcpOpen s → f < 256 → (s.blk.fn f).cipher.busy = false → rbit v 63 = true →
    Tab.has s.blk.resets 0x70 = false →
    ((s.blk.begin.modFn f fun p => { p with cipher := p.cipher.write 0x800 v }).modFn f fun p =>
        { p with cipher := { p.cipher with busy := true, dataOut := 0, outLen := 0, checkFail := false } }).cipherCheck f
      { (s.blk.fn f).cipher.write 0x800 v with busy := true, dataOut := 0, outLen := 0, checkFail := false } = .ok →
    ∃ t, exec (.cipherGo f f v) s = .next t ∧ t.mem = s.mem ∧ (t.blk.fn f).cipher.busy = true ∧
      (t.blk.fn f).cipher.running.isSome = true ∧ (t.blk.fn f).cipher.mode = v.truncate 3 ∧
      (t.blk.fn f).cipher.iv = (s.blk.fn f).cipher.iv ∧ t.blk.keys = s.blk.keys) ∧
  (∀ (s : State) (f n : Nat) (out : Bytes) (iv : BitVec 128) (ce : Bool), (s.blk.fn f).cipher.running = some (out, iv, ce, n) →
    s.blk.cipherAt = f → (s.blk.fn f).cipher.discard = false → (s.blk.fn f).cipher.irq = false → 0 < n →
    Answers (.cipherDone f true) s
      ((s.blk.begin.modFn f fun p =>
        { p with cipher := { p.cipher with
            busy := false, done := true, code := .ok, running := none, chain := []
            blocks := satAdd64 p.cipher.blocks p.cipher.textBlocks, iv := iv, ctrEnd := ce, outLen := n
            dataOut := BitVec.ofNat 2048 (le out) } }).count 10 (s.blk.fn f).cipher.mode.toNat
          (s.blk.fn f).cipher.textBlocks).pageTurn) ∧
  (∀ (s : State) (f n : Nat) (out : Bytes) (iv : BitVec 128) (ce : Bool), (s.blk.fn f).cipher.running = some (out, iv, ce, n) →
    s.blk.cipherAt = f → (s.blk.fn f).cipher.discard = false →
    ∃ t, exec (.cipherDone f false) s = .next t ∧ (t.blk.fn f).cipher.dataOut = (s.blk.fn f).cipher.dataOut ∧
      (t.blk.fn f).cipher.outLen = (s.blk.fn f).cipher.outLen ∧ (t.blk.fn f).cipher.checkFail = true ∧
      (t.blk.fn f).cipher.code = .integrityFail ∧ t.blk.obs.alarm.getLsbD 4 = true ∧ Tab.has t.blk.resets 0x70 = true) ∧
  (∀ (s : State) (f : Nat) (v : BitVec 64), HcpOpen s → f < 256 → (s.blk.fn f).cipher.busy = false →
    Answers (.cipIvWrite f f false v) s
      { s.blk with
        out := [.hcpT 0 false]
        fns := Tab.put s.blk.fns f { s.blk.fn f with cipher := { (s.blk.fn f).cipher with
          iv := ((s.blk.fn f).cipher.iv >>> 64).truncate 64 ++ v, ctrEnd := false } } })

/-- The entropy source: a failed test stops new output, raises the alarm and its event; a restart whose tests pass resumes
service; a reseed clears the count of DRBG requests; the mask expanders take a new draw. -/
def Parts.EntropySourceEvents : Prop :=
  (∀ (s : State) (k : BitVec 2), k ≠ 0 → s.blk.boot.entropyDown = false → 2 ≤ s.blk.boot.step →
    ∃ t, exec (.entropyTestFail k) s = .next t ∧ t.mem = s.mem ∧ t.blk.boot.entropyDown = true ∧
      t.blk.obs.alarm.getLsbD 5 = true ∧ t.blk.obs.events.getD 0x34 0 = satAdd64 (s.blk.obs.events.getD 0x34 0) 1 ∧
      t.blk.keys = s.blk.keys) ∧
  (∀ (s : State), s.blk.boot.entropyDown = true → s.blk.boot.entropyFails < 3 →
    Answers (.entropyRestart true) s
      { s.blk with out := [], boot := { s.blk.boot with entropyDown := false, entropyFails := 0 } }) ∧
  (∀ (s : State), s.blk.boot.entropyDown = false →
    Answers .drbgReseed s
      { s.blk with out := [], fresh := s.blk.fresh + 1, boot := { s.blk.boot with drbgRequests := 0 } } ∧
    Answers .maskRekey s
      { s.blk with out := [], fresh := s.blk.fresh + 1
                   boot := { s.blk.boot with maskDraw := s.blk.fresh, drbgRequests :=
          if 65536 ≤ s.blk.boot.drbgRequests then 1 else s.blk.boot.drbgRequests + 1 } })

/-! ## Life cycle, debug and patches -/

/-- A life-cycle transition that the state allows, with the authority it needs and every VF quiet, or, out of the invalid
state, with a target whose codeword holds every bit set: the domain is left, scrapping blows the secrets, and the
target's groups are programmed into the three copies of OTP one at a time in descending order, no set bit ever cleared;
after the last one the block restarts once the record has been written. -/
def Parts.LifeCycleTransition : Prop :=
  (∀ (s : State) (id kind word : Nat) (c : Cmd) (acc : Access), CmdReady s id 0x0D01 c →
    transitionKind s.blk.boot.lc (dfld c.desc 16 1) = some kind → targetWord (dfld c.desc 16 1) = some word →
    (s.blk.boot.lcJob = some id →
      Answers (.lcTransition id acc) s (s.blk.begin.programGroup id (dfld c.desc 16 1) word)) ∧
    (s.blk.boot.lcJob ≠ some id → s.blk.transitionBusy = false →
      s.blk.begin.transitionAuth c kind (dfld c.desc 16 1) = true →
      (kind ≠ 2 → s.blk.vfsQuiet = true) →
      (kind = 2 → s.blk.otp.lcPattern.toNat &&& word = s.blk.otp.lcPattern.toNat) →
      (s.waitWork.leaveDomain acc).stuck = false →
      AnswersWork (.lcTransition id acc) s
        ((s.waitWork.leaveDomain acc).on fun b => b.beginTransition id (dfld c.desc 16 1) word))) ∧
  (∀ (b : Block) (id target word : Nat), word < 2 ^ 64 →
    (∀ g l, b.otp.lacks word = g :: l →
      (b.programGroup id target word).otp.lcPattern =
        b.otp.lcPattern ||| BitVec.ofNat 64 (fld word (8 * g) 8 <<< (8 * g)) ∧ g < 8 ∧
      (l ≠ [] → (b.programGroup id target word).otp.lacks word = l ∧
        (b.programGroup id target word).seq = b.seq ∧ (b.programGroup id target word).boot = b.boot)) ∧
    (b.programGroup id target word).otp.lcPattern &&& b.otp.lcPattern = b.otp.lcPattern) ∧
  (∀ (o : Otp), o.blow.rootA = BitVec.allOnes 512 ∧ o.blow.rootB = BitVec.allOnes 512 ∧
    o.blow.lcPattern = o.lcPattern)

/-- Debug: a Production part answers a challenge of 160 bytes and holds it; a response to it opens the rights of Production
debug and consumes it; a certificate opens its rights in Blank or Test. Each success takes the steps of opening debug. -/
def Parts.DebugOpens : Prop :=
  (∀ (s : State) (id : Nat) (c : Cmd), CmdReady s id 0x0D02 c → s.blk.boot.lc = .production → 160 ≤ dfld c.desc 24 4 →
    s.blk.boot.entropyDown = false →
    Answers (.debugChallenge id) s
      (({ s.blk.begin.drew with boot := { s.blk.begin.drew.boot with challenge := some s.blk.challengeBytes } } : Block).output id
        (dfld c.desc 16 8) s.blk.challengeBytes .ok 160 0) ∧ s.blk.challengeBytes.length = 160) ∧
  (∀ (s : State) (id : Nat) (c : Cmd) (acc : Access), CmdReady s id 0x0D03 c → s.blk.boot.lc = .production →
    s.blk.begin.objectOk 4 c.buf c.verified = true → bfld c.buf 8 4 = 0x43 →
    (∃ x, s.blk.boot.challenge = some x ∧ slice c.buf 24 48 = sha384 x) →
    ∃ w, w = (s.waitWork.on fun b => { b with boot := { b.boot with challenge := none } }).openDebug acc 0x43 ∧
      (w.stuck = false → AnswersStores (.debugResponse id acc) s (w.blk.succeed id 0 0) w.stores)) ∧
  (∀ (s : State) (id : Nat) (c : Cmd) (acc : Access), CmdReady s id 0x0D04 c → (s.blk.boot.lc = .blank ∨ s.blk.boot.lc = .test) →
    s.blk.begin.certOk c.buf c.verified = true →
    ∃ w, w = s.waitWork.openDebug acc (bfld c.buf 8 4) ∧
      (w.stuck = false → AnswersStores (.debugCert id acc) s (w.blk.succeed id 0 0) w.stores))

/-- The patch commands on a part that serves, with the store usable, no record write under way and no trial: a first write
marks the inactive slot DOWNLOADING; a later write programs its piece; a verification reads the slot, and a bundle that
verifies is recorded VERIFIED with its version, security version and digest, while any other fails with BAD_OPERAND; activation writes the trial marker once every VF is quiet; confirmation on trial
makes the running slot active. Each record write completes its command when the store has accepted it. -/
def Obligations.PatchCommands : Prop :=
  ∀ (s : State) (id : Nat) (c : Cmd), s.blk.boot.lc.serves = true → s.blk.boot.storeOk = true → s.blk.patchWriting = false →
    (s.blk.store.patch.trial = none →
      (CmdReady s id 0x0D05 c → dfld c.desc 32 1 ≠ 0 → dfld c.desc 28 4 = 0 → pieceOk c = true →
        Answers (.patchWriteFirst id) s
          (s.blk.begin.writePatch id (s.blk.store.patch.setSlot s.blk.store.patch.inactive { state := .downloading }))) ∧
      (CmdReady s id 0x0D05 c → dfld c.desc 32 1 = 0 → (s.blk.store.patch.slot s.blk.store.patch.inactive).state = .downloading →
        dfld c.desc 28 4 % 256 = 0 → pieceOk c = true → dfld c.desc 28 4 + dfld c.desc 24 4 ≤ 2 ^ 24 →
        Answers (.patchWrite id) s
          ((s.blk.begin.emit (.flashWrite s.blk.store.patch.inactive (dfld c.desc 28 4) c.buf)).succeed id 0 0)) ∧
      (∀ flash : FlashRead, CmdReady s id 0x0D06 c → (s.blk.store.patch.slot s.blk.store.patch.inactive).state ≠ .empty →
        ∃ b, b = s.blk.begin.emit (.flashRead (slotBase s.blk.store.patch.inactive) flash.image.length) ∧
          Answers (.patchVerify id flash) s
            (if s.blk.begin.flashBundleOk flash = true then
              b.writePatch id (s.blk.store.patch.setSlot s.blk.store.patch.inactive
                { state := .verified, version := BitVec.ofNat 32 (bfld flash.image 8 4)
                  svn := BitVec.ofNat 16 (bfld flash.image 6 2), digest := flashDigest flash })
            else b.fail id .badOperand)) ∧
      (CmdReady s id 0x0D07 c → (s.blk.store.patch.slot s.blk.store.patch.inactive).state = .verified → s.blk.vfsQuiet = true →
        Answers (.patchActivate id) s
          (s.blk.begin.writePatch id { s.blk.store.patch with trial := some s.blk.store.patch.inactive, trialBoots := false }))) ∧
    (CmdReady s id 0x0D08 c → s.blk.boot.onTrial = true →
      Answers (.patchConfirm id) s
        (s.blk.begin.writePatch id { s.blk.store.patch with active := s.blk.boot.slot, trial := none, trialBoots := false }))

/-- The test port offers an instruction only under its debug right and selects BYPASS otherwise; IDCODE shows 1 in bit 0,
the manufacturer, part 0xC7C4 and version 2; a self-test reports the failed tests among those asked for. -/
def Obligations.TestPortAndSelfTest : Prop :=
  (∀ (s : State) (i : TapInstr), PortOpen .tap s →
    ∃ t, exec (.tapInstruction i) s = .next t ∧ t.mem = s.mem ∧
      t.blk.boot.tap = (if s.blk.tapOffers i then i else .bypass) :: s.blk.boot.tap ∧
      (i = .idcode → t.blk.out = [.tap .idcode s.blk.idcode]) ∧
      (s.blk.tapOffers i = false → t.blk.out = [.tap .bypass 0])) ∧
  (∀ b : Block, b.idcode.toNat % 2 = 1 ∧ b.idcode.toNat / 2 % 2048 = b.build.tapMfr.toNat ∧
    b.idcode.toNat / 2 ^ 12 % 65536 = 0xC7C4 ∧ b.idcode.toNat / 2 ^ 28 = 2) ∧
  (∀ (s : State) (id : Nat) (c : Cmd), CmdReady s id 0x0E02 c → 0 < dfld c.desc 16 4 → dfld c.desc 16 4 < 16 →
    Answers (.selftest id 0) s (s.blk.begin.succeed id 0 0))

/-- A shell whose clock stops is recorded once; when the clock returns, what the shell held crosses in order and nothing is
lost. -/
def Parts.ShellClocksLoseNothing : Prop :=
  (∀ (s : State) (sh : Shell), s.blk.build.shellBuilt sh = true → s.blk.stopped.contains sh = false →
    Answers (.shellClockStop sh) s { s.blk with out := [], stopped := s.blk.stopped ++ [sh] }) ∧
  (∀ (s : State) (sh : Shell), s.blk.build.shellBuilt sh = true → s.blk.stopped.contains sh = true →
    ∃ t, exec (.shellClockReturn sh) s = .next t ∧ t.mem = s.mem ∧ t.blk.stopped.contains sh = false ∧
      (∀ x, x ≠ sh → t.blk.stopped.contains x = s.blk.stopped.contains x) ∧
      t.blk.out = s.blk.held.filter (fun c => c.shell = sh) ∧
      (∀ c ∈ s.blk.held, c ∈ t.blk.out ∨ c ∈ t.blk.held) ∧
      t.blk = { s.blk with stopped := t.blk.stopped, held := t.blk.held, out := t.blk.out }) ∧
  (∀ (b : Block) (c : Cross), b.stopped.contains c.shell = true → b.emit c = { b with held := b.held ++ [c] })

/-! ## SPDM -/

/-- A responder is there: the clock of `mgmt_*` runs, the block is not safe and the sequencer is not in reset. -/
def Responds (s : State) : Prop :=
  PortOpen .mgmt s ∧ s.blk.pins.blockSafe = false ∧ s.blk.boot.seqReset = false

/-- The connection in order: GET_VERSION starts it anew, GET_CAPABILITIES and NEGOTIATE_ALGORITHMS go on when the step before
has been taken and the block's algorithms are offered, and a request out of order is answered with an error and changes
nothing of the connection. -/
def Parts.SpdmNegotiation : Prop :=
  ∀ (s : State), Responds s →
    (∃ t, exec .spdmGetVersion s = .next t ∧ t.mem = s.mem ∧ t.blk.spdm = { versioned := true } ∧
      ∃ x, t.blk.out = [.spdm spdmVersion x]) ∧
    (∀ flags, s.blk.spdm.versioned = true →
      ∃ t, exec (.spdmGetCapabilities flags) s = .next t ∧ t.mem = s.mem ∧ t.blk.spdm = { s.blk.spdm with capable := true } ∧
        ∃ x, t.blk.out = [.spdm spdmCapabilities x]) ∧
    (∀ a, s.blk.spdm.capable = true → spdmOffer a = true →
      ∃ t, exec (.spdmNegotiateAlgorithms a) s = .next t ∧ t.mem = s.mem ∧ t.blk.spdm = { s.blk.spdm with negotiated := true } ∧
        ∃ x, t.blk.out = [.spdm spdmAlgorithms x]) ∧
    (∀ flags, s.blk.spdm.versioned = false →
      Answers (.spdmGetCapabilities flags) s { s.blk with out := [.spdm spdmErrorCode [BitVec.ofNat 8 spdmUnexpected]] })

/-- Once algorithms are negotiated, GET_DIGESTS, GET_CERTIFICATE of slot 0 inside the chain, CHALLENGE of slot 0,
GET_MEASUREMENTS of the block's index and CHUNK_GET inside the large answer are answered with their response codes; a
signed answer takes fresh randomness. -/
def Parts.SpdmAnswers : Prop :=
  ∀ (s : State), Responds s → s.blk.spdm.negotiated = true →
    Answers .spdmGetDigests s { s.blk with out := [.spdm spdmDigests (sha384 s.blk.spdmChain)] } ∧
    (∀ (offset len : Nat), offset < s.blk.spdmChain.length →
      ∃ t x, exec (.spdmGetCertificate 0 offset len) s = .next t ∧ t.mem = s.mem ∧ t.blk.spdm = s.blk.spdm ∧
        t.blk.out = [.spdm spdmCertificate x]) ∧
    (s.blk.boot.entropyDown = false →
      (∀ nonce, ∃ t x, exec (.spdmChallenge 0 nonce) s = .next t ∧ t.mem = s.mem ∧ t.blk.spdm = s.blk.spdm ∧
        t.blk.fresh = s.blk.fresh + 2 ∧ t.blk.out = [.spdm spdmChallengeAuth x]) ∧
      (∀ nonce, ∃ t x, exec (.spdmGetMeasurements 0xFD nonce) s = .next t ∧ t.mem = s.mem ∧
        t.blk.spdm = { s.blk.spdm with large := x } ∧ t.blk.fresh = s.blk.fresh + 1 ∧ t.blk.out = [.spdm spdmMeasurements x])) ∧
    (∀ (h : BitVec 8) (k : Nat), k * spdmChunkSize < s.blk.spdm.large.length →
      Answers (.spdmChunkGet h k) s
        { s.blk with out := [.spdm spdmChunkResponse (toLe 1 h.toNat ++ toLe 2 k ++
            (s.blk.spdm.large.drop (k * spdmChunkSize)).take spdmChunkSize)] })

/-- A session: KEY_EXCHANGE with a point of the curve opens one when none is open and any other is refused, FINISH with a good MAC establishes it and
starts the sequence of the next phase, HEARTBEAT is answered in an established one, and END_SESSION closes it. The answers
of a session cross as secured messages with its id and sequence number. -/
def Parts.SpdmSessions : Prop :=
  ∀ (s : State), Responds s →
    (∀ point, s.blk.spdm.negotiated = true → s.blk.boot.entropyDown = false → s.blk.spdm.session = false →
      ∃ t, exec (.spdmKeyExchange point) s = .next t ∧ t.mem = s.mem ∧
        (∀ z, p384Secret (p384Reduce (toLe 56 (s.blk.random 448).toNat)) point = some z →
          t.blk.spdm.session = true ∧ t.blk.spdm.established = false ∧ t.blk.spdm.secret = z ∧ t.blk.spdm.sent = 0 ∧
          ∃ x, t.blk.out = [.spdm spdmKeyExchangeRsp x]) ∧
        (p384Secret (p384Reduce (toLe 56 (s.blk.random 448).toNat)) point = none →
          t.blk = { s.blk with out := [.spdm spdmErrorCode [BitVec.ofNat 8 spdmInvalid]] })) ∧
    (s.blk.spdm.session = true → s.blk.spdm.established = false →
      ∃ t x, exec (.spdmFinish true) s = .next t ∧ t.mem = s.mem ∧ t.blk.spdm = { s.blk.spdm with established := true, sent := 0 } ∧
        t.blk.out = [.secured s.blk.spdm.id (BitVec.ofNat 16 s.blk.spdm.sent) x]) ∧
    (s.blk.spdm.established = true →
      ∃ t x, exec .spdmHeartbeat s = .next t ∧ t.mem = s.mem ∧ t.blk.spdm = { s.blk.spdm with sent := s.blk.spdm.sent + 1 } ∧
        t.blk.out = [.secured s.blk.spdm.id (BitVec.ofNat 16 s.blk.spdm.sent) x]) ∧
    (s.blk.spdm.session = true →
      ∃ t x, exec .spdmEndSession s = .next t ∧ t.mem = s.mem ∧
        t.blk.spdm = { s.blk.spdm with session := false, established := false, secret := [], id := 0, sent := 0 } ∧
        t.blk.out = [.secured s.blk.spdm.id (BitVec.ofNat 16 s.blk.spdm.sent) x])

/-! ## Lane programs and contexts -/

/-- PROG_LOAD of an image that passes every check takes the lowest free handle and returns it with W and the first 8 bytes
of the digest; PROG_BIND binds a program of the function to the tagged context; PROG_UNLOAD of one that nothing uses
removes the image, its bindings and its frames. -/
def Obligations.ProgramCommands : Prop :=
  (∀ (s : State) (id h : Nat) (c : Cmd), CmdReady s id 0x0501 c → imageOk c.buf = true → Tab.lowest s.blk.programs 64 = some h →
    Answers (.progLoad id) s
      ((s.blk.begin.setPrograms (Tab.put s.blk.programs h (imageProgram c.fn c.buf))).succeed id
        (h + 2 ^ 16 * (imageProgram c.fn c.buf).worst) (le ((toBe 48 (imageProgram c.fn c.buf).digest.toNat).take 8)))) ∧
  (∀ (s : State) (id : Nat) (c : Cmd) (x : Ctx), CmdReady s id 0x0502 c → s.blk.ownsProgram c.fn (dfld c.desc 16 2) = true →
    s.blk.ctxs.get? c.ctx = some x → x.progs.contains (dfld c.desc 16 2) = false → x.progs.length < 16 →
    ∃ t, exec (.progBind id) s = .next t ∧ t.mem = s.mem ∧ t.blk.cmd? id = none ∧
      t.blk.ctxs.get? c.ctx = some { x with progs := x.progs ++ [dfld c.desc 16 2] } ∧
      (∀ n, n ≠ c.ctx → t.blk.ctxs.get? n = s.blk.ctxs.get? n) ∧ t.blk.programs = s.blk.programs) ∧
  (∀ (s : State) (id : Nat) (c : Cmd), CmdReady s id 0x0503 c → s.blk.ownsProgram c.fn (dfld c.desc 16 2) = true →
    s.blk.programUsed (dfld c.desc 16 2) = false →
    ∃ t, exec (.progUnload id) s = .next t ∧ t.mem = s.mem ∧ t.blk.cmd? id = none ∧
      t.blk.programs.get? (dfld c.desc 16 2) = none ∧
      (∀ h, h ≠ dfld c.desc 16 2 → t.blk.programs.get? h = s.blk.programs.get? h) ∧
      (∀ n x, t.blk.ctxs.get? n = some x → dfld c.desc 16 2 ∉ x.progs))

/-- CTX_OPEN gives the issuing function the number that has been free longest, with no job, program or measured load, and
returns it; it fails with RETRY_LATER and no effect on contexts when 4,096 are live. -/
def Parts.ContextOpen : Prop :=
  (∀ (s : State) (id n : Nat) (free : FreeList) (c : Cmd), CmdReady s id 0x0301 c → s.blk.ctxs.length < 4096 →
    s.blk.ctxFree.take 0x10000 = some (n, free) →
    ∃ t, exec (.ctxOpen id) s = .next t ∧ t.mem = s.mem ∧ t.blk.cmd? id = none ∧
      t.blk.ctxs.get? n = some { fn := c.fn } ∧ (∀ m, m ≠ n → t.blk.ctxs.get? m = s.blk.ctxs.get? m) ∧
      t.blk.ctxFree = free ∧ t.blk.keys = s.blk.keys ∧ t.blk.regions = s.blk.regions ∧
      ((s.blk.qp c.qp).enabled = true → (t.blk.qp c.qp).done = (s.blk.qp c.qp).done ++
        [{ cookie := c.cookie, res0 := BitVec.ofNat 64 n, status := .ok, sqIdx := c.sqIdx
           opcode := BitVec.ofNat 16 c.opcode, irq := c.flags.testBit 0 }])) ∧
  (∀ (s : State) (id : Nat) (c : Cmd), CmdReady s id 0x0301 c → 4096 ≤ s.blk.ctxs.length →
    ∃ t, exec (.ctxOpen id) s = .next t ∧ t.mem = s.mem ∧ t.blk.ctxs = s.blk.ctxs ∧ t.blk.ctxFree = s.blk.ctxFree)

/-- CTX_CLOSE of a context with no job, no other command and no work removes what it owns and completes with OK; a kill,
by command or by notice, ends the context's work with BAD_OPERAND, records CTX_KILLED and cleans up; a notice for
context 0 or one that is not live has no effect but KILL_IGNORED. -/
def Parts.ContextCloseAndKill : Prop :=
  (∀ (s : State) (id : Nat) (c : Cmd), CmdReady s id 0x0302 c → s.blk.jobsOf c.ctx = [] →
    (∀ e ∈ s.blk.seq.cmds, e.1 ≠ id → e.2.ctx ≠ c.ctx) → s.blk.ctxBusy c.ctx = false →
    Answers (.ctxClose id) s ((s.blk.begin.closeCtx c.ctx).succeed id 0 0)) ∧
  (∀ (s : State) (id f : Nat) (c : Cmd) (acc : Access), CmdReady s id 0x0303 c → s.blk.ctxFn (dfld c.desc 16 2) = some f →
    (c.fn = 0 ∨ c.fn = f) → (dfld c.desc 18 1).testBit 0 = false →
    Answers (.ctxKill id acc) s ((s.blk.begin.killCtx (dfld c.desc 16 2) 2 0 (some id)).cleanCtx (dfld c.desc 16 2))) ∧
  (∀ (s : State) (ctx : BitVec 16) (cause : BitVec 4), s.blk.pins.blockSafe = false → s.blk.boot.seqReset = false →
    ((s.blk.ctxFn ctx.toNat).isSome = true →
      Answers (.ctxKillNotice ctx cause) s ((s.blk.begin.killCtx ctx.toNat 1 cause.toNat none).cleanCtx ctx.toNat)) ∧
    (s.blk.ctxFn ctx.toNat = none →
      Answers (.ctxKillNotice ctx cause) s
        (s.blk.begin.raise { code := 0x38, engine := 0x74, blockwide := true, data := [(0, ctx.toNat)] } [0]) ∧
      ∃ t, exec (.ctxKillNotice ctx cause) s = .next t ∧ t.blk.ctxs = s.blk.ctxs ∧
        t.blk.obs.events.getD 0x38 0 = satAdd64 (s.blk.obs.events.getD 0x38 0) 1))

/-! ## Jobs and functions -/

/-- JOB_JOIN of a live, untorn job of the function with a region that can be its state region adds the job to the context
and sets the state region; JOB_LEAVE takes the context out; JOB_KEYS of a held job with a higher epoch starts the epoch
and keeps the one before. -/
def Obligations.JobCommands : Prop :=
  (∀ (s : State) (id : Nat) (c : Cmd) (j : Job), CmdReady s id 0x0401 c → s.blk.jobs.get? (dfld c.desc 16 2) = some j →
    j.fn = c.fn → s.blk.jobKeyLive j = true → j.torn = false →
    (s.blk.jobsOf c.ctx).contains (dfld c.desc 16 2) = false →
    s.blk.begin.stateRegionOk c (dfld c.desc 16 2) (dfld c.desc 18 2) j = true → (j.stateRegion = none → s.blk.joinedJobs < 256) →
    ∃ t, exec (.jobJoin id) s = .next t ∧ t.mem = s.mem ∧ t.blk.cmd? id = none ∧
      t.blk.jobs.get? (dfld c.desc 16 2) = some { j with stateRegion := some (dfld c.desc 18 2) } ∧
      (∀ n, n ≠ dfld c.desc 16 2 → t.blk.jobs.get? n = s.blk.jobs.get? n) ∧
      t.blk.ctxs.get? c.ctx = (s.blk.ctxs.get? c.ctx).map (fun x => { x with jobs := x.jobs ++ [dfld c.desc 16 2] }) ∧
      t.blk.keys = s.blk.keys) ∧
  (∀ (s : State) (id : Nat) (c : Cmd), CmdReady s id 0x0402 c → (s.blk.jobsOf c.ctx).contains (dfld c.desc 16 2) = true →
    (∀ k ∈ s.blk.reductions, ¬ (k.2.ctx.toNat = c.ctx ∧ k.2.job.toNat = dfld c.desc 16 2)) →
    Answers (.jobLeave id) s ((s.blk.begin.leaveJob c.ctx (dfld c.desc 16 2)).succeed id 0 0)) ∧
  (∀ (s : State) (id : Nat) (c : Cmd) (j : Job), CmdReady s id 0x0403 c → s.blk.heldJob (dfld c.desc 16 2) = some j →
    s.blk.begin.jobKeysCheck c (some j) = .ok →
    ∃ t, exec (.jobKeys id) s = .next t ∧ t.mem = s.mem ∧ t.blk.cmd? id = none ∧
      t.blk.jobs.get? (dfld c.desc 16 2) = some { j with epoch := BitVec.ofNat 32 (dfld c.desc 20 4), prev := some j.epoch } ∧
      t.blk.keys = s.blk.keys)

/-- FUNCTION_QUIESCE of a VF starts a quiesce; its deadline ends what remains with QUIESCED, sets QUIESCED and completes it;
FUNCTION_RESUME clears QUIESCED; FUNCTION_RESET of a quiesced VF sets RESETTING and removes what the VF owns; a bound
missed takes the whole-block rung. -/
def Obligations.FunctionMaintenance : Prop :=
  (∀ (s : State) (id : Nat) (c : Cmd), CmdReady s id 0x0C03 c → c.vf ≠ 0 → (s.blk.fn c.vf).quiescing = none →
    (dfld c.desc 17 1 = 0 → 1 ≤ dfld c.desc 18 2 → dfld c.desc 18 2 ≤ 1000 → (s.blk.fn c.vf).quiesced = false →
      Answers (.functionQuiesce id) s ((s.blk.begin.modFn c.vf fun p => { p with quiescing := some id }).wait id)) ∧
    (dfld c.desc 17 1 = 1 → (s.blk.fn c.vf).quiesced = true →
      ∃ t, exec (.functionResume id) s = .next t ∧ t.mem = s.mem ∧ t.blk.cmd? id = none ∧
        (t.blk.fn c.vf).quiesced = false ∧ t.blk.keys = s.blk.keys ∧ t.blk.ctxs = s.blk.ctxs)) ∧
  (∀ (s : State) (f id : Nat), (s.blk.fn f).quiescing = some id →
    Answers (.quiesceDeadline f) s (s.blk.begin.quiesceEnds f id)) ∧
  (∀ (s : State) (id : Nat) (c : Cmd), CmdReady s id 0x0C04 c → c.vf ≠ 0 → (s.blk.fn c.vf).quiesced = true →
    (s.blk.fn c.vf).resetting = false → (s.blk.fn c.vf).cipher.running = none → s.blk.ctxsOf c.vf = [] → s.blk.slotsOf c.vf = [] → s.blk.regionsOf c.vf = [] →
    s.blk.keys.invals = [] → c.fn ≠ c.vf →
    ∃ t, exec (.functionReset id) s = .next t ∧ t.mem = s.mem ∧ t.blk.cmd? id = none ∧
      (t.blk.fn c.vf).resetting = false ∧ (t.blk.fn c.vf).quiesced = false ∧ (t.blk.fn c.vf).enabled = false ∧
      (t.blk.fn c.vf).qpCount = (s.blk.fn c.vf).qpCount ∧ (t.blk.fn c.vf).keyQuota = (s.blk.fn c.vf).keyQuota ∧
      (t.blk.fn c.vf).upPost = false ∧ (t.blk.fn c.vf).downPost = false) ∧
  (∀ (s : State) (f : Nat), ((s.blk.fn f).quiescing.isSome = true ∨ (s.blk.fn f).resetting = true) →
    Answers (.functionBoundMissed f) s (s.blk.begin.blockReset .missedBound 0x74))

/-! ## Time transfer and the relay -/

/-- An admitted member port sends a time REQ with the next exchange number and remembers its stamp; a REQ from an admitted
partner is answered with the stamp of its arrival and an instant of leaving, which no rule fixes (log 4); a RESP that
answers the last REQ adds its offset to the last sixteen. -/
def Obligations.TimeExchanges : Prop :=
  (∀ (s : State) (n : Nat) (x : Stamp), s.blk.build.shellBuilt (.lphy n) = true → (s.blk.lpe n).admitted = true →
    (s.blk.lpe n).member = true →
    Answers (.timeExchange n x) s
      ((s.blk.begin.modLpe n fun l => { l with exchange := l.exchange + 1, reqTick := x.tick, reqFrac := x.frac }).linkSend n
        0x40 1 ({ msg := 1, hops := s.blk.time.hops.toNat
                  exch := ((s.blk.begin.modLpe n fun l =>
                    { l with exchange := l.exchange + 1, reqTick := x.tick, reqFrac := x.frac }).lpe n).exchange.toNat
                  t1 := x.tick.toNat, f1 := x.frac.toNat } : TimeMsg).bytes)) ∧
  (∀ (s : State) (p : RxPacket) (x : Stamp) (h : Hdr) (body : Bytes),
    (TimePasses 1 s p h body →
      Answers (.rxTimeReq p x) s
        ((((s.linkAfter p).partnerAt p.lpe (TimeMsg.read body).hops).freshen.linkSend p.lpe 0x40 1
          ({ TimeMsg.read body with
              msg := 2, hops := ((s.linkAfter p).partnerAt p.lpe (TimeMsg.read body).hops).time.hops.toNat, t2 := x.tick.toNat
              f2 := x.frac.toNat, t3 := (Config.open64 11 s.blk.fresh).toNat
              f3 := (Config.open64 12 s.blk.fresh).toNat % 65536 } : TimeMsg).bytes).payLpe p.lpe) ∧
      ∃ t, exec (.rxTimeReq p x) s = .next t ∧ t.mem = s.mem ∧ (t.blk.lpe p.lpe).partnerHops.toNat = (TimeMsg.read body).hops ∧
        (t.blk.lpe p.lpe).linkSeq1 = (s.blk.lpe p.lpe).linkSeq1 + 1 ∧ t.blk.keys = s.blk.keys) ∧
    (TimePasses 2 s p h body → (TimeMsg.read body).exch = (s.blk.lpe p.lpe).exchange.toNat →
      (TimeMsg.read body).t1 = (s.blk.lpe p.lpe).reqTick.toNat → (TimeMsg.read body).f1 = (s.blk.lpe p.lpe).reqFrac.toNat →
      ∃ t, exec (.rxTimeResp p x) s = .next t ∧ t.mem = s.mem ∧
        (t.blk.lpe p.lpe).offsets =
          ((timeOffset (s.blk.asymmetry p.lpe) (TimeMsg.read body) x) :: (s.blk.lpe p.lpe).offsets).take 16 ∧
        (t.blk.lpe p.lpe).partnerHops.toNat = (TimeMsg.read body).hops ∧ t.blk.keys = s.blk.keys))

/-- A relayed operation's answer: one whose frames do not verify or answer another operation is ignored and counted, as is
an answer that no operation awaits; an accepted write is in the store from then on, the device's counter has risen, and
its command goes on; a late answer of an earlier boot changes the store alone; a rejected operation fails its command
with NOT_READY. A command whose answer does not come within its time fails with TIMEOUT, and a write of the block's own
is sent again. -/
def Obligations.RelayAnswers : Prop :=
  (∀ (s : State) (q : BitVec 8) (r : Relay) (rest : List Relay), PortOpen .mgmt s → takeRelay q s.blk.seq.relays = some (r, rest) →
    ∀ a : RpmbAnswer,
      (r.answer s.blk.store s.blk.otp.rpmbKey a = .stray →
        Answers (.rpmbResult q a) s
          { s.blk with out := [], seq := { s.blk.seq with relayStrays := s.blk.seq.relayStrays + 1 } }) ∧
      (∀ data, r.answer s.blk.store s.blk.otp.rpmbKey a = .accepted data → r.live = true →
        Answers (.rpmbResult q a) s
          (({ s.blk.begin with seq := { s.blk.seq with relays := rest }
                               store := (s.blk.store.accept r.what).counted r.what } : Block).relayDone data r.what)) ∧
      (∀ data, r.answer s.blk.store s.blk.otp.rpmbKey a = .accepted data → r.live = false →
        Answers (.rpmbResult q a) s
          { s.blk with out := [], seq := { s.blk.seq with relays := rest }
                       store := (s.blk.store.accept r.what).counted r.what }) ∧
      (r.answer s.blk.store s.blk.otp.rpmbKey a = .rejected → r.live = true → r.what.owned = false →
        Answers (.rpmbResult q a) s ((s.blk.begin.setRelays rest).relayFailed .notReady r.what)) ∧
      (r.answer s.blk.store s.blk.otp.rpmbKey a = .rejected → r.live = true → r.what.owned = true →
        Answers (.rpmbResult q a) s ((s.blk.begin.setRelays rest).resend r.what)) ∧
      (framesOk s.blk.otp.rpmbKey a.frames = false → r.answer s.blk.store s.blk.otp.rpmbKey a = .stray)) ∧
  (∀ (s : State) (q : BitVec 8) (a : RpmbAnswer), PortOpen .mgmt s → takeRelay q s.blk.seq.relays = none →
    Answers (.rpmbResult q a) s
      { s.blk with out := [], seq := { s.blk.seq with relayStrays := s.blk.seq.relayStrays + 1 } }) ∧
  (∀ (s : State) (q : BitVec 8) (r : Relay) (rest : List Relay), takeRelay q s.blk.seq.relays = some (r, rest) → r.live = true →
    (r.what.owned = true →
      Answers (.rpmbRelayTimeout q) s (((s.blk.begin.raisePf 0x35 0x74 [(0, 2)]).setRelays rest).resend r.what)) ∧
    (r.what.owned = false →
      Answers (.rpmbRelayTimeout q) s
        ((s.blk.begin.raisePf 0x35 0x74 [(0, 2)]).abandonRelay .timeout q r.what)) ∧
    ∃ t, exec (.rpmbRelayTimeout q) s = .next t ∧ t.mem = s.mem ∧ t.blk.store = s.blk.store ∧
      t.blk.obs.events.getD 0x35 0 = satAdd64 (s.blk.obs.events.getD 0x35 0) 1)

/-! ## Power and kindling -/

/-- `por_n` falls, or `pwr_good` falls outside a shut-down: everything volatile is lost, every shell but that of `mgmt_*` is
reset, `block_safe` is high, OTP, the replay-protected store and memory stay, and an assertion of `por_n` takes `alarm_fatal`
away. A root that step 2 was programming is not valid afterwards. -/
def Parts.PowerLossKeepsOnlyWhatLasts : Prop :=
  ∀ (s : State),
    (∃ t, exec .porAssert s = .next t ∧ t.mem = s.mem ∧ (s.blk.rootDue = false → t.blk.otp = s.blk.otp) ∧
      (s.blk.rootDue = true → t.blk.otp.root = none) ∧ (∀ c ∈ t.blk.held, c.shell = .mgmt) ∧
      t.blk.seq.writes = [] ∧ t.blk.seq.reads = [] ∧ t.blk.store = s.blk.store ∧
      t.blk.build = s.blk.build ∧ t.blk.keys = {} ∧ t.blk.ctxs = [] ∧ t.blk.regions = {} ∧ t.blk.mces = [] ∧ t.blk.lpes = [] ∧
      t.blk.jobs = [] ∧ t.blk.programs = [] ∧ t.blk.seq.cmds = [] ∧ t.blk.time = {} ∧ t.blk.boot = {} ∧
      t.blk.pins.porN = false ∧ t.blk.pins.blockSafe = true ∧ t.blk.pins.alarmFatal = false ∧
      t.blk.pins.pwrGood = s.blk.pins.pwrGood) ∧
    (∃ t, exec .pwrGoodFall s = .next t ∧ t.mem = s.mem ∧ (s.blk.rootDue = false → t.blk.otp = s.blk.otp) ∧
      (s.blk.rootDue = true → t.blk.otp.root = none) ∧ (∀ c ∈ t.blk.held, c.shell = .mgmt) ∧
      t.blk.seq.writes = [] ∧ t.blk.seq.reads = [] ∧ t.blk.store = s.blk.store ∧
      t.blk.pins.alarmFatal = s.blk.pins.alarmFatal ∧
      t.blk.build = s.blk.build ∧ t.blk.keys = {} ∧ t.blk.ctxs = [] ∧ t.blk.regions = {} ∧ t.blk.mces = [] ∧ t.blk.lpes = [] ∧
      t.blk.jobs = [] ∧ t.blk.programs = [] ∧ t.blk.seq.cmds = [] ∧ t.blk.time = {} ∧ t.blk.boot = {} ∧
      t.blk.pins.pwrGood = false ∧ t.blk.pins.blockSafe = true ∧ t.blk.pins.porN = s.blk.pins.porN)

/-- A warning shuts the block down: keys, contexts, regions and every engine's state are gone, the records of the
shut-down wait in the `mgmt_*` shell with CLEAN last, `block_safe` is high; with the supply back a cold kindling begins
and `block_safe` falls. A warning while the block is safe changes nothing. -/
def Parts.WarningShutsTheBlockDown : Prop :=
  ∀ (s : State), s.blk.pins.blockSafe = false →
    (∃ t, exec (.pwrFailWarn false) s = .next t ∧ t.mem = s.mem ∧ (s.blk.rootDue = false → t.blk.otp = s.blk.otp) ∧ t.blk.store = s.blk.store ∧
      t.blk.keys = {} ∧ t.blk.ctxs = [] ∧ t.blk.regions = {} ∧ t.blk.mces = [] ∧ t.blk.lpes = [] ∧ t.blk.seq.cmds = [] ∧
      t.blk.boot = {} ∧ t.blk.pins.blockSafe = true ∧ t.blk.pins.warn = true ∧
      (∀ r ∈ t.blk.seq.relays, r.live = false) ∧
      (s.blk.boot.storeOk = true → ∃ r, t.blk.seq.relays.getLast? = some r ∧
        r.what = .boot { running := false, meterEpoch := s.blk.boot.meterEpoch, tick := s.blk.tick })) ∧
    (∃ t, exec (.pwrFailWarn true) s = .next t ∧ t.mem = s.mem ∧ (s.blk.rootDue = false → t.blk.otp = s.blk.otp) ∧ t.blk.store = s.blk.store ∧
      t.blk.keys = {} ∧ t.blk.ctxs = [] ∧ t.blk.boot = { running := true } ∧ t.blk.pins.blockSafe = false ∧ t.blk.time = {} ∧
      t.blk.seq.cmds = []) ∧
    (∀ (u : State) (back : Bool), u.blk.pins.blockSafe = true → Answers (.pwrFailWarn back) u u.blk.begin)

/-- Kindling starts when both pins are high: every register is at its reset value, no step has completed, `block_safe` is
low, and `alarm_fatal` stands as it stood. -/
def Parts.KindlingStartsCold : Prop :=
  ∀ (s : State), ¬ (s.blk.pins.porN = true ∧ s.blk.pins.pwrGood = true ∧ s.blk.pins.warn = false) →
    ∃ t, exec .kindling s = .next t ∧ t.mem = s.mem ∧ t.blk.otp = s.blk.otp ∧ t.blk.store = s.blk.store ∧
      t.blk.build = s.blk.build ∧ t.blk.keys = {} ∧ t.blk.ctxs = [] ∧ t.blk.regions = {} ∧ t.blk.obs = {} ∧ t.blk.time = {} ∧
      t.blk.boot = { running := true } ∧ t.blk.fns = [(0, FnPage.pfReset)] ∧
      t.blk.pins.porN = true ∧ t.blk.pins.pwrGood = true ∧ t.blk.pins.warn = false ∧ t.blk.pins.blockSafe = false ∧
      t.blk.pins.alarmFatal = s.blk.pins.alarmFatal

/-- The steps of kindling that pass, in order: step 1 decodes the life cycle and makes the tick valid; step 2 draws the
keys; outside Test and Production step 7 follows step 2; the others run steps 3 to 7, and step 7 sets READY. -/
def Parts.KindlingStepsComplete : Prop :=
  ∀ (s : State) (r : StepReport), s.blk.boot.running = true → s.blk.pins.blockSafe = false → r.pass = true →
    (s.blk.boot.step = 0 → ∃ t, exec (.kindlingStepDone r) s = .next t ∧ t.mem = s.mem ∧ t.blk.boot.step = 1 ∧
      t.blk.boot.lc = s.blk.otp.lifeCycle ∧ t.blk.time.valid = true ∧ t.blk.time.tick = 0 ∧ t.blk.otp = s.blk.otp) ∧
    (s.blk.boot.step = 1 → ∃ t, exec (.kindlingStepDone r) s = .next t ∧ t.mem = s.mem ∧ t.blk.boot.step = 2 ∧
      t.blk.boot.entropyFails = 0 ∧ t.blk.boot.lc = s.blk.boot.lc ∧
      (s.blk.otp.root.isSome = true → t.blk.otp = s.blk.otp)) ∧
    (s.blk.boot.step = 2 → s.blk.boot.lc.serves = false →
      ∃ t, exec (.kindlingStepDone r) s = .next t ∧ t.mem = s.mem ∧ t.blk.boot.step = 7 ∧ t.blk.boot.ready = true ∧
        t.blk.boot.running = false) ∧
    (s.blk.boot.step = 2 → s.blk.boot.lc.serves = true →
      Answers (.kindlingStepDone r) s ((s.blk.begin.openStore r.store).stepped
        (if (s.blk.begin.openStore r.store).boot.storeOk then 3 else 4))) ∧
    (s.blk.boot.step = 3 → Answers (.kindlingStepDone r) s ((s.blk.begin.startupCert r.startupCert).stepped 4)) ∧
    (s.blk.boot.step = 4 → s.blk.boot.storeOk = false →
      ∃ t, exec (.kindlingStepDone r) s = .next t ∧ t.mem = s.mem ∧ t.blk.boot.step = 5 ∧ t.blk.boot.recovery = true) ∧
    (s.blk.boot.step = 4 → s.blk.boot.storeOk = true →
      ∃ t, exec (.kindlingStepDone r) s = .next t ∧ t.mem = s.mem ∧ t.blk.boot.step = 5) ∧
    (s.blk.boot.step = 5 → Answers (.kindlingStepDone r) s (s.blk.begin.bringUpLinks r.certs r.rootsOk)) ∧
    (s.blk.boot.step = 6 → ∃ t, exec (.kindlingStepDone r) s = .next t ∧ t.mem = s.mem ∧ t.blk.boot.step = 7 ∧
      t.blk.boot.ready = true ∧ t.blk.boot.running = false)

/-- A step that fails stops kindling at that step and sets FAILED, with STEP as it was; READY stays clear, and no credit
is granted. -/
def Parts.FailedKindlingStepStops : Prop :=
  ∀ (s : State) (r : StepReport), s.blk.boot.running = true → s.blk.pins.blockSafe = false → r.pass = false →
    (s.blk.boot.step = 0 ∨ (2 ≤ s.blk.boot.step ∧ s.blk.boot.step ≤ 6)) →
    ∃ t, exec (.kindlingStepDone r) s = .next t ∧ t.mem = s.mem ∧ t.blk.boot.failed = true ∧ t.blk.boot.running = false ∧
      t.blk.boot.step = s.blk.boot.step ∧ t.blk.boot.ready = s.blk.boot.ready ∧ t.blk.mces = s.blk.mces ∧
      t.blk.lpes = s.blk.lpes ∧ t.blk.out = []

/-- The last rung: when `alarm_fatal` has stood 10 ms the block sends POWER_CYCLE and goes on sending it until it is
acknowledged. -/
def Parts.PowerCycleRequests : Prop :=
  ∀ (s : State),
    (s.blk.pins.alarmFatal = true → s.blk.boot.powerCycling = false →
      Answers .alarmFatalTimeout s (({ s.blk.begin with boot := { s.blk.boot with powerCycling := true } } : Block).message 0x10 [])) ∧
    (s.blk.boot.powerCycling = true → Answers .powerCycleRetry s (s.blk.begin.message 0x10 [])) ∧
    (∀ b : Block, b.stopped.contains .mgmt = false →
      (b.message 0x10 []).out = b.out ++ [.relay ([0x7F] ++ toLe 4 b.otp.pen.toNat ++ [0x10, b.seq.nextRelay] ++ [0, 0])]) ∧
    (s.blk.stopped.contains .mgmt = false →
      Answers .powerCycleAck s { s.blk with out := [], boot := { s.blk.boot with powerCycling := false } }) ∧
    (s.blk.boot.powerCycling = false → Answers .powerCycleRetry s s.blk.begin)

/-! ## Keys -/

/-- A volatile key has come to be in slot n: its fields, its material under the slot's encryption, and the frame: every
other slot, regions, contexts, jobs, the store and memory stay, and the command has completed. -/
def KeyMade (s t : State) (id n : Nat) (k : NewKey) : Prop :=
  t.mem = s.mem ∧ t.blk.cmd? id = none ∧ (t.blk.slot n).mask = k.mask ∧ (t.blk.slot n).attr = k.attr false ∧
  (t.blk.slot n).ownerFn = BitVec.ofNat 8 k.fn ∧ (t.blk.slot n).ownerCtx = BitVec.ofNat 16 k.ctx ∧
  (t.blk.slot n).parentSlot = BitVec.ofNat 16 k.parent ∧ (t.blk.slot n).parentGen = (s.blk.slot k.parent).gen ∧
  (t.blk.slot n).gen = (s.blk.slot n).gen ∧ (t.blk.slot n).created = s.blk.tick ∧ (t.blk.slot n).usable = true ∧
  t.blk.slotOk n = true ∧
  t.blk.material64 n = BitVec.ofNat 512 (le k.mat) ∧ (∀ m, m ≠ n → t.blk.slot m = s.blk.slot m) ∧
  t.blk.regions = s.blk.regions ∧ t.blk.ctxs = s.blk.ctxs ∧ t.blk.jobs = s.blk.jobs ∧ t.blk.store = s.blk.store

/-- KEY_GENERATE, KEY_DERIVE and KEY_IMPORT of a volatile key whose checks pass put it into the slot that has been free
longest, owned by the caller, under its parent's generation. -/
def Obligations.KeysAreMade : Prop :=
  ∀ (s : State) (id n : Nat) (c : Cmd) (b : Block), c.persistent = false → s.blk.takeSlot c.fn = some (n, b) →
    (CmdReady s id 0x0101 c → s.blk.generateCheck c = .ok →
      ∃ t, exec (.keyGenerate id) s = .next t ∧ KeyMade s t id n
        { mat := s.blk.drawMaterial (dfld c.desc 19 1), mask := c.mask, usage := c.usage, level := dfld c.desc 18 1
          typ := dfld c.desc 19 1, exportable := c.exportable, fnWide := c.fnWide, fn := c.fn, ctx := c.ctx
          parent := dfld c.desc 16 2 }) ∧
    (∀ d, CmdReady s id 0x0102 c → c.derivation = some d → d.level ≠ 2 → s.blk.deriveCheck c d = .ok →
      ∃ t, exec (.keyDerive id) s = .next t ∧ KeyMade s t id n
        { mat := derive (s.blk.deriveKey (dfld c.desc 16 2)) d.name d.x d.bits, mask := c.mask, usage := c.usage
          level := d.level, typ := if d.bits = 512 then 2 else 1, fnWide := c.fnWide, fn := c.fn, ctx := c.ctx
          parent := dfld c.desc 16 2 }) ∧
    (∀ mat, CmdReady s id 0x0103 c → dfld c.desc 18 1 < 2 → s.blk.importCheck c = .ok → s.blk.imported c = .ok mat →
      ∃ t, exec (.keyImport id) s = .next t ∧ KeyMade s t id n
        { mat := mat, mask := c.mask, usage := c.usage, level := dfld c.desc 28 1, typ := dfld c.desc 19 1
          exportable := c.exportable, fnWide := c.fnWide, fn := c.fn, ctx := c.ctx, parent := dfld c.desc 16 2 })

/-- KEY_EXPORT, KEY_QUERY and KEY_PUSH: the wrapped key or the slot's record goes to the host buffer, and a key goes to
its destination. Every push records the destination slot's entry in the export table, of 4 destinations of 256 slots each, with
the pushed slot's generation chain, the tick and, for a content key, its licence's record and lease, in place of an entry that was there; no slot
of the key store changes. -/
def Obligations.KeysAreShown : Prop :=
  ∀ (s : State) (id : Nat) (c : Cmd),
    (CmdReady s id 0x0104 c → s.blk.exportCheck c = .ok → s.blk.wrapCheck c = .ok →
      Answers (.keyExport id) s
        (s.blk.begin.output id (dfld c.desc 24 8)
          (kwpWrap (le (s.blk.material (dfld c.desc 18 2))) (s.blk.material (dfld c.desc 16 2))) .ok
          (kwpWrap (le (s.blk.material (dfld c.desc 18 2))) (s.blk.material (dfld c.desc 16 2))).length 0)) ∧
    (CmdReady s id 0x0106 c → dfld c.desc 16 2 < 2 ^ 14 → s.blk.mayName c (dfld c.desc 16 2) false = true →
      ((s.blk.slot (dfld c.desc 16 2)).persistent = true →
        (s.blk.slot (dfld c.desc 16 2)).persistIdx.toNat ∉ s.blk.keys.dirDoubt) →
      Answers (.keyQuery id) s (s.blk.begin.output id (dfld c.desc 24 8) (s.blk.queryBytes (dfld c.desc 16 2)) .ok 0 0)) ∧
    (CmdReady s id 0x0107 c → s.blk.pushCheck c = .ok → s.blk.installOf (dfld c.desc 16 2) = none →
      ∃ t, exec (.keyPush id) s = .next t ∧ t.mem = s.mem ∧ t.blk.keys.slots = s.blk.keys.slots ∧
        t.blk.keys.exports.get? (256 * dfld c.desc 18 1 + dfld c.desc 19 1) =
          some { chain := (s.blk.chain (dfld c.desc 16 2)).getD [], lease := none, loaded := s.blk.tick, leaseMs := 0 } ∧
        (∃ o, t.blk.keys.kxp = s.blk.keys.kxp ++ [o] ∧ o.dest = dfld c.desc 18 1 ∧ o.slot = dfld c.desc 19 1 ∧ o.op = 0 ∧
          o.cmd = some id ∧ o.shareA ^^^ o.shareB = BitVec.ofNat 256 (le (s.blk.material (dfld c.desc 16 2)))) ∧
        dfld c.desc 18 1 < 4 ∧ dfld c.desc 19 1 < 256 ∧
        (∀ k, k ≠ 256 * dfld c.desc 18 1 + dfld c.desc 19 1 → t.blk.keys.exports.get? k = s.blk.keys.exports.get? k)) ∧
    (∀ k i, CmdReady s id 0x0107 c → s.blk.pushCheck c = .ok → s.blk.installOf (dfld c.desc 16 2) = some (k, i) →
      (s.blk.meters.getD k {}).life.pushes < i.allowPushes → s.blk.canConsume k { pushes := 1 } = true →
      ∃ t, exec (.keyPush id) s = .next t ∧ t.mem = s.mem ∧ t.blk.keys.slots = s.blk.keys.slots ∧
        t.blk.keys.exports.get? (256 * dfld c.desc 18 1 + dfld c.desc 19 1) =
          some { chain := (s.blk.chain (dfld c.desc 16 2)).getD [], lease := some k, loaded := s.blk.tick
                 leaseMs := (s.blk.meterRecord k).leaseMs.toNat } ∧
        (∀ m, m ≠ 256 * dfld c.desc 18 1 + dfld c.desc 19 1 → t.blk.keys.exports.get? m = s.blk.keys.exports.get? m))

/-- A slot has been emptied: its generation has risen, its material is gone, and every other slot stays. -/
def SlotEmptied (s t : State) (n : Nat) : Prop :=
  t.blk.slot n = { gen := (s.blk.slot n).gen + 1 } ∧ (∀ m, m ≠ n → t.blk.slot m = s.blk.slot m) ∧ t.mem = s.mem ∧
  t.blk.ctxs = s.blk.ctxs ∧ t.blk.jobs = s.blk.jobs ∧ t.blk.store = s.blk.store

/-- KEY_INVALIDATE without DELETE empties the slot at once and waits for every engine with a key cache and every
destination that holds a key under it; the sweep empties a slot whose ancestry is gone; a lease whose LEASE_MS have passed
since the load drops the key at its destination and its entry, and one whose have not is left alone. -/
def Obligations.KeysEnd : Prop :=
  (∀ (s : State) (id : Nat) (c : Cmd), CmdReady s id 0x0105 c → dfld c.desc 16 2 < 2 ^ 14 →
    s.blk.mayName c (dfld c.desc 16 2) true = true → s.blk.deleting (dfld c.desc 16 2) = false → dfld c.desc 18 1 = 0 →
    ∃ t, exec (.keyInvalidate id) s = .next t ∧ SlotEmptied s t (dfld c.desc 16 2) ∧
      ∃ i, t.blk.keys.invals = s.blk.keys.invals ++ [i] ∧ i.slot = dfld c.desc 16 2 ∧ i.cmd = some id ∧
        i.engines = s.blk.build.cacheEngines) ∧
  (∀ (s : State) (n : Nat), n < 2 ^ 14 → s.blk.pins.blockSafe = false → (s.blk.slot n).isEmpty = false →
    (s.blk.slot n).usable = true → s.blk.chain n = none →
    ∃ t, exec (.keySweep n) s = .next t ∧ SlotEmptied s t n ∧ t.blk.out = [] ∧ t.blk.obs = s.blk.obs) ∧
  (∀ (s : State) (d n : Nat) (e : ExportEntry), s.blk.keys.exports.get? (256 * d + n) = some e →
    (e.lapsed s.blk.tick.toNat = true ↔ e.lease.isSome = true ∧ e.loaded.toNat + e.leaseMs * 1000000 ≤ s.blk.tick.toNat) ∧
    (e.lapsed s.blk.tick.toNat = false → Answers (.leaseExpiry d n) s s.blk.begin) ∧
    (e.lapsed s.blk.tick.toNat = true → ∃ t, exec (.leaseExpiry d n) s = .next t ∧ t.mem = s.mem ∧ t.blk.keys.slots = s.blk.keys.slots ∧
      t.blk.keys.exports.get? (256 * d + n) = none ∧
      t.blk.keys.kxp = s.blk.keys.kxp ++ [{ id := s.blk.keys.nextKxp, chain := e.chain, dest := d, op := 1, slot := n,
                                              shareA := 0, shareB := 0, cmd := none }]))

/-- The answers to orders: an engine drops what its oldest drop order names and owes the acknowledgement; the
acknowledgement is counted off the invalidations that wait for it; a fill that is not out of date is installed; `kxp_done`
ends the oldest order of its destination. -/
def Obligations.KeyOrdersAreAnswered : Prop :=
  (∀ (s : State) (e : Nat) (o : DropOrder) (r : List DropOrder), s.blk.build.engineBuilt e = true →
    (s.blk.cache e).orders = o :: r → s.blk.boot.seqReset = false → s.blk.cipherHolds e o.slot o.gen = false →
    ∃ t, exec (.dropOrder e) s = .next t ∧ t.mem = s.mem ∧ (t.blk.cache e).orders = r ∧ (t.blk.cache e).lastDrop = o.seq ∧
      (t.blk.cache e).acks = (s.blk.cache e).acks ++ [o.seq] ∧
      (∀ k ∈ (t.blk.cache e).keys, Chain.holds k.chain o.slot o.gen = false) ∧ t.blk.keys = s.blk.keys) ∧
  (∀ (s : State) (e n : Nat) (r : List Nat), s.blk.build.engineBuilt e = true → (s.blk.cache e).acks = n :: r →
    s.blk.boot.seqReset = false →
    Answers (.dropAck e) s
      ((({ s.blk.begin.modCache e (fun c => { c with acks := r }) with
        keys := { s.blk.keys with invals := s.blk.keys.invals.map (Inval.acked n e) } } : Block)).settleInvals)) ∧
  (∀ (s : State) (e n : Nat) (f : Fill) (r : List Fill), s.blk.build.engineBuilt e = true →
    takeFill n (s.blk.cache e).fills = some (f, r) →
    ∀ sibs, AnswersWork (.keyFillArrival e n sibs) s
      ((((s.work.on fun b => b.modCache e fun c =>
        if f.seq < c.lastDrop then { c with fills := r }
        else ({ c with fills := r } : KeyCache).install f.key (b.build.cacheDepth e)).on fun b =>
          b.retryFills e ((b.mce e).reqs.filter fun q => q.stage = .fill)).pump e sibs).retryRx)) ∧
  (∀ (s : State) (d : Nat) (o : KxpOrder) (r : List KxpOrder), PortOpen .kxp s → takeOrder d s.blk.keys.kxp = some (o, r) →
    ∃ b : Block, b = { s.blk.begin with keys := { s.blk.keys with
        kxp := r, invals := s.blk.keys.invals.map (Inval.unexported o.id) } } ∧
      (o.cmd = none → Answers (.kxpDone d) s (b.kxpNext d).settleInvals) ∧
      (∀ id, o.cmd = some id → Answers (.kxpDone d) s ((b.kxpNext d).succeed id 0 0).settleInvals))

/-! ## Regions -/

/-- REGION_BIND that passes its checks sets the entry of the region, owned by the caller and still binding, sets the
companion where the mode needs one, and starts the line writes; REGION_QUERY shows the entry; REGION_UNBIND clears it
and waits for every memory channel engine; REGION_REKEY starts the two progress pointers. -/
def Obligations.RegionCommands : Prop :=
  ∀ (s : State) (id : Nat) (c : Cmd),
    (∀ (t : Tier) (m : Mode), CmdReady s id 0x0201 c → s.blk.build.regionTier c.region = some t →
      s.blk.build.bindMode t (dfld c.desc 18 1) = some m → s.blk.bindPlaceOk c c.region t m = true →
      (c.keyset.map fun h => h.toNat).headD 0 ≠ 0 →
      (∀ h ∈ c.keyset, s.blk.bindKeyCheck t c.fn c.ctx h.toNat = .ok) →
      ((m = .replay ∧ t.one = false) → s.blk.replayRegions < 32 ∧ s.blk.boot.entropyDown = false) →
      ∃ u, exec (.regionBind id) s = .next u ∧ u.mem = s.mem ∧
        u.blk.region c.region =
          { mode := m, ownerFn := BitVec.ofNat 8 c.fn, ownerCtx := BitVec.ofNat 16 c.ctx
            threshold := BitVec.ofNat 8 (dfld c.desc 19 1), ctxwide := (dfld c.desc 20 1).testBit 0, keyset := c.keyset
            binding := true } ∧
        (needsCompanion t m = true → (u.blk.region (c.region ^^^ 1)).mode = .companion) ∧
        (∀ r, r ≠ c.region → r ≠ c.region ^^^ 1 → u.blk.region r = s.blk.region r) ∧
        (u.blk.regions.binds.get? c.region).isSome = true ∧ u.blk.keys = s.blk.keys ∧ u.blk.ctxs = s.blk.ctxs) ∧
    (CmdReady s id 0x0202 c → s.blk.mayNameRegion c = true → (s.blk.region c.region).mode ≠ .companion →
      Answers (.regionUnbind id) s ((s.blk.begin.wait id).unbind c.region (some id))) ∧
    (CmdReady s id 0x0204 c → s.blk.mayNameRegion c = true →
      Answers (.regionQuery id) s (s.blk.begin.output id (dfld c.desc 24 8) (s.blk.region c.region).bytes .ok 0 0)) ∧
    (∀ t, CmdReady s id 0x0203 c → s.blk.rekeyCheck c = .ok → s.blk.build.regionTier c.region = some t →
      ∃ u, exec (.regionRekey id) s = .next u ∧ u.mem = s.mem ∧ (u.blk.region c.region).rekeying = true ∧
        (u.blk.region c.region).redirect = false ∧ (u.blk.region c.region).old = BitVec.ofNat 3 (dfld c.desc 18 1) ∧
        (u.blk.region c.region).new = BitVec.ofNat 3 (dfld c.desc 19 1) ∧
        (∀ r, r ≠ c.region → u.blk.region r = s.blk.region r) ∧
        u.blk.regions.rekeys.get? c.region =
          some { cmd := some id, next := t.engines.map fun e => (e, t.lineLo c.region (e - t.first)) } ∧
        u.blk.keys = s.blk.keys ∧ u.blk.ctxs = s.blk.ctxs)

/-- The background passes: one line of a bind, one line of a rekey, the drop of a region entry, and the end of a
counter-cache way group's change, when nothing holds them back. -/
def Parts.RegionPasses : Prop :=
  (∀ (s : State) (r e n : Nat) (j : BindJob) (feed : List LineReturn), PortOpen (.mctl e) s →
    s.blk.regions.binds.get? r = some j → j.next.get? e = some n →
    n < (s.blk.build.tierOfMce e).lineHi r (e - (s.blk.build.tierOfMce e).first) →
    s.blk.passFree r e [(s.blk.build.tierOfMce e).lineAddr n (e - (s.blk.build.tierOfMce e).first)] = true →
    AnswersWork (.bindLineWrite r e feed) s (s.work.bindSlot r e n j feed)) ∧
  (∀ (s : State) (r e n : Nat) (j : RekeyJob) (x : LineReturn) (feed : List LineReturn), PortOpen (.mctl e) s →
    s.blk.regions.rekeys.get? r = some j → j.stopped = false → j.next.get? e = some n →
    (s.blk.region r).mode ≠ .replay →
    n < (s.blk.build.tierOfMce e).lineHi r (e - (s.blk.build.tierOfMce e).first) →
    s.blk.passFree r e [(s.blk.build.tierOfMce e).lineAddr n (e - (s.blk.build.tierOfMce e).first)] = true →
    AnswersWork (.rekeyLine r e x feed) s (s.work.rekeySlot r e n x feed)) ∧
  (∀ (s : State) (r e n : Nat) (j : RekeyJob) (x : LineReturn) (feed : List LineReturn), PortOpen (.mctl e) s →
    s.blk.regions.rekeys.get? r = some j → j.stopped = false → j.next.get? e = some n →
    (s.blk.region r).mode = .replay →
    n < (s.blk.build.tierOfMce e).lineHi r (e - (s.blk.build.tierOfMce e).first) →
    s.blk.passFree r e (((s.blk.build.tierOfMce e).leafLines r e n).map fun k =>
      (s.blk.build.tierOfMce e).lineAddr k (e - (s.blk.build.tierOfMce e).first)) = true →
    AnswersWork (.rekeyLine r e x feed) s (s.work.rekeySlot r e n x feed)) ∧
  (∀ (s : State) (e r : Nat) (rest : List Nat), s.blk.build.shellBuilt (.mreq e) = true → s.blk.boot.seqReset = false →
    (s.blk.mce e).regionDrops = r :: rest →
    ∃ t, exec (.regionCacheDropAck e) s = .next t ∧ t.mem = s.mem ∧ (t.blk.mce e).regionDrops = rest ∧
      (∀ x ∈ (t.blk.mce e).regions, x.1 ≠ r) ∧ t.blk.regions.table = s.blk.regions.table ∧ t.blk.keys = s.blk.keys) ∧
  (∀ (s : State) (g : BitVec 3) (y : WayGroup) (fn : BitVec 8) (a sh : Bool) (feeds : List (List LineReturn)),
    s.blk.boot.seqReset = false → s.blk.ways.get? g.toNat = some y → y.busy = true → y.next = some (fn, a, sh) →
    ∃ t, exec (.ccWayApplied g feeds) s = .next t ∧
      t.blk.ways.get? g.toNat = some { fn := fn, assigned := a, shared := sh })

/-- A traffic generator's run of an allowed form: it starts, binding an unbound target with GENERATOR set to the mode asked
for and drawing its key; each request of a run on an unbound target goes through the sealing path, is counted and leaves
protected memory; a run on a bound target uses its KEYSET entry 0, and a lookup that refuses it ends the run; and after
the last request the target is unbound again, the result block is written and the command completes with its counts. -/
def Parts.TrafficGeneratorRuns : Prop :=
  ∀ (s : State) (id : Nat) (c : Cmd) (o : GenOutcome), CmdReady s id 0x0E01 c →
    (∀ t m own, s.blk.regions.gens.get? id = none → s.blk.boot.lc ≠ .endOfLife → s.blk.boot.lc ≠ .invalid →
      c.genShape = true → s.blk.genTarget c = some (t, m, own) → s.blk.boot.entropyDown = false →
      ∃ u, exec (.trafficGen id o) s = .next u ∧ u.mem = s.mem ∧
        u.blk.regions.gens.get? id =
          some { mce := dfld c.desc 16 1, region := dfld c.desc 18 2, mode := m, own := own, key := s.blk.random 512 } ∧
        (own = false → (u.blk.region (dfld c.desc 18 2)).mode = m ∧ (u.blk.region (dfld c.desc 18 2)).generator = true) ∧
        u.blk.keys = s.blk.keys) ∧
    (∀ g, s.blk.regions.gens.get? id = some g → g.done ≠ c.genCount → Tab.has s.blk.resets g.mce = false →
      (∀ l ∈ genLines (s.blk.genPlan c g).addr c.genLen [], s.blk.mustWait l.1 = false) →
      (g.own = false →
        ∃ u, exec (.trafficGen id o) s = .next u ∧ u.mem = s.mem ∧
          ∃ g', u.blk.regions.gens.get? id = some g' ∧ g'.done = g.done + 1 ∧
            g'.writes = g.writes + bit !(s.blk.genPlan c g).reads) ∧
      (g.own = true → (s.blk.region g.region).bound = true → (s.blk.region g.region).mode = g.mode →
        ∀ r b, s.blk.begin.useKey g.mce ((s.blk.region g.region).key 0) (s.blk.region g.region).ownerFn.toNat
            (s.blk.region g.region).ownerCtx.toNat (if (s.blk.genPlan c g).reads then useD else useE) = (r, b) →
          (∀ k, r = .ok k →
            AnswersWork (.trafficGen id o) s
              (({ s.waitWork with blk := b } : Work).genRequest id c g o (s.blk.genPlan c g) k.key)) ∧
          (∀ st, r = .error st → Answers (.trafficGen id o) s ((b.genEnd id g).fail id st)))) ∧
    (∀ g, s.blk.regions.gens.get? id = some g → g.done = c.genCount →
      Answers (.trafficGen id o) s
        ((s.blk.begin.genEnd id g).output id (dfld c.desc 48 8) (c.genBlock g) .ok g.done g.mismatches) ∧
      (g.own = false → ((s.blk.begin.genEnd id g).region g.region) = {}))

/-! ## The memory ports -/

/-- A request that arrives at a memory port with credit, of an allowed form and rightly routed, enters the ingress queue
with its credits taken, and the engine does all that it can. -/
def Obligations.MemoryRequestsEnter : Prop :=
  ∀ (s : State) (r : MemReq) (data : Beat) (sibs : List LineReturn), PortOpen (.mreq r.mce) s → s.blk.pins.blockSafe = false →
    (s.blk.mce r.mce).halted = false → r.formOk = true → Tab.has s.blk.resets r.mce = false →
    ((s.blk.build.tierOf (r.addr.toNat * 32)).any fun t => t.mce (r.addr.toNat * 32) = r.mce) = true →
    0 < (s.blk.mce r.mce).aCrd →
    AnswersWork (.mreqRead r) s
      ((s.work.on fun b => b.modMce r.mce fun m =>
        { m with
          aCrd := m.aCrd - 1
          reqs := m.reqs ++ [{ id := m.nextReq, req := { r with op := 0 }, data := 0, stage := .ingress }]
          nextReq := m.nextReq + 1 }).pump r.mce []).retryRx ∧
    (0 < (s.blk.mce r.mce).wCrd →
      AnswersWork (.mreqWrite r data sibs) s
        ((s.work.on fun b => b.modMce r.mce fun m =>
          { m with
            aCrd := m.aCrd - 1, wCrd := m.wCrd - 1
            reqs := m.reqs ++ [{ id := m.nextReq, req := { r with op := 1 }, data := data, stage := .ingress }]
            nextReq := m.nextReq + 1 }).pump r.mce sibs).retryRx)

/-- A beat without a credit, at a memory port or a fabric port, raises `alarm_fatal` and stops the engine's ingress;
memory stays. -/
def Obligations.CreditViolationsStopThePort : Prop :=
  (∀ (s : State) (r : MemReq) (data : Beat) (sibs : List LineReturn), PortOpen (.mreq r.mce) s → s.blk.pins.blockSafe = false →
    (s.blk.mce r.mce).halted = false →
    ((s.blk.mce r.mce).aCrd = 0 → ∃ t, exec (.mreqRead r) s = .next t ∧ t.mem = s.mem ∧ t.blk.pins.alarmFatal = true ∧
      t.blk.pins.blockSafe = true ∧ (t.blk.mce r.mce).halted = true) ∧
    (((s.blk.mce r.mce).aCrd = 0 ∨ (s.blk.mce r.mce).wCrd = 0) → ∃ t, exec (.mreqWrite r data sibs) s = .next t ∧
      t.mem = s.mem ∧ t.blk.pins.alarmFatal = true ∧ t.blk.pins.blockSafe = true ∧ (t.blk.mce r.mce).halted = true)) ∧
  (∀ (s : State) (r : LinkReq) (acc : Access), PortOpen (.lreq r.lpe) s → s.blk.pins.blockSafe = false →
    (s.blk.lpe r.lpe).halted = false → (s.blk.lpe r.lpe).aCrd = 0 →
    ∃ t, exec (.lreqLoad r acc) s = .next t ∧ t.mem = s.mem ∧ t.blk.pins.alarmFatal = true ∧
      (t.blk.lpe r.lpe).halted = true)

/-- A read's return: it joins the parts of its request, or, when its tag is in quarantine, it is thrown away and counted,
or, for a tag that names no read, it changes nothing. -/
def Parts.ReadReturns : Prop :=
  (∀ (s : State) (e : Nat) (tag : BitVec 12) (err : Bool) (x : Beat) (sibs : List LineReturn), PortOpen (.mctl e) s →
    (∀ r id, (s.blk.mce e).reads.get? tag.toNat = some r → r.req = some id →
      AnswersWork (.mctlReadReturn e tag err x sibs) s
        ((s.work.on fun b => (b.modMce e fun m => { m with reads := Tab.del m.reads tag.toNat }).readBack e id r err x).pump e
          sibs).retryRx) ∧
    ((s.blk.mce e).reads.get? tag.toNat = none → List.contains (s.blk.mce e).quarantine tag.toNat = true →
      ∃ t, exec (.mctlReadReturn e tag err x sibs) s = .next t ∧ t.mem = s.mem ∧ t.blk.out = [] ∧
        (t.blk.mce e).discarded = (s.blk.mce e).discarded + 1 ∧ tag.toNat ∉ (t.blk.mce e).quarantine ∧
        (t.blk.mce e).reqs = (s.blk.mce e).reqs) ∧
    ((s.blk.mce e).reads.get? tag.toNat = none → List.contains (s.blk.mce e).quarantine tag.toNat = false →
      Answers (.mctlReadReturn e tag err x sibs) s s.blk.begin))

/-- The controller's credits let held accesses go, and its occupancy reports are kept; then the engine goes on. -/
def Parts.ControllerSignals : Prop :=
  ∀ (s : State) (e : Nat), PortOpen (.mctl e) s →
    (∀ w, AnswersWork (.controllerCredit e w) s
      (((s.work.on fun b => b.modMce e fun m =>
          if w then { m with ctlW := m.ctlW + 1 } else { m with ctlA := m.ctlA + 1 }).on fun b =>
            b.drainHeld e (b.mce e).held.length).pump e []).retryRx) ∧
    (∀ occ, AnswersWork (.mctlQoccUpdate e occ) s ((s.work.on fun b => b.modMce e fun m => { m with qocc := occ }).pump e []).retryRx)

/-- A tier-1 deadline: the read's tag is quarantined and no longer outstanding, whether its request lives or not; the request
ends with TIMEOUT when its first line needed the read, and the timeout is counted. -/
def Parts.TierOneTimeouts : Prop :=
  ∀ (s : State) (e : Nat) (tag : BitVec 12) (r : MctlRead) (q : MceReq) (id : Nat), s.blk.build.shellBuilt (.mctl e) = true →
    s.blk.build.t0 ≤ e → (s.blk.mce e).reads.get? tag.toNat = some r → r.req = some id →
    ((s.blk.mce e).reqs.find? fun x => x.id = id) = some q →
    (q.partLine { s.blk.mce e with reads := Tab.del (s.blk.mce e).reads tag.toNat
                                   quarantine := (s.blk.mce e).quarantine ++ [tag.toNat] }
        s.blk.build.tier1 (e - s.blk.build.t0) r.addr = 0) →
    AnswersWork (.t1Timeout e tag) s
      ((s.work.on fun b =>
        ((b.modMce e fun m => { m with reads := Tab.del m.reads tag.toNat, quarantine := m.quarantine ++ [tag.toNat]
                                       timeouts := m.timeouts + 1 }).raise
          { code := 0x24, engine := e, fn := q.entry.ownerFn.toNat, ctx := q.req.ctx.toNat, data := [(0, q.req.base)] }
          (ownerAndPf q.entry.ownerFn.toNat)).refuseReq e q .timeout).pump e []).retryRx

/-! ## The fabric ports -/

/-- Every request of a row that its LPE may serve and whose checks pass enters the ingress queue with its credits taken, and the
engine serves what it can. -/
def RequestEnters (row : LinkReq → List Beat → Access → Instr) (ty : Nat) : Prop :=
  ∀ (s : State) (r : LinkReq) (beats : List Beat) (acc : Access), PortOpen (.lreq r.lpe) s → s.blk.pins.blockSafe = false →
    (s.blk.lpe r.lpe).halted = false → r.ty.toNat < 7 → 0 < (s.blk.lpe r.lpe).aCrd →
    requestBeats ty r.len.toNat ≤ (s.blk.lpe r.lpe).wCrd → Tab.has s.blk.resets (lpeId r.lpe) = false →
    s.blk.lreqCheck r.lpe (typedReq r ty) (lreqData (typedReq r ty) beats) = .ok →
    AnswersWork (row r beats acc) s (s.lreqEntered r ty beats acc).done

/-- Each of the seven requests at `lreq_*` enters its LPE. -/
def Parts.LinkRequestsEnter : Prop :=
  RequestEnters (fun r _ acc => .lreqLoad r acc) 0 ∧ RequestEnters (fun r _ acc => .lreqLoadCache r acc) 1 ∧
  RequestEnters (fun r b acc => .lreqStore r b acc) 2 ∧ RequestEnters (fun r b acc => .lreqAtomic r b acc) 3 ∧
  RequestEnters (fun r b acc => .lreqCopy r b acc) 4 ∧ RequestEnters (fun r b acc => .lreqReduce r b acc) 5 ∧
  RequestEnters (fun r _ acc => .lreqInvalidate r acc) 6

/-- Each of the seven requests completes at the port when its checks pass and nothing waits there before it: LOAD, STORE, ATOMIC,
INVALIDATE and a LOAD_CACHE whose line is not cached take the lowest free RTAG and send their packets under it; a LOAD_CACHE
whose line is cached is delivered at once; COPY and REDUCE send their packets, the last of which answers the request as it
leaves; and the credits that are due return. -/
def Parts.LinkRequestsComplete : Prop :=
  ∀ (s : State) (r : LinkReq) (beats : List Beat) (acc : Access) (j : Job),
    (∀ tag, RequestServed s r 0 [] acc j → (s.blk.lpe r.lpe).freeRtag = some tag →
      AnswersWork (.lreqLoad r acc) s
        (((s.lreqEntered r 0 [] acc).chosen (typedReq r 0)).ask (typedReq r 0) j tag (s.lreqPackets r 0 [] acc j)).paid) ∧
    (RequestServed s r 1 [] acc j →
      (∀ tag, (s.blk.lpe r.lpe).cachedLine (typedReq r 1) = none → (s.blk.lpe r.lpe).freeRtag = some tag →
        AnswersWork (.lreqLoadCache r acc) s
        (((s.lreqEntered r 1 [] acc).chosen (typedReq r 1)).ask (typedReq r 1) j tag (s.lreqPackets r 1 [] acc j)).paid) ∧
      (∀ f, (s.blk.lpe r.lpe).cachedLine (typedReq r 1) = some f →
        ∃ t, exec (.lreqLoadCache r acc) s = .next t ∧ t.mem = s.mem ∧
          (t.blk.lpe r.lpe).rtags = (s.blk.lpe r.lpe).rtags ∧
          .lreqD r.lpe r.tag .ok true
            (beatOf (slice (toLe 128 f.data.toNat) (r.addr.toNat % 128) (64 * (r.len.toNat + 1)))) ∈ t.blk.out)) ∧
    (∀ tag, RequestServed s r 2 beats acc j → (s.blk.lpe r.lpe).freeRtag = some tag →
      AnswersWork (.lreqStore r beats acc) s
        (((s.lreqEntered r 2 beats acc).chosen (typedReq r 2)).ask (typedReq r 2) j tag (s.lreqPackets r 2 beats acc j)).paid) ∧
    (∀ tag, RequestServed s r 3 beats acc j → (s.blk.lpe r.lpe).freeRtag = some tag →
      AnswersWork (.lreqAtomic r beats acc) s
        (((s.lreqEntered r 3 beats acc).chosen (typedReq r 3)).ask (typedReq r 3) j tag (s.lreqPackets r 3 beats acc j)).paid) ∧
    (RequestServed s r 4 beats acc j →
      AnswersWork (.lreqCopy r beats acc) s
        (((s.lreqEntered r 4 beats acc).chosen (typedReq r 4)).postAll (typedReq r 4) (s.lreqPackets r 4 beats acc j)).paid) ∧
    (RequestServed s r 5 beats acc j →
      AnswersWork (.lreqReduce r beats acc) s
        (((s.lreqEntered r 5 beats acc).chosen (typedReq r 5)).postAll (typedReq r 5) (s.lreqPackets r 5 beats acc j)).paid) ∧
    (∀ tag, RequestServed s r 6 [] acc j → (s.blk.lpe r.lpe).freeRtag = some tag →
      AnswersWork (.lreqInvalidate r acc) s
        (((s.lreqEntered r 6 [] acc).chosen (typedReq r 6)).ask (typedReq r 6) j tag (s.lreqPackets r 6 [] acc j)).paid)

/-- A request that fails a check is answered with its status and no data, its credits are due back, and nothing else of the
block changes but the credits that return. -/
def Parts.RefusedLinkRequests : Prop :=
  ∀ (s : State) (r : LinkReq) (acc : Access) (st : Status), PortOpen (.lreq r.lpe) s → s.blk.pins.blockSafe = false →
    (s.blk.lpe r.lpe).halted = false → 0 < (s.blk.lpe r.lpe).aCrd → r.ty = 0 → st ≠ .ok →
    (s.blk.lpe r.lpe).raises = [] → (s.blk.lpe r.lpe).ingress = [] →
    Tab.has s.blk.resets (lpeId r.lpe) = false → s.blk.lreqCheck r.lpe r [] = st →
    ∃ t, exec (.lreqLoad r acc) s = .next t ∧ t.mem = s.mem ∧ t.blk.keys = s.blk.keys ∧ t.blk.jobs = s.blk.jobs ∧
      t.blk.ctxs = s.blk.ctxs ∧ t.blk.regions = s.blk.regions ∧ (t.blk.lpe r.lpe).rtags = (s.blk.lpe r.lpe).rtags ∧
      .lreqD r.lpe r.tag st true 0 ∈ t.blk.out

/-- What a packet of a TYPE does once it has passed the receive checks: the row's effect, with the engine's credits and
waiting requests after it. -/
def PacketServed (row : RxPacket → Access → Instr) (ty : Nat) (act : Lx → Rx → Lx) : Prop :=
  ∀ (s : State) (p : RxPacket) (acc : Access) (r : Rx), Passes ty s p acc r → ServesPacket (row p acc) s (act (s.rxAfter p acc) r)

/-- Every row of a packet that opens has the effect of its TYPE: the home's operations, completions, the directory's
packets and teardown notices. -/
def Parts.PacketsMeetTheirRows : Prop :=
  PacketServed .rxLoad 0x01 (fun x r => (x.countOpened r.h).serveLoad r) ∧
  PacketServed .rxLoadCache 0x02 (fun x r => (x.countOpened r.h).serveLoadCache r) ∧
  PacketServed .rxStore 0x03 (fun x r => (x.countOpened r.h).serveStore r) ∧
  PacketServed .rxAtomic 0x04 (fun x r => (x.countOpened r.h).serveAtomic r) ∧
  PacketServed .rxCopy 0x05 (fun x r => (x.countOpened r.h).serveCopy r) ∧
  PacketServed .rxReduce 0x06 (fun x r => (x.countOpened r.h).takeReduce r.h r.job.fn r.body) ∧
  PacketServed .rxInvalidate 0x07 (fun x r => (x.countOpened r.h).serveInvalidate r) ∧
  PacketServed .rxCpl 0x10 (fun x r => x.serveCpl r) ∧
  PacketServed .rxCplData 0x11 (fun x r => x.serveCpl r) ∧
  PacketServed .rxCplDataNc 0x12 (fun x r => x.serveCpl r) ∧
  PacketServed .rxInval 0x20 (fun x r => (x.countOpened r.h).serveInval r) ∧
  PacketServed .rxInvalAck 0x21 (fun x r => (x.countOpened r.h).serveInvalAck r) ∧
  PacketServed .rxEvict 0x22 (fun x r => (x.countOpened r.h).serveEvict r) ∧
  PacketServed .rxTear 0x30 (fun x r => (x.countOpened r.h).serveTear r) ∧
  (∀ (s : State) (p : RxPacket) (acc : Access), PortOpen (.lphy p.lpe) s → (Hdr.read p.hdr).ty = 0x31 →
    s.blk.mayReceive p = true → (s.rxStart p acc).mustHold p = false →
    ServesPacket (.rxAgg p acc) s ((s.rxStart p acc).takeAgg p))

/-- The home's operations complete, for a range that the job check lets through (R189): LOAD answers with the data it reads,
by CPL_DATA or, in the group class, by one MULTI packet with the request's TOKEN; LOAD_CACHE answers with the line, by CPL_DATA
with the reader in the line's directory entry, or by CPL_DATA_NC while another line holds the entry or an invalidation of this
one is outstanding; STORE writes its data and answers OK; ATOMIC changes its 8 bytes and answers OK with the old value; COPY
writes its data and raises its arrival counter by its units of 64 bytes. -/
def Parts.HomePacketsComplete : Prop :=
  ∀ (s : State) (p : RxPacket) (acc : Access) (r : Rx) (o : OpBlock) (n : Nat) (k : Asker),
    (Passes 0x01 s p acc r → (s.rxOpened p acc r).home r = some (o, n, k) → ((s.rxOpened p acc r).loads o n k).1 = .ok →
      (r.h.pclass = 0 →
        ServesPacket (.rxLoad p acc) s
          (((s.rxOpened p acc r).after ((s.rxOpened p acc r).loads o n k).2.2).reply r.h 0x11
            ((s.rxOpened p acc r).loads o n k).2.1)) ∧
      (r.h.pclass = 1 →
        ServesPacket (.rxLoad p acc) s
          (((s.rxOpened p acc r).after ((s.rxOpened p acc r).loads o n k).2.2).send
            { ty := 0x11, pclass := 1, multi := true, dst := r.h.src, job := r.h.job
              dport := ((s.rxOpened p acc r).after ((s.rxOpened p acc r).loads o n k).2.2).w.blk.self % 4, opd := r.h.opd
              payload := ((s.rxOpened p acc r).loads o n k).2.1 }))) ∧
    (Passes 0x02 s p acc r → (s.rxOpened p acc r).home r = some (o, n, k) →
      ∀ (d : Status × Bytes × Serving), d = Serving.readPieces k [(128 * (o.addr / 128), 0, 128)] (s.rxOpened p acc r).serving →
        d.1 = .ok →
        ∀ (e : Status × DirEntry × Lx), e = ((s.rxOpened p acc r).after d.2.2).readDir r.h.job r.job (o.addr / 128) → e.1 = .ok →
          ((e.2.1.valid = false ∨ e.2.1.line = o.addr / 128) → e.2.2.invalidating r.h.job (o.addr / 128) = false →
            ServesPacket (.rxLoadCache p acc) s
              ((e.2.2.writeDir r.h.job r.job (o.addr / 128)
                (e.2.1.share (o.addr / 128) r.h.src r.h.sender).bytes).reply r.h 0x11 d.2.1)) ∧
          ((e.2.1.valid = true ∧ e.2.1.line ≠ o.addr / 128 ∨ e.2.2.invalidating r.h.job (o.addr / 128) = true) →
            ServesPacket (.rxLoadCache p acc) s (e.2.2.reply r.h 0x12 d.2.1))) ∧
    (Passes 0x03 s p acc r → (s.rxOpened p acc r).home r = some (o, n, k) → ((s.rxOpened p acc r).saves r o n k).1 = .ok →
      ServesPacket (.rxStore p acc) s (((s.rxOpened p acc r).after ((s.rxOpened p acc r).saves r o n k).2).replyCpl r.h .ok 0)) ∧
    (Passes 0x04 s p acc r → (s.rxOpened p acc r).home r = some (o, n, k) →
      ∀ (y : Status × Nat × Serving), y = (s.rxOpened p acc r).changes k o.addr (fun old => atomicNew o.aop old o.o1 o.o2) →
        y.1 = .ok →
        ServesPacket (.rxAtomic p acc) s (((s.rxOpened p acc r).after y.2.2).replyCpl r.h .ok y.2.1)) ∧
    (Passes 0x05 s p acc r → (s.rxOpened p acc r).home r = some (o, n, k) → ((s.rxOpened p acc r).saves r o n k).1 = .ok →
      o.cnt % 8 = 0 → o.cnt < 2 ^ 42 →
      ∀ (x : Lx) (q : Asker) (y : Status × Nat × Serving),
        x = (s.rxOpened p acc r).after ((s.rxOpened p acc r).saves r o n k).2 →
        x.w.blk.homeAsker r.h.job r.job o.cnt 8 = some q →
        y = x.changes q o.cnt (fun old => atomicNew 1 old (n / 64) 0) → y.1 = .ok →
        ServesPacket (.rxCopy p acc) s (x.after y.2.2))

/-- A REDUCE payload that its kiln accepts (R228) is combined or accumulated: anchors join the window's bank, whose exponents may
be complete with them; values go through the program and join the accumulators. -/
def Parts.ReducePacketsComplete : Prop :=
  ∀ (s : State) (p : RxPacket) (acc : Access) (r : Rx) (k : Reduction), Passes 0x06 s p acc r →
    (s.rxOpened p acc r).w.blk.reduction? (RedBlock.read r.body).slot = some k → k.ended = false → k.job.toNat = r.h.job →
    k.call.toNat = (RedBlock.read r.body).call →
    (RedBlock.read r.body).shapeOk k (s.rxOpened p acc r).w.blk.build.kilns ((s.rxOpened p acc r).n / 4) r.body.length = true →
    (s.rxOpened p acc r).w.blk.phaseOk (RedBlock.read r.body) k ((s.rxOpened p acc r).n / 4) = true →
    (RedBlock.read r.body).anchorsOk r.body = true →
    ((RedBlock.read r.body).sums = false →
      ServesPacket (.rxReduce p acc) s
        ((((((s.rxOpened p acc r).at (4 * ((s.rxOpened p acc r).n / 4))).combine (RedBlock.read r.body).slot
              (RedBlock.read r.body).window (RedBlock.read r.body).first
              ((slice r.body 64 (RedBlock.read r.body).nblk).map fun v => v.toNat)).on
            fun b => b.expProgress (RedBlock.read r.body).slot (RedBlock.read r.body).window).sendRaises).at
          (s.rxOpened p acc r).n)) ∧
    (∀ v, (RedBlock.read r.body).sums = true →
      (s.rxOpened p acc r).w.blk.programBlocks k
        (k.facts (RedBlock.read r.body).window (RedBlock.read r.body).first (RedBlock.read r.body).rank 1) (RedBlock.read r.body).nblk
        (slice r.body (64 + if k.scaled then (RedBlock.read r.body).nblk else 0) ((RedBlock.read r.body).nblk * blockBytes k.inFmt))
        ((slice r.body 64 (if k.scaled then (RedBlock.read r.body).nblk else 0)).map fun x => x.toNat) = .ok v →
      ServesPacket (.rxReduce p acc) s
        ((((s.rxOpened p acc r).at (4 * ((s.rxOpened p acc r).n / 4))).accumulate (RedBlock.read r.body).slot
            (RedBlock.read r.body).window (RedBlock.read r.body).first v).at (s.rxOpened p acc r).n))

/-- Completions: one that answers the last packet of a request frees its tag and answers it at `lreq_*`, with its data when
the status is OK; a line that came as CPL_DATA for a LOAD_CACHE that no INVAL has met is installed; a MULTI response answers
every group load with its token. -/
def Parts.CompletionsComplete : Prop :=
  ∀ (s : State) (p : RxPacket) (acc : Access) (r : Rx) (o : Outstanding),
    (∀ st, Passes 0x10 s p acc r → Completes (s.rxAfter p acc) r o st →
      ServesPacket (.rxCpl p acc) s ((s.rxOpened p acc r).settle r (o.completed r st) st)) ∧
    (Passes 0x11 s p acc r → Completes (s.rxAfter p acc) r o .ok →
      ((o.req.ty ≠ 1 ∨ o.marked = true) →
        ServesPacket (.rxCplData p acc) s ((s.rxOpened p acc r).settle r (o.completed r .ok) .ok)) ∧
      (o.req.ty = 1 → o.marked = false → (s.rxAfter p acc).lpe.remote.length < remoteFrames →
        ServesPacket (.rxCplData p acc) s
          (((s.rxOpened p acc r).mod fun l =>
            { l with
              remote :=
                { home := o.req.dst, job := o.req.job, line := o.req.addr.toNat / 128, data := BitVec.ofNat 1024 (le r.body)
                  chain := ((s.rxOpened p acc r).w.blk.chain r.job.slot).getD [] } :: l.remote }).settle r (o.completed r .ok) .ok))) ∧
    (Passes 0x11 s p acc r → r.h.multi = true →
      ServesPacket (.rxCplData p acc) s
        (((s.rxAfter p acc).lpe.rtags.filter fun e => e.2.meets r.h).foldl
          (fun x e => x.on fun b => b.answerOut x.n { e.2 with data := r.body } e.2.status)
          (((s.rxAfter p acc).mod fun l => { l with rtags := l.rtags.filter fun e => !e.2.meets r.h }).countOpened r.h))) ∧
    (Passes 0x12 s p acc r → Completes (s.rxAfter p acc) r o .ok →
      ServesPacket (.rxCplDataNc p acc) s ((s.rxOpened p acc r).settle r (o.completed r .ok) .ok))

/-- The directory's packets: INVALIDATE of a line without a valid entry completes with OK at once, and one with readers sends each
an INVAL and waits; INVAL drops the line from the cache, marks the LOAD_CACHEs of it under way, and is acknowledged; INVAL_ACK
from the last reader completes the INVALIDATE and zeroes the entry, and one from another is struck off; EVICT from a sharer
clears its slot; and TEAR tears its job down. -/
def Parts.DirectoryPacketsComplete : Prop :=
  ∀ (s : State) (p : RxPacket) (acc : Access) (r : Rx),
    (∀ (i : HomeInval) (x : Lx) (e : Status × DirEntry × Lx), Passes 0x07 s p acc r →
      (OpBlock.read r.body).ok 0x07 r.body = true →
      (OpBlock.read r.body).addr % 128 + 64 * ((OpBlock.read r.body).rlen + 1) ≤ 128 →
      (s.rxOpened p acc r).lpe.invals = [] →
      i = { line := (OpBlock.read r.body).addr / 128, job := BitVec.ofNat 16 r.h.job, hdr := r.h.bits } →
      x = ((s.rxOpened p acc r).mod fun l => { l with invals := [i] }) →
      e = x.readDir r.h.job r.job i.line → e.1 = .ok → e.2.2.lpe.invals = [i] →
      ((e.2.1.valid = false ∨ e.2.1.line ≠ i.line) →
        ServesPacket (.rxInvalidate p acc) s
          ((e.2.2.mod fun l => { l with invals := [] }).replyCpl (Hdr.read i.hdr) .ok 0)) ∧
      (e.2.1.valid = true → e.2.1.line = i.line → e.2.2.w.blk.invalTargets r.job e.2.1 ≠ [] →
        ServesPacket (.rxInvalidate p acc) s
          ((e.2.2.mod fun l =>
              { l with invals := [{ i with begun := true, readers := e.2.2.w.blk.invalTargets r.job e.2.1 }] }).sendInvals r.h.job
            i.line (e.2.2.w.blk.invalTargets r.job e.2.1)))) ∧
    (Passes 0x20 s p acc r →
      ServesPacket (.rxInval p acc) s
        (((s.rxOpened p acc r).mod fun l =>
          { l with
            remote := l.remote.filter fun f => !f.isRemote r.h.src r.h.job ((OpBlock.read r.body).addr / 128)
            rtags := l.rtags.map fun e =>
              if e.2.req.ty = 1 ∧ e.2.req.dst.toNat = r.h.src ∧ e.2.req.job.toNat = r.h.job ∧
                  e.2.req.addr.toNat / 128 = (OpBlock.read r.body).addr / 128 then (e.1, { e.2 with marked := true }) else e }).send
          { ty := 0x21, pclass := 0, dst := r.h.src, job := r.h.job, dport := (OpBlock.read r.body).addr / 128 % 4
            payload := opBlock (128 * ((OpBlock.read r.body).addr / 128)) 0 0 0 0 0 })) ∧
    (∀ i, Passes 0x21 s p acc r → (s.rxOpened p acc r).lpe.invals = [i] → i.begun = true → i.job.toNat = r.h.job →
      i.line = (OpBlock.read r.body).addr / 128 →
      (∀ (x : Lx) (e : Status × DirEntry × Lx), i.readers = [(r.h.src, r.h.sender)] →
        x = ((s.rxOpened p acc r).mod fun l => { l with invals := [] }).replyCpl (Hdr.read i.hdr) .ok 0 →
        e = x.readDir r.h.job r.job i.line → e.1 = .ok → e.2.2.lpe.invals = [] →
        ServesPacket (.rxInvalAck p acc) s (e.2.2.writeDir r.h.job r.job i.line (toLe 32 0))) ∧
      ((r.h.src, r.h.sender) ∈ i.readers → i.readers.erase (r.h.src, r.h.sender) ≠ [] →
        ServesPacket (.rxInvalAck p acc) s
          ((s.rxOpened p acc r).mod fun l =>
            { l with invals := [{ i with readers := i.readers.erase (r.h.src, r.h.sender) }] }))) ∧
    (∀ (e : Status × DirEntry × Lx), Passes 0x22 s p acc r →
      e = (s.rxOpened p acc r).readDir r.h.job r.job ((OpBlock.read r.body).addr / 128) → e.1 = .ok → e.2.1.valid = true →
      e.2.1.line = (OpBlock.read r.body).addr / 128 → e.2.1.bcast = false →
      sharerWord r.h.src r.h.sender ∈ e.2.1.sharers → e.2.2.lpe.invals = [] →
      ServesPacket (.rxEvict p acc) s
        (e.2.2.writeDir r.h.job r.job e.2.1.line (e.2.1.unshare r.h.src r.h.sender).bytes)) ∧
    (Passes 0x30 s p acc r →
      ServesPacket (.rxTear p acc) s
        { s.rxOpened p acc r with
          w := (s.rxOpened p acc r).w.tearJob { rets := (s.rxOpened p acc r).feed, fail := (s.rxOpened p acc r).fail } r.h.job
            (bfld r.body 0 2) })

/-- An AGG packet of one record, an ATOMIC of the open class that passes R181 for itself, changes its 8 bytes and is answered
with OK and the old value. -/
def Parts.AggregatesComplete : Prop :=
  ∀ (s : State) (p : RxPacket) (acc : Access) (a b : Unit64) (d : Bytes) (r : Rx) (x : Lx) (o : OpBlock) (n : Nat) (k : Asker)
      (y : Status × Nat × Serving),
    PortOpen (.lphy p.lpe) s → (Hdr.read p.hdr).ty = 0x31 → s.blk.mayReceive p = true → (s.rxStart p acc).mustHold p = false →
    p.payload = [a, b] → d = unitBytes [a, b] → p.extra = 0 → (Hdr.read p.hdr).pclass = 2 → (Hdr.read p.hdr).dst = s.blk.self →
    aggKey d = ((Hdr.read p.hdr).dst, (Hdr.read p.hdr).job, (Hdr.read p.hdr).dport, bfld d 32 8, bfld d 42 1) →
    r.h = Hdr.read (BitVec.ofNat 256 (le (slice d 0 32))) → r.h.ty = 0x04 → r.h.pclass = 2 → r.h.wellFormed 1 = true →
    r.h.dst = s.blk.self → r.h.multi = false →
    (s.rxStart p acc).openRx (BitVec.ofNat 256 (le (slice d 0 32))) (slice d 32 64) (slice d 96 16) = (.ok r, x) →
    (x.countOpened r.h).home r = some (o, n, k) →
    y = (x.countOpened r.h).changes k o.addr (fun old => atomicNew o.aop old o.o1 o.o2) → y.1 = .ok →
    ServesPacket (.rxAgg p acc) s (((x.countOpened r.h).after y.2.2).replyCpl r.h .ok y.2.1)

/-- The packets of the fabric have the effect of their rows, and complete where the spec's conditions hold. -/
def Obligations.PacketsAreServed : Prop :=
  Parts.PacketsMeetTheirRows ∧ Parts.HomePacketsComplete ∧ Parts.ReducePacketsComplete ∧ Parts.CompletionsComplete ∧
  Parts.DirectoryPacketsComplete ∧ Parts.AggregatesComplete

/-- A window admits a sequence number exactly when it is not zero and is above the highest accepted, or within the 4,096 from
that down and not yet recorded. Accepting one that it admits makes the highest the larger of the two, shifts the map by what
the highest rose, losing bits beyond 4,095, and sets the number's bit; so a number is admitted at most once, what was refused
before is refused after, and a packet 4,096 or more behind the highest is refused. -/
def Obligations.ReplayWindowAdmitsOnce : Prop :=
  ∀ (w : Window1) (x y : Nat),
    (w.admits x = true ↔ x ≠ 0 ∧ (w.h < x ∨ (w.h - x < 4096 ∧ w.map.testBit (w.h - x) = false))) ∧
    (x ≤ w.h → 4096 ≤ w.h - x → w.admits x = false) ∧
    (w.map < 2 ^ 4096 → w.admits x = true →
      (w.accept x).h = max w.h x ∧ (w.accept x).map < 2 ^ 4096 ∧
      (∀ i, i < 4096 → (w.accept x).map.testBit i =
        (decide (i = max w.h x - x) || (decide (max w.h x - w.h ≤ i) && w.map.testBit (i - (max w.h x - w.h))))) ∧
      (w.accept x).admits x = false ∧ (w.admits y = false → (w.accept x).admits y = false))

/-- An ATOMIC's arithmetic. -/
def Parts.AtomicOperations : Prop :=
  ∀ (old o1 o2 : Nat), old < 2 ^ 64 → o1 < 2 ^ 64 →
    atomicNew 1 old o1 o2 = (old + o1) % 2 ^ 64 ∧ atomicNew 2 old o1 o2 = o1 ∧
    atomicNew 3 old o1 o2 = (if old = o2 then o1 else old) ∧ atomicNew 4 old o1 o2 = max old o1 ∧
    atomicNew 5 old o1 o2 = old &&& o1 ∧ atomicNew 6 old o1 o2 = old ||| o1 ∧
    ∀ k, atomicNew k old o1 o2 < 2 ^ 64

/-- Deadlines and credits of a link: a request's deadline quarantines its RTAG; the end of a quarantine frees the tag; a
transmit credit lets held packets leave; a packet of no assigned TYPE is discarded and counted; the key derivation at the
head of an LPE's lane leaves it and what waited is tried again. -/
def Parts.LinkEvents : Prop :=
  (∀ (s : State) (n : Nat) (tag : BitVec 12) (o : Outstanding), s.blk.build.shellBuilt (.lreq n) = true →
    (s.blk.lpe n).rtags.get? tag.toNat = some o → o.seqs ≠ [] → o.kiln = none →
    ∃ t, exec (.fabTimeout n tag) s = .next t ∧ t.mem = s.mem ∧ (t.blk.lpe n).rtags.get? tag.toNat = none ∧
      (t.blk.lpe n).quarantine = (s.blk.lpe n).quarantine ++ [{ rtag := tag.toNat, seqs := o.seqs }] ∧
      t.blk.obs.events.getD 0x20 0 = satAdd64 (s.blk.obs.events.getD 0x20 0) 1 ∧ t.blk.jobs = s.blk.jobs ∧
      t.blk.keys = s.blk.keys ∧
      (s.blk.stopped.contains (.lreq n) = false → Cross.lreqD n o.req.tag .timeout true 0 ∈ t.blk.out)) ∧
  (∀ (s : State) (e : Nat) (tag : BitVec 12) (acc : Access), s.blk.build.engineBuilt e = true →
    (e < s.blk.build.mces → ∃ t, exec (.rtagQuarantineExpiry e tag acc) s = .next t ∧ t.mem = s.mem ∧
      tag.toNat ∉ (t.blk.mce e).quarantine ∧ (t.blk.mce e).reads = (s.blk.mce e).reads) ∧
    (s.blk.build.mces ≤ e → 0x40 ≤ e → e < 0x60 →
      AnswersWork (.rtagQuarantineExpiry e tag acc) s
        ((s.work.lx (e - 0x40) acc).mod fun l =>
          { l with quarantine := l.quarantine.filter fun q => q.rtag ≠ tag.toNat }).done)) ∧
  (∀ (s : State) (n : Nat), PortOpen (.lphy n) s →
    Answers (.linkTxCredit n) s
      (((s.blk.begin.modLpe n fun l => { l with txCrd := l.txCrd + 1 }).drainTx n (s.blk.lpe n).txHeld.length).payLpe n)) ∧
  (∀ (s : State) (n : Nat) (p : RxPacket) (len : BitVec 5), PortOpen (.lphy n) s → s.blk.malformed p len = true →
    s.blk.mayReceive { p with lpe := n } = true →
    Answers (.malformedPacket n p len) s
      (((s.blk.begin.takeBeats n (rxBeats p)).discard n 1 (Hdr.read p.hdr).src (Hdr.read p.hdr).job 0).payLpe
        n)) ∧
  (∀ (s : State) (n : Nat) (acc : Access) (q : LaneJob) (rest : List LaneJob) (j : Job) (k : CachedKey) (b : Block),
    s.blk.build.shellBuilt (.lphy n) = true → (s.blk.lpe n).lane = q :: rest → s.blk.jobs.get? q.job = some j →
    (s.blk.begin.modLpe n fun l => { l with lane := rest }).jobKey (lpeId n) j = (.ok k, b) →
    AnswersWork (.pairKeyDerivation n acc) s
      (Lx.flush 64 (({ s.work with
          blk := b.installDerived (lpeId n) k (.pair q.src q.dst q.epoch)
            (pairKey k.bytes32 q.job q.src.toNat q.dst.toNat q.epoch.toNat) } : Work).lx n acc)).retry.done)

/-! ## Admission and domains -/

/-- A well-formed admission message of a row, opened under its epoch's key, has the row's effect where its condition holds of
the block after the receive checks. -/
def AdmissionRow (row : RxPacket → Instr) (msg : Nat) (cond : Adm → Hdr → Nat → Block → Prop)
    (act : Adm → Bytes → Nat → Block → Block) : Prop :=
  ∀ (s : State) (p : RxPacket) (h : Hdr) (body : Bytes), AdmissionPasses msg s p h body →
    cond (Adm.read body) h p.lpe (s.linkAfter p) →
    Answers (row p) s ((act (Adm.read body) body p.lpe (s.linkAfter p)).payLpe p.lpe)

/-- The messages of an admission in order: HELLO that is not refused starts the session, DEFERRED puts it off, EVIDENCE
gathers the peer's report and at its end leads to KEM, KEM gives the link key and FINISH, FINISH with the same transcript
admits the port. -/
def Parts.AdmissionMessages : Prop :=
  AdmissionRow .hello msgHello (fun _ h _ b => b.helloRefusal h.src = none) (fun a body n b => b.takeHello n a body) ∧
  AdmissionRow .deferred msgDeferred (fun _ _ n b => (b.lpe n).adm.stage = .helloSent)
    (fun _ _ n b => b.modLpe n fun l => { l with adm := { rejects := l.adm.rejects, deferred := true } }) ∧
  (∀ v, AdmissionRow (fun p => .evidence p v) msgEvidence
    (fun a _ n b => (b.lpe n).adm.stage = .evidence ∧ a.offset = (b.lpe n).adm.peerReport.length ∧ a.total ≤ maxReport ∧
      a.offset + a.bodyLen < a.total)
    (fun a _ n b => b.modLpe n fun l =>
      { l with adm := { l.adm with peerReport := l.adm.peerReport ++ a.body.take a.bodyLen } })) ∧
  (∀ v, AdmissionRow (fun p => .evidence p v) msgEvidence
    (fun a _ n b => (b.lpe n).adm.stage = .evidence ∧ a.offset = (b.lpe n).adm.peerReport.length ∧ a.total ≤ maxReport ∧
      a.total ≤ a.offset + a.bodyLen)
    (fun a _ n b => (b.modLpe n fun l =>
      { l with adm := { l.adm with peerReport := l.adm.peerReport ++ a.body.take a.bodyLen } }).judgeReport n v)) ∧
  AdmissionRow .kem msgKem (fun _ _ n b => (b.lpe n).adm.stage = .kem)
    (fun a body n b =>
      let d : Admission :=
        { (b.lpe n).adm with stage := .finish, peerKem := body
                             peerSecret := mlkemDecap (b.material 5) (a.body.take 1568) }
      (b.modLpe n fun l =>
        { l with adm := { d with linkKey := some (d.key d.hash), transcript := d.hash, finishSent := true }
                 linkSeq1 := 1, linkHigh := 0, linkMap := 0 }).sendAdm n { msg := msgFinish, body := d.hash }) ∧
  AdmissionRow .finish msgFinish
    (fun a _ n b => (b.lpe n).adm.stage = .finish ∧ a.body.take 48 = (b.lpe n).adm.transcript ∧ allZero (a.body.drop 48) = true)
    (fun _ _ n b => (b.modLpe n fun l => { l with adm := { l.adm with stage := .admitted } }).sendReady n)

/-- The admission completes, message by message: HELLO at a port that has sent its own sets the sides and the port goes on to
EVIDENCE with its report; DEFERRED ends the session until its HINT has passed; a piece of EVIDENCE that is not the last is kept; the
last one leads to KEM when R400 accepts the report, and rejects the port when it does not; KEM gives the link key and the transcript; FINISH with the same transcript
admits the port. -/
def Parts.AdmissionCompletes : Prop :=
  ∀ (s : State) (p : RxPacket) (h : Hdr) (body : Bytes),
    (AdmissionPasses msgHello s p h body → (s.linkAfter p).helloRefusal h.src = none → (s.blk.lpe p.lpe).adm.stage = .helloSent →
      (s.blk.lpe p.lpe).adm.myRandom.toNat ≠ (Adm.read body).random →
      ∃ t, exec (.hello p) s = .next t ∧ t.mem = s.mem ∧ (t.blk.lpe p.lpe).adm.stage = .evidence ∧
        (t.blk.lpe p.lpe).adm.peerRandom.toNat = (Adm.read body).random ∧ (t.blk.lpe p.lpe).adm.peerHello = body ∧
        (t.blk.lpe p.lpe).adm.low = decide ((s.blk.lpe p.lpe).adm.myRandom.toNat < (Adm.read body).random) ∧
        (t.blk.lpe p.lpe).adm.rejects = (s.blk.lpe p.lpe).adm.rejects ∧ t.blk.keys = s.blk.keys) ∧
    (AdmissionPasses msgDeferred s p h body → (s.blk.lpe p.lpe).adm.stage = .helloSent →
      ∃ t, exec (.deferred p) s = .next t ∧ t.mem = s.mem ∧
        (t.blk.lpe p.lpe).adm = { rejects := (s.blk.lpe p.lpe).adm.rejects, deferred := true } ∧ t.blk.keys = s.blk.keys) ∧
    (∀ v, AdmissionPasses msgEvidence s p h body → (s.blk.lpe p.lpe).adm.stage = .evidence →
      (Adm.read body).offset = (s.blk.lpe p.lpe).adm.peerReport.length → (Adm.read body).total ≤ maxReport →
      ((Adm.read body).offset + (Adm.read body).bodyLen < (Adm.read body).total →
        ∃ t, exec (.evidence p v) s = .next t ∧ t.mem = s.mem ∧
          (t.blk.lpe p.lpe).adm =
            { (s.blk.lpe p.lpe).adm with
              peerReport := (s.blk.lpe p.lpe).adm.peerReport ++ (Adm.read body).body.take (Adm.read body).bodyLen } ∧
          t.blk.keys = s.blk.keys) ∧
      ((Adm.read body).total ≤ (Adm.read body).offset + (Adm.read body).bodyLen → s.blk.boot.entropyDown = false →
        ∃ t, exec (.evidence p v) s = .next t ∧ t.mem = s.mem ∧ t.blk.keys = s.blk.keys ∧
          match readReport s.blk.akoirno
              ((s.blk.lpe p.lpe).adm.peerReport ++ (Adm.read body).body.take (Adm.read body).bodyLen) with
          | none => (t.blk.lpe p.lpe).adm = { rejects := (s.blk.lpe p.lpe).adm.rejects + 1, rejected := true }
          | some r =>
            if (s.blk.peerRefusal (s.blk.lpe p.lpe).adm r v.pathOk).isSome then
              (t.blk.lpe p.lpe).adm = { rejects := (s.blk.lpe p.lpe).adm.rejects + 1, rejected := true }
            else
              (t.blk.lpe p.lpe).adm.stage = .kem ∧ (t.blk.lpe p.lpe).adm.partner = some r ∧ t.blk.fresh = s.blk.fresh + 1)) ∧
    (∀ d : Admission, AdmissionPasses msgKem s p h body → (s.blk.lpe p.lpe).adm.stage = .kem →
      d = { (s.blk.lpe p.lpe).adm with
            stage := .finish, peerKem := body, peerSecret := mlkemDecap (s.blk.material 5) ((Adm.read body).body.take 1568) } →
      ∃ t, exec (.kem p) s = .next t ∧ t.mem = s.mem ∧
        (t.blk.lpe p.lpe).adm = { d with linkKey := some (d.key d.hash), transcript := d.hash, finishSent := true } ∧
        t.blk.keys = s.blk.keys) ∧
    (AdmissionPasses msgFinish s p h body → (s.blk.lpe p.lpe).adm.stage = .finish →
      (Adm.read body).body.take 48 = (s.blk.lpe p.lpe).adm.transcript → allZero ((Adm.read body).body.drop 48) = true →
      ∃ t, exec (.finish p) s = .next t ∧ t.mem = s.mem ∧ (t.blk.lpe p.lpe).admitted = true ∧
        (t.blk.lpe p.lpe).adm.linkKey = (s.blk.lpe p.lpe).adm.linkKey ∧ t.blk.keys = s.blk.keys)

/-- Between admitted ports: READY tells what the partner holds, CRED from an accepted partner of the same manifest makes a
waiting block a member, REJECT ends the session and is counted, LEAVE ends membership over the port. -/
def Parts.MembershipMessages : Prop :=
  AdmissionRow .ready msgReady (fun _ _ n b => (b.lpe n).admitted = true)
    (fun a _ n b => (b.modLpe n fun l => { l with adm := { l.adm with ready := a.body } }).judgeReady n) ∧
  (∀ m, AdmissionRow .cred msgCred
    (fun a _ n b => b.domain.manifest = some m ∧ b.domain.state = .waiting ∧ (b.lpe n).admitted = true ∧
      slice a.body 0 56 = m.head ∧ ((b.lpe n).adm.partner.any m.accepts) = true)
    (fun a _ _ b => ({ b with domain := { b.domain with credSeen := true } } : Block).joinDomain (slice a.body 56 32) false)) ∧
  AdmissionRow .reject msgReject (fun _ _ _ b => b.mayAdmit = true) (fun a _ n b => b.rejectPort n a.hint) ∧
  AdmissionRow .leave msgLeave (fun _ _ _ _ => True)
    (fun _ _ n b => (b.modLpe n fun l => { l with adm := { l.adm with ready := [] } }).setMember n false)

/-- Membership completes, message by message: READY of the same manifest and domain key makes the port a member; CRED in a waiting
block fills slot 16 and makes the block a MEMBER; REJECT counts, forgets the link key and ends membership over the port; LEAVE ends
it too and keeps the port admitted. -/
def Parts.MembershipCompletes : Prop :=
  ∀ (s : State) (p : RxPacket) (h : Hdr) (body : Bytes),
    (∀ m, AdmissionPasses msgReady s p h body → (s.blk.lpe p.lpe).admitted = true → s.blk.domain.manifest = some m →
      s.blk.domain.state = .member → slice (Adm.read body).body 0 56 = m.head → slice (Adm.read body).body 56 8 = s.blk.kcv →
      allZero s.blk.kcv = false →
      ∃ t, exec (.ready p) s = .next t ∧ t.mem = s.mem ∧ (t.blk.lpe p.lpe).member = true ∧
        (t.blk.lpe p.lpe).adm.ready = (Adm.read body).body ∧ t.blk.keys = s.blk.keys ∧ t.blk.domain = s.blk.domain) ∧
    (∀ m, AdmissionPasses msgCred s p h body → s.blk.domain.manifest = some m → s.blk.domain.state = .waiting →
      (s.blk.lpe p.lpe).admitted = true → slice (Adm.read body).body 0 56 = m.head →
      (s.blk.lpe p.lpe).adm.partner.any m.accepts = true → (s.blk.slot 16).reusable = true →
      ∃ t, exec (.cred p) s = .next t ∧ t.mem = s.mem ∧ t.blk.domain.state = .member ∧ t.blk.domain.credSeen = true ∧
        t.blk.time.joined = true ∧ (t.blk.slot 16).isEmpty = false ∧ (t.blk.slot 16).gen = (s.blk.slot 16).gen ∧
        ∀ n, n ≠ 16 → t.blk.slot n = s.blk.slot n) ∧
    (AdmissionPasses msgReject s p h body → s.blk.mayAdmit = true →
      ∃ t, exec (.reject p) s = .next t ∧ t.mem = s.mem ∧
        (t.blk.lpe p.lpe).adm = { rejects := (s.blk.lpe p.lpe).adm.rejects + 1, rejected := true } ∧
        (t.blk.lpe p.lpe).member = false ∧ t.blk.keys = s.blk.keys ∧
        t.blk.obs.events.getD 0x25 0 = satAdd64 (s.blk.obs.events.getD 0x25 0) 1) ∧
    (AdmissionPasses msgLeave s p h body →
      ∃ t, exec (.leave p) s = .next t ∧ t.mem = s.mem ∧ (t.blk.lpe p.lpe).member = false ∧
        (t.blk.lpe p.lpe).adm = { (s.blk.lpe p.lpe).adm with ready := [] } ∧ t.blk.keys = s.blk.keys ∧
        t.blk.domain = s.blk.domain)

/-- Links that rise and fall, and the deadlines of admission: a rise says HELLO; a fall or a deadline abandons the session
and lapses membership; a deferred or rejected port says HELLO again; the seed that has waited draws the domain key. -/
def Parts.LinksAndRetries : Prop :=
  ∀ (s : State) (n : Nat),
    (PortOpen (.lphy n) s → (s.blk.lpe n).up = false →
      Answers (.lphyUpRise n) s ((s.blk.begin.modLpe n fun l => { l with up := true }).sendHello n)) ∧
    (PortOpen (.lphy n) s →
      ∃ t, exec (.lphyUpFall n) s = .next t ∧ t.mem = s.mem ∧ (t.blk.lpe n).up = false ∧ (t.blk.lpe n).adm.linkKey = none ∧
        (t.blk.lpe n).member = false ∧ (t.blk.lpe n).admitted = false ∧
        (t.blk.lpe n).adm.rejects = (s.blk.lpe n).adm.rejects ∧ (∀ m, m ≠ n → t.blk.lpe m = s.blk.lpe m) ∧
        t.blk.keys = s.blk.keys) ∧
    (s.blk.build.shellBuilt (.lphy n) = true →
      ((s.blk.lpe n).adm.stage ≠ .idle → (s.blk.lpe n).admitted = false →
        ∃ t, exec (.admissionTimeout n) s = .next t ∧ t.mem = s.mem ∧ (t.blk.lpe n).adm.stage = .idle ∧
          (t.blk.lpe n).adm.linkKey = none ∧ (t.blk.lpe n).member = false) ∧
      ((s.blk.lpe n).adm.deferred = true → Answers (.deferredRetry n) s (s.blk.begin.sendHello n)) ∧
      ((s.blk.lpe n).adm.rejected = true → Answers (.rejectRetry n) s (s.blk.begin.sendHello n))) ∧
    (s.blk.domain.state = .waiting → s.blk.domain.seed = true → s.blk.domain.credSeen = false → s.blk.portsSettled = true →
      s.blk.boot.entropyDown = false →
      Answers .seedWaitExpiry s (s.blk.begin.drew.joinDomain (toLe 32 (s.blk.random 256).toNat) true))

/-- A manifest that meets its rules makes the block wait for the domain key under its own id; leaving a domain empties slot
16, forgets the manifest, and ends membership on every port. -/
def Parts.DomainsAreJoinedAndLeft : Prop :=
  (∀ (s : State) (fn : Nat) (len : BitVec 19) (x : Bytes) (m : Manifest), PortOpen .hcp s →
    s.blk.boot.seqReset = false → s.blk.reach fn 0x1008 true = true → s.blk.domain.state = .none → s.blk.boot.lc.serves = true →
    s.blk.boot.debugOpen = false → readManifest x len.toNat s.blk.devid = some m →
    ∃ t, exec (.domainLoad fn len (.data x)) s = .next t ∧ t.mem = s.mem ∧ t.blk.domain.state = .waiting ∧
      t.blk.domain.manifest = some m ∧ t.blk.domain.seed = decide (m.idOf s.blk.devid = m.seed) ∧
      t.blk.domain.credSeen = false ∧ t.blk.domain.err = .ok ∧ t.blk.boot.blockId = m.idOf s.blk.devid ∧
      t.blk.boot.assigned = true ∧ t.blk.keys = s.blk.keys) ∧
  (∀ (s : State) (fn : Nat) (acc : Access), PortOpen .hcp s → s.blk.boot.seqReset = false →
    s.blk.reach fn 0x1008 true = true → s.blk.domain.state ≠ .none →
    ∃ t, exec (.domainLeave fn acc) s = .next t ∧ t.blk.domain.state = .none ∧ t.blk.domain.manifest = none ∧
      t.blk.boot.assigned = false ∧ (t.blk.slot 16).isEmpty = true ∧ (∀ e ∈ t.blk.lpes, e.2.member = false))

/-! ## The kiln -/

/-- The owner's commands and a retirement: KILN_SETUP that passes its checks opens a reduction in the lowest free slot, with the
exponents of two windows open; KILN_EXPONENT and KILN_SUM of an allowed window give its local contribution, run by run, to the kilns
that hold it, a KILN_SUM whose sums are not open yet being kept until they are; KILN_FINISH frees the slot, leaves no other
reduction changed and completes; and a kiln whose slice of a window is complete rounds it, writes it and counts it. -/
def Parts.KilnCommands : Prop :=
  (∀ (s : State) (id slot : Nat) (c : Cmd) (j : Job) (acc : Access), CmdReady s id 0x0601 c →
    s.blk.jobs.get? (dfld c.desc 16 2) = some j → s.blk.setupCheck (setupOf c j.members.length) j = .ok →
    Tab.lowest s.blk.reductions 8 = some slot →
    AnswersOnce (.kilnSetup id acc) s
      ((s.waitWork.lx s.blk.memberPort acc).openReduction id slot (setupOf c j.members.length)).done ∧
    (dfld c.desc 60 4 = 0 → (s.blk.lpe s.blk.memberPort).ingress = [] → (s.blk.lpe s.blk.memberPort).raises = [] →
      ∃ t, exec (.kilnSetup id acc) s = .next t ∧ t.blk.cmd? id = none ∧
        t.blk.reductions.get? slot =
          some { setupOf c j.members.length with gx := min 2 (setupOf c j.members.length).windowCount } ∧
        (∀ n, n ≠ slot → t.blk.reductions.get? n = s.blk.reductions.get? n) ∧
        t.blk.jobs.get? (dfld c.desc 16 2) = some { j with lastCall := some (BitVec.ofNat 24 (dfld c.desc 20 3)) } ∧
        t.blk.keys = s.blk.keys ∧ t.blk.regions = s.blk.regions)) ∧
  (∀ (s : State) (id slot : Nat) (c : Cmd) (k : Reduction) (acc : Access) (b : Status × Bytes × List Nat × Lx) (v : List (List Val)),
    CmdReady s id 0x0602 c → s.blk.ownReduction c = some (slot, k) → k.ended = false → dfld c.desc 20 4 < k.gx →
    (k.win (dfld c.desc 20 4)).expGiven = false →
    b = ((s.waitWork.on fun b => (b.wait id).modReduction slot fun k =>
            { k.modWin (dfld c.desc 20 4) (fun v => { v with expGiven := true }) with
              expWait := k.expWait ++ [(id, dfld c.desc 20 4)] }).lx 0 acc).localBlocks k (dfld c.desc 20 4) → b.1 = .ok →
    b.2.2.2.w.blk.programBlocks k (k.facts (dfld c.desc 20 4) 0 k.rank 0) (k.winBlocks (dfld c.desc 20 4)) b.2.1 b.2.2.1 = .ok v →
    AnswersOnce (.kilnExponent id acc) s
      (((Lx.eachRun s.blk.build.kilns (fun x j v => x.combine slot (dfld c.desc 20 4) j (v.map anchorByte)) 0 (split 128 v)
          b.2.2.2).on fun b => b.expProgress slot (dfld c.desc 20 4)).sendRaises).done) ∧
  (∀ (s : State) (id slot : Nat) (c : Cmd) (k : Reduction) (acc : Access), CmdReady s id 0x0603 c →
    s.blk.ownReduction c = some (slot, k) → k.ended = false → (k.win (dfld c.desc 20 4)).expDone = true →
    (k.win (dfld c.desc 20 4)).sumGiven = false → (id, dfld c.desc 20 4) ∉ k.sumWait →
    (k.gs ≤ dfld c.desc 20 4 →
      ∃ t, exec (.kilnSum id acc) s = .next t ∧ t.mem = s.mem ∧
        t.blk.reductions.get? slot =
          some { k.modWin (dfld c.desc 20 4) (fun v => { v with sumGiven := true }) with
                 sumWait := k.sumWait ++ [(id, dfld c.desc 20 4)] } ∧
        t.blk.seq = s.blk.seq ∧ t.blk.keys = s.blk.keys) ∧
    (∀ (b : Status × Bytes × List Nat × Lx) (v : List (List Val)), dfld c.desc 20 4 < k.gs →
      b = (((s.waitWork.on fun b => b.modReduction slot fun k =>
            { k.modWin (dfld c.desc 20 4) (fun v => { v with sumGiven := true }) with
              sumWait := k.sumWait ++ [(id, dfld c.desc 20 4)] }).on fun b => b.wait id).lx 0 acc).localBlocks k
          (dfld c.desc 20 4) → b.1 = .ok →
      b.2.2.2.w.blk.programBlocks k (k.facts (dfld c.desc 20 4) 0 k.rank 1) (k.winBlocks (dfld c.desc 20 4)) b.2.1 b.2.2.1 = .ok v →
      AnswersOnce (.kilnSum id acc) s
        (Lx.eachRun s.blk.build.kilns (fun x j v => x.accumulate slot (dfld c.desc 20 4) j v) 0 (split 128 v) b.2.2.2).done)) ∧
  (∀ (s : State) (id slot : Nat) (c : Cmd) (k : Reduction), CmdReady s id 0x0604 c → s.blk.ownReduction c = some (slot, k) →
    ∃ t, exec (.kilnFinish id) s = .next t ∧ t.mem = s.mem ∧ t.blk.reductions.get? slot = none ∧
      (∀ n, n ≠ slot → t.blk.reductions.get? n = s.blk.reductions.get? n) ∧ t.blk.keys = s.blk.keys ∧
      t.blk.regions = s.blk.regions ∧ (dfld c.desc 24 8 = 0 → t.blk.cmd? id = none) ∧
      (dfld c.desc 24 8 ≠ 0 →
        t = s.withBlock (((s.blk.begin.endReduction slot .badOperand).freeSlot slot).output id (dfld c.desc 24 8) k.counts .ok 0 0))) ∧
  (∀ (s : State) (slot w c : Nat) (k : Reduction) (acc : Access) (seed : Option Bytes) (y : Lx), s.blk.reduction? slot = some k →
    k.ended = false → s.blk.dueSlice k = some (w, c) → (s.blk.begin.seedKey k c).1 = .ok seed →
    (({ s.waitWork with blk := (s.blk.begin.seedKey k c).2 } : Work).lx (4 * c) acc).runsWritten slot w k seed
      ((List.range (k.runs w)).filter fun r => r % s.blk.build.kilns = c) = some y →
    AnswersOnce (.windowRetired slot acc) s (y.sliceDone slot w c).done)

/-- Rounding to the nearest: the result is the integer closest to the exact value, ties to the even one, and a value that
is whole comes out whole. -/
def Parts.RoundToNearestEven : Prop :=
  ∀ (m d : Nat),
    (roundEven m (-(d : Int)) * 2 ^ d ≤ m + 2 ^ d / 2) ∧ (m ≤ roundEven m (-(d : Int)) * 2 ^ d + 2 ^ d / 2) ∧
    (m % 2 ^ d = 0 → roundEven m (-(d : Int)) * 2 ^ d = m) ∧
    (0 < d → m % 2 ^ d = 2 ^ (d - 1) → roundEven m (-(d : Int)) % 2 = 0)

/-! ## Sealed DMA and translation -/

/-- The descriptor that DMA_COPY names. -/
def copyDesc (id : Nat) (c : Cmd) : DmaDesc :=
  { cmd := id, fn := c.fn, ctx := BitVec.ofNat 16 c.ctx, kind := .copy, stream := dfld c.desc 54 1, src := dfld c.desc 16 8
    dst := dfld c.desc 24 8, sscale := dfld c.desc 32 8, dscale := dfld c.desc 40 8, len := dfld c.desc 48 6
    sfmt := dfld c.desc 55 1 % 16, dfmt := dfld c.desc 56 1 % 16, sscaled := 16 ≤ dfld c.desc 55 1
    dscaled := 16 ≤ dfld c.desc 56 1, skey := dfld c.desc 58 2, dkey := dfld c.desc 60 2
    prog := if dfld c.desc 57 1 = 1 then some (dfld c.desc 62 2) else none }

/-- The descriptor that DMA_INGEST names. -/
def ingestDesc (id : Nat) (c : Cmd) : DmaDesc :=
  { cmd := id, fn := c.fn, ctx := BitVec.ofNat 16 c.ctx, kind := .ingest, stream := dfld c.desc 47 1, src := dfld c.desc 16 8
    dst := dfld c.desc 24 8, len := dfld c.desc 32 8, sfmt := dfld c.desc 48 1, dfmt := dfld c.desc 49 1
    skey := dfld c.desc 40 2, dkey := dfld c.desc 42 2
    prog := if dfld c.desc 46 1 = 1 then some (dfld c.desc 44 2) else none }

/-- The descriptor that MEASURE_LOAD names. -/
def measureDesc (id : Nat) (c : Cmd) : DmaDesc :=
  { cmd := id, fn := c.fn, ctx := BitVec.ofNat 16 c.ctx, kind := .measure, stream := dfld c.desc 46 1, src := dfld c.desc 16 8
    dst := dfld c.desc 24 8, len := dfld c.desc 32 8, dkey := dfld c.desc 44 2, object := BitVec.ofNat 32 (dfld c.desc 40 4)
    rdst := dfld c.desc 48 8 }

/-- The descriptor that SHUFFLE_EPOCH names under a licence's record. -/
def shuffleDesc (id record : Nat) (licence : BitVec 32) (c : Cmd) : DmaDesc :=
  { cmd := id, fn := c.fn, ctx := BitVec.ofNat 16 c.ctx, kind := .shuffle, stream := dfld c.desc 58 1, src := 0
    dst := dfld c.desc 48 8, len := dfld c.desc 40 8, skey := dfld c.desc 18 2, dkey := dfld c.desc 56 2, record := record
    object := BitVec.ofNat 32 (dfld c.desc 20 4), shufN := dfld c.desc 24 8, shufFirst := dfld c.desc 32 8
    licence := licence }

/-- The four commands of the sealed DMA units whose operands meet their rules enter their descriptor into the table of
walks, and wait; while an earlier command of the same queue and stream has not entered, nothing happens. -/
def Parts.DmaDescriptorsEnter : Prop :=
  ∀ (s : State) (id : Nat) (c : Cmd),
    (CmdReady s id 0x0701 c →
      dvaOk [(copyDesc id c).src, (copyDesc id c).dst, (copyDesc id c).sscale, (copyDesc id c).dscale] = true →
      (copyDesc id c).src % 32 = 0 → (copyDesc id c).dst % 32 = 0 → (copyDesc id c).sscale % 32 = 0 →
      (copyDesc id c).dscale % 32 = 0 → ((copyDesc id c).sscale ≠ 0 ↔ (copyDesc id c).sscaled = true) →
      ((copyDesc id c).dscale ≠ 0 ↔ (copyDesc id c).dscaled = true) → (copyDesc id c).skey < 2 ^ 14 →
      (copyDesc id c).dkey < 2 ^ 14 →
      s.blk.dmaFormats c.fn c.ctx (dfld c.desc 57 1) (dfld c.desc 62 2) (dfld c.desc 55 1) (dfld c.desc 56 1)
        (copyDesc id c).len = true →
      Answers (.dmaCopy id) s (s.blk.begin.submitDma id (copyDesc id c))) ∧
    (CmdReady s id 0x0702 c → dvaOk [(ingestDesc id c).src, (ingestDesc id c).dst] = true → (ingestDesc id c).dst % 32 = 0 →
      s.blk.ingestProgram c.fn c.ctx (dfld c.desc 46 1) (dfld c.desc 44 2) (ingestDesc id c).sfmt (ingestDesc id c).dfmt = true →
      (ingestDesc id c).sfmt < 16 → (ingestDesc id c).dfmt < 16 → (ingestDesc id c).skey < 2 ^ 14 →
      (ingestDesc id c).dkey < 2 ^ 14 → (ingestDesc id c).dkey ≠ 0 →
      Answers (.dmaIngest id) s (s.blk.begin.submitDma id (ingestDesc id c))) ∧
    (∀ x, CmdReady s id 0x0802 c → dvaOk [(measureDesc id c).src, (measureDesc id c).dst] = true →
      (measureDesc id c).dst % 32 = 0 → (measureDesc id c).len ≠ 0 → (measureDesc id c).len < 2 ^ 56 →
      (measureDesc id c).dkey < 2 ^ 14 → (measureDesc id c).dkey ≠ 0 → s.blk.ctxs.get? c.ctx = some x →
      x.measureRoom (dfld c.desc 40 4) = true →
      Answers (.measureLoad id) s (s.blk.begin.submitDma id (measureDesc id c))) ∧
    (∀ (k : Nat) (i : Install), CmdReady s id 0x0904 c → s.blk.installOf (dfld c.desc 16 2) = some (k, i) → i.fn = c.fn →
      i.uses.toNat.testBit 2 = true → 2 ≤ dfld c.desc 24 8 → dfld c.desc 24 8 ≤ i.samples → 1 ≤ dfld c.desc 40 8 →
      dfld c.desc 32 8 + dfld c.desc 40 8 ≤ dfld c.desc 24 8 → dvaOk [dfld c.desc 48 8] = true → dfld c.desc 48 8 % 128 = 0 →
      dfld c.desc 48 8 + 8 * dfld c.desc 40 8 ≤ 2 ^ 56 → dfld c.desc 56 2 < 2 ^ 14 → dfld c.desc 56 2 ≠ 0 →
      s.blk.keyCheck (dfld c.desc 18 2) c.fn c.ctx (some 4) useV = .ok → s.blk.seedJob (dfld c.desc 18 2) c.ctx = true →
      Answers (.shuffleEpoch id) s (s.blk.begin.submitDma id (shuffleDesc id k i.licence c))) ∧
    (∀ d, s.blk.begin.dmaTurn id d.stream = true →
      (s.blk.begin.submitDma id d).seq.dma.get? s.blk.seq.nextDma = some d ∧
      (∀ n, n ≠ s.blk.seq.nextDma → (s.blk.begin.submitDma id d).seq.dma.get? n = s.blk.seq.dma.get? n) ∧
      (s.blk.begin.submitDma id d).cmd? id = (s.blk.cmd? id).map fun c => { c with stage := .waiting }) ∧
    (∀ d, s.blk.begin.dmaTurn id d.stream = false → s.blk.begin.submitDma id d = s.blk.begin)

/-- The work of a descriptor: its walk ends with its pages, an ingest's after its header, and it waits for its stream; then its
source lines move one by one, in order, until it has moved; an ingest opens chunk by chunk and counts each against its licence. -/
def Parts.DmaDescriptorsMove : Prop :=
  (∀ (s : State) (n : Nat) (d : DmaDesc) (header : HostRead) (acc : Access) (ps : List Page),
    s.blk.seq.dma.get? n = some d → d.stage = .walking → d.kind ≠ .ingest →
    (s.walk d acc s.waitWork [] (s.blk.dmaRanges d)).1 = .ok ps →
    (s.walk d acc s.waitWork [] (s.blk.dmaRanges d)).2.blk.dmaPagesOk { d with pages := ps, stage := .queued, read := 0 } = true →
    AnswersOnce (.translationWalkDone n header acc) s
      ((s.walk d acc s.waitWork [] (s.blk.dmaRanges d)).2.on fun b => b.queueDma n d ps)) ∧
  (∀ (s : State) (n : Nat) (d e : DmaDesc) (header : Bytes) (acc : Access) (ps qs : List Page) (k : Nat) (w : Work),
    s.blk.seq.dma.get? n = some d → d.stage = .walking → d.kind = .ingest →
    (s.walk d acc s.waitWork [] [(d.src, d.len, false)]).1 = .ok ps →
    (s.walk d acc s.waitWork [] [(d.src, d.len, false)]).2 = w → w.blk.ingestHeader d (slice header 0 64) = some k →
    e = { d with header := slice header 0 64, record := k } →
    (s.walk d acc w ps ((w.blk.dmaRanges e).drop 1)).1 = .ok qs →
    (s.walk d acc w ps ((w.blk.dmaRanges e).drop 1)).2.blk.dmaPagesOk { e with pages := qs, stage := .queued, read := 64 } = true →
    AnswersOnce (.translationWalkDone n (.data header) acc) s
      ((s.walk d acc w ps ((w.blk.dmaRanges e).drop 1)).2.on fun b => b.queueDma n e qs)) ∧
  (∀ (s : State) (n : Nat) (d : DmaDesc) (src : SourceLine) (acc : Access) (m : Mover), s.blk.running n = some d →
    m = { p := { w := s.waitWork, feed := src.lines acc }, d := d } →
    (d.kind = .copy → d.prog = none → (m.copy n src).st = .ok → AnswersOnce (.dmaLine n src acc) s ((m.copy n src).moved n)) ∧
    (d.kind = .measure → (m.copy n src).st = .ok → AnswersOnce (.dmaLine n src acc) s ((m.copy n src).moved n)) ∧
    (d.kind = .shuffle → s.blk.epochWaits d = false → (m.shuffle n).st = .ok →
      AnswersOnce (.dmaLine n src acc) s ((m.shuffle n).moved n))) ∧
  (∀ (s : State) (n : Nat) (d : DmaDesc) (chunk : Bytes) (acc : Access) (i : Install) (k : CachedKey) (pt : Bytes) (m : Mover),
    s.blk.running n = some d → d.kind = .ingest → d.prog = none → s.blk.installs.get? d.record = some i →
    (s.blk.meters.getD d.record {}).life.bytes + d.chunkLen ≤ i.allowBytes →
    s.blk.canConsume d.record { bytes := d.chunkLen, shards := if d.chunk + 1 = shardChunks d.header then 1 else 0 } = true →
    (s.blk.begin.useKey d.engine d.skey d.fn d.ctx.toNat useD).1 = .ok k →
    gcmOpen (k.key.toNat % 2 ^ 256) (slice d.header 8 4 ++ toLe 8 d.chunk) d.header (slice chunk 0 d.chunkLen)
      (slice chunk d.chunkLen 16) = some pt →
    m = (({ p :=
              { w := { s.waitWork with
                  blk :=
                    (({ (s.blk.begin.useKey d.engine d.skey d.fn d.ctx.toNat useD).2 with
                      seq :=
                        { (s.blk.begin.useKey d.engine d.skey d.fn d.ctx.toNat useD).2.seq with
                          dma :=
                            (s.blk.begin.useKey d.engine d.skey d.fn d.ctx.toNat useD).2.seq.dma.upd n fun _ =>
                              { d with read := d.read + d.chunkLen + 16 } } } : Block).consume d.record
                      { bytes := d.chunkLen, shards := if d.chunk + 1 = shardChunks d.header then 1 else 0 }).count 9 0xF d.chunkLen }
                feed := acc.rets }
            d := { d with read := d.read + d.chunkLen + 16, chunk := d.chunk + 1, buf := d.buf ++ pt } } : Mover).flush n
          (d.chunk + 1 = shardChunks d.header) (2 ^ 18)) → m.st = .ok →
    AnswersOnce (.ingestChunk n (.data chunk) acc) s (m.moved n))

/-- DMA_MAP and DMA_UNMAP that pass their checks and write their entries complete, with the host runs of the range recorded or
cut out; ADDR_CONVERT returns the lowest DVA of a host page; a batch of translation faults is written when its time is up. -/
def Parts.TranslationCommands : Prop :=
  (∀ (s : State) (id r : Nat) (c : Cmd) (acc : Access), CmdReady s id 0x0703 c → dfld c.desc 36 1 ≤ 1 →
    s.blk.begin.fencesOf c.fn = some r → s.blk.mapArgsOk c.fn c.mapArgs = true → (s.tableRead c acc r).1 = .ok →
    (s.tableWork c acc r).mapFree r c.mapArgs = true →
    (s.tableWork c acc r).leavesNeeded r c.mapArgs ≤ ((s.tableWork c acc r).blk.fn c.fn).leaves.room 4096 →
    (c.mapArgs.host = true → ((s.tableWork c acc r).blk.fn c.fn).runs.length < 256) →
    (s.mapWrite c acc r).1 = .ok → (s.mapWrite c acc r).2.2.stuck = false →
    ∃ t, exec (.dmaMap id acc) s = .next t ∧ t.blk.cmd? id = none ∧
      t.mem = applyStores s.mem (s.mapWrite c acc r).2.2.stores ∧
      (t.blk.fn c.fn).runs =
        ((s.mapWrite c acc r).2.2.blk.fn c.fn).runs ++
          (if c.mapArgs.host then
            [{ va := c.mapArgs.va, target := c.mapArgs.target, count := c.mapArgs.count, big := c.mapArgs.big }] else []) ∧
      (t.blk.fn c.fn).leaves = ((s.mapWrite c acc r).2.2.blk.fn c.fn).leaves) ∧
  (∀ (s : State) (id r : Nat) (c : Cmd) (acc : Access), CmdReady s id 0x0704 c → dfld c.desc 36 1 ≤ 1 → c.mapArgs.count ≠ 0 →
    c.mapArgs.va % pageBytes c.mapArgs.big = 0 → c.mapArgs.va + c.mapArgs.bytes ≤ 2 ^ 56 →
    s.blk.begin.fencesOf c.fn = some r → (s.tableRead c acc r).1 = .ok →
    c.mapArgs.pages.all ((s.tableWork c acc r).mappedAt r c.mapArgs.big) = true →
    ((((s.tableWork c acc r).blk.fn c.fn).runs.map fun h => h.trim c.mapArgs.va c.mapArgs.bytes).flatten).length ≤ 256 →
    (s.unmapWrite c acc r).1 = .ok → (s.unmapWrite c acc r).2.2.stuck = false →
    (s.unmapWrite c acc r).2.2.blk.holdersOf c.fn c.mapArgs.va c.mapArgs.bytes = [] →
    ∃ t, exec (.dmaUnmap id acc) s = .next t ∧ t.blk.cmd? id = none ∧
      t.mem = applyStores s.mem (s.unmapWrite c acc r).2.2.stores ∧
      (t.blk.fn c.fn).runs =
        (((s.tableWork c acc r).blk.fn c.fn).runs.map fun h => h.trim c.mapArgs.va c.mapArgs.bytes).flatten ∧
      (t.blk.fn c.fn).leaves = ((s.unmapWrite c acc r).2.2.blk.fn c.fn).leaves) ∧
  (∀ (s : State) (id va : Nat) (h : HostRun) (c : Cmd), CmdReady s id 0x0705 c →
    lowestRun (dfld c.desc 16 8) (s.blk.fn c.fn).runs = some h → h.convert (dfld c.desc 16 8) = some va →
    Answers (.addrConvert id) s (s.blk.begin.succeed id va 0)) ∧
  (∀ (s : State) (f : Nat), (s.blk.fn f).faults ≠ [] → Answers (.xlateBatchTimeout f) s (s.blk.begin.writeBatch f))

/-- LANE_INVOCATION: with a frame for the program and its source lines read, the program runs on them and its output moves. -/
def Parts.LaneInvocationsRun : Prop :=
  ∀ (s : State) (n h : Nat) (d : DmaDesc) (p : Program) (b : Block) (src : List SourceLine) (acc : Access) (data scales : Mover × Bytes)
      (out : List LineReg) (m y : Mover),
    s.blk.running n = some d → d.kind = .copy → d.prog = some h → s.blk.programs.get? h = some p →
    s.blk.begin.takeFrame n d h = some b → (src.any fun x => x.hostData = .err) = false →
    data = Mover.read d.skey (.data (src.map fun x => match x.hostData with
      | .data h => slice h 0 (lineBytes p.inFmt)
      | .err => []).flatten) (p.inl + 3)
      { p := { w := { s.waitWork with blk := b }, feed := (src.map fun x => x.lines {}).flatten ++ acc.rets }, d := d }
      (d.src + d.read) p.invBytes 0 →
    scales = data.1.readScale (.host (.data []) ((src.map SourceLine.scaleData).flatten)) (scaleBytes true d.sfmt d.read)
      (p.inl * lineBlocks d.sfmt) → scales.1.st = .ok →
    invoke p.code p.worst { pos := d.read, ctx := d.ctx.toNat } (invocationLines p data.2 scales.2) = .ok out →
    m = ({ scales.1.count 7 p.inFmt p.inl with
           d := { (scales.1.count 7 p.inFmt p.inl).d with read := (scales.1.count 7 p.inFmt p.inl).d.read + p.invBytes } } :
          Mover).release p out →
    y = m.flushAll n (m.d.read = m.d.len) 40 → y.st = .ok → AnswersOnce (.laneInvocation n src acc) s (y.moved n)

/-- The order of a shuffle: for every key and every number n of samples of at least 2, each position of the order is below n,
and no two positions hold the same sample: the order of an epoch is a permutation of the samples. -/
def Obligations.EpochOrdersArePermutations : Prop :=
  ∀ (rk : List Nat) (n : Nat), 2 ≤ n →
    (∀ i, i < n → shuffleOrder rk (shuffleHalf n) n (2 ^ (2 * shuffleHalf n)) (shufflePerm rk (shuffleHalf n) i) < n) ∧
    (∀ i j, i < n → j < n →
      shuffleOrder rk (shuffleHalf n) n (2 ^ (2 * shuffleHalf n)) (shufflePerm rk (shuffleHalf n) i) =
        shuffleOrder rk (shuffleHalf n) n (2 ^ (2 * shuffleHalf n)) (shufflePerm rk (shuffleHalf n) j) → i = j)

/-! ## Reports, licences and meters -/

/-- ATTEST_REPORT that fits its buffer writes the report; LICENSE_INSTALL and LICENSE_REVOKE whose checks pass send their
record to the store; METER_REPORT of a live record writes the report; TIME_ANCHOR sets the anchor; a period ends at its
boundary. -/
def Parts.ReportsAndLicences : Prop :=
  ∀ (s : State) (id : Nat) (c : Cmd),
    (∀ k, CmdReady s id 0x0801 c → s.blk.boot.entropyDown = false →
      k = (if c.ctx = 0 then ReportKind.block else ReportKind.context c.fn c.ctx) →
      (s.blk.begin.report k (dbytes c.desc 32 32)).length ≤ dfld c.desc 24 4 →
      Answers (.attestReport id) s
        (s.blk.begin.freshen.output id (dfld c.desc 16 8) (s.blk.begin.report k (dbytes c.desc 32 32)) .ok
          (s.blk.begin.report k (dbytes c.desc 32 32)).length 0)) ∧
    (∀ k, CmdReady s id 0x0901 c → s.blk.licenceBusy (bfld c.buf 4 4) = false →
      s.blk.installCheck c c.buf = .ok → s.blk.recordFor (bfld c.buf 4 4) = some k →
      ∃ t, exec (.licenseInstall id) s = .next t ∧ t.mem = s.mem ∧ t.blk.store = s.blk.store ∧ t.blk.keys = s.blk.keys ∧
        ∃ r, t.blk.seq.relays = s.blk.seq.relays ++ [r] ∧ r.live = true ∧
          r.what = .install id k (s.blk.installRecord c.buf c.fn k)
            { licence := BitVec.ofNat 32 (bfld c.buf 4 4), fn := c.fn, slot := 0, gen := 0
              uses := BitVec.ofNat 8 (bfld c.buf 10 1), destMask := BitVec.ofNat 8 (bfld c.buf 11 1)
              allowBytes := bfld c.buf 16 8, allowPushes := bfld c.buf 24 8, samples := bfld c.buf 48 8 }
            (BitVec.ofNat 256 (le (s.blk.contentKey c.buf))) (dfld c.desc 28 2) (licenceMask c.buf)) ∧
    (∀ k r rest, CmdReady s id 0x0902 c → s.blk.licenceBusy (bfld c.buf 4 4) = false → s.blk.revokeCheck c c.buf = .ok →
      s.blk.recordsOf (bfld c.buf 4 4) = (k, r) :: rest → r.state ≠ .revoked →
      ∃ t, exec (.licenseRevoke id) s = .next t ∧ t.mem = s.mem ∧ t.blk.store = s.blk.store ∧
        ∃ x, t.blk.seq.relays = s.blk.seq.relays ++ [x] ∧
          x.what = .revokeRecord id k { r with state := .revoked, lastWrite := s.blk.tick.toNat }) ∧
    (CmdReady s id 0x0902 c → s.blk.licenceBusy (bfld c.buf 4 4) = false → s.blk.revokeCheck c c.buf = .ok →
      s.blk.recordsOf (bfld c.buf 4 4) = [] →
      (s.blk.listed (bfld c.buf 4 4) (issuerOfKey (slice c.buf 64 2592)) = true →
        Answers (.licenseRevoke id) s (s.blk.begin.succeed id 0 0)) ∧
      (s.blk.listed (bfld c.buf 4 4) (issuerOfKey (slice c.buf 64 2592)) = false → s.blk.listBusy = false →
        s.blk.store.revoked.length < listEntries →
        Answers (.licenseRevoke id) s
          ((s.blk.begin.wait id).relayList (some id) (BitVec.ofNat 32 (bfld c.buf 4 4))
            (issuerOfKey (slice c.buf 64 2592)) none))) ∧
    (∀ k r closed x, CmdReady s id 0x0903 c → s.blk.licenceBusy (dfld c.desc 16 4) = false →
      s.blk.reportable c = some (k, r) → dfld c.desc 20 1 = bit closed → (closed = false → r.state ≠ .ended) →
      (closed = true → r.openNumber ≠ 0) → s.blk.boot.entropyDown = false →
      x = s.blk.begin.usageReport (s.blk.begin.usageHead r (s.blk.begin.meters.getD k {}) closed (dbytes c.desc 32 32)) →
      Answers (.meterReport id) s
        ((s.blk.begin.freshen.wait id).hostWrite c.fn (dfld c.desc 24 8) x (.meter id k r (BitVec.ofNat 64 x.length)))) ∧
    (CmdReady s id 0x0905 c →
      (s.blk.boot.storeOk = true → s.blk.boot.metersRead = false → s.blk.anchor.isSome = true →
        s.blk.wallAt (dfld c.desc 16 8) ≤ dfld c.desc 24 8 + 1000) →
      ∃ t, exec (.timeAnchor id) s = .next t ∧ t.mem = s.mem ∧ t.blk.cmd? id = none ∧
        t.blk.anchor = some { tick := dfld c.desc 16 8, wall := dfld c.desc 24 8 } ∧ t.blk.meters = s.blk.meters ∧
        t.blk.time = s.blk.time)

/-- A billing period that ends at its boundary: the record is turned, the period's counts start at zero, the life's stay. -/
def Parts.PeriodsTurn : Prop :=
  ∀ (s : State) (k : Nat) (m : Meter), ((s.blk.latestRecord k).state = .live ∨ (s.blk.latestRecord k).state = .revoked) →
    s.blk.boot.storeOk = true → s.blk.meters.get? k = some m →
    (s.blk.latestRecord k).openTick + (s.blk.latestRecord k).periodTicks ≤ s.blk.tick.toNat →
    ∃ t, exec (.periodBoundary k) s = .next t ∧ t.mem = s.mem ∧ t.blk.meters.get? k = some { m with period := {} } ∧
      t.blk.store = s.blk.store ∧ ∃ x, t.blk.seq.relays = s.blk.seq.relays ++ [x] ∧ ∃ r, x.what = .meter k r ∧
        r.openNumber = (s.blk.latestRecord k).openNumber + 1 ∧ r.closedCounts = m.period ∧
        r.openTick = (s.blk.latestRecord k).openTick + (s.blk.latestRecord k).periodTicks

/-! ## Recovery and the rake -/

/-- ENGINE_RESET of an engine that is not in reset puts it there, for the command that waits; one for an engine in reset
joins it. The reset's end clears it, sends ENGINE_RESET with its cause, and completes the commands; here for the governor,
the time unit and the ash streamer, whose resets hold no requests. -/
def Parts.EngineResets : Prop :=
  (∀ (s : State) (id : Nat) (c : Cmd), CmdReady s id 0x0C02 c → s.blk.build.engineBuilt (dfld c.desc 16 1) = true →
    dfld c.desc 16 1 ≠ 0x73 →
    (s.blk.resets.get? (dfld c.desc 16 1) = none →
      ∃ t, exec (.engineReset id) s = .next t ∧ t.mem = s.mem ∧
        t.blk.resets.get? (dfld c.desc 16 1) = some { cause := 1, cmds := [id] } ∧
        (∀ e, e ≠ dfld c.desc 16 1 → t.blk.resets.get? e = s.blk.resets.get? e) ∧ t.blk.keys = s.blk.keys ∧
        t.blk.ctxs = s.blk.ctxs ∧ t.blk.jobs = s.blk.jobs) ∧
    (∀ r, s.blk.resets.get? (dfld c.desc 16 1) = some r →
      Answers (.engineReset id) s
        { s.blk.begin.wait id with resets := s.blk.resets.put (dfld c.desc 16 1) { r with cmds := r.cmds ++ [id] } })) ∧
  (∀ (s : State) (e : Nat) (r : EngineReset) (feed : List LineReturn), s.blk.build.engineBuilt e = true →
    s.blk.pins.blockSafe = false → s.blk.build.mces ≤ 0x40 → s.blk.resets.get? e = some r →
    (e = 0x75 ∨ e = 0x76 ∨ e = 0x77) → (s.blk.mce e).held = [] →
    ∃ t, exec (.engineResetComplete e feed) s = .next t ∧ t.mem = s.mem ∧ t.blk.resets.get? e = none ∧
      t.blk.obs.events.getD 0x03 0 = satAdd64 (s.blk.obs.events.getD 0x03 0) 1 ∧ (∀ id ∈ r.cmds, t.blk.cmd? id = none) ∧
      t.blk.keys = s.blk.keys ∧ t.blk.ctxs = s.blk.ctxs)

/-- The bounds of the ladder: an engine that owes an acknowledgement is reset with cause 2; one whose drain does not end
takes the whole-block rung; a context whose kill does not end has its holders reset. -/
def Parts.MissedBoundsEscalate : Prop :=
  ∀ (s : State) (e : Nat), s.blk.pins.blockSafe = false →
    (s.blk.build.engineBuilt e = true → s.blk.owesAck e = true → s.blk.boot.seqReset = false → s.blk.resets.get? e = none →
      ∃ t, exec (.engineAckTimeout e) s = .next t ∧ t.mem = s.mem ∧ t.blk.resets.get? e = some { cause := 2, cmds := [] } ∧
        t.blk.keys = s.blk.keys ∧ t.blk.ctxs = s.blk.ctxs) ∧
    (s.blk.build.engineBuilt e = true → Tab.has s.blk.resets e = true → ((s.blk.mce e).held.any fun o => o.write) = true →
      ∃ t, exec (.engineDrainTimeout e) s = .next t ∧ t.mem = s.mem ∧ t.blk.pins.alarmFatal = true ∧
        t.blk.pins.blockSafe = true ∧ t.blk.keys = {}) ∧
    (∀ ctx : BitVec 16, List.contains s.blk.seq.killing ctx.toNat = true →
      Answers (.contextKillTimeout ctx) s
        ((({ s.blk.begin with seq := { s.blk.seq with killing := s.blk.seq.killing.filter fun c => c ≠ ctx.toNat } } : Block)).resetHolders
          (s.blk.holders ctx.toNat)))

/-- The ember beats and is counted, HEARTBEAT_CONFIG chooses where beats and barks go, a bark puts the sequencer in reset
unless it is the third within a second, the restart of a sequencer with the same digest ends the reset, and the leak takes
one from every bucket. -/
def Parts.EmberAndWatchdog : Prop :=
  (∀ (s : State) (id : Nat) (c : Cmd), CmdReady s id 0x0C05 c →
    ∃ t, exec (.heartbeatConfig id) s = .next t ∧ t.mem = s.mem ∧ t.blk.cmd? id = none ∧
      t.blk.obs.hbAsh = (dfld c.desc 16 1).testBit 0 ∧ t.blk.obs.hbIrq = (dfld c.desc 16 1).testBit 1 ∧
      t.blk.obs.hbVector = BitVec.ofNat 11 (dfld c.desc 18 2) ∧ t.blk.obs.events = s.blk.obs.events) ∧
  (∀ (s : State), s.blk.firmware = true →
    (∃ t, exec .ember s = .next t ∧ t.mem = s.mem ∧ t.blk.obs.beats = s.blk.obs.beats + 1 ∧
      t.blk.obs.events.getD 0x01 0 =
        (if s.blk.obs.hbAsh then satAdd64 (s.blk.obs.events.getD 0x01 0) 1 else s.blk.obs.events.getD 0x01 0) ∧
      t.blk.seq.cmds = s.blk.seq.cmds) ∧
    ((withinSecond s.blk.tick s.blk.obs.recentDogs).length < 2 →
      ∃ t, exec .watchdog s = .next t ∧ t.mem = s.mem ∧ t.blk.boot.seqReset = true ∧
        t.blk.obs.watchdogs = s.blk.obs.watchdogs + 1 ∧ t.blk.seq = s.blk.seq ∧ t.blk.keys = s.blk.keys) ∧
    (2 ≤ (withinSecond s.blk.tick s.blk.obs.recentDogs).length →
      ∃ t, exec .watchdog s = .next t ∧ t.mem = s.mem ∧ t.blk.pins.alarmFatal = true ∧ t.blk.pins.blockSafe = true)) ∧
  (∀ (s : State), s.blk.boot.seqReset = true → s.blk.pins.blockSafe = false →
    (s.blk.resets.get? 0x74 = none → s.blk.seq.kills = [] → s.blk.seq.heldWrites = [] →
      ∃ t, exec (.sequencerRestart true) s = .next t ∧ t.mem = s.mem ∧ t.blk.boot.seqReset = false ∧
        t.blk.keys.slots = s.blk.keys.slots ∧ t.blk.ctxs = s.blk.ctxs ∧ t.blk.seq.kills = [] ∧
        (∀ e ∈ t.blk.seq.cmds, e.2.uncommitted = false ∨ s.blk.boot.lcJob = some e.1)) ∧
    (∃ t, exec (.sequencerRestart false) s = .next t ∧ t.mem = s.mem ∧ t.blk.pins.alarmFatal = true ∧
      t.blk.pins.blockSafe = true)) ∧
  (∀ (s : State),
    Answers .eccLeak s
      { s.blk with
        out := []
        obs := { s.blk.obs with
                 buckets := (s.blk.obs.buckets.map fun (x : Nat × Nat) => (x.1, x.2 - 1)).filter fun x => x.2 ≠ 0 } })

/-- SCRUB_RANGE over a range that the caller may name starts a pass, RAKE_LINE reads its next line, and SCRUB_SRAM, for the
PF alone, reports what a pass over the block's SRAMs meets. -/
def Parts.RakePasses : Prop :=
  (∀ (s : State) (id : Nat) (c : Cmd), CmdReady s id 0x0C01 c → dfld c.desc 40 1 = 0 → dfld c.desc 16 8 % 128 = 0 →
    dfld c.desc 24 8 % 128 = 0 → 128 ≤ dfld c.desc 24 8 → s.blk.rangeData (dfld c.desc 16 8) (dfld c.desc 24 8) = true →
    (c.fn = 0 ∨ s.blk.ownsRegions c.fn (dfld c.desc 16 8) (dfld c.desc 24 8) = true) →
    Answers (.scrubRange id) s
      ((s.blk.begin.wait id).rakeGoes
        { cmd := id, next := dfld c.desc 16 8, stop := dfld c.desc 16 8 + dfld c.desc 24 8, fn := c.fn, vf := c.fn ≠ 0 })) ∧
  (∀ (s : State) (id : Nat) (k : Rake) (t : Tier) (ret : LineReturn),
    (s.blk.seq.rakes.find? fun x => x.cmd = id).map (s.blk.rakeSkip (regionCount + 1)) = some k → k.next < k.stop →
    s.blk.build.dataTier k.next = some t → s.blk.passFree (regionOf k.next) (t.mce k.next) [k.next] = true →
    AnswersWork (.rakeLine id ret) s (s.work.rakeAt k (t.mce k.next) t ret)) ∧
  (∀ (s : State) (id : Nat) (c : Cmd), CmdReady s id 0x0C01 c → dfld c.desc 40 1 = 1 → c.fn = 0 → dfld c.desc 16 8 = 0 →
    dfld c.desc 24 8 = 0 → s.blk.forgedSlots = [] →
    Answers (.scrubSram id []) s
      (((s.blk.begin.wait id).rakeEnds id (Config.open64 18 s.blk.fresh).toNat 0 0 0).freshen))

/-! ## What the shared computations promise -/

/-- Counter nodes: raising the count of a child raises it strictly, lowers no other child's count, and changes no other
count unless the minors start over; it fails only where MAJOR would reach 2^49; and a node's 64 stored
bytes hold MAJOR in bits 48 to 0 of the first 8 with zeros above, minor i in bits 6i + 5 to 6i of the next 48, and the MAC in the
last 8, from which the node reads back. -/
def Obligations.CountersOnlyRise : Prop :=
  ∀ (n : Node) (i : Nat), i < 64 →
    (n.lift i = none ↔ (n.minor i = 63 ∧ n.major.toNat + 1 = 2 ^ 49)) ∧
    (∀ n' again, n.lift i = some (n', again) →
      n.counter i < n'.counter i ∧ (∀ j, j < 64 → n.counter j ≤ n'.counter j) ∧
      (again = false → n'.counter i = n.counter i + 1 ∧ ∀ j, j < 64 → j ≠ i → n'.counter j = n.counter j) ∧
      (again = true → n'.major = n.major + 1 ∧ n'.minors = 0)) ∧
    (∀ mac : Bytes, mac.length = 8 →
      Node.ofStored (n.stored mac) = n ∧ fld (n.stored mac).toNat 0 49 = n.major.toNat ∧ fld (n.stored mac).toNat 49 15 = 0 ∧
      fld (n.stored mac).toNat (64 + 6 * i) 6 = n.minor i ∧ toLe 8 (fld (n.stored mac).toNat 448 64) = mac)

/-- Scrambling is its own inverse: what is read of a scrambled run under the same address and keys is what was written. -/
def Obligations.ScrambleUndoesItself : Prop :=
  ∀ (a k0 k1 n x : Nat), scramble a k0 k1 n (scramble a k0 k1 n x) = x % 2 ^ (64 * n) ∧ scramble a k0 k1 n x < 2 ^ (64 * n)

/-! ## Statements with several parts -/

/-- Both mailboxes of a page: who posts, who clears, the interrupt of a rise, and the register as it reads and is written. -/
def Obligations.MailboxesPostAndClear : Prop :=
  Parts.UpMailboxPostsAndClears ∧ Parts.DownMailboxPostsAndClears ∧ Parts.MailboxRegister

/-- Accesses that R47 refuses change nothing but what reports them, and reads that reach a register answer with it. -/
def Obligations.RegisterAccessesFollowTheMap : Prop := Parts.RefusedAccessesChangeNothing ∧ Parts.ReachedReadsAnswer

/-- Errors that the host chip returns to record writes and descriptor fetches. -/
def Obligations.HostErrorsOfQueues : Prop := Parts.RecordWriteFault ∧ Parts.DescriptorFetchFault

/-- Fetched descriptors, answers of the host chip to record writes, interrupt coalescing, event notices and the answers of the
public-key engine. -/
def Obligations.QueuesMove : Prop :=
  Parts.DescriptorsEnterOrFail ∧ Parts.RecordResponsesAdvanceTheQueue ∧ Parts.NotificationsAndEngineAnswers

/-- The fence record of each signalling command, and the sixteen bytes that it stores. -/
def Obligations.FenceCommandsSignal : Prop := Parts.FenceCommandsWriteTheRecord ∧ Parts.FenceWaitsReleased ∧ Parts.FenceCommandsStoreSixteenBytes

/-- Activity and telemetry reports, the end of a calibration, and the start of a bandwidth window. -/
def Obligations.GovernorAccounts : Prop := Parts.GovernorReports ∧ Parts.CalibrationEndClampsTheFactor ∧ Parts.BandwidthWindowsStartAnew

/-- Power and bandwidth partitions, rail requests and the canaries. -/
def Obligations.PartitionsAndRails : Prop := Parts.PartitionCommands ∧ Parts.RailRequests ∧ Parts.CanariesSetTheNeed

/-- Cipher pages and the events of the entropy source. -/
def Obligations.CipherPagesAndEntropy : Prop := Parts.CipherPagesRun ∧ Parts.EntropySourceEvents

/-- Life-cycle transitions and the opening of debug. -/
def Obligations.LifeCycleAndDebug : Prop := Parts.LifeCycleTransition ∧ Parts.DebugOpens

/-- Shells whose clock stops take nothing and hold what they would put out, and resume without loss. -/
def Obligations.StoppedShellsLoseNothing : Prop := Parts.StoppedShellsTakeNothing ∧ Parts.ShellClocksLoseNothing

/-- The twelve SPDM requests, in and out of order. -/
def Obligations.SpdmRequests : Prop := Parts.SpdmNegotiation ∧ Parts.SpdmAnswers ∧ Parts.SpdmSessions

/-- Contexts are opened, closed and killed. -/
def Obligations.ContextCommands : Prop := Parts.ContextOpen ∧ Parts.ContextCloseAndKill

/-- Losses and warnings of power, and the last rung of the ladder. -/
def Obligations.PowerEvents : Prop := Parts.PowerLossKeepsOnlyWhatLasts ∧ Parts.WarningShutsTheBlockDown ∧ Parts.PowerCycleRequests

/-- Kindling starts cold, runs its steps in order, and stops at a step that fails. -/
def Obligations.KindlingRuns : Prop := Parts.KindlingStartsCold ∧ Parts.KindlingStepsComplete ∧ Parts.FailedKindlingStepStops

/-- The background passes over regions, and the traffic generator. -/
def Obligations.RegionPassesRun : Prop := Parts.RegionPasses ∧ Parts.TrafficGeneratorRuns

/-- What the memory controller returns: data, credits, occupancy, and nothing in time. -/
def Obligations.ControllerAnswers : Prop := Parts.ReadReturns ∧ Parts.ControllerSignals ∧ Parts.TierOneTimeouts

/-- Requests at a fabric port start, or are answered with the status of the check that they fail. -/
def Obligations.LinkRequests : Prop := Parts.LinkRequestsEnter ∧ Parts.LinkRequestsComplete ∧ Parts.RefusedLinkRequests

/-- Deadlines, credits and keys of a link, and the arithmetic of ATOMIC. -/
def Obligations.LinkEventsAndAtomics : Prop := Parts.LinkEvents ∧ Parts.AtomicOperations

/-- The nine admission messages. -/
def Obligations.AdmissionRows : Prop := 
  Parts.AdmissionMessages ∧ Parts.AdmissionCompletes ∧ Parts.MembershipMessages ∧ Parts.MembershipCompletes

/-- Links rise and fall, admission is retried, and domains are joined and left. -/
def Obligations.LinksAndDomains : Prop := Parts.LinksAndRetries ∧ Parts.DomainsAreJoinedAndLeft

/-- The commands of a reduction, its retirement, and rounding to the nearest. -/
def Obligations.KilnRuns : Prop := Parts.KilnCommands ∧ Parts.RoundToNearestEven

/-- Sealed DMA: its commands, walks, lines, chunks and invocations, and the translation table. -/
def Obligations.DmaMoves : Prop := Parts.DmaDescriptorsEnter ∧ Parts.DmaDescriptorsMove ∧ Parts.LaneInvocationsRun ∧ Parts.TranslationCommands

/-- Reports, licences, the anchor of wall time, and billing periods. -/
def Obligations.LicencesAndMeters : Prop := Parts.ReportsAndLicences ∧ Parts.PeriodsTurn

/-- Engine resets, the bounds of the ladder, the ember and the watchdog, and the rake. -/
def Obligations.Recovery : Prop := Parts.EngineResets ∧ Parts.MissedBoundsEscalate ∧ Parts.EmberAndWatchdog ∧ Parts.RakePasses
end

