-- ==== Sys2Proof/Laws/Seal.lean ====
section
/-! SUPPORT. The laws of byte strings and of sealing: what bytes and numbers are to each other, and that what was sealed
opens. -/

namespace Sys2Proof.Machine

open Sys2Proof Sys2Proof.Machine.Crypto

/-! ## Bytes and numbers -/

@[simp] theorem toLe_length (n x : Nat) : (toLe n x).length = n := by
  induction n generalizing x with
  | zero => rfl
  | succ n ih => rw [toLe, List.length_cons, ih]

@[simp] theorem toBe_length (n x : Nat) : (toBe n x).length = n := by rw [toBe, List.length_reverse, toLe_length]

theorem toLe_le (b : Bytes) : toLe b.length (le b) = b := by
  induction b with
  | nil => rfl
  | cons x b ih =>
    have hx := x.isLt
    have h : le (x :: b) = x.toNat + 256 * le b := rfl
    rw [List.length_cons, toLe, h]
    congr 1
    · apply BitVec.eq_of_toNat_eq
      rw [BitVec.toNat_ofNat]
      omega
    · rw [show (x.toNat + 256 * le b) / 256 = le b by omega, ih]

theorem le_lt (b : Bytes) : le b < 256 ^ b.length := by
  induction b with
  | nil => exact Nat.one_pos
  | cons x b ih =>
    have hx := x.isLt
    have h : le (x :: b) = x.toNat + 256 * le b := rfl
    rw [List.length_cons, Nat.pow_succ, h]
    omega

/-- A byte string through a bit vector that is as wide. -/
theorem toLe_ofNat_le {b : Bytes} {w : Nat} (h : 8 * b.length = w) : toLe b.length (BitVec.ofNat w (le b)).toNat = b := by
  have := le_lt b
  rw [BitVec.toNat_ofNat, Nat.mod_eq_of_lt, toLe_le]
  rw [← h, Nat.pow_mul]
  exact this

theorem xorBytes_length (a b : Bytes) (h : a.length ≤ b.length) : (xorBytes a b).length = a.length := by
  rw [xorBytes, List.length_zipWith, Nat.min_eq_left h]

theorem xorBytes_xorBytes (a b : Bytes) (h : a.length ≤ b.length) : xorBytes (xorBytes a b) b = a := by
  induction a generalizing b with
  | nil => rfl
  | cons x a ih =>
    cases b with
    | nil => exact absurd h (by simp)
    | cons y b =>
      have e : xorBytes (x :: a) (y :: b) = (x ^^^ y) :: xorBytes a b := rfl
      have e2 : xorBytes ((x ^^^ y) :: xorBytes a b) (y :: b) = ((x ^^^ y) ^^^ y) :: xorBytes (xorBytes a b) b := rfl
      rw [e, e2, ih b (by simpa using h), BitVec.xor_assoc, BitVec.xor_self, BitVec.xor_zero]

/-! ## GCM -/

theorem ctrStream_length (rk : List Nat) (iv : Bytes) (n c : Nat) : (ctrStream rk iv n c).length = 16 * n := by
  induction n generalizing c with
  | zero => rfl
  | succ n ih => rw [ctrStream, List.length_append, ih, aesBlock, toLe_length]; omega

theorem ctrFrom_length (rk : List Nat) (iv : Bytes) (c : Nat) (t : Bytes) : (ctrFrom rk iv c t).length = t.length :=
  xorBytes_length _ _ (by rw [ctrStream_length]; omega)

theorem ctrFrom_ctrFrom (rk : List Nat) (iv : Bytes) (c : Nat) (t : Bytes) : ctrFrom rk iv c (ctrFrom rk iv c t) = t := by
  rw [ctrFrom, ctrFrom_length]
  exact xorBytes_xorBytes _ _ (by rw [ctrStream_length]; omega)

theorem gcmTag_length (rk : List Nat) (iv aad ct : Bytes) : (gcmTag rk iv aad ct).length = 16 := by
  rw [gcmTag, xorBytes_length, toBe_length]
  rw [toBe_length, aesBlock, toLe_length]

/-- What AES-256-GCM sealed opens under the same key, IV and additional data. -/
theorem gcmOpen_gcmSeal (key : Nat) (iv aad pt : Bytes) :
    gcmOpen key iv aad (gcmSeal key iv aad pt).1 (gcmSeal key iv aad pt).2 = some pt := by
  rw [gcmOpen, gcmSeal]
  exact (if_pos rfl).trans (congrArg some (ctrFrom_ctrFrom _ _ _ _))

/-! ## Packets -/

theorem sealPacket_length (key : Nat) (h : Hdr) (p : Bytes) : (sealPacket key h p).1.length = p.length := by
  rw [sealPacket]
  split
  · rfl
  · exact ctrFrom_length _ _ _ _

theorem sealPacket_tag (key : Nat) (h : Hdr) (p : Bytes) : (sealPacket key h p).2.length = 16 := by
  rw [sealPacket]
  split
  · exact gcmTag_length _ _ _ _
  · exact gcmTag_length _ _ _ _

/-- What an LPE sealed under a key opens under it (R176). -/
theorem openPacket_sealPacket (key : Nat) (h : Hdr) (p : Bytes) (hh : Hdr.read h.bits = h) :
    openPacket key h.bits (sealPacket key h p).1 (sealPacket key h p).2 = some p := by
  unfold openPacket sealPacket
  simp only [hh]
  split
  · exact congrArg (Option.map fun _ => p) (gcmOpen_gcmSeal key h.iv (hdrBytes h.bits ++ p) [])
  · exact gcmOpen_gcmSeal _ _ _ _

/-- A byte string of whole units is the bytes of its units. -/
theorem unitBytes_toUnits (b : Bytes) (n : Nat) (h : b.length = 64 * n) : unitBytes (toUnits b) = b := by
  have go : ∀ (n f : Nat) (b : Bytes), b.length = 64 * n → n ≤ f →
      (((pieces 64 f b).map fun x => BitVec.ofNat 512 (le x)).map fun x => toLe 64 x.toNat).flatten = b := by
    intro n
    induction n with
    | zero =>
      intro f b h _
      have : b = [] := List.eq_nil_of_length_eq_zero (by omega)
      subst this
      cases f <;> rfl
    | succ n ih =>
      intro f b h hf
      cases f with
      | zero => omega
      | succ f =>
        have hb : b.isEmpty = false := by
          cases b with
          | nil => simp at h
          | cons _ _ => rfl
        have ht : (b.take 64).length = 64 := by rw [List.length_take]; omega
        have hd : (b.drop 64).length = 64 * n := by rw [List.length_drop]; omega
        have e := toLe_ofNat_le (b := b.take 64) (w := 512) (by rw [ht])
        rw [ht] at e
        rw [pieces, hb]
        simp only [Bool.false_eq_true, if_false, List.map_cons, List.flatten_cons]
        rw [ih f _ hd (by omega), e, List.take_append_drop]
  exact go n b.length b h (by omega)

theorem toUnits_length (b : Bytes) (n : Nat) (h : b.length = 64 * n) : (toUnits b).length = n := by
  have go : ∀ (n f : Nat) (b : Bytes), b.length = 64 * n → n ≤ f → (pieces 64 f b).length = n := by
    intro n
    induction n with
    | zero =>
      intro f b h _
      have : b = [] := List.eq_nil_of_length_eq_zero (by omega)
      subst this
      cases f <;> rfl
    | succ n ih =>
      intro f b h hf
      cases f with
      | zero => omega
      | succ f =>
        have hb : b.isEmpty = false := by
          cases b with
          | nil => simp at h
          | cons _ _ => rfl
        have hd : (b.drop 64).length = 64 * n := by rw [List.length_drop]; omega
        rw [pieces, hb]
        simp only [Bool.false_eq_true, if_false, List.length_cons]
        rw [ih f _ hd (by omega)]
  rw [toUnits, List.length_map, split, go n b.length b h (by omega)]

/-- A packet as it crosses, sealed under a key, opens to what was sealed. -/
theorem openPacket_crossed (key : Nat) (h : Hdr) (p : Bytes) (n : Nat) (hh : Hdr.read h.bits = h) (hp : p.length = 64 * n) :
    openPacket key h.bits (unitBytes (toUnits (sealPacket key h p).1))
      (toLe 16 (BitVec.ofNat 128 (le (sealPacket key h p).2)).toNat) = some p := by
  have e := toLe_ofNat_le (b := (sealPacket key h p).2) (w := 128) (by rw [sealPacket_tag])
  rw [sealPacket_tag] at e
  rw [e, unitBytes_toUnits _ n (by rw [sealPacket_length]; exact hp)]
  exact openPacket_sealPacket key h p hh

end Sys2Proof.Machine
end

