-- ==== Sys2Proof/Tests/Slice0.lean ====
section
/-! SUPPORT. The modeller's own tests: ill-formed commands that the check refuses, small steps worked out by hand from the
spec, and for every statement with hypotheses a concrete state and operands that meet them. -/

namespace Sys2Proof.Tests

open Sys2Proof Sys2Proof.Machine Sys2Proof.Machine.Crypto

set_option Elab.async false

/-! ## Ill-formed commands -/

theorem test_wf_mce : Instr.wf (.controllerCredit 64 true) = false := by decide +kernel
theorem test_wf_lpe : Instr.wf (.lphyUpRise 32) = false := by decide +kernel
theorem test_wf_engine : Instr.wf (.dropOrder 0x6A) = false := by decide +kernel
theorem test_wf_engine_top : Instr.wf (.dropAck 0x78) = false := by decide +kernel
theorem test_wf_fn : Instr.wf (.refusedRead 256 0) = false := by decide +kernel
theorem test_wf_qp : Instr.wf (.doorbellWrite 0 65536 0) = false := by decide +kernel
theorem test_wf_off_align : Instr.wf (.registerWrite 0 4 0) = false := by decide +kernel
theorem test_wf_off_range : Instr.wf (.registerWrite 0 0x80_0000 0) = false := by decide +kernel
theorem test_wf_region : Instr.wf (.bindLineWrite 16384 0 []) = false := by decide +kernel
theorem test_wf_slot : Instr.wf (.keySweep 16384) = false := by decide +kernel
theorem test_wf_dest : Instr.wf (.kxpDone 4) = false := by decide +kernel
theorem test_wf_dslot : Instr.wf (.leaseExpiry 0 256) = false := by decide +kernel
theorem test_wf_record : Instr.wf (.periodBoundary 256) = false := by decide +kernel
theorem test_wf_reduction : Instr.wf (.windowRetired 8 {}) = false := by decide +kernel
theorem test_wf_nodes : Instr.wf (.rakeLine 0 { nodes := [{}, {}, {}, {}, {}, {}] }) = false := by decide +kernel
theorem test_wf_access : Instr.wf (.signal 0 { rets := [{ nodes := [{}, {}, {}, {}, {}, {}] }] }) = false := by decide +kernel
theorem test_wf_scale : Instr.wf (.dmaLine 0 (.host .err (List.replicate 129 0)) {}) = false := by decide +kernel
theorem test_wf_mem_req : Instr.wf (.mreqRead { mce := 64, addr := 0 }) = false := by decide +kernel
theorem test_wf_link_req : Instr.wf (.lreqLoad { lpe := 32 } {}) = false := by decide +kernel
theorem test_wf_beats : Instr.wf (.lreqStore { lpe := 0, len := 0 } [] {}) = false := by decide +kernel
theorem test_wf_payload : Instr.wf (.rxStore { lpe := 0, hdr := 0, payload := List.replicate 65 0 } {}) = false := by decide +kernel
theorem test_wf_packet_lpe : Instr.wf (.malformedPacket 1 { lpe := 0, hdr := 0 } 0) = false := by decide +kernel
theorem test_wf_sram : Instr.wf (.scrubSram 0 [⟨10, 0, true⟩]) = false := by decide +kernel
theorem test_wf_canary : Instr.wf (.canaryMeasure [⟨0x60, 0, 0⟩]) = false := by decide +kernel
theorem test_wf_shell : Instr.wf (.shellClockStop (.lphy 32)) = false := by decide +kernel
theorem test_wf_flash : ∀ b : Bytes, b.length = 2 ^ 24 + 1 → Instr.wf (.patchVerify 0 ⟨b⟩) = false := by
  intro b h
  show decide (b.length ≤ 2 ^ 24) = false
  rw [h]
  decide
theorem test_wf_good : Instr.wf (.registerWrite 255 0x47_FFF8 0) = true := by decide +kernel

/-- The table gives no bits: no word spells a command, and the queue stays. -/
theorem test_no_words : decodeTableWord 32 7 = none ∧ State.reset.withFetchWord 32 7 = State.reset := by decide +kernel

/-- On an empty queue a block that is safe stays as it is but for the crossings shown. -/
theorem test_idle_safe : step State.reset = .next State.reset := by rfl

/-! ## States of the tests -/

/-- A descriptor from (byte offset, value) pairs. -/
def desc (l : List (Nat × Nat)) : Descriptor := BitVec.ofNat 512 (l.foldl (fun a e => a + e.2 <<< (8 * e.1)) 0)

/-- A command that is ready. -/
def cmd (l : List (Nat × Nat)) (buf : Bytes := []) (fn : Nat := 0) : Cmd :=
  { qp := 0, fn := fn, sqIdx := 0, desc := desc l, stage := .ready, buf := buf }

/-- A block that serves: a Production part, PF and one VF, and an enabled queue pair of the PF. -/
def up : Block :=
  { pins := { porN := true, pwrGood := true, blockSafe := false }
    boot := { lc := .production, step := 7, ready := true, storeOk := true }
    fns := [(0, FnPage.pfReset), (1, { qpBase := 64, qpCount := 64, msix := 64, enabled := true, keyQuota := 100, regionHi := 0x3FFF })]
    qps := [(0, { enabled := true, vector := 5, sqTail := 3 })] }

/-- A state with a block. -/
def st (b : Block) : State := { blk := b }

/-- A state whose command 7 is ready. -/
def withCmd (b : Block) (c : Cmd) : State := st { b with seq := { b.seq with cmds := [(7, c)] } }

theorem up_hcpOpen : HcpOpen (st up) := ⟨rfl, rfl, rfl⟩

theorem reset_inv : State.reset.Inv := by rfl

/-- A pair from its first part. -/
theorem eta2 {α β : Type} {p : α × β} {a : α} (h : p.1 = a) : p = (a, p.2) := by rw [← h]

/-- A triple from its first part. -/
theorem eta3 {α β γ : Type} {p : α × β × γ} {a : α} (h : p.1 = a) : p = (a, p.2.1, p.2.2) := by rw [← h]

/-- A row whose accesses may wait answers a next state either way. -/
theorem onMemoryWait_next (s : State) (f : Work → Work) : ∃ t, onMemoryWait s f = .next t := by
  unfold onMemoryWait
  dsimp only
  split
  · exact ⟨_, rfl⟩
  · exact ⟨_, rfl⟩

theorem ready {s : State} {id op : Nat} {c : Cmd} (h : s.blk.runnable id op = some c) : CmdReady s id op c := h

/-- A slot with its MAC under the slot-protection key 0. -/
def sealSlot (n : Nat) (s : KeySlot) : KeySlot := { s with mac := slotMac 0 s n }

/-- Slot 0 as the root of every chain. -/
def rootSlot : KeySlot := sealSlot 0 { attr := makeAttr useV 0 2 false false false }

/-- A key of a function directly under slot 0: a 256-bit key of level 3 for every engine. -/
def keySlot (n usage fn : Nat) (exportable : Bool) : KeySlot :=
  sealSlot n
    { attr := makeAttr usage 3 1 false exportable true, mask := 0xFFFF, ownerFn := BitVec.ofNat 8 fn, parentSlot := 0, parentGen := 1
      material := 0x55 }

/-- The little-endian words of a byte string, padded with zeros to a length. -/
def bytes (n : Nat) (l : List (Nat × Nat)) : Bytes := toLe n (l.foldl (fun a e => a + e.2 <<< (8 * e.1)) 0)

theorem bytes_length (n : Nat) (l : List (Nat × Nat)) : (bytes n l).length = n := by
  have h : ∀ k x, (toLe k x).length = k := by
    intro k
    induction k with
    | zero => intro x; rfl
    | succ k ih => intro x; rw [toLe, List.length_cons, ih]
  exact h n _

/-- A byte string of a head and zeros. -/
def padded (n m : Nat) (l : List (Nat × Nat)) : Bytes := bytes n l ++ List.replicate m 0

theorem padded_length (n m : Nat) (l : List (Nat × Nat)) : (padded n m l).length = n + m := by
  rw [padded, List.length_append, bytes_length, List.length_replicate]

theorem slice_left {a b : Bytes} {off n : Nat} (h : off + n ≤ a.length) : slice (a ++ b) off n = slice a off n := by
  have e : ((a ++ b).drop off).take n = (a.drop off).take n := by
    rw [List.drop_append_of_le_length (by omega), List.take_append_of_le_length (by rw [List.length_drop]; omega)]
  rw [slice, slice, e]

theorem slice_right {a b : Bytes} {off n : Nat} (h : a.length ≤ off) : slice (a ++ b) off n = slice b (off - a.length) n := by
  have e : (a ++ b).drop off = b.drop (off - a.length) := by rw [List.drop_append, List.drop_of_length_le h, List.nil_append]
  rw [slice, slice, e]

theorem slice_all (d : Bytes) : slice d 0 d.length = d := by
  rw [slice, List.drop_zero, List.take_length, Nat.sub_self, List.replicate_zero, List.append_nil]

theorem slice_length (b : Bytes) (off n : Nat) : (slice b off n).length = n := by
  rw [slice, List.length_append, List.length_replicate]
  have : ((b.drop off).take n).length ≤ n := List.length_take_le _ _
  omega

theorem sha384_length (m : Bytes) : (sha384 m).length = 48 := by
  rw [sha384]
  simp only [List.length_flatten, List.map_map, Function.comp_def, toBe_length]
  rfl

theorem sha256_length (m : Bytes) : (sha256 m).length = 32 := by
  rw [sha256]
  simp only [List.length_flatten, List.map_map, Function.comp_def, toBe_length]
  rfl

theorem hmac256_length (k m : Bytes) : (hmac256 k m).length = 32 := by rw [hmac256]; exact sha256_length _

/-- Command 7 of a block is ready when it is a command of the opcode that stands so. -/
theorem readyCmd {b : Block} {c : Cmd} {op : Nat}
    (h : c.opcode = op ∧ c.stage = .ready ∧ c.pkhLeft = 0 ∧ !b.boot.seqReset ∧ !b.pins.blockSafe) : CmdReady (withCmd b c) 7 op c := by
  show Block.runnable _ 7 op = some c
  simp only [Block.runnable, withCmd, st, Block.cmd?]
  exact if_pos h

/-! ## The register window -/

theorem witness_mailboxes : HcpOpen (st up) ∧ 0 < 1 ∧ 1 < 256 := ⟨up_hcpOpen, by decide +kernel⟩

theorem witness_mailbox_register :
    (HcpOpen (st up) ∧ 0 < 1 ∧ 255 < 256 ∧ (1 = 1 ∨ 1 = 0)) ∧
    ((up.modFn 1 fun p => { p with upPost := true, downPost := true }).fn 1).upPost = true ∧
    ((up.modFn 1 fun p => { p with upPost := true, downPost := true }).fn 1).downPost = true ∧
    (HcpOpen (st up) ∧ 0x7F8 % 8 = 0 ∧ (0x7F8 < 0x800 ∨ 0x7F8 = 0xC40)) :=
  ⟨⟨up_hcpOpen, by decide +kernel⟩, by decide +kernel, by decide +kernel, up_hcpOpen, by decide +kernel⟩

theorem witness_fault_queue_control :
    HcpOpen (st up) ∧ 255 < 256 ∧ (0 = 255 ∨ 0 = 0) ∧ (6 ≤ rfld 0x26 0 5 ∧ rfld 0x26 0 5 ≤ 16) ∧
    (6 ≤ rfld 0x30 0 5 ∧ rfld 0x30 0 5 ≤ 16) ∧ rfld 5 0 5 < 6 ∧ 16 < rfld 17 0 5 :=
  ⟨up_hcpOpen, by decide +kernel⟩

/-- CX_FN_ALLOC with one queue pair, one vector and ENABLE. -/
def allocValue (qpBase : Nat) : BitVec 64 := BitVec.ofNat 64 (qpBase + 1 <<< 16 + 1 <<< 33 + 1 <<< 63)

theorem witness_enable :
    (HcpOpen (st up) ∧ 2 < 256 ∧ (up.fn 2).enabled = false ∧ rbit (allocValue 200) 63 = true) ∧
    (HcpOpen (st up) ∧ 1 < 256 ∧ (up.fn 1).enabled = true ∧ rbit ((up.fn 1).alloc &&& 0x7FFF_FFFF_FFFF_FFFF) 63 = false ∧
      rfld ((up.fn 1).alloc &&& 0x7FFF_FFFF_FFFF_FFFF) 0 45 = rfld (up.fn 1).alloc 0 45) :=
  ⟨⟨up_hcpOpen, by decide +kernel⟩, up_hcpOpen, by decide +kernel⟩

theorem witness_doorbells :
    (HcpOpen (st up) ∧ 0 < 65536 ∧ up.qpOwner 0 = some 0 ∧ up.boot.seqReset = false) ∧
    up.qpOwner 1 = some 0 ∧ ({ up with boot := { up.boot with seqReset := true } } : Block).boot.seqReset = true ∧
    ((up.qp 0).enabled = true ∧ rfld 0x3_003F_003F 0 16 < 2 ^ (up.qp 0).sqLog2 ∧ rfld 0x3_003F_003F 16 16 < 2 ^ (up.qp 0).cqLog2) ∧
    (rbit 0x1_0000_0040 32 = true ∧ 2 ^ (up.qp 0).sqLog2 ≤ rfld 0x1_0000_0040 0 16) ∧
    (rbit 0x2_0040_0000 33 = true ∧ 2 ^ (up.qp 0).cqLog2 ≤ rfld 0x2_0040_0000 16 16) ∧
    (up.qpOwner 1 = some 0 ∧ (up.qp 1).enabled = false) :=
  ⟨⟨up_hcpOpen, by decide +kernel⟩, by decide +kernel⟩

/-- A queue table entry: bases 0x1000 and 0x2000, rings of 2^6, vector 1. -/
def queueEntry : Bytes := toLe 8 0x1000 ++ toLe 8 0x2000 ++ [6, 6, 1, 0] ++ List.replicate 44 0

theorem witness_queue_pairs :
    (HcpOpen (st up) ∧ 0 < 256 ∧ up.boot.ready = true ∧ up.boot.seqReset = false ∧ (up.fn 0).qpCtlBusy = false ∧
      (up.fn 0).holdsQp 1 = true ∧ (up.qp 1).enabled = false ∧ up.seq.reads.lowest hcpTags = some 0 ∧ (up.fn 0).holdsQp 0 = true ∧ (up.qp 0).enabled = true) ∧
    (∃ b : Block, b = ({ up.modFn 0 fun p => { p with qpCtlBusy := true } with seq := { reads := [(4, .queueEntry 0 1)] } } : Block) ∧
      PortOpen .hcp (st b) ∧ b.seq.reads.get? 4 = some (.queueEntry 0 1) ∧ (b.fn 0).qpCtlBusy = true ∧ b.seq.hostWait = [] ∧
      entryOk queueEntry (b.fn 0).msix.toNat = true) ∧
    (∃ b : Block, b = (up.modQp 0 fun p => { p with closing := true }).modFn 0 (fun p => { p with qpCtlBusy := true, qpCtlOp := 2 }) ∧
      (b.fn 0).qpCtlBusy = true ∧ (b.fn 0).qpCtlOp = 2 ∧ (b.qp (b.fn 0).qpCtlQp.toNat).closing = true ∧
      b.qpIdle (b.fn 0).qpCtlQp.toNat = true) :=
  ⟨⟨up_hcpOpen, by decide +kernel⟩, ⟨_, rfl, ⟨rfl, rfl⟩, by decide +kernel⟩, ⟨_, rfl, by decide +kernel⟩⟩

theorem witness_global_registers :
    HcpOpen (st up) ∧ up.boot.seqReset = false ∧ up.gov.cal = none ∧ 2 ≤ (2 : BitVec 3).toNat ∧ (up.ways.getD 2 {}).busy = false ∧
    (up.ways.getD 2 {}).differs 0x301 = true ∧ (rbit 0x301 9 = true → rbit 0x301 8 = true) ∧ 10 ≤ rfld 10 0 16 ∧ 2 ≤ rfld 2 0 16 :=
  ⟨up_hcpOpen, by decide +kernel⟩

/-- A block that has power and is safe. -/
def shut : Block := { up with pins := { up.pins with blockSafe := true } }

theorem witness_register_accesses :
    (PortOpen .hcp (st up) ∧ up.pins.blockSafe = false ∧ up.reach 1 0 false = false) ∧
    (PortOpen .hcp (st up) ∧ up.pins.blockSafe = false ∧ up.reach 1 0xFFF8 true = false) ∧
    (PortOpen .hcp (st shut) ∧ shut.pins.blockSafe = true ∧ shut.pins.porN = true ∧ shut.reach 1 0xFFF8 true = false) ∧
    (1 ≠ 0 ∧ 0xFFFF < 0x01_0000 ∧ 0x47_FFFC % 8 ≠ 0) ∧ (PortOpen .hcp (st up) ∧ up.reach 0 0xFFF8 false = true) :=
  ⟨⟨⟨rfl, rfl⟩, by decide +kernel⟩, ⟨⟨rfl, rfl⟩, by decide +kernel⟩, ⟨⟨rfl, rfl⟩, by decide +kernel⟩, by decide +kernel, ⟨rfl, rfl⟩,
    by decide +kernel⟩

/-! ## Descriptors, records and notices -/

/-- CTX_OPEN with the interrupt flag and a cookie. -/
def openDesc : Descriptor := desc [(0, 0x0301), (2, 1), (8, 0x1234)]

/-- A FENCE_WAIT of the queue pair that has not completed. -/
def behindWait : Block :=
  { up with seq := { up.seq with cmds := [(7, { cmd [(0, 0x0A02)] with stage := .waiting })], nextCmd := 8 } }

theorem witness_descriptors :
    (PortOpen .hcp (st up) ∧ up.mayFetch 0 = true ∧ up.seq.cmds = [] ∧ (up.qp 0).done = [] ∧
      up.firstChecks (up.qp 0).fn openDesc = .ok ∧
      up.firstChecks (up.qp 0).fn (desc [(0, 0xFFFF)]) = .badOpcode ∧ Status.badOpcode ≠ .ok ∧
      up.seq.writes.lowest hcpTags = some 0) ∧
    (PortOpen .hcp (st behindWait) ∧ behindWait.mayFetch 0 = true ∧
      ∃ e ∈ behindWait.seq.cmds, e.2.qp = 0 ∧ e.2.opcode = 0x0A02 ∧ e.1 < behindWait.seq.nextCmd ∧
        ∀ x ∈ behindWait.seq.cmds, x.2.qp = 0 → x.2.stage = .fetched → e.1 < x.1) :=
  ⟨⟨⟨rfl, rfl⟩, by decide +kernel⟩, ⟨rfl, rfl⟩, by decide +kernel⟩

theorem witness_record_layout :
    (65535 < 65536) ∧
    ∃ b : Block, b = (withCmd up (cmd [(0, 0x0A03)])).blk ∧ b.cmd? 7 = some (cmd [(0, 0x0A03)]) ∧
      b.seq.writes.lowest hcpTags = some 0 ∧ (b.qp 0).enabled = true ∧
      (b.qp 0).done = [] ∧ b.stopped.contains .hcp = false :=
  ⟨by decide +kernel, _, rfl, by decide +kernel⟩

/-- The PF's queue pair with a record on its way under write tag 4, and the PF's fault queue open. -/
def recorded (r : Rec) : Block :=
  { (up.modQp 0 fun p => { p with done := [r], reserved := 1, cqTail := 63 }) with
    seq := { writes := [(4, .record 0)] }
    fns := [(0, { FnPage.pfReset with faultq := { enable := true, log2 := 6 } })] }

theorem witness_record_response :
    ∃ (b : Block) (r : Rec), b = recorded r ∧ r = { status := .ok, sqIdx := 2, irq := true, force := true } ∧
      PortOpen .hcp (st b) ∧ b.seq.writes.get? 4 = some (.record 0) ∧ (b.qp 0).done = [r] ∧ r.restart = false ∧ b.seq.cmds = [] ∧
      r.force = true ∧ b.seq.hostWait = [] ∧ (b.fn (b.qp 0).fn).faultq.room = true :=
  ⟨_, _, rfl, rfl, ⟨rfl, rfl⟩, by decide +kernel⟩

/-- LICENSE_INSTALL with a request at both datapaths of the public-key and hash engine. -/
def pkhUp : Block :=
  { (withCmd up { cmd [(0, 0x0901)] with pkhLeft := 2 }).blk with pkhLattice := [(7, 1)], pkhCurve := [(7, 4)] }

theorem witness_notices :
    (∃ b : Block, b = (up.modQp 0 fun p => { p with uncovered := 1 }) ∧ 0 < (b.qp 0).uncovered ∧ b.stopped.contains .hcp = false) ∧
    (∃ s : State, s = withCmd up (cmd [(0, 0x0A03)]) ∧ CmdReady s 7 0x0A03 (cmd [(0, 0x0A03)]) ∧ (s.blk.qp 0).enabled = true ∧
      (s.blk.qp 0).done = [] ∧ ∀ e ∈ s.blk.seq.cmds, e.1 < 7 → e.2.qp ≠ 0) ∧
    (Tab.has pkhUp.resets 0x71 = false ∧ pkhUp.pkhIssuers = [] ∧ pkhUp.pkhHeld ≤ 128 ∧ (∀ lattice : Bool, (if lattice then pkhUp.pkhLattice else pkhUp.pkhCurve) = [(7, if lattice then 1 else 4)]) ∧
      pkhUp.cmd? 7 = some { cmd [(0, 0x0901)] with pkhLeft := 2 }) :=
  ⟨⟨_, rfl, by decide +kernel⟩, ⟨_, rfl, ready (by decide +kernel), by decide +kernel⟩, by decide +kernel⟩

/-! ## Fences -/

/-- The schedule of slot 70 as a fill records it: for tier 0, usage E and D, function-wide, of the PF. -/
def key70 : CachedKey :=
  { slot := 70, key := 0x77, mask := 1, attr := 0x2103, ownerFn := 0, ownerCtx := 0, chain := [(70, 1)] }

/-- `up` with context 9 of the PF, region 2 SEALED in tier 0 as the PF's fence region under the key of slot 70, which the
first and the last memory channel engine of the tier hold. -/
def sealedUp : Block :=
  { up with
    ctxs := [(9, { fn := 0 })]
    fns := [(0, { FnPage.pfReset with fenceRegion := 2 })]
    regions := { table := [(2, { mode := .sealed, ctxwide := true, keyset := [70], threshold := 3 })] }
    keys := { slots := [(70, { attr := 0x2103 })], free := { next := 71 } }
    caches := [(0, { keys := [key70] }), (31, { keys := [key70] })] }

/-- FENCE_SIGNAL (or FENCE_WAIT) with an operation, a fence and a value. -/
def fenceCmd (op what fence value : Nat) : Cmd := cmd [(0, op), (4, 9), (16, fence), (18, what), (24, value)]

/-- Fence 0 is live at 5; the others are free. -/
def fenceState (c : Cmd) : State := { withCmd sealedUp c with mem := [(2 ^ 29, 5), (2 ^ 29 + 8, 1)] }

/-- What the statements ask of a FENCE_SIGNAL or FENCE_WAIT whose record is read. -/
def FenceReads (c : Cmd) (op : Nat) : Prop :=
  (fenceState c).Inv ∧ CmdReady (fenceState c) 7 op c ∧ (fenceState c).blk.begin.fencesOf c.fn = some 2 ∧
  ((fenceState c).fenceRead c {} 2).1 = .ok

/-- The fence that the command finds, and whether its record can then be written so. -/
def found (c : Cmd) : FenceRec := (fenceState c).fenceFound c {} 2
def writes (c : Cmd) (value : Nat) (live : Bool) : Bool :=
  ((fenceState c).fenceWrite c {} 2 value live).1 = .ok && !((fenceState c).fenceWrite c {} 2 value live).2.stuck

theorem witness_signal :
    FenceReads (fenceCmd 0x0A01 0 0 5) 0x0A01 ∧ (found (fenceCmd 0x0A01 0 0 5)).live = true ∧
    (found (fenceCmd 0x0A01 0 0 5)).value ≤ (fenceCmd 0x0A01 0 0 5).value ∧ writes (fenceCmd 0x0A01 0 0 5) 5 true = true :=
  ⟨⟨rfl, ready (by decide +kernel), by decide +kernel, by decide +kernel⟩, by decide +kernel, by decide +kernel, by decide +kernel⟩

theorem witness_create :
    FenceReads (fenceCmd 0x0A01 1 65535 0) 0x0A01 ∧ dfld (fenceCmd 0x0A01 1 65535 0).desc 18 1 = 1 ∧
    (found (fenceCmd 0x0A01 1 65535 0)).live = false ∧ writes (fenceCmd 0x0A01 1 65535 0) 0 true = true :=
  ⟨⟨rfl, ready (by decide +kernel), by decide +kernel, by decide +kernel⟩, by decide +kernel, by decide +kernel, by decide +kernel⟩

theorem witness_destroy :
    FenceReads (fenceCmd 0x0A01 2 0 0) 0x0A01 ∧ dfld (fenceCmd 0x0A01 2 0 0).desc 18 1 = 2 ∧
    (found (fenceCmd 0x0A01 2 0 0)).live = true ∧ (found (fenceCmd 0x0A01 2 0 0)).value = 5 ∧
    writes (fenceCmd 0x0A01 2 0 0) 5 false = true :=
  ⟨⟨rfl, ready (by decide +kernel), by decide +kernel, by decide +kernel⟩, by decide +kernel, by decide +kernel, by decide +kernel, by decide +kernel⟩

theorem witness_fence_refusals :
    (FenceReads (fenceCmd 0x0A01 0 0 4) 0x0A01 ∧ (found (fenceCmd 0x0A01 0 0 4)).live = true ∧
      (fenceCmd 0x0A01 0 0 4).value < (found (fenceCmd 0x0A01 0 0 4)).value) ∧
    (FenceReads (fenceCmd 0x0A01 0 1 4) 0x0A01 ∧ (found (fenceCmd 0x0A01 0 1 4)).live = false) ∧
    (FenceReads (fenceCmd 0x0A01 1 0 4) 0x0A01 ∧ (found (fenceCmd 0x0A01 1 0 4)).live = true) ∧
    (FenceReads (fenceCmd 0x0A01 2 1 4) 0x0A01 ∧ (found (fenceCmd 0x0A01 2 1 4)).live = false) ∧
    (CmdReady (fenceState (fenceCmd 0x0A01 3 0 4)) 7 0x0A01 (fenceCmd 0x0A01 3 0 4) ∧ 2 < dfld (fenceCmd 0x0A01 3 0 4).desc 18 1) :=
  ⟨⟨⟨rfl, ready (by decide +kernel), by decide +kernel, by decide +kernel⟩, by decide +kernel, by decide +kernel⟩,
    ⟨⟨rfl, ready (by decide +kernel), by decide +kernel, by decide +kernel⟩, by decide +kernel⟩,
    ⟨⟨rfl, ready (by decide +kernel), by decide +kernel, by decide +kernel⟩, by decide +kernel⟩,
    ⟨⟨rfl, ready (by decide +kernel), by decide +kernel, by decide +kernel⟩, by decide +kernel⟩, ready (by decide +kernel), by decide +kernel⟩

theorem create_next (s : State) : ∃ t, exec (.create 7 {}) s = .next t := by
  show ∃ t, execCreate 7 {} s = .next t
  unfold execCreate onCommandMem
  exact onMemoryWait_next _ _

theorem witness_fence_bytes :
    FenceReads (fenceCmd 0x0A01 1 65535 0) 0x0A01 ∧
    (∃ t, exec (.create 7 {}) (fenceState (fenceCmd 0x0A01 1 65535 0)) = .next t) ∧ fenceAddr 2 65535 + 16 ≤ memSize - 1 :=
  ⟨⟨rfl, ready (by decide +kernel), by decide +kernel, by decide +kernel⟩, create_next _, by decide +kernel⟩

theorem witness_fence_waits :
    (FenceReads (fenceCmd 0x0A02 0 0 5) 0x0A02 ∧ (found (fenceCmd 0x0A02 0 0 5)).live = true ∧
      (fenceCmd 0x0A02 0 0 5).value ≤ (found (fenceCmd 0x0A02 0 0 5)).value) ∧
    (FenceReads (fenceCmd 0x0A02 10 0 6) 0x0A02 ∧ (found (fenceCmd 0x0A02 10 0 6)).live = true ∧
      (found (fenceCmd 0x0A02 10 0 6)).value < (fenceCmd 0x0A02 10 0 6).value ∧
      (fenceState (fenceCmd 0x0A02 10 0 6)).blk.seq.waits.length < 4096) ∧
    ((fenceState (fenceCmd 0x0A02 10 0 6)).blk.cmd? 7 = some (fenceCmd 0x0A02 10 0 6) ∧ dfld (fenceCmd 0x0A02 10 0 6).desc 18 2 ≠ 0) :=
  ⟨⟨⟨rfl, ready (by decide +kernel), by decide +kernel, by decide +kernel⟩, by decide +kernel, by decide +kernel⟩,
    ⟨⟨rfl, ready (by decide +kernel), by decide +kernel, by decide +kernel⟩, by decide +kernel, by decide +kernel, by decide +kernel⟩,
    by decide +kernel⟩

/-! ## Energy, bandwidth and time -/

theorem witness_governor :
    (PortOpen .gov (st up) ∧ up.pins.blockSafe = false) ∧
    (({ up with gov := { cal := some (9, 8) } } : Block).gov.cal = some (9, 8) ∧ 8 ≠ 0) ∧
    (({ cap := 5, limit := 1024, level := 7 } : Partition).limit ≤ 1024 ∧ ({ cap := 5, limit := 0 } : Partition).cap ≠ 0) ∧
    (up.pins.blockSafe = false ∧ Tab.has up.resets 0x75 = false ∧ 15 < 16) :=
  ⟨⟨⟨rfl, rfl⟩, rfl⟩, by decide +kernel⟩

/-- PARTITION_SET of partition 3 for the PF with the largest cap and two engines. -/
def partitionCmd : Cmd := cmd [(0, 0x0B01), (16, 3), (17, 1), (24, 2 ^ 255 + 1), (56, 4000000)]

theorem witness_partitions :
    (CmdReady (withCmd up partitionCmd) 7 0x0B01 partitionCmd ∧ dfld partitionCmd.desc 56 4 ≤ 4000000) ∧
    (∃ (b : Block) (c : Cmd), b = { up with gov := { parts := [(3, { owner := 1 })] } } ∧ c = cmd [(0, 0x0B02), (16, 3)] [] 1 ∧
      CmdReady (withCmd b c) 7 0x0B02 c ∧ (c.fn = 0 ∨ (b.partition 3).owner = c.fn)) :=
  ⟨⟨ready (by decide +kernel), by decide +kernel⟩, _, _, rfl, rfl, ready (by decide +kernel), by decide +kernel⟩

/-- The governor with a need of 700 mV and the rail at 790 mV. -/
def railUp (req : Option Nat) : Block := { up with gov := { railMv := 790, needMv := 700, railReq := req } }

theorem witness_rails :
    (PortOpen .tref (st (railUp (some 800))) ∧ (railUp (some 800)).gov.railReq = some 800) ∧
    ((railUp none).pins.blockSafe = false ∧ (railUp none).gov.railReq = none ∧
      (railUp none).gov.needMv + 50 ≤ (railUp none).gov.railMv ∧ railTarget (railUp none).gov.needMv < (railUp none).gov.railMv ∧
      (railUp none).stopped.contains .tref = false) ∧
    ((railUp none).pins.blockSafe = false ∧ ([⟨0x2F, 5, 9⟩, ⟨0x4F, 9, 5⟩] : List CanaryRate) ≠ [] ∧
      (∀ c ∈ ([⟨0x2F, 5, 9⟩, ⟨0x4F, 9, 5⟩] : List CanaryRate), c.engine < 0x60 ∧ (railUp none).build.engineBuilt c.engine = true)) :=
  ⟨⟨⟨rfl, rfl⟩, rfl⟩, by decide +kernel⟩

theorem witness_windows : 47 < up.build.mces ∧ up.build.engineBuilt 47 = true ∧ up.background 47 = false := by decide +kernel

theorem witness_idle_edge :
    ∃ b : Block, b = { up with time := { valid := true } } ∧ (st b).pending = [] ∧ b.time.valid = true ∧ b.stopped.contains .tref = false :=
  ⟨_, rfl, by decide +kernel⟩

/-! ## Observation, the cipher engine, the entropy source -/

/-- The PF with an ash stream of the largest size: enabled or not, its phase, and a record in transit. -/
def ashUp (on : Bool) (held : Bool) : Block :=
  up.modFn 0 fun p =>
    { p with ash := { enable := on, sizeLog2 := 20, records := 1, writes := 2, aHeld := held, transit := [up.record { code := 1 } false] } }

theorem witness_ash :
    (HcpOpen (st (ashUp false false)) ∧ 0 < 256 ∧ (0 = 0 ∨ 0 = 0) ∧ 12 ≤ rfld 0x2C 0 5 ∧ rfld 0x34 0 5 ≤ 20 ∧ rbit 0x34 10 = false ∧
      ((ashUp false false).fn 0).ash.enable = false ∧ rbit 0x34 5 = true) ∧
    (HcpOpen (st (ashUp true true)) ∧ ((ashUp true true).fn 0).ash.enable = true ∧ rbit 0x74 5 = true ∧ rbit 0x74 6 = true ∧
      rfld 0x74 0 5 = ((ashUp true true).fn 0).ash.sizeLog2.toNat ∧ rbit 0x74 10 = false) ∧
    (HcpOpen (st (ashUp true false)) ∧ ((ashUp true false).fn 0).ash.enable = true ∧ ((ashUp true false).fn 0).ash.stalled = false ∧
      ((ashUp true false).fn 0).ash.phase = .filling ∧ 0 < ((ashUp true false).fn 0).ash.records ∧
      0 < ((ashUp true false).fn 0).ash.writes ∧ 12 ≤ ((ashUp true false).fn 0).ash.sizeLog2.toNat ∧
      ((ashUp true false).fn 0).ash.sizeLog2.toNat ≤ 20) ∧
    (Tab.has (ashUp true true).resets 0x77 = false ∧
      ((ashUp true true).fn 0).ash.transit = up.record { code := 1 } false :: [] ∧ ((ashUp true true).fn 0).ash.stalled = true) :=
  ⟨⟨⟨rfl, rfl, rfl⟩, by decide +kernel⟩, ⟨⟨rfl, rfl, rfl⟩, by decide +kernel⟩, ⟨⟨rfl, rfl, rfl⟩, by decide +kernel⟩, by decide +kernel⟩

/-- A cipher page key of the PF in slot 70. -/
def cipherUp (c : CipherPage) : Block :=
  { up.modFn 0 fun p => { p with cipher := c } with
    keys := { slots := [(0, rootSlot), (70, keySlot 70 (useE + useD) 0 false)] }, cipherAt := 0 }

/-- CBC encryption of 256 bytes under slot 70, with GO. -/
def goValue : BitVec 64 := BitVec.ofNat 64 (1 + 70 <<< 16 + 256 <<< 32 + 1 <<< 63)

theorem witness_cipher_go :
    HcpOpen (st (cipherUp {})) ∧ ((cipherUp {}).fn 0).cipher.busy = false ∧ rbit goValue 63 = true ∧
    Tab.has (cipherUp {}).resets 0x70 = false ∧
    (((cipherUp {}).begin.modFn 0 fun p => { p with cipher := p.cipher.write 0x800 goValue }).modFn 0 fun p =>
        { p with cipher := { p.cipher with busy := true, dataOut := 0, outLen := 0, checkFail := false } }).cipherCheck 0
      { ((cipherUp {}).fn 0).cipher.write 0x800 goValue with busy := true, dataOut := 0, outLen := 0, checkFail := false } = .ok :=
  ⟨⟨rfl, rfl, rfl⟩, by decide +kernel⟩

theorem witness_cipher_done :
    ((cipherUp { running := some ([1], 2, true, 16) }).fn 0).cipher.running = some ([1], 2, true, 16) ∧
    (cipherUp { running := some ([1], 2, true, 16) }).cipherAt = 0 ∧
    ((cipherUp { running := some ([1], 2, true, 16) }).fn 0).cipher.discard = false ∧
    ((cipherUp { running := some ([1], 2, true, 16) }).fn 0).cipher.irq = false ∧ 0 < 16 ∧
    (HcpOpen (st (cipherUp { ctrEnd := true })) ∧ ((cipherUp { ctrEnd := true }).fn 0).cipher.busy = false) :=
  ⟨by decide +kernel, by decide +kernel, by decide +kernel, by decide +kernel, by decide +kernel, ⟨rfl, rfl, rfl⟩, by decide +kernel⟩

/-- The entropy source as it stands: failed or not, with a number of failed restarts. -/
def entropyUp (down : Bool) (fails : Nat) : Block := { up with boot := { up.boot with entropyDown := down, entropyFails := fails } }

theorem witness_entropy :
    ((1 : BitVec 2) ≠ 0 ∧ (3 : BitVec 2) ≠ 0 ∧ up.boot.entropyDown = false ∧ 2 ≤ up.boot.step) ∧
    ((entropyUp true 2).boot.entropyDown = true ∧ (entropyUp true 2).boot.entropyFails < 3) := by decide +kernel

/-! ## Life cycle, debug, patches, test port -/

/-- LC_TRANSITION from Production to End of Life. -/
def endCmd : Cmd := cmd [(0, 0x0D01), (16, 3)]

/-- A Production part whose VFs are not enabled. -/
def quietUp : Block := { up with fns := [(0, FnPage.pfReset)] }

theorem witness_transition :
    (CmdReady (withCmd quietUp endCmd) 7 0x0D01 endCmd ∧ transitionKind quietUp.boot.lc (dfld endCmd.desc 16 1) = some 0 ∧
      targetWord (dfld endCmd.desc 16 1) = some LifeCycle.endOfLife.word ∧ 0 ≠ 2 ∧ quietUp.boot.lcJob ≠ some 7 ∧
      quietUp.transitionBusy = false ∧ quietUp.begin.transitionAuth endCmd 0 (dfld endCmd.desc 16 1) = true ∧ quietUp.vfsQuiet = true ∧
      ((withCmd quietUp endCmd).waitWork.leaveDomain {}).stuck = false) ∧
    (CmdReady (withCmd { quietUp with boot := { quietUp.boot with lcJob := some 7 } } endCmd) 7 0x0D01 endCmd ∧
      ({ quietUp with boot := { quietUp.boot with lcJob := some 7 } } : Block).boot.lcJob = some 7) ∧
    (LifeCycle.endOfLife.word < 2 ^ 64 ∧ ∃ g l, quietUp.otp.lacks LifeCycle.endOfLife.word = g :: l ∧ l ≠ []) :=
  ⟨⟨ready (by decide +kernel), by decide +kernel⟩, ⟨ready (by decide +kernel), by decide +kernel⟩, by decide +kernel,
    (quietUp.otp.lacks LifeCycle.endOfLife.word).headD 0, (quietUp.otp.lacks LifeCycle.endOfLife.word).tail, by decide +kernel⟩

/-- A signed object (R434) of a kind for the states of a mask. -/
def signedObject (kind lcMask : Nat) (more : List (Nat × Nat)) : Bytes :=
  padded 128 7219 ([(0, 0x43565843), (4, kind), (6, lcMask)] ++ more)

theorem signedObject_length (k m : Nat) (l : List (Nat × Nat)) : (signedObject k m l).length = 7347 :=
  padded_length ..

/-- A signed object is accepted when its first 128 bytes are as they must be. -/
theorem signedObject_ok {b : Block} {k m : Nat} {l : List (Nat × Nat)} {v : Bool}
    (h : (bfld (signedObject k m l) 0 4 = 0x43565843 && bfld (signedObject k m l) 4 1 = k &&
      (k < 3 || bfld (signedObject k m l) 5 1 = 0) && allZero (slice (signedObject k m l) 7 1) &&
      (3 ≤ k || bfld (signedObject k m l) 8 4 = 0) && (k = 3 || bfld (signedObject k m l) 12 4 = 0) &&
      (k = 4 || allZero (slice (signedObject k m l) 24 48)) && allZero (slice (signedObject k m l) 72 56) && v &&
      bfld (signedObject k m l) 16 8 = b.otp.serial.toNat && (bfld (signedObject k m l) 6 1).testBit b.boot.lc.bitOf) = true) :
    b.objectOk k (signedObject k m l) v = true := by
  rw [Block.objectOk, objectForm, signedObject_length]
  simpa [Bool.and_assoc] using h

/-- A part whose life-cycle patterns fail, with a bit set that End of Life's codeword holds. -/
def lostUp : Block :=
  { quietUp with
    boot := { up.boot with lc := .invalid }
    otp := { up.otp with lc0 := BitVec.ofNat 64 (LifeCycle.endOfLife.word &&& 0xFF), lc1 := BitVec.ofNat 64 (LifeCycle.endOfLife.word &&& 0xFF) } }

/-- LC_TRANSITION out of the invalid state. -/
def lostCmd : Cmd := { cmd [(0, 0x0D01), (16, 3)] (signedObject 2 0x80 [(5, 3)]) with pkh := [.verdict true] }

theorem lostCmd_auth : lostUp.begin.transitionAuth lostCmd 2 3 = true := by
  have h : lostUp.begin.objectOk 2 lostCmd.buf lostCmd.verified = true := signedObject_ok (by decide +kernel)
  have g : bfld lostCmd.buf 5 1 = 3 := by decide +kernel
  rw [Block.transitionAuth, h, g]
  rfl

theorem witness_lostTransition :
    CmdReady (withCmd lostUp lostCmd) 7 0x0D01 lostCmd ∧ transitionKind lostUp.boot.lc 3 = some 2 ∧ dfld lostCmd.desc 16 1 = 3 ∧
    targetWord 3 = some LifeCycle.endOfLife.word ∧
    lostUp.otp.lcPattern.toNat &&& LifeCycle.endOfLife.word = lostUp.otp.lcPattern.toNat ∧
    lostUp.begin.transitionAuth lostCmd 2 3 = true ∧ ((withCmd lostUp lostCmd).waitWork.leaveDomain {}).stuck = false :=
  ⟨readyCmd (by decide +kernel), by decide +kernel, by decide +kernel, by decide +kernel, by decide +kernel, lostCmd_auth, by decide +kernel⟩

/-- DEBUG_CHALLENGE into a buffer of 160 bytes. -/
def challengeCmd : Cmd := cmd [(0, 0x0D02), (16, 0x1000), (24, 160)]

/-- DEBUG_CERT with a certificate that opens every right in Test. -/
def certCmd : Cmd := { cmd [(0, 0x0D04)] (signedObject 3 2 [(8, 0x7F)]) with pkh := [.verdict true] }

/-- A part in Test. -/
def testUp : Block := { quietUp with boot := { up.boot with lc := .test } }

/-- A challenge that is held. -/
def heldChallenge : Bytes := toLe 160 7

/-- A Production part that holds a challenge. -/
def challengedUp : Block := { quietUp with boot := { up.boot with challenge := some heldChallenge } }

/-- DEBUG_RESPONSE to it. -/
def responseCmd : Cmd :=
  { cmd [(0, 0x0D03)] (signedObject 4 4 [(8, 0x43), (24, le (sha384 heldChallenge))]) with pkh := [.verdict true] }

theorem certCmd_ok : testUp.begin.certOk certCmd.buf certCmd.verified = true := by
  have h : testUp.begin.objectOk 3 certCmd.buf certCmd.verified = true := signedObject_ok (by decide +kernel)
  rw [Block.certOk, h]
  decide

theorem witness_debug :
    (CmdReady (withCmd up challengeCmd) 7 0x0D02 challengeCmd ∧ up.boot.lc = .production ∧ 160 ≤ dfld challengeCmd.desc 24 4 ∧
      up.boot.entropyDown = false) ∧
    (CmdReady (withCmd challengedUp responseCmd) 7 0x0D03 responseCmd ∧ challengedUp.boot.lc = .production ∧
      challengedUp.begin.objectOk 4 responseCmd.buf responseCmd.verified = true ∧ bfld responseCmd.buf 8 4 = 0x43 ∧
      (∃ x, challengedUp.boot.challenge = some x ∧ slice responseCmd.buf 24 48 = sha384 x)) ∧
    (CmdReady (withCmd testUp certCmd) 7 0x0D04 certCmd ∧ (testUp.boot.lc = .blank ∨ testUp.boot.lc = .test) ∧
      testUp.begin.certOk certCmd.buf certCmd.verified = true) :=
  ⟨⟨ready (by decide +kernel), by decide +kernel⟩, ⟨readyCmd (by decide +kernel), by decide +kernel, signedObject_ok (by decide +kernel), by decide +kernel, heldChallenge, rfl, by decide +kernel⟩,
    readyCmd (by decide +kernel), by decide +kernel, certCmd_ok⟩

theorem witness_debugStuck :
    (((withCmd challengedUp responseCmd).waitWork.on fun b => { b with boot := { b.boot with challenge := none } }).openDebug {} 0x43).stuck =
      false ∧
    ((withCmd testUp certCmd).waitWork.openDebug {} 0x7F).stuck = false := by decide +kernel

/-- A part with a slot in a state, on trial or not. -/
def patchUp (x : SlotState) (trial : Bool) : Block :=
  { quietUp with
    store := { patch := { active := some .a, trial := if trial then some .b else none, slotB := { state := x } } }
    boot := { up.boot with slot := some (if trial then .b else .a), onTrial := trial } }

/-- PATCH_WRITE at an offset. -/
def patchCmd (off n : Nat) (first : Bool) : Cmd := cmd [(0, 0x0D05), (24, n), (28, off), (32, bit first)]

theorem witness_patch :
    ((patchUp .empty false).boot.lc.serves = true ∧ (patchUp .empty false).boot.storeOk = true ∧
      (patchUp .empty false).patchWriting = false ∧ (patchUp .empty false).store.patch.trial = none) ∧
    (CmdReady (withCmd (patchUp .empty false) (patchCmd 0 (2 ^ 20) true)) 7 0x0D05 (patchCmd 0 (2 ^ 20) true) ∧
      dfld (patchCmd 0 (2 ^ 20) true).desc 32 1 ≠ 0 ∧ dfld (patchCmd 0 (2 ^ 20) true).desc 28 4 = 0 ∧
      pieceOk (patchCmd 0 (2 ^ 20) true) = true) ∧
    (CmdReady (withCmd (patchUp .downloading false) (patchCmd 0xF00000 (2 ^ 20) false)) 7 0x0D05 (patchCmd 0xF00000 (2 ^ 20) false) ∧
      dfld (patchCmd 0xF00000 (2 ^ 20) false).desc 32 1 = 0 ∧
      ((patchUp .downloading false).store.patch.slot (patchUp .downloading false).store.patch.inactive).state = .downloading ∧
      dfld (patchCmd 0xF00000 (2 ^ 20) false).desc 28 4 % 256 = 0 ∧ pieceOk (patchCmd 0xF00000 (2 ^ 20) false) = true ∧
      dfld (patchCmd 0xF00000 (2 ^ 20) false).desc 28 4 + dfld (patchCmd 0xF00000 (2 ^ 20) false).desc 24 4 ≤ 2 ^ 24) ∧
    (CmdReady (withCmd (patchUp .downloading false) (cmd [(0, 0x0D06)])) 7 0x0D06 (cmd [(0, 0x0D06)]) ∧
      ((patchUp .downloading false).store.patch.slot (patchUp .downloading false).store.patch.inactive).state ≠ .empty) ∧
    (CmdReady (withCmd (patchUp .verified false) (cmd [(0, 0x0D07)])) 7 0x0D07 (cmd [(0, 0x0D07)]) ∧
      ((patchUp .verified false).store.patch.slot (patchUp .verified false).store.patch.inactive).state = .verified ∧
      (patchUp .verified false).vfsQuiet = true) ∧
    (CmdReady (withCmd (patchUp .verified true) (cmd [(0, 0x0D08)])) 7 0x0D08 (cmd [(0, 0x0D08)]) ∧
      (patchUp .verified true).boot.onTrial = true) :=
  ⟨by decide +kernel, ⟨ready (by decide +kernel), by decide +kernel⟩, ⟨ready (by decide +kernel), by decide +kernel⟩, ⟨ready (by decide +kernel), by decide +kernel⟩,
    ⟨ready (by decide +kernel), by decide +kernel⟩, ready (by decide +kernel), by decide +kernel⟩

theorem witness_tap_and_selftest :
    (PortOpen .tap (st up) ∧ up.tapOffers .scan = false ∧ up.tapOffers .idcode = true) ∧
    (CmdReady (withCmd up (cmd [(0, 0x0E02), (16, 15)])) 7 0x0E02 (cmd [(0, 0x0E02), (16, 15)]) ∧
      0 < dfld (cmd [(0, 0x0E02), (16, 15)]).desc 16 4 ∧ dfld (cmd [(0, 0x0E02), (16, 15)]).desc 16 4 < 16) :=
  ⟨⟨⟨rfl, rfl⟩, by decide +kernel⟩, ready (by decide +kernel), by decide +kernel⟩

/-- The clock of `mctl_0` stands, and a write waits in its shell. -/
def stoppedUp : Block := { up with stopped := [.mctl 0, .kxp], held := [.mctlWrite 0 0 1 0 0, .kxp 0 2 0 0 0] }

theorem witness_shells :
    (up.build.shellBuilt (.lphy 15) = true ∧ up.stopped.contains (.lphy 15) = false) ∧
    (stoppedUp.build.shellBuilt (.mctl 0) = true ∧ stoppedUp.stopped.contains (.mctl 0) = true) ∧
    stoppedUp.stopped.contains (Cross.mctlRead 0 0 1 0).shell = true := by decide +kernel

/-! ## SPDM, programs, contexts, jobs, functions, time, relay -/

/-- A connection that stands so. -/
def spdmUp (x : Spdm) : Block := { up with spdm := x }

/-- The algorithms that the block offers. -/
def offered : SpdmAlgs := { asym := 0x80, hash := 2, dhe := 0x10, aead := 2 }

theorem responds (x : Spdm) : Responds (st (spdmUp x)) := ⟨⟨rfl, rfl⟩, rfl, rfl⟩

theorem chain_pos (b : Block) : 0 < b.spdmChain.length := by simp [Block.spdmChain, toLe]

theorem witness_spdm :
    (Responds (st (spdmUp {})) ∧ (spdmUp {}).spdm.versioned = false) ∧
    (Responds (st (spdmUp { versioned := true, capable := true })) ∧
      (spdmUp { versioned := true, capable := true }).spdm.versioned = true ∧
      (spdmUp { versioned := true, capable := true }).spdm.capable = true ∧ spdmOffer offered = true) ∧
    (Responds (st (spdmUp { negotiated := true, large := [1] })) ∧
      (spdmUp { negotiated := true, large := [1] }).spdm.negotiated = true ∧
      0 < (spdmUp { negotiated := true, large := [1] }).spdmChain.length ∧
      (spdmUp { negotiated := true, large := [1] }).boot.entropyDown = false ∧
      0 * spdmChunkSize < (spdmUp { negotiated := true, large := [1] }).spdm.large.length ∧
      (spdmUp { negotiated := true, large := [1] }).spdm.session = false) ∧
    (Responds (st (spdmUp { session := true })) ∧ (spdmUp { session := true }).spdm.session = true ∧
      (spdmUp { session := true }).spdm.established = false) ∧
    (Responds (st (spdmUp { session := true, established := true })) ∧
      (spdmUp { session := true, established := true }).spdm.established = true) :=
  ⟨⟨responds _, rfl⟩, ⟨responds _, by decide +kernel⟩,
    ⟨responds _, rfl, chain_pos _, rfl, by rw [Nat.zero_mul]; exact Nat.zero_lt_one, rfl⟩, ⟨responds _, by decide +kernel⟩, responds _, by decide +kernel⟩

/-- The base point of P-384 as a requester sends it. -/
def basePoint : Bytes := [4] ++ toBe 48 ecGx ++ toBe 48 ecGy

theorem basePoint_ok : (ecPointOf basePoint).isSome = true := by decide +kernel

theorem witness_keyExchange (d : Bytes) : (∃ z, p384Secret d basePoint = some z) ∧ p384Secret d [] = none := by
  obtain ⟨q, hq⟩ := Option.isSome_iff_exists.mp basePoint_ok
  have h0 : ecPointOf [] = none := by decide +kernel
  exact ⟨⟨_, by rw [p384Secret, hq]; rfl⟩, by rw [p384Secret, h0]; rfl⟩

/-- An image of three words: IN L0, EMIT L0, END; FP16 in and out. -/
def smallImage : Bytes :=
  bytes 44 [(0, 0x504C5843), (4, 1), (6, 0), (7, 1), (9, 4), (10, 4), (12, 3), (32, 1), (36, 2), (40, 3)]

/-- The program of the image. -/
def smallProgram : Program :=
  { fn := 0, target := 0, rate := 0, inl := 1, outl := 0, inFmt := 4, inScaled := false, outFmt := 4, outScaled := false, consts := []
    text := [1, 2, 3], digest := 0, worst := 3 }

/-- 63 programs, the last handle free, and context 1 with 15 bindings. -/
def programsUp : Block :=
  { up with programs := (List.range 63).map fun h => (h, smallProgram)
            ctxs := [(1, { fn := 0, progs := (List.range 15).map fun h => h + 40 })] }

def loadCmd : Cmd := cmd [(0, 0x0501)] smallImage
def bindCmd : Cmd := cmd [(0, 0x0502), (4, 1), (16, 9)]
def unloadCmd : Cmd := cmd [(0, 0x0503), (16, 50)]

theorem witness_programs :
    (CmdReady (withCmd programsUp loadCmd) 7 0x0501 loadCmd ∧ imageOk loadCmd.buf = true ∧
      Tab.lowest programsUp.programs 64 = some 63) ∧
    (CmdReady (withCmd programsUp bindCmd) 7 0x0502 bindCmd ∧ programsUp.ownsProgram bindCmd.fn (dfld bindCmd.desc 16 2) = true ∧
      programsUp.ctxs.get? bindCmd.ctx = some { fn := 0, progs := (List.range 15).map fun h => h + 40 } ∧
      List.contains ((List.range 15).map fun h => h + 40) (dfld bindCmd.desc 16 2) = false ∧
      ((List.range 15).map fun h => h + 40).length < 16) ∧
    (CmdReady (withCmd programsUp unloadCmd) 7 0x0503 unloadCmd ∧
      programsUp.ownsProgram unloadCmd.fn (dfld unloadCmd.desc 16 2) = true ∧
      programsUp.programUsed (dfld unloadCmd.desc 16 2) = false) :=
  ⟨⟨ready (by decide +kernel), by decide +kernel⟩, ⟨ready (by decide +kernel), by decide +kernel⟩, ready (by decide +kernel), by decide +kernel⟩

/-- No number of a context is new, and number 9 has been free longest. -/
def ctxUp : Block :=
  { up with ctxs := [(1, { fn := 0 }), (2, { fn := 1 })], ctxFree := { next := 0x10000, freed := [9, 4] } }

/-- 4,096 contexts are live. -/
def ctxFull : Block := { up with ctxs := (List.range 4096).map fun n => (n + 1, { fn := 0 }) }

theorem ctxFull_length : ctxFull.ctxs.length = 4096 := by rw [ctxFull, List.length_map, List.length_range]

def openCmd : Cmd := cmd [(0, 0x0301), (2, 1)]

theorem witness_ctxOpen :
    (CmdReady (withCmd ctxUp openCmd) 7 0x0301 openCmd ∧ ctxUp.ctxs.length < 4096 ∧
      ctxUp.ctxFree.take 0x10000 = some (9, { next := 0x10000, freed := [4] }) ∧ (ctxUp.qp openCmd.qp).enabled = true) ∧
    (CmdReady (withCmd ctxFull openCmd) 7 0x0301 openCmd ∧ 4096 ≤ ctxFull.ctxs.length) :=
  ⟨⟨ready (by decide +kernel), by decide +kernel⟩, readyCmd (by decide +kernel), Nat.le_of_eq ctxFull_length.symm⟩

def closeCmd : Cmd := cmd [(0, 0x0302), (4, 1)]
def killCmd : Cmd := cmd [(0, 0x0303), (16, 2)]

theorem witness_ctxEnd :
    (CmdReady (withCmd ctxUp closeCmd) 7 0x0302 closeCmd ∧ ctxUp.jobsOf closeCmd.ctx = [] ∧
      (∀ e ∈ (withCmd ctxUp closeCmd).blk.seq.cmds, e.1 ≠ 7 → e.2.ctx ≠ closeCmd.ctx) ∧ ctxUp.ctxBusy closeCmd.ctx = false) ∧
    (CmdReady (withCmd ctxUp killCmd) 7 0x0303 killCmd ∧ ctxUp.ctxFn (dfld killCmd.desc 16 2) = some 1 ∧ killCmd.fn = 0 ∧
      (dfld killCmd.desc 18 1).testBit 0 = false) ∧
    (ctxUp.pins.blockSafe = false ∧ ctxUp.boot.seqReset = false ∧ (ctxUp.ctxFn (2 : BitVec 16).toNat).isSome = true ∧
      ctxUp.ctxFn (0 : BitVec 16).toNat = none) :=
  ⟨⟨ready (by decide +kernel), by decide +kernel⟩, ⟨ready (by decide +kernel), by decide +kernel⟩, by decide +kernel⟩

/-- Job 5 of the PF with its key in slot 80; region 0 is a SEALED region whose key in slot 81 is below it; context 1 has joined
job 6. -/
def jobUp : Block :=
  { up with
    keys := { slots := [(0, rootSlot), (70, keySlot 70 useV 0 false),
                        (80, { attr := makeAttr useV 4 1 true false true, parentSlot := 70, parentGen := 1 }),
                        (81, { attr := makeAttr useV 5 1 true false true, parentSlot := 80, parentGen := 1 })] }
    regions := { table := [(0, { mode := .sealed, keyset := [81] })] }
    ctxs := [(1, { fn := 0, jobs := [6] })]
    jobs := [(5, { fn := 0, slot := 80, gen := 1, epoch := 7 }), (6, { fn := 0, slot := 80, gen := 1, epoch := 7 })] }

/-- Job 5 as jobUp holds it. -/
def job5 : Job := { fn := 0, slot := 80, gen := 1, epoch := 7 }

def joinCmd : Cmd := cmd [(0, 0x0401), (4, 1), (16, 5)]
def leaveCmd : Cmd := cmd [(0, 0x0402), (4, 1), (16, 6)]
def jobKeysCmd : Cmd := cmd [(0, 0x0403), (4, 1), (16, 5), (18, 70), (20, 8)]

theorem witness_jobs :
    (CmdReady (withCmd jobUp joinCmd) 7 0x0401 joinCmd ∧ jobUp.jobs.get? (dfld joinCmd.desc 16 2) = some job5 ∧
      job5.fn = joinCmd.fn ∧ jobUp.jobKeyLive job5 = true ∧ job5.torn = false ∧
      List.contains (jobUp.jobsOf joinCmd.ctx) (dfld joinCmd.desc 16 2) = false ∧
      jobUp.begin.stateRegionOk joinCmd (dfld joinCmd.desc 16 2) (dfld joinCmd.desc 18 2) job5 = true ∧ jobUp.joinedJobs < 256) ∧
    (CmdReady (withCmd jobUp leaveCmd) 7 0x0402 leaveCmd ∧
      List.contains (jobUp.jobsOf leaveCmd.ctx) (dfld leaveCmd.desc 16 2) = true ∧
      (∀ k ∈ jobUp.reductions, ¬ (k.2.ctx.toNat = leaveCmd.ctx ∧ k.2.job.toNat = dfld leaveCmd.desc 16 2))) ∧
    (CmdReady (withCmd jobUp jobKeysCmd) 7 0x0403 jobKeysCmd ∧ jobUp.heldJob (dfld jobKeysCmd.desc 16 2) = some job5 ∧
      jobUp.begin.jobKeysCheck jobKeysCmd (some job5) = .ok) :=
  ⟨⟨ready (by decide +kernel), by decide +kernel⟩, ⟨ready (by decide +kernel), by decide +kernel⟩, ready (by decide +kernel), by decide +kernel⟩

/-- VF 1 quiesced or not, quiescing for a command or not. -/
def vfUp (q : Bool) (w : Option Nat) : Block := up.modFn 1 fun p => { p with quiesced := q, quiescing := w }

def quiesceCmd (op : Nat) : Cmd := cmd [(0, 0x0C03), (16, 1), (17, op), (18, 1000)]
def vfResetCmd : Cmd := cmd [(0, 0x0C04), (16, 1)]

theorem witness_functions :
    (CmdReady (withCmd (vfUp false none) (quiesceCmd 0)) 7 0x0C03 (quiesceCmd 0) ∧ (quiesceCmd 0).vf ≠ 0 ∧
      ((vfUp false none).fn (quiesceCmd 0).vf).quiescing = none ∧ dfld (quiesceCmd 0).desc 17 1 = 0 ∧
      1 ≤ dfld (quiesceCmd 0).desc 18 2 ∧ dfld (quiesceCmd 0).desc 18 2 ≤ 1000 ∧
      ((vfUp false none).fn (quiesceCmd 0).vf).quiesced = false) ∧
    (CmdReady (withCmd (vfUp true none) (quiesceCmd 1)) 7 0x0C03 (quiesceCmd 1) ∧ (quiesceCmd 1).vf ≠ 0 ∧
      ((vfUp true none).fn (quiesceCmd 1).vf).quiescing = none ∧ dfld (quiesceCmd 1).desc 17 1 = 1 ∧
      ((vfUp true none).fn (quiesceCmd 1).vf).quiesced = true) ∧
    ((vfUp false (some 9)).fn 1).quiescing = some 9 ∧
    (CmdReady (withCmd (vfUp true none) vfResetCmd) 7 0x0C04 vfResetCmd ∧ vfResetCmd.vf ≠ 0 ∧
      ((vfUp true none).fn vfResetCmd.vf).quiesced = true ∧ ((vfUp true none).fn vfResetCmd.vf).resetting = false ∧
      (vfUp true none).ctxsOf vfResetCmd.vf = [] ∧ (vfUp true none).slotsOf vfResetCmd.vf = [] ∧
      (vfUp true none).regionsOf vfResetCmd.vf = [] ∧ (vfUp true none).keys.invals = [] ∧
      ((vfUp true none).fn vfResetCmd.vf).cipher.running = none ∧ vfResetCmd.fn ≠ vfResetCmd.vf) ∧
    (((vfUp false (some 9)).fn 1).quiescing.isSome = true ∨ ((vfUp false (some 9)).fn 1).resetting = true) :=
  ⟨⟨ready (by decide +kernel), by decide +kernel⟩, ⟨ready (by decide +kernel), by decide +kernel⟩, by decide +kernel, ⟨ready (by decide +kernel), by decide +kernel⟩, by decide +kernel⟩

/-- LPE 15 admitted and member, with the link key 0x1234, exchange 3 under way, and 1 of 2 beats of rx credit as given. -/
def linkUp (rx : Nat) : Block :=
  { up with lpes := [(15, { up := true, adm := { stage := .admitted, linkKey := some 0x1234 }, member := true, rxCrd := rx
                            exchange := 3, reqTick := 100, reqFrac := 5, txCrd := 100 })] }

/-- The header of a link-class packet under the link key. -/
def linkHdr (ty seq : Nat) (epoch units : Nat) : Hdr :=
  { ty := ty, pclass := 3, src := 9, dst := 0xFFF, stream := 0, seq := seq, len := units - 1, epoch := epoch }

/-- A sealed packet at a port. -/
def sealed (n key : Nat) (h : Hdr) (body : Bytes) : RxPacket :=
  { lpe := n, hdr := h.bits, payload := toUnits (sealPacket key h body).1, tag := BitVec.ofNat 128 (le (sealPacket key h body).2) }

/-- A TIME packet at LPE 15. -/
def timePacket (t : TimeMsg) : RxPacket := sealed 15 0x1234 (linkHdr 0x40 77 1 1) t.bytes

def timeReq : TimeMsg := { msg := 1, hops := 2, exch := 8, t1 := 50, f1 := 1 }
def timeResp : TimeMsg := { msg := 2, hops := 2, exch := 3, t1 := 100, f1 := 5, f2 := 1, f3 := 2, t2 := 2000, t3 := 2001 }

theorem witness_timeExchange :
    (linkUp 2).build.shellBuilt (.lphy 15) = true ∧ ((linkUp 2).lpe 15).admitted = true ∧ ((linkUp 2).lpe 15).member = true := by
  decide

/-- The port of a TIME packet, its TYPE, its credit and its opening. -/
theorem timePasses (t : TimeMsg) (h : (linkUp 2).takesLink (timePacket t) = true ∧ (Hdr.read (timePacket t).hdr).ty = 0x40 ∧
      (((st (linkUp 2)).linkCheck (timePacket t)).1 = some (linkHdr 0x40 77 1 1, t.bytes)))
    (g : (TimeMsg.read t.bytes).ok t.bytes = true ∧ (TimeMsg.read t.bytes).msg = t.msg ∧
      (((st (linkUp 2)).linkAfter (timePacket t)).lpe 15).admitted = true) :
    TimePasses t.msg (st (linkUp 2)) (timePacket t) (linkHdr 0x40 77 1 1) t.bytes :=
  ⟨⟨⟨rfl, rfl⟩, h.2.1, h.1, h.2.2⟩, rfl, g⟩

theorem witness_timeReq : TimePasses 1 (st (linkUp 2)) (timePacket timeReq) (linkHdr 0x40 77 1 1) timeReq.bytes :=
  timePasses timeReq (by decide +kernel) (by decide +kernel)

theorem witness_timeResp :
    TimePasses 2 (st (linkUp 2)) (timePacket timeResp) (linkHdr 0x40 77 1 1) timeResp.bytes ∧
    (TimeMsg.read timeResp.bytes).exch = ((linkUp 2).lpe 15).exchange.toNat ∧
    (TimeMsg.read timeResp.bytes).t1 = ((linkUp 2).lpe 15).reqTick.toNat ∧
    (TimeMsg.read timeResp.bytes).f1 = ((linkUp 2).lpe 15).reqFrac.toNat :=
  ⟨timePasses timeResp (by decide +kernel) (by decide +kernel), by decide +kernel⟩

/-- Three relayed operations wait: a write of the block's own, one of an earlier boot, and one of a command. -/
def relayUp : Block :=
  { up with seq := { relays := [{ seq := 255, what := .boot {} }, { seq := 0, what := .patch none {}, live := false },
                                { seq := 1, what := .patch (some 7) {} }] } }

/-- The device's answer to a write at a half-sector: the counter that follows and a result. -/
def written (addr result : Nat) : Frame := { count := 1, addr := addr, result := result, kind := kindWritten }

theorem written_signed (a r : Nat) : (written a r).signed.length = 284 := by
  simp only [Frame.signed, half, List.length_append, slice_length, toBe_length]

theorem written_length (a r : Nat) (key : Bytes) : ((written a r).sealed key).length = 512 := by
  simp only [Frame.sealed, Frame.bytes, List.length_append, slice_length, toLe_length, written_signed]

/-- A field of a sealed frame beyond its MAC. -/
theorem written_field (a r : Nat) (key : Bytes) {off n : Nat} (h : 228 ≤ off) :
    slice ((written a r).sealed key) off n = slice (written a r).signed (off - 228) n := by
  have e : (toLe 196 0 ++ slice (hmac256 key (written a r).signed) 0 32 : Bytes).length = 228 := by
    rw [List.length_append, toLe_length, slice_length]
  rw [Frame.sealed, Frame.bytes, slice_right (by rw [e]; exact h), e]

theorem written_frame (a r : Nat) (key : Bytes) :
    frameOf ((written a r).sealed key) =
      { data := slice (written a r).signed 0 256, nonce := be (slice (written a r).signed 256 16)
        count := be (slice (written a r).signed 272 4), addr := be (slice (written a r).signed 276 2)
        blocks := be (slice (written a r).signed 278 2), result := be (slice (written a r).signed 280 2)
        kind := be (slice (written a r).signed 282 2) } := by
  rw [frameOf, written_field _ _ _ (by decide), written_field _ _ _ (by decide), written_field _ _ _ (by decide),
    written_field _ _ _ (by decide), written_field _ _ _ (by decide), written_field _ _ _ (by decide), written_field _ _ _ (by decide)]

/-- A frame sealed under the key verifies under it. -/
theorem written_ok (a r : Nat) (key : Bytes) : framesOk key [(written a r).sealed key] = true := by
  have e : (toLe 196 0 ++ slice (hmac256 key (written a r).signed) 0 32 : Bytes).length = 228 := by
    rw [List.length_append, toLe_length, slice_length]
  have hd : ((written a r).sealed key).drop 228 = (written a r).signed := by
    rw [Frame.sealed, Frame.bytes, ← e, List.drop_left]
  have hm : (((written a r).sealed key).drop 196).take 32 = hmac256 key (written a r).signed := by
    have hs : slice (hmac256 key (written a r).signed) 0 32 = hmac256 key (written a r).signed := by
      have := slice_all (hmac256 key (written a r).signed)
      rwa [hmac256_length] at this
    have hl := List.drop_left (l₁ := toLe 196 0) (l₂ := hmac256 key (written a r).signed ++ (written a r).signed)
    have ht := List.take_left (l₁ := hmac256 key (written a r).signed) (l₂ := (written a r).signed)
    rw [toLe_length] at hl
    rw [hmac256_length] at ht
    rw [Frame.sealed, Frame.bytes, hs, List.append_assoc, hl, ht]
  simp only [framesOk, List.all_cons, List.all_nil, written_length, List.getLast?_singleton, List.map_cons, List.map_nil,
    List.flatten_cons, List.flatten_nil, List.append_nil, hd, hm, decide_true, Bool.and_self, beq_self_eq_true]

/-- What a relay makes of such an answer. -/
theorem written_answer {q : Relay} {st : Store} {a r : Nat} (key : Bytes) (hr : q.what.reads = 0) (ha : q.what.half st = a)
    (h : be (slice (written a r).signed 276 2) = a ∧ be (slice (written a r).signed 282 2) = kindWritten ∧
      be (slice (written a r).signed 272 4) = q.count + 1) :
    q.answer st key { frames := [(written a r).sealed key] } =
      if be (slice (written a r).signed 280 2) ≠ 0 then .rejected else .accepted [] := by
  have ho : q.what.op = 1 := by rw [RelayFor.op, if_pos hr]
  simp only [Relay.answer, ho, written_ok, List.getLast?_singleton, Option.getD_some, written_frame, ha, h.1, h.2.1, h.2.2, hr, ne_eq,
    not_true, decide_false, Bool.not_true, Bool.or_false, Bool.false_eq_true, if_false, if_true]

theorem witness_relay :
    (PortOpen .mgmt (st relayUp) ∧
      takeRelay 255 relayUp.seq.relays = some ({ seq := 255, what := .boot {} }, relayUp.seq.relays.drop 1) ∧
      ({ seq := 255, what := .boot {} } : Relay).live = true ∧ ({ seq := 255, what := .boot {} } : Relay).what.owned = true) ∧
    (takeRelay 0 relayUp.seq.relays = some ({ seq := 0, what := .patch none {}, live := false },
        [{ seq := 255, what := .boot {} }, { seq := 1, what := .patch (some 7) {} }]) ∧
      ({ seq := 0, what := .patch none {}, live := false } : Relay).live = false) ∧
    (takeRelay 1 relayUp.seq.relays = some ({ seq := 1, what := .patch (some 7) {} }, relayUp.seq.relays.take 2) ∧
      ({ seq := 1, what := .patch (some 7) {} } : Relay).what.owned = false) ∧
    takeRelay 2 relayUp.seq.relays = none :=
  ⟨⟨⟨rfl, rfl⟩, by decide +kernel⟩, by decide +kernel⟩

/-- Each kind of answer to each of them. -/
theorem witness_answers :
    (∀ key, ({ seq := 255, what := .boot {} } : Relay).answer {} key { frames := [(written 1 0).sealed key] } = .accepted []) ∧
    (∀ key, ({ seq := 255, what := .boot {} } : Relay).answer {} key { frames := [(written 1 5).sealed key] } = .rejected) ∧
    (∀ key, ({ seq := 0, what := .patch none {}, live := false } : Relay).answer {} key { frames := [(written 0 0).sealed key] } =
      .accepted []) ∧
    (∀ key, ({ seq := 1, what := .patch (some 7) {} } : Relay).answer {} key { frames := [(written 0 0xFFFF).sealed key] } = .rejected) ∧
    (∀ key, ({ seq := 1, what := .patch (some 7) {} } : Relay).answer {} key { op := 2 } = .stray) ∧
    (∀ key, framesOk key [] = false) :=
  ⟨fun key => (written_answer key rfl rfl (by decide +kernel)).trans (by decide +kernel),
    fun key => (written_answer key rfl rfl (by decide +kernel)).trans (by decide +kernel),
    fun key => (written_answer key rfl rfl (by decide +kernel)).trans (by decide +kernel),
    fun key => (written_answer key rfl rfl (by decide +kernel)).trans (by decide +kernel), fun _ => rfl, fun _ => rfl⟩

/-! ## Power and kindling -/

/-- A block that kindles, at a step, in a life-cycle state. -/
def kindlingUp (step : Nat) (lc : LifeCycle) (store : Bool) : Block :=
  { up with boot := { running := true, step := step, lc := lc, storeOk := store } }

/-- A block that is safe. -/
def safeUp : Block := { up with pins := { porN := true, pwrGood := true, blockSafe := true } }

/-- `alarm_fatal` stands. -/
def alarmUp (sent : Bool) : Block :=
  { up with pins := { porN := true, pwrGood := true, blockSafe := true, alarmFatal := true }, boot := { powerCycling := sent } }

theorem witness_power :
    (up.pins.blockSafe = false ∧ up.boot.storeOk = true ∧ safeUp.pins.blockSafe = true) ∧
    ¬ (State.reset.blk.pins.porN = true ∧ State.reset.blk.pins.pwrGood = true ∧ State.reset.blk.pins.warn = false) ∧
    ((alarmUp false).pins.alarmFatal = true ∧ (alarmUp false).boot.powerCycling = false ∧ (alarmUp true).boot.powerCycling = true ∧
      (alarmUp false).stopped.contains .mgmt = false) := by decide +kernel

theorem witness_kindling :
    ((kindlingUp 0 .blank false).boot.running = true ∧ (kindlingUp 0 .blank false).pins.blockSafe = false ∧
      ({} : StepReport).pass = true ∧ (kindlingUp 0 .blank false).boot.step = 0) ∧
    ((kindlingUp 1 .production false).boot.step = 1 ∧ (kindlingUp 1 .production false).boot.running = true) ∧
    ((kindlingUp 2 .endOfLife false).boot.step = 2 ∧ (kindlingUp 2 .endOfLife false).boot.lc.serves = false) ∧
    ((kindlingUp 2 .test false).boot.step = 2 ∧ (kindlingUp 2 .test false).boot.lc.serves = true) ∧
    (kindlingUp 3 .test true).boot.step = 3 ∧
    ((kindlingUp 4 .test false).boot.step = 4 ∧ (kindlingUp 4 .test false).boot.storeOk = false) ∧
    ((kindlingUp 4 .test true).boot.step = 4 ∧ (kindlingUp 4 .test true).boot.storeOk = true) ∧
    (kindlingUp 5 .test true).boot.step = 5 ∧ (kindlingUp 6 .test true).boot.step = 6 ∧
    ({ pass := false } : StepReport).pass = false ∧ (2 ≤ (kindlingUp 6 .test true).boot.step ∧ (kindlingUp 6 .test true).boot.step ≤ 6) := by
  decide

/-! ## Keys -/

/-- A level-3 key in slot 70 that may derive, a wrap key in slot 72, and exportable and pushable keys in 73 and 74; the slots free
longest are 71 and then 90; slot 75's parent is gone. -/
def keyUp : Block :=
  { up with keys := { free := { next := 0x4000, freed := [71, 90] }
                      slots := [(0, rootSlot), (70, keySlot 70 useV 0 false), (72, keySlot 72 useW 0 false),
                                (73, keySlot 73 useE 0 true), (74, keySlot 74 useD 0 false),
                                (75, { attr := makeAttr useV 4 1 false false true, parentSlot := 99, parentGen := 2 })]
                      exports := [(256 * 3 + 255, { chain := [(74, 1), (0, 1)], lease := some 5 })] } }

/-- KEY_GENERATE of a 512-bit key of level 5. -/
def generateCmd : Cmd := cmd [(0, 0x0101), (4, 1), (16, 70), (18, 5), (19, 2), (20, 3), (22, useE + useD)]
/-- KEY_DERIVE of a context key. -/
def deriveCmd : Cmd := cmd [(0, 0x0102), (4, 1), (16, 70), (18, 3), (20, 3), (22, useV), (32, 7)]
/-- KEY_IMPORT of 32 wrapped bytes as a level-4 key. -/
def importCmd : Cmd :=
  cmd [(0, 0x0103), (4, 1), (16, 72), (19, 1), (20, 3), (22, useV), (28, 4), (40, 40)]
    (kwpWrap (le (keyUp.material 72)) (toLe 32 0x77))

/-- The derivation that deriveCmd selects. -/
def deriveCtx : Derivation := { name := "CX.context", level := 4, x := toLe 2 1 ++ toLe 32 7 }

theorem derive_ctx : deriveCmd.derivation = some deriveCtx := by
  have h : dfld deriveCmd.desc 18 1 = 3 := by decide +kernel
  have g : (toLe 2 deriveCmd.ctx ++ dbytes deriveCmd.desc 32 32) = toLe 2 1 ++ toLe 32 7 := by decide +kernel
  simp only [Cmd.derivation, h, g, deriveCtx]

theorem witness_keysMade :
    (CmdReady (withCmd keyUp generateCmd) 7 0x0101 generateCmd ∧ generateCmd.persistent = false ∧
      (keyUp.takeSlot generateCmd.fn).map (·.1) = some 71 ∧ keyUp.generateCheck generateCmd = .ok) ∧
    (CmdReady (withCmd keyUp deriveCmd) 7 0x0102 deriveCmd ∧ deriveCmd.persistent = false ∧
      deriveCmd.derivation = some deriveCtx ∧
      deriveCtx.level ≠ 2 ∧ keyUp.deriveCheck deriveCmd deriveCtx = .ok) ∧
    (CmdReady (withCmd keyUp importCmd) 7 0x0103 importCmd ∧ importCmd.persistent = false ∧ dfld importCmd.desc 18 1 < 2 ∧
      keyUp.importCheck importCmd = .ok) :=
  ⟨⟨ready (by decide +kernel), by decide +kernel⟩, ⟨ready (by decide +kernel), by decide +kernel, derive_ctx, by decide +kernel⟩, readyCmd (by decide +kernel), by decide +kernel⟩

theorem witness_imported : kwpUnwrap (le (keyUp.material (dfld importCmd.desc 16 2))) importCmd.buf = some (toLe 32 0x77) :=
  by decide +kernel

theorem witness_import : keyUp.imported importCmd = .ok (toLe 32 0x77) := by
  have h : dfld importCmd.desc 18 1 = 0 := by decide +kernel
  have g : (toLe 32 0x77).length = typeLen (dfld importCmd.desc 19 1) := by decide +kernel
  simp only [Block.imported, h, witness_imported, g, if_true]

def exportCmd : Cmd := cmd [(0, 0x0104), (4, 1), (16, 73), (18, 72), (24, 0x2000), (32, 40)]
def queryCmd : Cmd := cmd [(0, 0x0106), (4, 1), (16, 75), (24, 0x2000)]
def pushCmd : Cmd := cmd [(0, 0x0107), (4, 1), (16, 74), (18, 3), (19, 255)]

/-- The key in slot 74 is the content key of a licence with one push left. -/
def licenceUp : Block :=
  { keyUp with
    installs := [(5, { licence := 9, fn := 0, slot := 74, gen := 1, uses := 1, destMask := 8, allowBytes := 0, allowPushes := 2
                       samples := 0 })]
    meters := [(5, { life := { pushes := 1 }, period := { pushes := 1 } })]
    store := { meters := [(5, { state := .live, lifeMarks := { pushes := 2 }, openMarks := { pushes := 2 } })] } }

theorem witness_keysShown :
    (CmdReady (withCmd keyUp exportCmd) 7 0x0104 exportCmd ∧ keyUp.exportCheck exportCmd = .ok ∧
      keyUp.wrapCheck exportCmd = .ok) ∧
    (CmdReady (withCmd keyUp queryCmd) 7 0x0106 queryCmd ∧ dfld queryCmd.desc 16 2 < 2 ^ 14 ∧
      keyUp.mayName queryCmd (dfld queryCmd.desc 16 2) false = true) ∧
    (CmdReady (withCmd keyUp pushCmd) 7 0x0107 pushCmd ∧ keyUp.pushCheck pushCmd = .ok ∧
      (keyUp.installOf (dfld pushCmd.desc 16 2)).isNone = true) ∧
    (CmdReady (withCmd licenceUp pushCmd) 7 0x0107 pushCmd ∧ licenceUp.pushCheck pushCmd = .ok ∧
      (licenceUp.installOf (dfld pushCmd.desc 16 2)).map (·.1) = some 5 ∧ (licenceUp.meters.getD 5 {}).life.pushes < 2 ∧
      licenceUp.canConsume 5 { pushes := 1 } = true) :=
  ⟨⟨ready (by decide +kernel), by decide +kernel⟩, ⟨ready (by decide +kernel), by decide +kernel⟩, ⟨ready (by decide +kernel), by decide +kernel⟩, ready (by decide +kernel), by decide +kernel⟩

def invalidateCmd : Cmd := cmd [(0, 0x0105), (4, 1), (16, 74)]

theorem witness_keysEnd :
    (CmdReady (withCmd keyUp invalidateCmd) 7 0x0105 invalidateCmd ∧ dfld invalidateCmd.desc 16 2 < 2 ^ 14 ∧
      keyUp.mayName invalidateCmd (dfld invalidateCmd.desc 16 2) true = true ∧ keyUp.deleting (dfld invalidateCmd.desc 16 2) = false ∧ dfld invalidateCmd.desc 18 1 = 0) ∧
    (keyUp.pins.blockSafe = false ∧ (keyUp.slot 75).isEmpty = false ∧ (keyUp.slot 75).usable = true ∧ keyUp.chain 75 = none) ∧
    (keyUp.keys.exports.get? (256 * 3 + 255) = some { chain := [(74, 1), (0, 1)], lease := some 5 } ∧
      ({ chain := [(74, 1), (0, 1)], lease := some 5 } : ExportEntry).lapsed keyUp.tick.toNat = true ∧
      ({ chain := [(74, 1), (0, 1)], lease := some 5, leaseMs := 1 } : ExportEntry).lapsed keyUp.tick.toNat = false) :=
  ⟨⟨ready (by decide +kernel), by decide +kernel⟩, by decide +kernel⟩

/-- A schedule of slot 74. -/
def sched : CachedKey := { slot := 74, key := 5, mask := 3, attr := 3, ownerFn := 0, ownerCtx := 1, chain := [(74, 1), (0, 1)] }

/-- The cipher engine's cache holds a schedule, has an order to take, owes an acknowledgement and awaits a fill; two orders of one
destination and a drop of another wait at `kxp_*`. -/
def ordersUp : Block :=
  { up with
    caches := [(0x70, { keys := [sched], orders := [{ seq := 8, slot := 74, gen := 1 }, { seq := 9, slot := 3, gen := 1 }]
                        acks := [7, 6], fills := [{ key := sched, seq := 8 }], lastDrop := 7 })]
    keys := { invals := [{ seq := 7, slot := 3, cmd := some 7, engines := [0x70], exports := [] },
                         { seq := 8, slot := 74, cmd := none, engines := [0x70], exports := [256 * 3 + 255] }]
              kxp := [{ dest := 2, op := 2, slot := 0, shareA := 0, shareB := 0, cmd := none },
                      { dest := 1, op := 0, slot := 4, shareA := 1, shareB := 2, cmd := some 7 },
                      { dest := 3, op := 1, slot := 255, shareA := 0, shareB := 0, cmd := none }] } }

theorem witness_orders :
    (ordersUp.build.engineBuilt 0x70 = true ∧
      (ordersUp.cache 0x70).orders = [{ seq := 8, slot := 74, gen := 1 }, { seq := 9, slot := 3, gen := 1 }] ∧
      ordersUp.boot.seqReset = false ∧ ordersUp.cipherHolds 0x70 74 1 = false) ∧
    (ordersUp.cache 0x70).acks = [7, 6] ∧ takeFill 74 (ordersUp.cache 0x70).fills = some ({ key := sched, seq := 8 }, []) ∧
    (PortOpen .kxp (st ordersUp) ∧
      (takeOrder 2 ordersUp.keys.kxp).map (fun x => (x.1.cmd, x.1.op)) = some (none, 2) ∧
      (takeOrder 1 ordersUp.keys.kxp).map (fun x => (x.1.cmd, x.1.op)) = some (some 7, 0) ∧
      takeOrder 3 ordersUp.keys.kxp = some ({ dest := 3, op := 1, slot := 255, shareA := 0, shareB := 0, cmd := none },
        ordersUp.keys.kxp.take 2) ∧
      (∀ p ∈ ordersUp.keys.kxp.take 2, ¬ (p.op = 1 ∧ p.dest = 3 ∧ p.slot = 255))) :=
  ⟨by decide +kernel, by decide +kernel, by decide +kernel, ⟨rfl, rfl⟩, by decide +kernel⟩

/-! ## Regions -/

/-- Region keys of level 5 in slots 81 and 82; region 4 is bound SEALED with both, region 6 NARROW if the build has it; region 9
belongs to no one. -/
def regionUp : Block :=
  { up with
    keys := { slots := [(0, rootSlot),
                        (70, keySlot 70 useV 0 false),
                        (81, sealSlot 81 { attr := makeAttr (useE + useD) 5 2 false false true, mask := 3, parentSlot := 70
                                           parentGen := 1, material := 0x55 }),
                        (82, sealSlot 82 { attr := makeAttr (useE + useD) 5 2 false false true, mask := 3, parentSlot := 70
                                           parentGen := 1, material := 0x66 })] }
    regions := { table := [(4, { mode := .sealed, ctxwide := true, threshold := 1, keyset := [81, 82] })] }
    ctxs := [(1, { fn := 0 })] }

/-- REGION_BIND of tier-0 region 8 as SEALED_REPLAY with companion region 9. -/
def bindRegionCmd (mode : Nat) : Cmd := cmd [(0, 0x0201), (4, 1), (16, 8), (18, mode), (19, 1), (20, 1), (24, 81), (38, 82)]

/-- The tier of region 8. -/
def tier8 : Tier := regionUp.build.tier0

def unbindCmd : Cmd := cmd [(0, 0x0202), (16, 4)]
def regionQueryCmd : Cmd := cmd [(0, 0x0204), (16, 4)]
def rekeyCmd : Cmd := cmd [(0, 0x0203), (16, 4), (18, 0), (19, 1)]

theorem bindKeys : ∀ h ∈ (bindRegionCmd 1).keyset, regionUp.bindKeyCheck tier8 0 1 h.toNat = .ok := by
  have k : (bindRegionCmd 1).keyset = [81, 0, 0, 0, 0, 0, 0, 82] := by decide +kernel
  have a : regionUp.bindKeyCheck tier8 0 1 81 = .ok := by decide +kernel
  have b : regionUp.bindKeyCheck tier8 0 1 82 = .ok := by decide +kernel
  have z : regionUp.bindKeyCheck tier8 0 1 0 = .ok := by decide +kernel
  rw [k]
  intro h m
  simp only [List.mem_cons, List.not_mem_nil, or_false] at m
  rcases m with rfl | rfl | rfl | rfl | rfl | rfl | rfl | rfl
  exacts [a, z, z, z, z, z, z, b]

theorem witness_regionBind :
    CmdReady (withCmd regionUp (bindRegionCmd 1)) 7 0x0201 (bindRegionCmd 1) ∧ regionUp.build.regionTier 8 = some tier8 ∧
    regionUp.build.bindMode tier8 1 = some .sealed ∧ regionUp.bindPlaceOk (bindRegionCmd 1) 8 tier8 .sealed = true ∧
    ((bindRegionCmd 1).keyset.map fun h => h.toNat).headD 0 ≠ 0 ∧
    (∀ h ∈ (bindRegionCmd 1).keyset, regionUp.bindKeyCheck tier8 0 1 h.toNat = .ok) :=
  ⟨ready (by decide +kernel), by decide +kernel, by decide +kernel, by decide +kernel, by decide +kernel, bindKeys⟩

theorem witness_regionBindReplay :
    CmdReady (withCmd regionUp (bindRegionCmd 3)) 7 0x0201 (bindRegionCmd 3) ∧ regionUp.build.bindMode tier8 3 = some .replay ∧
    regionUp.bindPlaceOk (bindRegionCmd 3) 8 tier8 .replay = true ∧ tier8.one = false ∧ regionUp.replayRegions < 32 ∧
    regionUp.boot.entropyDown = false ∧ needsCompanion tier8 .replay = true :=
  ⟨ready (by decide +kernel), by decide +kernel⟩

theorem witness_regionCommands :
    (CmdReady (withCmd regionUp unbindCmd) 7 0x0202 unbindCmd ∧ regionUp.mayNameRegion unbindCmd = true ∧
      (regionUp.region unbindCmd.region).mode ≠ .companion) ∧
    (CmdReady (withCmd regionUp regionQueryCmd) 7 0x0204 regionQueryCmd ∧ regionUp.mayNameRegion regionQueryCmd = true) ∧
    CmdReady (withCmd regionUp rekeyCmd) 7 0x0203 rekeyCmd ∧ regionUp.build.regionTier rekeyCmd.region = some tier8 :=
  ⟨⟨ready (by decide +kernel), by decide +kernel⟩, ⟨ready (by decide +kernel), by decide +kernel⟩, ready (by decide +kernel), by decide +kernel⟩

theorem witness_rekeyCheck : regionUp.rekeyCheck rekeyCmd = .ok := by decide +kernel

/-- Region 4 is being bound and region 6 rekeyed, at MCE 3; MCE 3 has region 9 to drop, and way group 7 waits for a change. -/
def passUp (mode : Mode) : Block :=
  { regionUp with
    regions := { table := [(4, { mode := .sealed, ctxwide := true, threshold := 1, keyset := [81], binding := true }),
                           (6, { mode := mode, ctxwide := true, threshold := 1, keyset := [81, 82], new := 1, rekeying := true }),
                           (9, { mode := .scramble })]
                 binds := [(4, { cmd := 7, next := [(3, tier8.lineLo 4 3)] })]
                 rekeys := [(6, { cmd := some 8, next := [(3, tier8.lineHi 6 3 - 1)] })] }
    mces := [(3, { regionDrops := [9], regions := [(9, { mode := .scramble }), (4, {})] })]
    ways := [(7, { busy := true, next := some (1, true, false) })] }

/-- Whether a pass may touch the line at which it stands. -/
def passMay (m : Mode) (r n : Nat) : Bool := (passUp m).passFree r 3 [tier8.lineAddr n 3]

theorem witness_passes :
    (PortOpen (.mctl 3) (st (passUp .sealed)) ∧ (passUp .sealed).regions.binds.get? 4 = some { cmd := 7, next := [(3, tier8.lineLo 4 3)] } ∧
      tier8.lineLo 4 3 < tier8.lineHi 4 3 ∧ passMay .sealed 4 (tier8.lineLo 4 3) = true) ∧
    ((passUp .sealed).regions.rekeys.get? 6 = some { cmd := some 8, next := [(3, tier8.lineHi 6 3 - 1)] } ∧
      ((passUp .sealed).region 6).mode ≠ .replay ∧ tier8.lineHi 6 3 - 1 < tier8.lineHi 6 3 ∧
      passMay .sealed 6 (tier8.lineHi 6 3 - 1) = true) ∧
    (((passUp .replay).region 6).mode = .replay ∧
      (passUp .replay).passFree 6 3 ((tier8.leafLines 6 3 (tier8.lineHi 6 3 - 1)).map fun k => tier8.lineAddr k 3) = true) ∧
    ((passUp .sealed).build.shellBuilt (.mreq 3) = true ∧ ((passUp .sealed).mce 3).regionDrops = [9]) ∧
    (passUp .sealed).ways.get? 7 = some { busy := true, next := some (1, true, false) } :=
  ⟨⟨⟨rfl, rfl⟩, by decide +kernel⟩, by decide +kernel⟩

/-- TRAFFIC_GEN on region 4 from MCE 3 with the mode of its binding, in Test. -/
def genCmd : Cmd := cmd [(0, 0x0E01), (16, 3), (17, 1), (18, 4), (22, 1), (32, 2), (48, 0x1000)]

/-- A part in Test with the regions bound. -/
def genUp : Block := { regionUp with boot := { up.boot with lc := .test } }

/-- The key of region 4 as MCE 3 holds it. -/
def key81 : CachedKey :=
  { slot := 81, key := 0x77, mask := 3, attr := makeAttr (useE + useD) 5 2 false false true, ownerFn := 0, ownerCtx := 0, chain := [(81, 1)] }

/-- A run of command 7 that has done some of its requests, on region 12 that it has bound, or on region 4, whose first key is as
given. -/
def genRun (own : Bool) (done : Nat) : GenRun :=
  { mce := 3, region := if own then 4 else 12, mode := .sealed, own := own, key := 5, done := done }

def genGoing (own : Bool) (done : Nat) (key : BitVec 16) : Block :=
  { genUp with
    regions := { table := [(4, { mode := .sealed, ctxwide := true, threshold := 1, keyset := [key] }), (12, { mode := .sealed, generator := true })]
                 gens := [(7, genRun own done)] }
    caches := [(3, { keys := [key81] })] }

/-- What the next request of such a run asks. -/
def GenGoes (own : Bool) (key : BitVec 16) : Prop :=
  CmdReady (withCmd (genGoing own 1 key) genCmd) 7 0x0E01 genCmd ∧ (genGoing own 1 key).regions.gens.get? 7 = some (genRun own 1) ∧
  (genRun own 1).done ≠ genCmd.genCount ∧ Tab.has (genGoing own 1 key).resets (genRun own 1).mce = false ∧
  (∀ l ∈ genLines ((genGoing own 1 key).genPlan genCmd (genRun own 1)).addr genCmd.genLen [], (genGoing own 1 key).mustWait l.1 = false)

theorem witness_trafficGen :
    CmdReady (withCmd genUp genCmd) 7 0x0E01 genCmd ∧ genUp.boot.lc ≠ .endOfLife ∧ genUp.boot.lc ≠ .invalid ∧
    genUp.regions.gens.get? 7 = none ∧ genCmd.genShape = true ∧ (genUp.genTarget genCmd).isSome = true ∧
    genUp.boot.entropyDown = false ∧ dfld genCmd.desc 32 4 = 2 ∧
    (genUp.region (dfld genCmd.desc 18 2)).bound = true ∧ (genUp.region 5).bound = false :=
  ⟨ready (by decide +kernel), by decide +kernel⟩

/-- Whether a lookup finds its key. -/
def finds (p : Except Status CachedKey × Block) : Bool :=
  match p.1 with
  | .ok _ => true
  | .error _ => false

def genFinds (key : BitVec 16) (use : Nat) : Bool :=
  finds ((withCmd (genGoing true 1 key) genCmd).blk.begin.useKey 3 (((genGoing true 1 key).region 4).key 0) 0 0 use)

theorem witness_trafficRuns :
    GenGoes false 81 ∧ (genRun false 1).own = false ∧
    (GenGoes true 81 ∧ (genRun true 1).own = true ∧ ((genGoing true 1 81).region 4).bound = true ∧
      ((genGoing true 1 81).region 4).mode = (genRun true 1).mode ∧ genFinds 81 useE = true ∧ genFinds 81 useD = true) ∧
    (GenGoes true 99 ∧ genFinds 99 useE = false ∧ genFinds 99 useD = false) ∧
    (CmdReady (withCmd (genGoing false 2 81) genCmd) 7 0x0E01 genCmd ∧ (genGoing false 2 81).regions.gens.get? 7 = some (genRun false 2) ∧
      (genRun false 2).done = genCmd.genCount) :=
  ⟨⟨ready (by decide +kernel), by decide +kernel⟩, rfl, ⟨⟨ready (by decide +kernel), by decide +kernel⟩, by decide +kernel⟩,
    ⟨⟨ready (by decide +kernel), by decide +kernel⟩, by decide +kernel⟩, ready (by decide +kernel), by decide +kernel⟩

/-! ## The memory ports -/

/-- A line of region 4 that MCE 3 holds. -/
def line4 : Nat := tier8.lineAddr (tier8.lineLo 4 3) 3

/-- A request for it. -/
def memReq : MemReq := { mce := 3, addr := BitVec.ofNat 37 (line4 / 32), tag := 5, keyIdx := 81, ctx := 1 }

/-- A request that MCE 33 of tier 1 holds, and that waits for its data. -/
def heldReq : MceReq := { id := 0, req := { mce := 33, addr := 0x4_0000_0000 }, stage := .reading }

/-- MCE 3 with credits as given, a read out and a tag in quarantine; MCE 33 with a read out. -/
def mceUp (credits : Nat) : Block :=
  { regionUp with
    mces := [(3, { aCrd := credits, wCrd := credits, quarantine := [2, 9], reqs := [heldReq], nextReq := 1
                   reads := [(0, { req := some 0, part := .data 0, addr := 0, len := 128 })] }),
             (33, { reqs := [heldReq], nextReq := 1
                    reads := [(4095, { req := some 0, part := .data 0x80_0000_0000, addr := 0x80_0000_0000, len := 128 })] })] }

theorem witness_memoryRequests :
    PortOpen (.mreq memReq.mce) (st (mceUp 1)) ∧ (mceUp 1).pins.blockSafe = false ∧ ((mceUp 1).mce memReq.mce).halted = false ∧
    memReq.formOk = true ∧ Tab.has (mceUp 1).resets memReq.mce = false ∧
    (((mceUp 1).build.tierOf (memReq.addr.toNat * 32)).any fun t => t.mce (memReq.addr.toNat * 32) = memReq.mce) = true ∧
    0 < ((mceUp 1).mce memReq.mce).aCrd ∧ 0 < ((mceUp 1).mce memReq.mce).wCrd :=
  ⟨⟨rfl, rfl⟩, by decide +kernel⟩

theorem witness_violations :
    (PortOpen (.mreq memReq.mce) (st (mceUp 0)) ∧ ((mceUp 0).mce memReq.mce).aCrd = 0 ∧ ((mceUp 0).mce memReq.mce).wCrd = 0 ∧
      ((mceUp 0).mce memReq.mce).halted = false) ∧
    (PortOpen (.lreq 15) (st (linkUp 2)) ∧ ((linkUp 2).lpe 15).halted = false ∧ ((linkUp 2).lpe 15).aCrd = 0) :=
  ⟨⟨⟨rfl, rfl⟩, by decide +kernel⟩, ⟨rfl, rfl⟩, by decide +kernel⟩

theorem witness_reads :
    (PortOpen (.mctl 3) (st (mceUp 1)) ∧
      ((mceUp 1).mce 3).reads.get? 0 = some { req := some 0, part := .data 0, addr := 0, len := 128 }) ∧
    (((mceUp 1).mce 3).reads.get? 9 = none ∧ List.contains ((mceUp 1).mce 3).quarantine 9 = true) ∧
    (((mceUp 1).mce 3).reads.get? 1 = none ∧ List.contains ((mceUp 1).mce 3).quarantine 1 = false) :=
  ⟨⟨⟨rfl, rfl⟩, by decide +kernel⟩, by decide +kernel⟩

theorem witness_t1Timeout :
    (mceUp 1).build.shellBuilt (.mctl 33) = true ∧ (mceUp 1).build.t0 ≤ 33 ∧
    ((mceUp 1).mce 33).reads.get? 4095 =
      some { req := some 0, part := .data 0x80_0000_0000, addr := 0x80_0000_0000, len := 128 } ∧
    (((mceUp 1).mce 33).reqs.find? fun x => x.id = 0) = some heldReq ∧
    heldReq.partLine { (mceUp 1).mce 33 with reads := Tab.del ((mceUp 1).mce 33).reads 4095
                                             quarantine := ((mceUp 1).mce 33).quarantine ++ [4095] }
      (mceUp 1).build.tier1 (33 - (mceUp 1).build.t0) 0x80_0000_0000 = 0 := by decide +kernel

/-! ## The fabric ports -/

/-- The job key of job 5 as LPE 15 has it, and the keys derived from it for block 9's packets in epoch 7. -/
def linkKeys : KeyCache :=
  { keys := [.plain, .pair 9 0xFFF 7, .pair 0xFFF 9 7, .group 7].map fun w =>
      { slot := 80, what := w, key := 0x77, mask := 0xFFFF, attr := makeAttr useV 4 1 true false true, ownerFn := 0, ownerCtx := 0
        chain := [(80, 1)] } }

/-- The lines of a record of the state region of job 5 in frames. -/
def stateFrames (off n : Nat) : List RemoteLine :=
  (List.range (linesOf off n)).map fun k => { own := true, job := 5, line := (3 * 2 ^ 28 + off) / 128 + k }

/-- LPE 15, a member, with job 5 of the PF joined by context 1, its state region 3, credit for one request of every length, 18
beats of rx credit, and what a test adds. -/
def fabUp (f : Lpe → Lpe) : Block :=
  { up with
    keys := { slots := [(0, rootSlot), (80, sealSlot 80 { attr := makeAttr useV 4 1 true false true, mask := 0xFFFF, parentGen := 1 })] }
    boot := { up.boot with blockId := 0xFFF }
    ctxs := [(1, { fn := 0, jobs := [5] })]
    jobs := [(5, { fn := 0, slot := 80, gen := 1, epoch := 7, stateRegion := some 3 })]
    caches := [(0x4F, linkKeys)]
    lpes := [(15, f { up := true, member := true, aCrd := 1, wCrd := 17, rxCrd := 18, txCrd := 100
                      remote := stateFrames (windowOff { ty := 1, pclass := 0, src := 9, dst := 0xFFF, stream := 0xF000, seq := 1, len := 0 })
                        528 ++ stateFrames (counterOff 15 9 false) 16 })] }

/-- A request of job 5 to block 9 from context 1 at port 15. -/
def linkReq (ty pclass len : Nat) : LinkReq :=
  { lpe := 15, ty := BitVec.ofNat 4 ty, dst := 9, job := 5, ctx := 1, pclass := BitVec.ofNat 2 pclass
    addr := BitVec.ofNat 56 (2 ^ 42 - 64 * (len + 1)), len := BitVec.ofNat 6 len, tag := 0xABC }

/-- The one beat of an ATOMIC that adds 5. -/
def addBeat : List Beat := [BitVec.ofNat 2048 (1 + 5 * 2 ^ 64)]

theorem fab_open (f : Lpe → Lpe) : PortOpen (.lreq 15) (st (fabUp f)) := ⟨rfl, rfl⟩

theorem fab_phy (f : Lpe → Lpe) : PortOpen (.lphy 15) (st (fabUp f)) := ⟨rfl, rfl⟩

/-- Job 5 as fabUp holds it. -/
def fabJob : Job := { fn := 0, slot := 80, gen := 1, epoch := 7, stateRegion := some 3 }

/-- What lets a request start that is about plain data. -/
def readyReq (b : Block) (r : LinkReq) (ty : Nat) (beats : List Beat) : Bool :=
  !b.pins.blockSafe && !(b.lpe r.lpe).halted && decide (r.ty.toNat < 7) && decide (0 < (b.lpe r.lpe).aCrd) &&
  decide (requestBeats ty r.len.toNat ≤ (b.lpe r.lpe).wCrd) && !Tab.has b.resets (lpeId r.lpe) &&
  decide (b.lreqCheck r.lpe (typedReq r ty) (lreqData (typedReq r ty) beats) = .ok) &&
  decide (b.jobs.get? r.job.toNat = some fabJob) && (b.lpe r.lpe).ingress.isEmpty && (b.lpe r.lpe).raises.isEmpty &&
  decide ((((st b).lreqEntered r ty beats {}).chooseReq.map fun e => e.1) = some (typedReq r ty, beats))

theorem reqServed {f : Lpe → Lpe} {r : LinkReq} {ty : Nat} {beats : List Beat} (h0 : r.lpe = 15)
    (h : readyReq (fabUp f) r ty beats = true) : RequestServed (st (fabUp f)) r ty beats {} fabJob := by
  simp only [readyReq, Bool.and_eq_true, Bool.not_eq_true', decide_eq_true_eq, List.isEmpty_iff] at h
  obtain ⟨⟨⟨⟨⟨⟨⟨⟨⟨⟨h1, h2⟩, h3⟩, h4⟩, h5⟩, h6⟩, h7⟩, h8⟩, h9⟩, h10⟩, h11⟩ := h
  exact ⟨h0 ▸ fab_open f, h1, h2, h3, h4, h5, h6, h7, h8, h9, h10, h11⟩

theorem witness_linkRequests :
    RequestServed (st (fabUp id)) (linkReq 0 0 63) 0 [] {} fabJob ∧ RequestServed (st (fabUp id)) (linkReq 1 0 1) 1 [] {} fabJob ∧
    RequestServed (st (fabUp id)) (linkReq 2 0 63) 2 (List.replicate 16 0xEE) {} fabJob ∧
    RequestServed (st (fabUp id)) (linkReq 3 2 0) 3 addBeat {} fabJob ∧
    RequestServed (st (fabUp id)) (linkReq 4 0 63) 4 (List.replicate 17 1) {} fabJob ∧
    RequestServed (st (fabUp id)) (linkReq 5 0 63) 5 (List.replicate 16 0xEE) {} fabJob ∧
    RequestServed (st (fabUp id)) (linkReq 6 0 1) 6 [] {} fabJob ∧
    ((fabUp id).lpe 15).freeRtag = some 0 ∧ ((fabUp id).lpe 15).cachedLine (typedReq (linkReq 1 0 1) 1) = none :=
  ⟨reqServed rfl (by decide +kernel), reqServed rfl (by decide +kernel), reqServed rfl (by decide +kernel), reqServed rfl (by decide +kernel),
    reqServed rfl (by decide +kernel), reqServed rfl (by decide +kernel), reqServed rfl (by decide +kernel), by decide +kernel, by decide +kernel⟩

/-- The last line of block 9's memory, cached for job 5. -/
def heldLine : RemoteLine := { home := 9, job := 5, line := 2 ^ 35 - 1, data := 0xAB }

theorem witness_cachedLoad :
    RequestServed (st (fabUp fun l => { l with remote := heldLine :: l.remote })) (linkReq 1 0 1) 1 [] {} fabJob ∧
    ((fabUp fun l => { l with remote := heldLine :: l.remote }).lpe 15).cachedLine (typedReq (linkReq 1 0 1) 1) = some heldLine :=
  ⟨reqServed rfl (by decide +kernel), by decide +kernel⟩

theorem witness_refusedRequests :
    PortOpen (.lreq (linkReq 0 3 0).lpe) (st (fabUp id)) ∧ (fabUp id).pins.blockSafe = false ∧
    ((fabUp id).lpe (linkReq 0 3 0).lpe).halted = false ∧ 0 < ((fabUp id).lpe (linkReq 0 3 0).lpe).aCrd ∧ (linkReq 0 3 0).ty = 0 ∧
    Status.badOperand ≠ .ok ∧ ((fabUp id).lpe (linkReq 0 3 0).lpe).raises = [] ∧
    ((fabUp id).lpe (linkReq 0 3 0).lpe).ingress = [] ∧ Tab.has (fabUp id).resets (lpeId (linkReq 0 3 0).lpe) = false ∧
    (fabUp id).lreqCheck (linkReq 0 3 0).lpe (linkReq 0 3 0) [] = .badOperand :=
  ⟨fab_open id, by decide +kernel⟩

/-- A packet of block 9's LPE 15 for job 5, the first of its stream. -/
def jobHdr (ty pclass units : Nat) : Hdr :=
  { ty := ty, pclass := pclass, src := 9, dst := 0xFFF, job := 5, stream := 0xF000, seq := 1, len := units - 1, epoch := 7, rtag := 4
    opd := 3 }

def jobPacket (ty pclass : Nat) (body : Bytes) : RxPacket := sealed 15 0x77 (jobHdr ty pclass (body.length / 64)) body

/-- Whether a packet of a TYPE passes the receive checks, and what is asked of the opened packet holds. -/
def passing (ty : Nat) (s : State) (p : RxPacket) (q : Rx → Bool) : Bool :=
  decide ((Hdr.read p.hdr).ty = ty) && s.blk.mayReceive p && s.blk.rxFormOk p && !(s.rxStart p {}).mustHold p &&
  match (s.rxCheck p {}).1 with
  | .ok r => q r
  | _ => false

theorem passes {s : State} {ty : Nat} {p : RxPacket} {q : Rx → Bool} (o : PortOpen (.lphy p.lpe) s) (h : passing ty s p q = true) :
    ∃ r, Passes ty s p {} r ∧ q r = true := by
  simp only [passing, Bool.and_eq_true, decide_eq_true_eq, Bool.not_eq_true'] at h
  obtain ⟨⟨⟨⟨h1, h2⟩, h3⟩, h4⟩, h5⟩ := h
  split at h5
  · exact ⟨_, ⟨o, h1, h2, h3, h4, by assumption⟩, h5⟩
  · exact Bool.noConfusion h5

/-- Job 5's region 2, scrambled, with its key in slot 90, which MCE 0 holds; in region 3 the directory entry of line 2 ^ 22 as
given. -/
def homeUp (dir : Nat) (f : Lpe → Lpe) : State :=
  let b := fabUp fun l => f { l with remote := stateFrames (dirOff (2 ^ 22)) 32 ++ l.remote }
  let cells : List Host.Cell := (List.range 16).map fun i => (3 * 2 ^ 28 + dirOff (2 ^ 22) + i, (toLe 16 dir).getD i 0)
  { mem := cells.filter fun c => c.2 ≠ 0, blk := { b with
    keys := { b.keys with
      slots := b.keys.slots.put 90 (sealSlot 90 { attr := makeAttr (useE + useD) 5 2 false false true, mask := 3, ownerCtx := 1
                                                  parentSlot := 80, parentGen := 1, material := 0x55 }) }
    regions := { table := [(2, { mode := .scramble, keyset := [90] })] }
    caches := b.caches ++ [(0, { keys := [{ slot := 90, key := 0x77, mask := 3, attr := makeAttr (useE + useD) 5 2 false false true
                                            ownerFn := 0, ownerCtx := 1, chain := [(90, 1)] }] })] } }

def plainUp : State := homeUp 0 id

/-- What the home finds for an operation. -/
def homeFinds (s : State) (p : RxPacket) (r : Rx) (q : Lx → OpBlock → Nat → Asker → Bool) : Bool :=
  match (s.rxOpened p {} r).home r with
  | some (o, n, k) => q (s.rxOpened p {} r) o n k
  | none => false

/-- An operation on the first line of region 2. -/
def homePacket (ty pclass rlen aop o1 cnt : Nat) (data : Bytes) : RxPacket :=
  jobPacket ty pclass (opBlock (2 ^ 29) rlen aop o1 0 cnt ++ data)

/-- 64 bytes of zeros. -/
def zeros64 : Bytes := List.replicate 64 0

theorem witness_homeLoad :
    ∃ r, Passes 0x01 plainUp (homePacket 0x01 0 2 0 0 0 []) {} r ∧
      homeFinds plainUp (homePacket 0x01 0 2 0 0 0 []) r (fun x o n k =>
        decide ((x.loads o n k).1 = .ok) && decide (r.h.pclass = 0) && !(x.loads o n k).2.2.w.stuck) = true :=
  passes ⟨rfl, rfl⟩ (by decide +kernel)

theorem witness_groupLoad :
    ∃ r, Passes 0x01 plainUp (homePacket 0x01 1 0 0 0 0 []) {} r ∧
      homeFinds plainUp (homePacket 0x01 1 0 0 0 0 []) r (fun x o n k =>
        decide ((x.loads o n k).1 = .ok) && decide (r.h.pclass = 1) && !(x.loads o n k).2.2.w.stuck) = true :=
  passes ⟨rfl, rfl⟩ (by decide +kernel)

/-- What LOAD_CACHE finds in the directory. -/
def cacheFinds (s : State) (r : Rx) (q : DirEntry → Lx → Bool) : Bool :=
  homeFinds s (homePacket 0x02 0 0 0 0 0 []) r fun x o _ k =>
    let d := Serving.readPieces k [(128 * (o.addr / 128), 0, 128)] x.serving
    let e := (x.after d.2.2).readDir r.h.job r.job (o.addr / 128)
    decide (d.1 = .ok) && decide (e.1 = .ok) && !e.2.2.w.stuck && q e.2.1 e.2.2

theorem witness_loadCache :
    (∃ r, Passes 0x02 plainUp (homePacket 0x02 0 0 0 0 0 []) {} r ∧
      cacheFinds plainUp r (fun e x => !e.valid && !x.invalidating r.h.job (2 ^ 22)) = true) ∧
    (∃ r, Passes 0x02 (homeUp (2 ^ 63 + 7) id) (homePacket 0x02 0 0 0 0 0 []) {} r ∧
      cacheFinds (homeUp (2 ^ 63 + 7) id) r (fun e _ => e.valid && decide (e.line ≠ 2 ^ 22)) = true) ∧
    (∃ r, Passes 0x02 (homeUp 0 fun l => { l with invals := [{ line := 2 ^ 22, job := 5, hdr := 0 }] }) (homePacket 0x02 0 0 0 0 0 []) {} r ∧
      cacheFinds (homeUp 0 fun l => { l with invals := [{ line := 2 ^ 22, job := 5, hdr := 0 }] }) r
        (fun _ x => x.invalidating r.h.job (2 ^ 22)) = true) :=
  ⟨passes ⟨rfl, rfl⟩ (by decide +kernel), passes ⟨rfl, rfl⟩ (by decide +kernel), passes ⟨rfl, rfl⟩ (by decide +kernel)⟩

theorem witness_homeStore :
    ∃ r, Passes 0x03 plainUp (homePacket 0x03 0 0 0 0 0 zeros64) {} r ∧
      homeFinds plainUp (homePacket 0x03 0 0 0 0 0 zeros64) r (fun x o n k => decide ((x.saves r o n k).1 = .ok) && !(x.saves r o n k).2.w.stuck) = true :=
  passes ⟨rfl, rfl⟩ (by decide +kernel)

theorem witness_homeAtomic :
    ∃ r, Passes 0x04 plainUp (homePacket 0x04 2 0 1 5 0 []) {} r ∧
      homeFinds plainUp (homePacket 0x04 2 0 1 5 0 []) r (fun x o _ k =>
        let y := x.changes k o.addr fun old => atomicNew o.aop old o.o1 o.o2
        decide (y.1 = .ok) && !y.2.2.w.stuck) = true :=
  passes ⟨rfl, rfl⟩ (by decide +kernel)

theorem witness_homeCopy :
    ∃ r, Passes 0x05 plainUp (homePacket 0x05 0 0 0 0 (2 ^ 29 + 128) (zeros64 ++ zeros64)) {} r ∧
      homeFinds plainUp (homePacket 0x05 0 0 0 0 (2 ^ 29) (zeros64 ++ zeros64)) r (fun x o n k =>
        let y := x.after (x.saves r o n k).2
        decide ((x.saves r o n k).1 = .ok) && decide (o.cnt % 8 = 0) && decide (o.cnt < 2 ^ 42) &&
        match y.w.blk.homeAsker r.h.job r.job o.cnt 8 with
        | some q =>
          let z := y.changes q o.cnt fun old => atomicNew 1 old (n / 64) 0
          decide (z.1 = .ok) && !z.2.2.w.stuck
        | none => false) = true :=
  passes ⟨rfl, rfl⟩ (by decide +kernel)

/-! ### Reductions -/

/-- A reduction of 400 blocks, of which kiln 3 has blocks 384 to 399, that expects exponents, or sums. -/
def packetRed (gs : Nat) : Reduction :=
  { fn := 0, ctx := 1, job := 5, call := 8, rank := 1, n := 2, elems := 32 * 400, window := 4096 * up.build.kilns, inFmt := 4
    scaled := false, a64 := false, outFmt := 4, sr := false, seed := 0, prog := 62, srcAddr := 0, srcKey := 81, resAddr := 2 ^ 28
    resKey := 81, anchor := 3, goBase := 0, gx := 1, gs := gs }

def redUp (gs : Nat) : Block := { fabUp id with reductions := [(2, packetRed gs)] }

/-- A payload of rank 0's block 384: an exponent, or 32 values. -/
def redPacket (sums : Bool) : RxPacket :=
  jobPacket 0x06 0 (toLe 1 (2 + 128 * bit sums) ++ toLe 1 (4 * bit sums) ++ toLe 2 1 ++ toLe 3 8 ++ toLe 1 0 ++ toLe 4 0 ++ toLe 4 384 ++
    toLe 2 0 ++ toLe 46 0 ++ [7] ++ toLe 63 0)

/-- What R228 asks of such a payload. -/
def redTaken (gs : Nat) (sums : Bool) (r : Rx) : Bool :=
  let x := (st (redUp gs)).rxOpened (redPacket sums) {} r
  let d := RedBlock.read r.body
  let k := packetRed gs
  decide (x.w.blk.reduction? d.slot = some k) && !k.ended && decide (k.job.toNat = r.h.job) && decide (k.call.toNat = d.call) &&
  d.shapeOk k x.w.blk.build.kilns (x.n / 4) r.body.length && x.w.blk.phaseOk d k (x.n / 4) && d.anchorsOk r.body &&
  decide (d.sums = sums) &&
  match x.w.blk.programBlocks k (k.facts d.window d.first d.rank 1) d.nblk
      (slice r.body (64 + if k.scaled then d.nblk else 0) (d.nblk * blockBytes k.inFmt))
      ((slice r.body 64 (if k.scaled then d.nblk else 0)).map fun x => x.toNat) with
  | .ok v =>
    !sums || !((x.at (4 * (x.n / 4))).accumulate d.slot d.window d.first v).w.stuck
  | .error _ => false

theorem witness_reducePackets :
    (∃ r, Passes 0x06 (st (redUp 0)) (redPacket false) {} r ∧ redTaken 0 false r = true) ∧
    (∃ r, Passes 0x06 (st (redUp 1)) (redPacket true) {} r ∧ redTaken 1 true r = true) :=
  ⟨passes ⟨rfl, rfl⟩ (by decide +kernel), passes ⟨rfl, rfl⟩ (by decide +kernel)⟩

/-! ### Completions -/

/-- A request under RTAG 4 that one completion of OPD 3 answers, and a group load under RTAG 6. -/
def asked (r : LinkReq) (marked : Bool) : Outstanding := { req := r, fn := 0, seqs := [3], unsent := 0, marked := marked }

def cplUp (o : Outstanding) : Block :=
  fabUp fun l => { l with rtags := [(4, o), (6, { req := linkReq 0 1 0, fn := 0, seqs := [8], unsent := 0, token := some 3 })] }

/-- What a completion of a request needs. -/
def completing (o : Outstanding) (p : RxPacket) (s : Status) (r : Rx) : Bool :=
  let x := (st (cplUp o)).rxAfter p {}
  !r.h.multi && decide (x.lpe.rtags.get? r.h.rtag = some o) && decide (o.seqs = [r.h.opd]) && decide (o.unsent = 0) && decide (o.kiln = none) &&
  decide (o.status = .ok) && decide (r.status = some s) && !x.w.stuck && decide (x.lpe.remote.length < remoteFrames)

/-- A completion with a status and an old value. -/
def cplPacket (s : Status) : RxPacket := jobPacket 0x10 0 (cplBytes s 7)

theorem witness_completions :
    (∃ r, Passes 0x10 (st (cplUp (asked (linkReq 2 0 0) false))) (cplPacket .noKey) {} r ∧
      completing (asked (linkReq 2 0 0) false) (cplPacket .noKey) .noKey r = true) ∧
    (∃ r, Passes 0x11 (st (cplUp (asked (linkReq 0 0 0) false))) (jobPacket 0x11 0 zeros64) {} r ∧
      completing (asked (linkReq 0 0 0) false) (jobPacket 0x11 0 zeros64) .ok r = true) ∧
    (∃ r, Passes 0x11 (st (cplUp (asked (linkReq 1 0 1) true))) (jobPacket 0x11 0 (zeros64 ++ zeros64)) {} r ∧
      completing (asked (linkReq 1 0 1) true) (jobPacket 0x11 0 (zeros64 ++ zeros64)) .ok r = true) ∧
    (∃ r, Passes 0x11 (st (cplUp (asked (linkReq 1 0 1) false))) (jobPacket 0x11 0 (zeros64 ++ zeros64)) {} r ∧
      completing (asked (linkReq 1 0 1) false) (jobPacket 0x11 0 (zeros64 ++ zeros64)) .ok r = true) ∧
    (∃ r, Passes 0x12 (st (cplUp (asked (linkReq 1 0 1) false))) (jobPacket 0x12 0 (zeros64 ++ zeros64)) {} r ∧
      completing (asked (linkReq 1 0 1) false) (jobPacket 0x12 0 (zeros64 ++ zeros64)) .ok r = true) :=
  ⟨passes ⟨rfl, rfl⟩ (by decide +kernel), passes ⟨rfl, rfl⟩ (by decide +kernel), passes ⟨rfl, rfl⟩ (by decide +kernel),
    passes ⟨rfl, rfl⟩ (by decide +kernel), passes ⟨rfl, rfl⟩ (by decide +kernel)⟩

/-- A response for the group. -/
def groupAnswer : RxPacket :=
  sealed 15 0x77 { jobHdr 0x11 1 1 with multi := true, dst := 0xFFF } zeros64

theorem witness_groupAnswer :
    ∃ r, Passes 0x11 (st (cplUp (asked (linkReq 2 0 0) false))) groupAnswer {} r ∧ r.h.multi = true :=
  passes (q := fun r => r.h.multi) ⟨rfl, rfl⟩ (by decide +kernel)

/-! ### The directory -/

/-- A packet of the directory about line 2 ^ 22. -/
def dirPacket (ty : Nat) : RxPacket := homePacket ty 0 0 0 0 0 []

/-- The line's entry: valid, with the readers 9 at LPE 15 and 8 at LPE 3. -/
def dirEntry : Nat := 2 ^ 22 + 2 ^ 63 + sharerWord 9 15 * 2 ^ 64 + sharerWord 8 3 * 2 ^ 96

/-- What an INVALIDATE finds. -/
def invalFinds (dir : Nat) (r : Rx) (q : HomeInval → DirEntry → Lx → Bool) : Bool :=
  let x := (homeUp dir id).rxOpened (dirPacket 0x07) {} r
  let i : HomeInval := { line := (OpBlock.read r.body).addr / 128, job := BitVec.ofNat 16 r.h.job, hdr := r.h.bits }
  let e := (x.mod fun l => { l with invals := [i] }).readDir r.h.job r.job i.line
  (OpBlock.read r.body).ok 0x07 r.body && decide ((OpBlock.read r.body).addr % 128 + 64 * ((OpBlock.read r.body).rlen + 1) ≤ 128) &&
  x.lpe.invals.isEmpty && decide (e.1 = .ok) && decide (e.2.2.lpe.invals = [i]) && !e.2.2.w.stuck && q i e.2.1 e.2.2

theorem witness_invalidates :
    (∃ r, Passes 0x07 plainUp (dirPacket 0x07) {} r ∧ invalFinds 0 r (fun _ e _ => !e.valid) = true) ∧
    (∃ r, Passes 0x07 (homeUp dirEntry id) (dirPacket 0x07) {} r ∧
      invalFinds dirEntry r (fun i e x =>
        e.valid && decide (e.line = i.line) && !(x.w.blk.invalTargets r.job e).isEmpty) = true) :=
  ⟨passes ⟨rfl, rfl⟩ (by decide +kernel), passes ⟨rfl, rfl⟩ (by decide +kernel)⟩

theorem witness_inval : ∃ r, Passes 0x20 plainUp (dirPacket 0x20) {} r ∧ (fun _ : Rx => true) r = true :=
  passes ⟨rfl, rfl⟩ (by decide +kernel)

/-- An invalidation that waits for readers. -/
def waitingInval (l : List (Nat × Nat)) : HomeInval := { line := 2 ^ 22, job := 5, hdr := (jobHdr 0x07 0 1).bits, begun := true, readers := l }

def ackUp (l : List (Nat × Nat)) : State := homeUp dirEntry fun x => { x with invals := [waitingInval l] }

def ackFinds (l : List (Nat × Nat)) (r : Rx) (q : Lx → Bool) : Bool :=
  let x := (ackUp l).rxOpened (dirPacket 0x21) {} r
  decide (x.lpe.invals = [waitingInval l]) && decide ((waitingInval l).job.toNat = r.h.job) &&
  decide ((waitingInval l).line = (OpBlock.read r.body).addr / 128) && q x

theorem witness_acks :
    (∃ r, Passes 0x21 (ackUp [(9, 15)]) (dirPacket 0x21) {} r ∧
      ackFinds [(9, 15)] r (fun x =>
        let y := (x.mod fun l => { l with invals := [] }).replyCpl (Hdr.read (waitingInval [(9, 15)]).hdr) .ok 0
        let e := y.readDir r.h.job r.job (waitingInval [(9, 15)]).line
        decide ((waitingInval [(9, 15)]).readers = [(r.h.src, r.h.sender)]) && decide (e.1 = .ok) && e.2.2.lpe.invals.isEmpty && !e.2.2.w.stuck) =
        true) ∧
    (∃ r, Passes 0x21 (ackUp [(8, 3), (9, 15)]) (dirPacket 0x21) {} r ∧
      ackFinds [(8, 3), (9, 15)] r (fun _ =>
        List.contains [(8, 3), (9, 15)] (r.h.src, r.h.sender) && !(List.erase [(8, 3), (9, 15)] (r.h.src, r.h.sender)).isEmpty) = true) :=
  ⟨passes ⟨rfl, rfl⟩ (by decide +kernel), passes ⟨rfl, rfl⟩ (by decide +kernel)⟩

theorem witness_evict :
    ∃ r, Passes 0x22 (homeUp dirEntry id) (dirPacket 0x22) {} r ∧
      (let e := ((homeUp dirEntry id).rxOpened (dirPacket 0x22) {} r).readDir r.h.job r.job ((OpBlock.read r.body).addr / 128)
       decide (e.1 = .ok) && e.2.1.valid && decide (e.2.1.line = (OpBlock.read r.body).addr / 128) && !e.2.1.bcast &&
       List.contains e.2.1.sharers (sharerWord r.h.src r.h.sender) && e.2.2.lpe.invals.isEmpty && !e.2.2.w.stuck) = true :=
  passes (q := fun r =>
    let e := ((homeUp dirEntry id).rxOpened (dirPacket 0x22) {} r).readDir r.h.job r.job ((OpBlock.read r.body).addr / 128)
    decide (e.1 = .ok) && e.2.1.valid && decide (e.2.1.line = (OpBlock.read r.body).addr / 128) && !e.2.1.bcast &&
    List.contains e.2.1.sharers (sharerWord r.h.src r.h.sender) && e.2.2.lpe.invals.isEmpty && !e.2.2.w.stuck) ⟨rfl, rfl⟩ (by decide +kernel)

theorem witness_tear : ∃ r, Passes 0x30 plainUp (jobPacket 0x30 1 zeros64) {} r ∧ (fun _ : Rx => true) r = true :=
  passes ⟨rfl, rfl⟩ (by decide +kernel)

/-! ### Aggregates -/

/-- An ATOMIC that adds 5 at region 2, sealed, as the one record of an AGG. -/
def aggRecord : Bytes × Bytes := sealPacket 0x77 (jobHdr 0x04 2 1) (opBlock (2 ^ 29) 0 1 5 0 0)

def aggBytes : Bytes := toLe 32 (jobHdr 0x04 2 1).bits.toNat ++ aggRecord.1 ++ aggRecord.2 ++ toLe 16 0

/-- An AGG of one record. -/
def aggPacket : RxPacket := { lpe := 15, hdr := (jobHdr 0x31 2 2).bits, payload := toUnits aggBytes, tag := 0 }

/-- What the record's opening leaves. -/
def aggFinds : Bool :=
  match (plainUp.rxStart aggPacket {}).openRx (BitVec.ofNat 256 (le (slice (unitBytes aggPacket.payload) 0 32)))
      (slice (unitBytes aggPacket.payload) 32 64) (slice (unitBytes aggPacket.payload) 96 16) with
  | (.ok r, x) =>
    decide (r.h.bits = BitVec.ofNat 256 (le (slice (unitBytes aggPacket.payload) 0 32))) && decide (r.h.ty = 0x04) && decide (r.h.pclass = 2) &&
    r.h.wellFormed 1 && decide (r.h.dst = plainUp.blk.self) && !r.h.multi &&
    match (x.countOpened r.h).home r with
    | some (o, _, k) =>
      let y := (x.countOpened r.h).changes k o.addr fun old => atomicNew o.aop old o.o1 o.o2
      decide (y.1 = .ok) && !y.2.2.w.stuck
    | none => false
  | _ => false

theorem witness_agg :
    PortOpen (.lphy aggPacket.lpe) plainUp ∧ (Hdr.read aggPacket.hdr).ty = 0x31 ∧ plainUp.blk.mayReceive aggPacket = true ∧
    (plainUp.rxStart aggPacket {}).mustHold aggPacket = false ∧ aggPacket.payload.length = 2 ∧ aggPacket.extra = 0 ∧
    (Hdr.read aggPacket.hdr).pclass = 2 ∧ (Hdr.read aggPacket.hdr).dst = plainUp.blk.self ∧
    aggKey (unitBytes aggPacket.payload) =
      ((Hdr.read aggPacket.hdr).dst, (Hdr.read aggPacket.hdr).job, (Hdr.read aggPacket.hdr).dport,
       bfld (unitBytes aggPacket.payload) 32 8, bfld (unitBytes aggPacket.payload) 42 1) ∧ aggFinds = true :=
  ⟨⟨rfl, rfl⟩, by decide +kernel⟩

/-- A window whose highest is at the map's width. -/
def farWindow : Window1 := { h := 4097, map := 3 }

theorem witness_window :
    farWindow.map < 2 ^ 4096 ∧ farWindow.admits (2 ^ 64 - 1) = true ∧ farWindow.admits 2 = true ∧ farWindow.admits 1 = false ∧
    1 ≤ farWindow.h ∧ 4096 ≤ farWindow.h - 1 := by decide +kernel

/-- An outstanding request whose packet 9 is unanswered, and a pair key that waits to be derived. -/
def lateUp : Block := fabUp fun l =>
  { l with rtags := [(4095, { req := linkReq 0 0 0, fn := 0, seqs := [9] })], quarantine := [{ rtag := 4094, seqs := [3] }]
           lane := [{ job := 5, src := 0xFFF, dst := 8, epoch := 7 }] }

/-- A packet of a reserved TYPE. -/
def strangePacket : RxPacket := { lpe := 0, hdr := (jobHdr 0x08 0 1).bits, payload := toUnits zeros64, tag := 0 }

theorem eta_key {p : Except Status CachedKey × Block} (h : (match p.1 with | .ok _ => true | .error _ => false) = true) :
    ∃ k b, p = (.ok k, b) := by
  obtain ⟨a, b⟩ := p
  cases a with
  | ok k => exact ⟨k, b, rfl⟩
  | error e => exact Bool.noConfusion h

theorem witness_linkEvents :
    (lateUp.build.shellBuilt (.lreq 15) = true ∧
      (lateUp.lpe 15).rtags.get? 4095 = some { req := linkReq 0 0 0, fn := 0, seqs := [9] } ∧
      List.contains lateUp.stopped (.lreq 15) = false) ∧
    (lateUp.build.engineBuilt 0 = true ∧ 0 < lateUp.build.mces) ∧
    (lateUp.build.engineBuilt 0x40 = true ∧ lateUp.build.mces ≤ 0x40 ∧ lateUp.build.engineBuilt 0x4F = true ∧ 0x4F < 0x60) ∧
    (PortOpen (.lphy 15) (st lateUp) ∧ lateUp.malformed strangePacket 4 = true ∧
      lateUp.mayReceive { strangePacket with lpe := 15 } = true) ∧
    (lateUp.build.shellBuilt (.lphy 15) = true ∧ (lateUp.lpe 15).lane = [{ job := 5, src := 0xFFF, dst := 8, epoch := 7 }] ∧
      lateUp.jobs.get? 5 = some { fn := 0, slot := 80, gen := 1, epoch := 7, stateRegion := some 3 } ∧
      ∃ k b, (lateUp.begin.modLpe 15 fun l => { l with lane := [] }).jobKey (lpeId 15)
        { fn := 0, slot := 80, gen := 1, epoch := 7, stateRegion := some 3 } = (.ok k, b)) :=
  ⟨by decide +kernel, by decide +kernel, by decide +kernel, ⟨fab_phy _, by decide +kernel⟩, by decide +kernel, by decide +kernel, by decide +kernel, eta_key (by decide +kernel)⟩

/-! ## Admission and domains -/

/-- LPE 15 of a part that has its alias key, in a session as given. -/
def admUp (a : Admission) (d : Domain := {}) : Block :=
  { up with
    keys := { slots := [(3, { attr := makeAttr useV 2 1 false false true })] }
    domain := d
    lpes := [(15, { up := true, adm := a, rxCrd := 17, txCrd := 100 })] }

/-- An admission message at LPE 15 under its epoch's key. -/
def admPacket (a : Adm) : RxPacket :=
  sealed 15 (if msgEpoch a.msg = 1 then 0x1234 else 0) (linkHdr 0x41 77 (msgEpoch a.msg) (a.bytes.length / 64)) a.bytes

/-- The block that took the beats of k units at a port. -/
def beatsTaken (b : Block) (n k : Nat) : Block :=
  if b.begin.lpesUp then b.begin.takeBeats n (ceilDiv (48 + 64 * k + 16 * 0) 256) else b.begin

/-- The block after the checks of R181 on a link-class packet of k units that passed. -/
def afterLink (b : Block) (n k : Nat) (h : Hdr) : Block := ((beatsTaken b n k).modLpe n fun l => l.linkAccept h).count 3 3 (64 * k)

/-- A packet that was sealed under the key of its epoch passes the checks of R181. -/
theorem opens_sealed {b : Block} {n key k : Nat} {h : Hdr} {body : Bytes} (hb : body.length = 64 * k)
    (hh : Hdr.read h.bits = h ∧ h.wellFormed k = true ∧ h.job = 0 ∧ ¬ 1 < h.epoch) (hf : h.pclass = 3 ∧ h.dst = 0xFFF)
    (hk : ((beatsTaken b n k).lpe n).epochKey h.epoch = some key ∧ ((beatsTaken b n k).lpe n).linkAdmits h = true) :
    (st b).linkCheck (sealed n key h body) = (some (h, body), afterLink b n k h) := by
  have hl : (toUnits (sealPacket key h body).1).length = k := toUnits_length _ _ (by rw [sealPacket_length]; exact hb)
  have hc : b.begin.linkBeats (sealed n key h body) = beatsTaken b n k := by
    show (if b.begin.lpesUp then b.begin.takeBeats n (ceilDiv (48 + 64 * (toUnits (sealPacket key h body).1).length + 16 * 0) 256) else b.begin) = _
    rw [hl, beatsTaken]
  show (b.begin.linkBeats (sealed n key h body)).openLink (sealed n key h body) = _
  rw [hc]
  simp only [Block.openLink, linkForm, sealed, hl, hh.1, hh.2.1, hh.2.2.1, hh.2.2.2, hf.1, hf.2, hk.1, hk.2, decide_true, Bool.and_true,
    Bool.not_true, Bool.false_eq_true, if_false, ne_eq, not_true, openPacket_crossed key h body k hh.1 hb, afterLink]

/-- The message passes at a block and a condition holds there. -/
def AdmOpens (b : Block) (a : Adm) (cond : Adm → Hdr → Nat → Block → Prop) : Prop :=
  ∃ h body, AdmissionPasses a.msg (st b) (admPacket a) h body ∧
    cond (Adm.read body) h (admPacket a).lpe ((st b).linkAfter (admPacket a))

/-- A message opens as it was sealed. -/
theorem admOpens {b : Block} {a : Adm} {cond : Adm → Hdr → Nat → Block → Prop} (k : Nat) (h0 : b.build = {} ∧ b.stopped = [])
    (h1 : b.pins.blockSafe = false ∧ Tab.has b.resets (lpeId 15) = false ∧ ceilDiv (48 + 64 * k + 16 * 0) 256 ≤ (b.lpe 15).rxCrd)
    (hb : a.bytes.length = 64 * k)
    (hh : Hdr.read (linkHdr 0x41 77 (msgEpoch a.msg) k).bits = linkHdr 0x41 77 (msgEpoch a.msg) k ∧
      (linkHdr 0x41 77 (msgEpoch a.msg) k).wellFormed k = true ∧ ¬ 1 < msgEpoch a.msg)
    (hk : ((beatsTaken b 15 k).lpe 15).epochKey (msgEpoch a.msg) = some (if msgEpoch a.msg = 1 then 0x1234 else 0) ∧
      ((beatsTaken b 15 k).lpe 15).linkAdmits (linkHdr 0x41 77 (msgEpoch a.msg) k) = true)
    (h3 : (Adm.read a.bytes).ok a.bytes = true ∧ (Adm.read a.bytes).msg = a.msg)
    (h4 : cond (Adm.read a.bytes) (linkHdr 0x41 77 (msgEpoch a.msg) k) 15 (afterLink b 15 k (linkHdr 0x41 77 (msgEpoch a.msg) k))) :
    AdmOpens b a cond := by
  have hp : admPacket a = sealed 15 (if msgEpoch a.msg = 1 then 0x1234 else 0) (linkHdr 0x41 77 (msgEpoch a.msg) k) a.bytes := by
    rw [admPacket, hb, Nat.mul_div_cancel_left k (by decide : 0 < 64)]
  have hl : (admPacket a).payload.length = k := by
    rw [hp]; exact toUnits_length _ _ (by rw [sealPacket_length]; exact hb)
  have hn : (admPacket a).lpe = 15 := rfl
  have hx : (admPacket a).extra.toNat = 0 := by rw [hp]; rfl
  have hhdr : Hdr.read (admPacket a).hdr = linkHdr 0x41 77 (msgEpoch a.msg) k := by rw [hp]; exact hh.1
  have ho : (st b).linkCheck (admPacket a) =
      (some (linkHdr 0x41 77 (msgEpoch a.msg) k, a.bytes), afterLink b 15 k (linkHdr 0x41 77 (msgEpoch a.msg) k)) := by
    rw [hp]
    exact opens_sealed hb ⟨hh.1, hh.2.1, rfl, hh.2.2⟩ ⟨rfl, rfl⟩ hk
  refine ⟨linkHdr 0x41 77 (msgEpoch a.msg) k, a.bytes, ⟨⟨⟨?_, ?_⟩, ?_, ?_, ?_⟩, h3.1, rfl, h3.2⟩, ?_⟩
  · show b.build.shellBuilt (.lphy 15) = true
    rw [h0.1]; rfl
  · show List.contains b.stopped (.lphy 15) = false
    rw [h0.2]; rfl
  · rw [hhdr]; rfl
  · show b.takesLink (admPacket a) = true
    simp only [Block.takesLink, Block.mayReceive, rxBeats, hl, hn, hx, h1.1, h1.2.1, decide_eq_true h1.2.2, Bool.not_false, Bool.and_true,
      Bool.or_true]
  · rw [ho]
  · show cond _ _ _ ((st b).linkCheck (admPacket a)).2
    rw [ho]
    exact h4

def helloMsg : Adm := { msg := msgHello, random := 2 ^ 256 - 1 }
def evidenceMsg (total offset n : Nat) : Adm := { msg := msgEvidence, total := total, offset := offset, body := List.replicate n 0 }

/-- A peer in a Production part that reports kind 3 with a session's nonce. -/
def peerOf (s : Admission) : PeerReport :=
  { kind := 3, nonce := s.nonce, lifecycle := LifeCycle.production.code, debug := 0, blockId := 9, devid := toBe 48 0xD, bundle := toBe 48 0xB
    svn := 4, kemKey := [], chains := true, sigs := true }

/-- A session that awaits evidence, and its last byte. -/
def gathering (have_ : Nat) : Admission :=
  { stage := .evidence, myRandom := 2, peerRandom := 1, peerReport := List.replicate have_ 0 }

theorem witness_hello :
    AdmOpens (admUp {}) helloMsg (fun _ h _ b => b.helloRefusal h.src = none) ∧
    AdmOpens (admUp { stage := .helloSent, myRandom := 5 }) helloMsg (fun a h n b => b.helloRefusal h.src = none ∧
      ((admUp { stage := .helloSent, myRandom := 5 }).lpe n).adm.stage = .helloSent ∧
      ((admUp { stage := .helloSent, myRandom := 5 }).lpe n).adm.myRandom.toNat ≠ a.random) ∧
    AdmOpens (admUp { stage := .helloSent }) { msg := msgDeferred, hint := 65535 } (fun _ _ n b => (b.lpe n).adm.stage = .helloSent) :=
  ⟨admOpens 1 ⟨rfl, rfl⟩ (by decide +kernel) (by decide +kernel) (by decide +kernel) (by decide +kernel) (by decide +kernel) (by decide +kernel),
    admOpens 1 ⟨rfl, rfl⟩ (by decide +kernel) (by decide +kernel) (by decide +kernel) (by decide +kernel) (by decide +kernel) (by decide +kernel),
    admOpens 1 ⟨rfl, rfl⟩ (by decide +kernel) (by decide +kernel) (by decide +kernel) (by decide +kernel) (by decide +kernel) (by decide +kernel)⟩

/-- The first 64 bytes of the first of two pieces of a report, and its 4,032 bytes. -/
def pieceHead : Bytes := bytes 64 [(0, 3), (4, 4033)]
def pieceBody : Bytes := List.replicate 4032 0

theorem pieceHead_length : pieceHead.length = 64 := bytes_length 64 _
theorem pieceBody_length : pieceBody.length = 4032 := List.length_replicate

theorem piece_bytes : (evidenceMsg 4033 0 4032).bytes = pieceHead ++ pieceBody := by
  have hp : pad64 (List.replicate 4032 0) = pieceBody := by
    have hl : (List.replicate 4032 (0 : Byte)).length = 4032 := List.length_replicate
    have e := slice_all (List.replicate 4032 (0 : Byte))
    rw [hl] at e
    rw [pad64, hl]
    exact e
  show _ ++ pad64 (List.replicate 4032 0) = _
  rw [hp]
  have hh : toLe 1 msgEvidence ++ [0] ++ toLe 2 0 ++ toLe 4 4033 ++ toLe 32 0 ++ toLe 4 0 ++ toLe 20 0 = pieceHead := by decide +kernel
  exact congrArg (· ++ pieceBody) hh

theorem piece_read : Adm.read (evidenceMsg 4033 0 4032).bytes = evidenceMsg 4033 0 4032 := by
  have hs : ∀ off n, off + n ≤ 64 → bfld (pieceHead ++ pieceBody) off n = bfld pieceHead off n :=
    fun off n h => congrArg le (slice_left (by rw [pieceHead_length]; exact h))
  have hd : (pieceHead ++ pieceBody).drop 64 = pieceBody := by
    rw [← pieceHead_length]; exact List.drop_left
  have e : bfld pieceHead 0 1 = 3 ∧ bfld pieceHead 2 2 = 0 ∧ bfld pieceHead 4 4 = 4033 ∧ bfld pieceHead 8 32 = 0 ∧ bfld pieceHead 40 4 = 0 := by
    decide
  rw [piece_bytes, Adm.read, hs _ _ (by decide +kernel), hs _ _ (by decide +kernel), hs _ _ (by decide +kernel), hs _ _ (by decide +kernel), hs _ _ (by decide +kernel), hd, e.1,
    e.2.1, e.2.2.1, e.2.2.2.1, e.2.2.2.2]
  rfl

theorem piece_ok :
    (Adm.read (evidenceMsg 4033 0 4032).bytes).ok (evidenceMsg 4033 0 4032).bytes = true ∧
    (Adm.read (evidenceMsg 4033 0 4032).bytes).msg = (evidenceMsg 4033 0 4032).msg := by
  rw [piece_read]
  refine ⟨?_, rfl⟩
  have hb : (evidenceMsg 4033 0 4032).body = pieceBody := rfl
  have hl : (evidenceMsg 4033 0 4032).bodyLen = 4032 := rfl
  have h64 : slice (evidenceMsg 4033 0 4032).bytes 0 64 = pieceHead := by
    rw [piece_bytes, slice_left (by rw [pieceHead_length])]
    have := slice_all pieceHead
    rwa [pieceHead_length] at this
  have hz : List.drop 4032 pieceBody = [] := List.drop_of_length_le (by rw [pieceBody_length])
  rw [Adm.ok, hl, hb, h64, hz, pieceBody_length, ← piece_bytes]
  simp only [decide_true, Bool.and_true]
  rfl

theorem witness_evidence :
    AdmOpens (admUp (gathering 0)) (evidenceMsg 4033 0 4032) (fun a _ n b =>
      (b.lpe n).adm.stage = .evidence ∧ a.offset = (b.lpe n).adm.peerReport.length ∧ a.total ≤ maxReport ∧ a.offset + a.bodyLen < a.total) :=
  admOpens 64 ⟨rfl, rfl⟩ (by decide +kernel) (by rw [piece_bytes, List.length_append, pieceHead_length, pieceBody_length]) (by decide +kernel) (by decide +kernel)
    piece_ok (by rw [piece_read]; decide)

theorem witness_evidenceEnd :
    AdmOpens (admUp (gathering 0)) (evidenceMsg 1 0 1) (fun a _ n b =>
      (b.lpe n).adm.stage = .evidence ∧ a.offset = (b.lpe n).adm.peerReport.length ∧ a.total ≤ maxReport ∧
      a.total ≤ a.offset + a.bodyLen ∧ b.boot.entropyDown = false) :=
  admOpens 2 ⟨rfl, rfl⟩ (by decide +kernel) (by decide +kernel) (by decide +kernel) (by decide +kernel) (by decide +kernel) (by decide +kernel)

theorem witness_finish :
    AdmOpens (admUp { stage := .finish, linkKey := some 0x1234, transcript := List.replicate 48 0xAB })
      { msg := msgFinish, body := List.replicate 48 0xAB ++ List.replicate 16 0 }
      (fun a _ n b => (b.lpe n).adm.stage = .finish ∧ a.body.take 48 = (b.lpe n).adm.transcript ∧ allZero (a.body.drop 48) = true) :=
  admOpens 2 ⟨rfl, rfl⟩ (by decide +kernel) (by decide +kernel) (by decide +kernel) (by decide +kernel) (by decide +kernel) (by decide +kernel)

theorem witness_kem :
    AdmOpens (admUp { stage := .kem }) { msg := msgKem, body := List.replicate 1568 0 } (fun _ _ n b => (b.lpe n).adm.stage = .kem) :=
  admOpens 26 ⟨rfl, rfl⟩ (by decide +kernel) (by decide +kernel) (by decide +kernel) (by decide +kernel) (by decide +kernel) (by decide +kernel)

/-- The manifest of a domain with block 9 of the peer. -/
def pairManifest : Manifest := { id := 1, seed := 9, minSvn := 4, bundles := [0xB], members := [(0xD, 9)], digest := 7 }

/-- An admitted port of a block that waits for the domain key. -/
def waitUp : Block :=
  admUp { stage := .admitted, linkKey := some 0x1234, partner := some (peerOf {}) } { state := .waiting, manifest := some pairManifest }

theorem witness_membership :
    AdmOpens waitUp { msg := msgReady, body := List.replicate 64 0 } (fun _ _ n b => (b.lpe n).admitted = true) ∧
    AdmOpens waitUp { msg := msgCred, body := pairManifest.head ++ List.replicate 72 0 } (fun a _ n b =>
      b.domain.manifest = some pairManifest ∧ b.domain.state = .waiting ∧ (b.lpe n).admitted = true ∧
      slice a.body 0 56 = pairManifest.head ∧ ((b.lpe n).adm.partner.any pairManifest.accepts) = true ∧
      (b.slot 16).reusable = true) ∧
    AdmOpens waitUp { msg := msgReject, hint := 2 } (fun _ _ _ b => b.mayAdmit = true) ∧
    AdmOpens waitUp { msg := msgLeave } (fun _ _ _ _ => True) :=
  ⟨admOpens 2 ⟨rfl, rfl⟩ (by decide +kernel) (by decide +kernel) (by decide +kernel) (by decide +kernel) (by decide +kernel) (by decide +kernel),
    admOpens 3 ⟨rfl, rfl⟩ (by decide +kernel) (by decide +kernel) (by decide +kernel) (by decide +kernel) (by decide +kernel) (by decide +kernel),
    admOpens 1 ⟨rfl, rfl⟩ (by decide +kernel) (by decide +kernel) (by decide +kernel) (by decide +kernel) (by decide +kernel) (by decide +kernel),
    admOpens 1 ⟨rfl, rfl⟩ (by decide +kernel) (by decide +kernel) (by decide +kernel) (by decide +kernel) (by decide +kernel) (by decide +kernel)⟩

/-- A member of the domain of the manifest, its key in slot 16. -/
def memberUp : Block :=
  let b := admUp { stage := .admitted, linkKey := some 0x1234 } { state := .member, manifest := some pairManifest }
  { b with keys := { b.keys with slots := b.keys.slots.put 16 { attr := makeAttr useV 2 1 false false true, material := 0x77 } } }

theorem witness_ready :
    AdmOpens memberUp { msg := msgReady, body := pairManifest.head ++ memberUp.kcv } (fun a _ n b =>
      (b.lpe n).admitted = true ∧ b.domain.manifest = some pairManifest ∧ b.domain.state = .member ∧
      slice a.body 0 56 = pairManifest.head ∧ slice a.body 56 8 = b.kcv ∧ allZero b.kcv = false) :=
  admOpens 2 ⟨rfl, rfl⟩ (by decide +kernel) (by decide +kernel) (by decide +kernel) (by decide +kernel) (by decide +kernel) (by decide +kernel)

/-- The seed of a domain, its one port rejected. -/
def seedUp : Block := { admUp { rejected := true } { state := .waiting, seed := true } with boot := { up.boot with entropyDown := false } }

theorem witness_links :
    (PortOpen (.lphy 0) (st seedUp) ∧ (seedUp.lpe 0).up = false) ∧
    (seedUp.build.shellBuilt (.lphy 15) = true ∧ ((admUp { stage := .kem }).lpe 15).adm.stage ≠ .idle ∧
      ((admUp { stage := .kem }).lpe 15).admitted = false) ∧
    ((admUp { deferred := true }).lpe 15).adm.deferred = true ∧ (seedUp.lpe 15).adm.rejected = true ∧
    (seedUp.domain.state = .waiting ∧ seedUp.domain.seed = true ∧ seedUp.domain.credSeen = false ∧ seedUp.portsSettled = true ∧
      seedUp.boot.entropyDown = false) :=
  ⟨⟨⟨rfl, rfl⟩, by decide +kernel⟩, by decide +kernel⟩

/-! ### A manifest of one entry for any DEVID -/

theorem be_lt (d : Bytes) : be d < 256 ^ d.length := by
  have h : ∀ (d : Bytes) (a k : Nat), a < 256 ^ k → d.foldl (fun a x => 256 * a + x.toNat) a < 256 ^ (k + d.length) := by
    intro d
    induction d with
    | nil => intro a k h; exact h
    | cons x d ih =>
      intro a k h
      have := ih (256 * a + x.toNat) (k + 1) (by have := x.isLt; rw [Nat.pow_succ]; omega)
      rw [List.foldl_cons, List.length_cons]
      rwa [show k + (d.length + 1) = k + 1 + d.length by omega]
  have := h d 0 0 (by decide +kernel)
  rwa [Nat.zero_add] at this

/-- The head of a manifest with one entry, one bundle and block id 9, and the rest of its entry. -/
def manifestHead : Bytes := bytes 416 [(0, 0x4D445843), (4, 1), (6, 1), (8, 1), (16, 9), (20, 1), (32, 0xB)]
def manifestTail : Bytes := bytes 16 [(0, 9)]

/-- The manifest that names a DEVID digest. -/
def manifestOf (d : Bytes) : Bytes := manifestHead ++ (d ++ manifestTail)

theorem head_length : manifestHead.length = 416 := bytes_length 416 _

theorem readManifest_of (d : Bytes) (hd : d.length = 48) : ∃ m, readManifest (manifestOf d) 480 d = some m := by
  have hl : ∀ off n, off + n ≤ 416 → slice (manifestOf d) off n = slice manifestHead off n :=
    fun off n h => slice_left (by rw [head_length]; exact h)
  have hm : slice (manifestOf d) 416 48 = d := by
    rw [manifestOf, slice_right (by rw [head_length]), head_length, Nat.sub_self, slice_left (by rw [hd]), ← hd, slice_all]
  have ht : ∀ off n, 464 ≤ off → slice (manifestOf d) off n = slice manifestTail (off - 464) n := by
    intro off n h
    rw [manifestOf, slice_right (by rw [head_length]; omega), slice_right (by rw [head_length, hd]; omega), head_length, hd]
    rw [show off - 416 - 48 = off - 464 by omega]
  have hlen : (manifestOf d).length = 480 := by
    rw [manifestOf, List.length_append, List.length_append, head_length, hd]; rfl
  have hb : (BitVec.ofNat 384 (be d)).toNat = be d := by
    rw [BitVec.toNat_ofNat]
    exact Nat.mod_eq_of_lt (by have := be_lt d; rw [hd] at this; exact this)
  have e1 : bfld (manifestOf d) 6 2 = 1 := by rw [bfld, hl _ _ (by decide +kernel)]; decide +kernel
  have e2 : bfld (manifestOf d) 20 1 = 1 := by rw [bfld, hl _ _ (by decide +kernel)]; decide +kernel
  have e3 : bfld (manifestOf d) 0 4 = 0x4D445843 := by rw [bfld, hl _ _ (by decide +kernel)]; decide +kernel
  have e4 : bfld (manifestOf d) 4 2 = 1 := by rw [bfld, hl _ _ (by decide +kernel)]; decide +kernel
  have e5 : bfld (manifestOf d) 16 2 = 9 := by rw [bfld, hl _ _ (by decide +kernel)]; decide +kernel
  have e6 : allZero (slice (manifestOf d) 21 11) = true := by rw [hl _ _ (by decide +kernel)]; decide +kernel
  have e7 : allZero (slice (manifestOf d) (32 + 48 * 1) (384 - 48 * 1)) = true := by rw [hl _ _ (by decide +kernel)]; decide +kernel
  have e8 : bfld (manifestOf d) (464 + 64 * 0) 2 = 9 := by rw [bfld, ht _ _ (by decide +kernel)]; decide +kernel
  have e9 : allZero (slice (manifestOf d) (466 + 64 * 0) 14) = true := by rw [ht _ _ (by decide +kernel)]; decide +kernel
  have ms : manifestMembers (manifestOf d) 1 = [(BitVec.ofNat 384 (be d), 9)] := by
    have r : List.range 1 = [0] := rfl
    rw [manifestMembers, r, List.map_cons, List.map_nil, e8]
    rw [show 416 + 64 * 0 = 416 from rfl, hm]; rfl
  have r : List.range 1 = [0] := rfl
  simp only [readManifest, e1, e2, e3, e4, e5, e6, e7, ms, hlen, r, List.all_cons, List.all_nil, e8, e9, List.map_cons, List.map_nil,
    List.any_cons, List.any_nil, hb, List.eraseDups_cons, List.eraseDups_nil, List.filter_nil, decide_true, Bool.or_false, Bool.and_true,
    Bool.true_and, List.length_cons, List.length_nil]
  exact ⟨_, if_pos rfl⟩

/-- The block that takes the manifest. -/
theorem witness_domain :
    (PortOpen .hcp (st waitUp) ∧ waitUp.boot.seqReset = false ∧ waitUp.reach 0 0x1008 true = true ∧ waitUp.domain.state ≠ .none) ∧
    ((admUp {}).boot.seqReset = false ∧ (admUp {}).reach 0 0x1008 true = true ∧ (admUp {}).domain.state = .none ∧ (admUp {}).boot.lc.serves = true ∧
      (admUp {}).boot.debugOpen = false ∧
      ∃ x m, readManifest x (480 : BitVec 19).toNat (admUp {}).devid = some m) :=
  ⟨⟨⟨rfl, rfl⟩, by decide +kernel⟩, by decide +kernel, by decide +kernel, by decide +kernel, by decide +kernel, by decide +kernel, _,
    readManifest_of _ (sha384_length _)⟩

/-! ## The kiln -/

/-- A program of the PF that passes a line of FP16 on. -/
def passProgram : Program := { smallProgram with fn := 0 }

/-- A reduction of 64 blocks between two members, of which this block is the second. -/
def red : Reduction :=
  { fn := 0, ctx := 1, job := 5, call := 8, rank := 1, n := 2, elems := 32, window := 4096 * up.build.kilns, inFmt := 4, scaled := false
    a64 := false, outFmt := 4, sr := false, seed := 0, prog := 62, srcAddr := 0, srcKey := 81, resAddr := 2 ^ 28, resKey := 81
    anchor := 3, goBase := 0 }

/-- The window of the reduction after its exponents; its one block is in kiln 0. -/
def summing : Window := { expCount := [(0, 2)], expDone := true, expGiven := true }

/-- Job 5 with both members, its regions, of which those of the shard and the result are scrambled under the key of slot 81, its
program, and reductions as given. -/
def kilnUp (reds : Tab Reduction) : Block :=
  { fabUp id with
    keys := { slots := [(0, rootSlot), (80, sealSlot 80 { attr := makeAttr useV 4 1 true false true, mask := 0xFFFF, parentGen := 1 }),
                        (81, sealSlot 81 { attr := makeAttr (useE + useD) 5 2 false false true, mask := 3 })] }
    caches := [(0x4F, linkKeys), (0, { keys := [key81] })]
    lpes := [(0, { remote := stateFrames (bankOff 0) 128 }), (15, (fabUp id).lpe 15)]
    boot := { up.boot with blockId := 0xFFF }
    ctxs := [(1, { fn := 0, jobs := [5], progs := [62] })]
    jobs := [(5, { fn := 0, slot := 80, gen := 1, epoch := 7, stateRegion := some 3, members := [(9, 1), (0xFFF, 2)], lastCall := some 7 })]
    programs := [(62, passProgram)]
    regions := { table := [(0, { mode := .scramble, ctxwide := true, keyset := [81] }), (1, { mode := .scramble, ctxwide := true, keyset := [81] }),
                           (3, { mode := .sealed, keyset := [81] })] }
    reductions := reds }

/-- KILN_SETUP of the reduction. -/
def setupCmd : Cmd :=
  cmd [(0, 0x0601), (4, 1), (16, 5), (18, 1), (20, 8), (23, 4), (24, 32), (32, 4096 * up.build.kilns), (36, 4), (40, 62), (42, 81), (44, 81),
       (46, 3), (48, 0), (54, 2 ^ 28)]

/-- A command of the owner on slot 7 and window 0. -/
def kilnCmd (op : Nat) : Cmd := cmd [(0, op), (4, 1), (16, 7), (20, 0)]

/-- Seven reductions of which none is this context's, so that slot 7 is the lowest free one. -/
def sevenReds : Tab Reduction := (List.range 7).map fun i => (i, { red with ctx := 2 })

theorem witness_kilnSetup :
    CmdReady (withCmd (kilnUp sevenReds) setupCmd) 7 0x0601 setupCmd ∧
    (kilnUp sevenReds).jobs.get? (dfld setupCmd.desc 16 2) =
      some { fn := 0, slot := 80, gen := 1, epoch := 7, stateRegion := some 3, members := [(9, 1), (0xFFF, 2)], lastCall := some 7 } ∧
    (kilnUp sevenReds).setupCheck (setupOf setupCmd 2)
      { fn := 0, slot := 80, gen := 1, epoch := 7, stateRegion := some 3, members := [(9, 1), (0xFFF, 2)], lastCall := some 7 } = .ok ∧
    Tab.lowest (kilnUp sevenReds).reductions 8 = some 7 ∧
    (((withCmd (kilnUp sevenReds) setupCmd).waitWork.lx (kilnUp sevenReds).memberPort {}).openReduction 7 7 (setupOf setupCmd 2)).w.stuck = false ∧
    dfld setupCmd.desc 60 4 = 0 ∧ ((kilnUp sevenReds).lpe (kilnUp sevenReds).memberPort).ingress = [] ∧
    ((kilnUp sevenReds).lpe (kilnUp sevenReds).memberPort).raises = [] :=
  ⟨readyCmd (by decide +kernel), by decide +kernel⟩

/-- The reduction in slot 7 before its exponents, and between its exponents and its sums. -/
def early : Reduction := { red with gx := 1 }
def summed (gs : Nat) (k : Tab Window) : Reduction := { red with gx := 1, gs := gs, windows := k }

/-- What the owner's local contribution to window 0 gives. -/
def contributes (k : Reduction) (phase : Nat) (w : Work) : Bool :=
  let b := (w.lx 0 {}).localBlocks k 0
  decide (b.1 = .ok) && !b.2.2.2.w.stuck &&
  match b.2.2.2.w.blk.programBlocks k (k.facts 0 0 k.rank phase) (k.winBlocks 0) b.2.1 b.2.2.1 with
  | .ok v => !(Lx.eachRun up.build.kilns (fun x j v => x.accumulate 7 0 j v) 0 (split 128 v) b.2.2.2).w.stuck
  | .error _ => false

theorem witness_kilnPhases :
    (CmdReady (withCmd (kilnUp [(7, early)]) (kilnCmd 0x0602)) 7 0x0602 (kilnCmd 0x0602) ∧
      (kilnUp [(7, early)]).ownReduction (kilnCmd 0x0602) = some (7, early) ∧ early.ended = false ∧
      dfld (kilnCmd 0x0602).desc 20 4 < early.gx ∧ (early.win (dfld (kilnCmd 0x0602).desc 20 4)).expGiven = false ∧
      contributes early 0 ((withCmd (kilnUp [(7, early)]) (kilnCmd 0x0602)).waitWork.on fun b => (b.wait 7).modReduction 7 fun k =>
        { k.modWin 0 (fun v => { v with expGiven := true }) with expWait := k.expWait ++ [(7, 0)] }) = true) ∧
    (CmdReady (withCmd (kilnUp [(7, summed 0 [(0, summing)])]) (kilnCmd 0x0603)) 7 0x0603 (kilnCmd 0x0603) ∧
      (kilnUp [(7, summed 0 [(0, summing)])]).ownReduction (kilnCmd 0x0603) = some (7, summed 0 [(0, summing)]) ∧
      (summed 0 [(0, summing)]).ended = false ∧
      ((summed 0 [(0, summing)]).win (dfld (kilnCmd 0x0603).desc 20 4)).expDone = true ∧
      ((summed 0 [(0, summing)]).win (dfld (kilnCmd 0x0603).desc 20 4)).sumGiven = false ∧
      (7, dfld (kilnCmd 0x0603).desc 20 4) ∉ (summed 0 [(0, summing)]).sumWait ∧
      (summed 0 [(0, summing)]).gs ≤ dfld (kilnCmd 0x0603).desc 20 4) ∧
    (CmdReady (withCmd (kilnUp [(7, summed 1 [(0, summing)])]) (kilnCmd 0x0603)) 7 0x0603 (kilnCmd 0x0603) ∧
      (kilnUp [(7, summed 1 [(0, summing)])]).ownReduction (kilnCmd 0x0603) = some (7, summed 1 [(0, summing)]) ∧
      dfld (kilnCmd 0x0603).desc 20 4 < (summed 1 [(0, summing)]).gs ∧
      contributes (summed 1 [(0, summing)]) 1
        (((withCmd (kilnUp [(7, summed 1 [(0, summing)])]) (kilnCmd 0x0603)).waitWork.on fun b => b.modReduction 7 fun k =>
          { k.modWin 0 (fun v => { v with sumGiven := true }) with sumWait := k.sumWait ++ [(7, 0)] }).on fun b => b.wait 7) = true) ∧
    (CmdReady (withCmd (kilnUp [(7, early)]) (kilnCmd 0x0604)) 7 0x0604 (kilnCmd 0x0604) ∧
      (kilnUp [(7, early)]).ownReduction (kilnCmd 0x0604) = some (7, early)) :=
  ⟨⟨readyCmd (by decide +kernel), by decide +kernel⟩, ⟨readyCmd (by decide +kernel), by decide +kernel⟩,
    ⟨readyCmd (by decide +kernel), by decide +kernel⟩, readyCmd (by decide +kernel), by decide +kernel⟩

/-- The reduction whose slice of window 0 in kiln 0 is due. -/
def due : Reduction := summed 1 [(0, { summing with sumCount := [(0, 2)], sumGiven := true })]

/-- Whether the runs of that slice are rounded and written. -/
def runsDue : Bool :=
  match (({ (st (kilnUp [(7, due)])).waitWork with blk := ((st (kilnUp [(7, due)])).blk.begin.seedKey due 0).2 } : Work).lx (4 * 0) {}).runsWritten
      7 0 due none ((List.range (due.runs 0)).filter fun r => r % up.build.kilns = 0) with
  | some y => !y.w.stuck && !(y.sliceDone 7 0 0).w.stuck
  | none => false

theorem witness_retired :
    (kilnUp [(7, due)]).reduction? 7 = some due ∧ due.ended = false ∧ (kilnUp [(7, due)]).dueSlice due = some (0, 0) ∧
    (match ((kilnUp [(7, due)]).begin.seedKey due 0).1 with | .ok none => true | _ => false) = true ∧ runsDue = true := by decide +kernel

/-! ## Sealed DMA and translation -/

/-- A licence of the PF for one byte and for orders of two samples. -/
def dmaInstall : Install :=
  { licence := 6, fn := 0, slot := 90, gen := 1, uses := 4, destMask := 0, allowBytes := 1, allowPushes := 0, samples := 2 }

/-- `sealedUp` with its key in every memory channel engine of the tier and in both DMA units, 63 measured objects, and an installed
licence with its count at its mark but one. -/
def dmaUp : Block :=
  { sealedUp with
    caches := ((List.range 32).map fun e => (e, { keys := [key70] })) ++
      [(0x68, { keys := [{ key70 with slot := 90, mask := 0xFFFF },
                         { slot := 80, key := 0x77, mask := 0xFFFF, attr := makeAttr useV 5 1 false false true, ownerFn := 0, ownerCtx := 0
                           chain := [(80, 1)] }] })]
    keys := { slots := [(0, rootSlot), (70, { attr := 0x2103 }),
                        (80, sealSlot 80 { attr := makeAttr useV 5 1 false false true, mask := 0xFFFF, parentSlot := 85, parentGen := 1, material := 0x55 }),
                        (85, sealSlot 85 { attr := makeAttr useV 4 1 true false true, mask := 0xFFFF, parentSlot := 0, parentGen := 1 }),
                        (90, { attr := 0x2103 })] }
    ctxs := [(9, { fn := 0, jobs := [5], progs := [62], measured := (List.range 63).map fun i => (i, 0, 0, 0) })]
    jobs := [(5, { fn := 0, slot := 85, gen := 1, epoch := 7, stateRegion := some 3 })]
    programs := [(62, { smallProgram with target := 1 })]
    installs := [(3, dmaInstall)]
    store := { up.store with meters := [(3, { lifeMarks := { bytes := 1, shards := 1 }, openMarks := { bytes := 1, shards := 1 } })] } }

/-- DMA_COPY of a line of FP16 to the last sector below 2^56, DMA_INGEST, MEASURE_LOAD of a new object, SHUFFLE_EPOCH of the second
of two samples. -/
def copyCmd : Cmd := cmd [(0, 0x0701), (4, 9), (16, 0), (24, 2 ^ 56 - 32), (48, 32), (55, 4), (56, 4)]
def scaledCopyCmd : Cmd := cmd [(0, 0x0701), (4, 9), (16, 0), (24, 64), (32, 32), (40, 2 ^ 56 - 32), (48, 32), (55, 0x15), (56, 0x15)]
def ingestCmd : Cmd := cmd [(0, 0x0702), (4, 9), (16, 3), (24, 128), (32, 145), (40, 90), (42, 70), (48, 4), (49, 4)]
def measureCmd : Cmd := cmd [(0, 0x0802), (4, 9), (16, 3), (24, 128), (32, 2 ^ 56 - 1), (40, 99), (44, 70)]
def shuffleCmd : Cmd :=
  cmd [(0, 0x0904), (4, 9), (16, 90), (18, 80), (20, 1), (24, 2), (32, 1), (40, 1), (48, 2 ^ 56 - 128), (56, 70)]

/-- What DMA_COPY asks of its descriptor. -/
def CopyOk (b : Block) (c : Cmd) : Prop :=
  CmdReady (withCmd b c) 7 0x0701 c ∧
  dvaOk [(copyDesc 7 c).src, (copyDesc 7 c).dst, (copyDesc 7 c).sscale, (copyDesc 7 c).dscale] = true ∧ (copyDesc 7 c).src % 32 = 0 ∧
  (copyDesc 7 c).dst % 32 = 0 ∧ (copyDesc 7 c).sscale % 32 = 0 ∧ (copyDesc 7 c).dscale % 32 = 0 ∧
  ((copyDesc 7 c).sscale ≠ 0 ↔ (copyDesc 7 c).sscaled = true) ∧ ((copyDesc 7 c).dscale ≠ 0 ↔ (copyDesc 7 c).dscaled = true) ∧
  (copyDesc 7 c).skey < 2 ^ 14 ∧ (copyDesc 7 c).dkey < 2 ^ 14 ∧
  b.dmaFormats c.fn c.ctx (dfld c.desc 57 1) (dfld c.desc 62 2) (dfld c.desc 55 1) (dfld c.desc 56 1) (copyDesc 7 c).len = true

theorem witness_copies : CopyOk dmaUp copyCmd ∧ CopyOk dmaUp scaledCopyCmd :=
  ⟨⟨readyCmd (by decide +kernel), by decide +kernel⟩, readyCmd (by decide +kernel), by decide +kernel⟩

theorem witness_dmaTurn :
    (withCmd dmaUp copyCmd).blk.begin.dmaTurn 7 0 = true ∧
    (st { dmaUp with seq := { cmds := [(6, copyCmd), (7, copyCmd)] } }).blk.begin.dmaTurn 7 0 = false := by decide +kernel

theorem exists_of_any {α : Type} {o : Option α} {p : α → Bool} (h : o.any p = true) : ∃ x, o = some x ∧ p x = true := by
  cases o with
  | none => exact Bool.noConfusion h
  | some x => exact ⟨x, rfl, h⟩

theorem witness_dmaCommands :
    (CmdReady (withCmd dmaUp ingestCmd) 7 0x0702 ingestCmd ∧ dvaOk [(ingestDesc 7 ingestCmd).src, (ingestDesc 7 ingestCmd).dst] = true ∧
      (ingestDesc 7 ingestCmd).dst % 32 = 0 ∧
      dmaUp.ingestProgram ingestCmd.fn ingestCmd.ctx (dfld ingestCmd.desc 46 1) (dfld ingestCmd.desc 44 2) (ingestDesc 7 ingestCmd).sfmt
        (ingestDesc 7 ingestCmd).dfmt = true ∧ (ingestDesc 7 ingestCmd).sfmt < 16 ∧
      (ingestDesc 7 ingestCmd).dfmt < 16 ∧ (ingestDesc 7 ingestCmd).skey < 2 ^ 14 ∧ (ingestDesc 7 ingestCmd).dkey < 2 ^ 14 ∧
      (ingestDesc 7 ingestCmd).dkey ≠ 0) ∧
    (CmdReady (withCmd dmaUp measureCmd) 7 0x0802 measureCmd ∧
      dvaOk [(measureDesc 7 measureCmd).src, (measureDesc 7 measureCmd).dst] = true ∧ (measureDesc 7 measureCmd).dst % 32 = 0 ∧
      (measureDesc 7 measureCmd).len ≠ 0 ∧ (measureDesc 7 measureCmd).len < 2 ^ 56 ∧ (measureDesc 7 measureCmd).dkey < 2 ^ 14 ∧
      (measureDesc 7 measureCmd).dkey ≠ 0 ∧
      ∃ x, dmaUp.ctxs.get? measureCmd.ctx = some x ∧ x.measureRoom (dfld measureCmd.desc 40 4) = true) ∧
    (CmdReady (withCmd dmaUp shuffleCmd) 7 0x0904 shuffleCmd ∧
      ∃ i, dmaUp.installOf (dfld shuffleCmd.desc 16 2) = some (3, i) ∧ i.fn = shuffleCmd.fn ∧ i.uses.toNat.testBit 2 = true ∧
        2 ≤ dfld shuffleCmd.desc 24 8 ∧ dfld shuffleCmd.desc 24 8 ≤ i.samples ∧ 1 ≤ dfld shuffleCmd.desc 40 8 ∧
        dfld shuffleCmd.desc 32 8 + dfld shuffleCmd.desc 40 8 ≤ dfld shuffleCmd.desc 24 8 ∧ dvaOk [dfld shuffleCmd.desc 48 8] = true ∧
        dfld shuffleCmd.desc 48 8 % 128 = 0 ∧ dfld shuffleCmd.desc 48 8 + 8 * dfld shuffleCmd.desc 40 8 ≤ 2 ^ 56 ∧
        dfld shuffleCmd.desc 56 2 < 2 ^ 14 ∧ dfld shuffleCmd.desc 56 2 ≠ 0 ∧
        dmaUp.keyCheck (dfld shuffleCmd.desc 18 2) shuffleCmd.fn shuffleCmd.ctx (some 4) useV = .ok ∧
        dmaUp.seedJob (dfld shuffleCmd.desc 18 2) shuffleCmd.ctx = true) :=
  ⟨⟨readyCmd (by decide +kernel), by decide +kernel⟩, ⟨readyCmd (by decide +kernel), by decide +kernel, by decide +kernel, by decide +kernel, by decide +kernel, by decide +kernel, by decide +kernel,
      exists_of_any (by decide +kernel)⟩,
    readyCmd (by decide +kernel), dmaInstall, by decide +kernel, by decide +kernel⟩

/-- A copy of a line from host pages to host pages, walking or running. -/
def lineDesc (stage : DmaStage) : DmaDesc :=
  { cmd := 7, fn := 0, ctx := 9, kind := .copy, stream := 0, stage := stage, src := 0, dst := 128, len := 128
    pages := if stage = .walking then [] else [{ va := 0, size := 2 ^ 36, target := 0, host := true }] }

/-- Descriptor 4 as given, a 64 GiB host page at DVA 0 for every access, and one of protected memory at DVA 2 ^ 36. -/
def dmaState (d : DmaDesc) : State :=
  { st { dmaUp with seq := { cmds := [(7, copyCmd)], dma := [(4, d)] } } with mem := [(2 ^ 29 + 0x10_0000, 15), (2 ^ 29 + 0x10_0008, 7)] }

/-- The pages that a walk finds. -/
def walkFinds (p : Except Walked (List Page) × Work) (q : List Page → Work → Bool) : Bool :=
  match p.1 with
  | .ok ps => !p.2.stuck && q ps p.2
  | .error _ => false

theorem witness_walk :
    (dmaState (lineDesc .walking)).blk.seq.dma.get? 4 = some (lineDesc .walking) ∧ (lineDesc .walking).stage = .walking ∧
    (lineDesc .walking).kind ≠ .ingest ∧
    walkFinds ((dmaState (lineDesc .walking)).walk (lineDesc .walking) {} (dmaState (lineDesc .walking)).waitWork []
      ((dmaState (lineDesc .walking)).blk.dmaRanges (lineDesc .walking)))
      (fun ps w => w.blk.dmaPagesOk { lineDesc .walking with pages := ps, stage := .queued, read := 0 }) = true := by decide +kernel

/-- An ingest into region 2 that walks, and its header. -/
def ingestWalk : DmaDesc :=
  { lineDesc .walking with kind := .ingest, len := 112, dst := 2 ^ 36 + 2 ^ 29, skey := 90, dkey := 70, sfmt := 4, dfmt := 4 }
def walkHead : Bytes := bytes 64 [(0, 0x48535843), (4, 6), (8, 1), (12, 12), (16, 32)]

theorem witness_ingestWalk :
    (dmaState ingestWalk).blk.seq.dma.get? 4 = some ingestWalk ∧ ingestWalk.stage = .walking ∧ ingestWalk.kind = .ingest ∧
    walkFinds ((dmaState ingestWalk).walk ingestWalk {} (dmaState ingestWalk).waitWork [] [(ingestWalk.src, ingestWalk.len, false)])
      (fun ps w =>
        match w.blk.ingestHeader ingestWalk (slice walkHead 0 64) with
        | some k =>
          let e : DmaDesc := { ingestWalk with header := slice walkHead 0 64, record := k }
          walkFinds ((dmaState ingestWalk).walk ingestWalk {} w ps ((w.blk.dmaRanges e).drop 1))
            (fun qs v => v.blk.dmaPagesOk { e with pages := qs, stage := .queued, read := 64 })
        | none => false) = true := by decide +kernel

/-- The same descriptor as a measured load, and as the second entry of an order. -/
def measuring : DmaDesc := { lineDesc .running with kind := .measure, dkey := 70 }
def shuffling : DmaDesc := { lineDesc .running with kind := .shuffle, shufN := 2, shufFirst := 1, len := 1, skey := 80, record := 3, licence := 6 }

/-- A mover at its start, with a line of zeros from the host. -/
def moverOf (d : DmaDesc) : Mover := { p := { w := (dmaState d).waitWork, feed := (SourceLine.host (.data (List.replicate 128 0)) []).lines {} }, d := d }

theorem witness_lines :
    ((dmaState (lineDesc .running)).blk.running 4 = some (lineDesc .running) ∧ (lineDesc .running).kind = .copy ∧
      (lineDesc .running).prog = none ∧ ((moverOf (lineDesc .running)).copy 4 (.host (.data (List.replicate 128 0)) [])).st = .ok ∧
      (((moverOf (lineDesc .running)).copy 4 (.host (.data (List.replicate 128 0)) [])).moved 4).stuck = false) ∧
    ((dmaState measuring).blk.running 4 = some measuring ∧ measuring.kind = .measure ∧
      ((moverOf measuring).copy 4 (.host (.data (List.replicate 128 0)) [])).st = .ok ∧
      (((moverOf measuring).copy 4 (.host (.data (List.replicate 128 0)) [])).moved 4).stuck = false) ∧
    ((dmaState shuffling).blk.running 4 = some shuffling ∧ shuffling.kind = .shuffle ∧
      (dmaState shuffling).blk.epochWaits shuffling = false ∧ ((moverOf shuffling).shuffle 4).st = .ok ∧
      (((moverOf shuffling).shuffle 4).moved 4).stuck = false) := by decide +kernel

/-- An ingest of a shard of one byte in one chunk, under the record whose marks leave room for exactly that. -/
def ingesting : DmaDesc :=
  { lineDesc .running with kind := .ingest, record := 3, skey := 90, read := 64
                           header := bytes 64 [(0, 0x48535843), (4, 6), (8, 1), (12, 12), (16, 1)] }

/-- The chunk as it was sealed under the licence's key. -/
def sealedChunk : Bytes × Bytes :=
  gcmSeal ((0x77 : BitVec 512).toNat % 2 ^ 256) (slice ingesting.header 8 4 ++ toLe 8 ingesting.chunk) ingesting.header [0xAB]

theorem sealedChunk_opens :
    gcmOpen ((0x77 : BitVec 512).toNat % 2 ^ 256) (slice ingesting.header 8 4 ++ toLe 8 ingesting.chunk) ingesting.header
      (slice (sealedChunk.1 ++ sealedChunk.2) 0 ingesting.chunkLen) (slice (sealedChunk.1 ++ sealedChunk.2) ingesting.chunkLen 16) =
      some [0xAB] := by
  have h1 : sealedChunk.1.length = 1 := ctrFrom_length _ _ _ _
  have h2 : sealedChunk.2.length = 16 := gcmTag_length _ _ _ _
  have hn : ingesting.chunkLen = 1 := by decide +kernel
  have e1 : slice (sealedChunk.1 ++ sealedChunk.2) 0 1 = sealedChunk.1 := by
    rw [slice_left (by rw [h1])]
    have := slice_all sealedChunk.1
    rwa [h1] at this
  have e2 : slice (sealedChunk.1 ++ sealedChunk.2) 1 16 = sealedChunk.2 := by
    rw [slice_right (by rw [h1]), h1]
    have := slice_all sealedChunk.2
    rwa [h2] at this
  rw [hn, e1, e2]
  exact gcmOpen_gcmSeal _ _ _ _

theorem eta_keyOk {p : Except Status CachedKey × Block} {key : BitVec 512}
    (h : (match p.1 with | .ok k => decide (k.key = key) | .error _ => false) = true) : ∃ k b, p = (.ok k, b) ∧ k.key = key := by
  obtain ⟨a, b⟩ := p
  cases a with
  | ok k => exact ⟨k, b, rfl, of_decide_eq_true h⟩
  | error e => exact Bool.noConfusion h

/-- The mover of the chunk, once its key is known and its plaintext counted. -/
def chunkMover (pt : Bytes) : Mover :=
  let y := (dmaState ingesting).blk.begin.useKey ingesting.engine ingesting.skey ingesting.fn ingesting.ctx.toNat useD
  let d : DmaDesc := { ingesting with read := ingesting.read + ingesting.chunkLen + 16 }
  let b : Block := { y.2 with seq := { y.2.seq with dma := y.2.seq.dma.upd 4 fun _ => d } }
  ({ p := { w := { (dmaState ingesting).waitWork with
                blk := (b.consume ingesting.record { bytes := ingesting.chunkLen, shards := 1 }).count 9 0xF ingesting.chunkLen }, feed := [] }
     d := { d with chunk := ingesting.chunk + 1, buf := ingesting.buf ++ pt } } : Mover).flush 4 true (2 ^ 18)

theorem witness_ingest :
    ∃ i k pt, (dmaState ingesting).blk.running 4 = some ingesting ∧ ingesting.kind = .ingest ∧ ingesting.prog = none ∧
      (dmaState ingesting).blk.installs.get? ingesting.record = some i ∧
      ((dmaState ingesting).blk.meters.getD ingesting.record {}).life.bytes + ingesting.chunkLen ≤ i.allowBytes ∧
      ingesting.chunk + 1 = shardChunks ingesting.header ∧
      (dmaState ingesting).blk.canConsume ingesting.record { bytes := ingesting.chunkLen, shards := 1 } = true ∧
      ((dmaState ingesting).blk.begin.useKey ingesting.engine ingesting.skey ingesting.fn ingesting.ctx.toNat useD).1 = .ok k ∧
      gcmOpen (k.key.toNat % 2 ^ 256) (slice ingesting.header 8 4 ++ toLe 8 ingesting.chunk) ingesting.header
        (slice (sealedChunk.1 ++ sealedChunk.2) 0 ingesting.chunkLen) (slice (sealedChunk.1 ++ sealedChunk.2) ingesting.chunkLen 16) =
        some pt ∧ (chunkMover pt).st = .ok ∧ ((chunkMover pt).moved 4).stuck = false := by
  have hk : ∃ k b, (dmaState ingesting).blk.begin.useKey ingesting.engine ingesting.skey ingesting.fn ingesting.ctx.toNat useD = (.ok k, b) ∧
      k.key = 0x77 := eta_keyOk (by decide +kernel)
  obtain ⟨k, b, hk, he⟩ := hk
  refine ⟨dmaInstall, k, [0xAB], by decide +kernel, by decide +kernel, by decide +kernel, by decide +kernel, by decide +kernel,
    by decide +kernel, by decide +kernel, ?_, ?_, by decide +kernel, by decide +kernel⟩
  · rw [hk]
  · rw [he]
    exact sealedChunk_opens

/-! ### Translation -/

def mapCmd (va big : Nat) : Cmd := cmd [(0, 0x0703), (4, 9), (16, va), (24, 2 ^ 36), (32, 1), (36, big), (37, 7)]
def unmapCmd2 : Cmd := cmd [(0, 0x0704), (4, 9), (16, 0), (32, 1), (36, 1)]

/-- A state with a command and the one 64 GiB page at DVA 0, and its host run. -/
def mapState (c : Cmd) : State :=
  { withCmd (dmaUp.modFn 0 fun p => { p with runs := [{ va := 0, target := 2 ^ 36, count := 1, big := true }] }) c with
    mem := [(2 ^ 29 + 0x10_0000, 15)] }

/-- What DMA_MAP asks. -/
def MapOk (c : Cmd) : Prop :=
  CmdReady (mapState c) 7 0x0703 c ∧ dfld c.desc 36 1 ≤ 1 ∧ (mapState c).blk.begin.fencesOf c.fn = some 2 ∧
  (mapState c).blk.mapArgsOk c.fn c.mapArgs = true ∧ ((mapState c).tableRead c {} 2).1 = .ok ∧
  ((mapState c).tableWork c {} 2).mapFree 2 c.mapArgs = true ∧
  ((mapState c).tableWork c {} 2).leavesNeeded 2 c.mapArgs ≤ (((mapState c).tableWork c {} 2).blk.fn c.fn).leaves.room 4096 ∧
  (c.mapArgs.host = true → (((mapState c).tableWork c {} 2).blk.fn c.fn).runs.length < 256) ∧
  ((mapState c).mapWrite c {} 2).1 = .ok ∧ ((mapState c).mapWrite c {} 2).2.2.stuck = false

theorem witness_map : MapOk (mapCmd (2 ^ 56 - 2 ^ 36) 1) ∧ MapOk (mapCmd (2 ^ 56 - 2 ^ 28) 0) :=
  ⟨⟨readyCmd (by decide +kernel), by decide +kernel⟩, readyCmd (by decide +kernel), by decide +kernel⟩

theorem witness_unmap :
    CmdReady (mapState unmapCmd2) 7 0x0704 unmapCmd2 ∧ dfld unmapCmd2.desc 36 1 ≤ 1 ∧ unmapCmd2.mapArgs.count ≠ 0 ∧
    unmapCmd2.mapArgs.va % pageBytes unmapCmd2.mapArgs.big = 0 ∧ unmapCmd2.mapArgs.va + unmapCmd2.mapArgs.bytes ≤ 2 ^ 56 ∧
    (mapState unmapCmd2).blk.begin.fencesOf unmapCmd2.fn = some 2 ∧ ((mapState unmapCmd2).tableRead unmapCmd2 {} 2).1 = .ok ∧
    unmapCmd2.mapArgs.pages.all (((mapState unmapCmd2).tableWork unmapCmd2 {} 2).mappedAt 2 unmapCmd2.mapArgs.big) = true ∧
    (((((mapState unmapCmd2).tableWork unmapCmd2 {} 2).blk.fn unmapCmd2.fn).runs.map fun h =>
      h.trim unmapCmd2.mapArgs.va unmapCmd2.mapArgs.bytes).flatten).length ≤ 256 ∧
    ((mapState unmapCmd2).unmapWrite unmapCmd2 {} 2).1 = .ok ∧ ((mapState unmapCmd2).unmapWrite unmapCmd2 {} 2).2.2.stuck = false ∧
    ((mapState unmapCmd2).unmapWrite unmapCmd2 {} 2).2.2.blk.holdersOf unmapCmd2.fn unmapCmd2.mapArgs.va unmapCmd2.mapArgs.bytes = [] :=
  ⟨readyCmd (by decide +kernel), by decide +kernel⟩

/-- ADDR_CONVERT of the last host address of the run. -/
def convertCmd : Cmd := cmd [(0, 0x0705), (4, 9), (16, 2 ^ 37 - 1)]

theorem witness_convert :
    (CmdReady (mapState convertCmd) 7 0x0705 convertCmd ∧
      lowestRun (dfld convertCmd.desc 16 8) ((mapState convertCmd).blk.fn convertCmd.fn).runs =
        some { va := 0, target := 2 ^ 36, count := 1, big := true } ∧
      ({ va := 0, target := 2 ^ 36, count := 1, big := true } : HostRun).convert (dfld convertCmd.desc 16 8) = some (2 ^ 36 - 1)) ∧
    ((dmaUp.modFn 1 fun p => { p with faults := [{ dva := 0, qp := 0, sqIdx := 0, stream := 0, kind := 1, ctx := 9 }] }).fn 1).faults ≠ [] :=
  ⟨⟨readyCmd (by decide +kernel), by decide +kernel⟩, by decide +kernel⟩

/-! ### Lane programs -/

/-- A copy of one line of FP16 through program 62. -/
def laneDesc : DmaDesc := { lineDesc .running with prog := some 62, sfmt := 4, dfmt := 4 }

/-- The program of the lane, and the line that the host returns. -/
def laneProgram : Program := { smallProgram with target := 1 }
def laneSource : List SourceLine := [.host (.data (List.replicate 128 0)) []]

/-- The unit's frames with the program in one, and the invocation's source read there. -/
def laneFrame : Option Block := (dmaState laneDesc).blk.begin.takeFrame 4 laneDesc 62
def laneRead : Mover × Bytes :=
  Mover.read laneDesc.skey (.data (laneSource.map fun x => match x.hostData with
    | .data h => slice h 0 (lineBytes laneProgram.inFmt)
    | .err => []).flatten) (laneProgram.inl + 3)
    { p := { w := { (dmaState laneDesc).waitWork with blk := laneFrame.getD up }, feed := (laneSource.map fun x => x.lines {}).flatten ++ [] }
      d := laneDesc } (laneDesc.src + laneDesc.read) laneProgram.invBytes 0
def laneScales : Mover × Bytes :=
  laneRead.1.readScale (.host (.data []) ((laneSource.map SourceLine.scaleData).flatten)) (scaleBytes true laneDesc.sfmt laneDesc.read)
    (laneProgram.inl * lineBlocks laneDesc.sfmt)

theorem eta_invoked {p : Invoked} (h : (match p with | .ok _ => true | .error _ => false) = true) : ∃ out, p = .ok out := by
  cases p with
  | ok out => exact ⟨out, rfl⟩
  | error e => exact Bool.noConfusion h

/-- The mover after the program's output. -/
def laneDone (out : List LineReg) : Mover :=
  let c := laneScales.1.count 7 laneProgram.inFmt laneProgram.inl
  let m := ({ c with d := { c.d with read := c.d.read + laneProgram.invBytes } } : Mover).release laneProgram out
  m.flushAll 4 (m.d.read = m.d.len) 40

/-- Whether the program runs on the line and its output moves. -/
def laneRuns : Bool :=
  match invoke laneProgram.code laneProgram.worst { pos := laneDesc.read, ctx := laneDesc.ctx.toNat }
      (invocationLines laneProgram laneRead.2 laneScales.2) with
  | .ok out => decide ((laneDone out).st = .ok) && !((laneDone out).moved 4).stuck
  | .error _ => false

theorem witness_lane :
    (dmaState laneDesc).blk.running 4 = some laneDesc ∧ laneDesc.kind = .copy ∧ laneDesc.prog = some 62 ∧
    (dmaState laneDesc).blk.programs.get? 62 = some laneProgram ∧ laneFrame.isSome = true ∧
    (laneSource.any fun x => x.hostData = .err) = false ∧ laneScales.1.st = .ok ∧ laneRuns = true := by decide +kernel

/-! ## Reports, licences and meters -/

theorem cborHead_length (m n : Nat) : (cborHead m n).length ≤ 9 := by
  unfold cborHead
  split
  · exact (by decide : 1 ≤ 9)
  split
  · rw [List.length_cons, toBe_length]; decide
  split
  · rw [List.length_cons, toBe_length]; decide
  split
  · rw [List.length_cons, toBe_length]; decide
  · rw [List.length_cons, toBe_length]

theorem cborBytes_length (b : Bytes) : (cborBytes b).length ≤ 9 + b.length := by
  have := cborHead_length 2 b.length
  rw [cborBytes, List.length_append]
  omega

theorem cborArray_length (l : List Bytes) : (cborArray l).length ≤ 9 + (l.map List.length).sum := by
  have := cborHead_length 4 l.length
  rw [cborArray, List.length_append, List.length_flatten]
  omega

theorem cborMap_length (l : List (Nat × Bytes)) : (cborMap l).length ≤ 9 + (l.map fun p => 9 + p.2.length).sum := by
  have h := cborHead_length 5 l.length
  have e : ((l.map fun p => cborUint p.1 ++ p.2).flatten).length ≤ (l.map fun p => 9 + p.2.length).sum := by
    clear h
    induction l with
    | nil => exact Nat.le_refl 0
    | cons p r ih =>
      have hp := cborHead_length 0 p.1
      rw [List.map_cons, List.flatten_cons, List.length_append, List.map_cons, List.sum_cons, List.length_append, cborUint]
      omega
  rw [cborMap, List.length_append]
  omega

theorem coseSignature_length (alg : Nat) (cert sig : Bytes) :
    (coseSignature alg cert sig).length ≤ 100 + (cborBytes (coseAlg alg)).length + sig.length := by
  have ha := cborArray_length [cborBytes (coseAlg alg), cborMap [(4, cborBytes (sha384 cert))], cborBytes sig]
  have hm := cborMap_length [(4, cborBytes (sha384 cert))]
  have hc := cborBytes_length (sha384 cert)
  have hb := cborBytes_length sig
  rw [sha384_length] at hc
  simp only [List.map_cons, List.map_nil, List.sum_cons, List.sum_nil] at ha hm
  rw [coseSignature]
  omega

/-- A report with signatures of the lengths of R391, over any certificates. -/
theorem cose_length (p cq ce pq ec : Bytes) (hq : pq.length = 4627) (he : ec.length = 96) :
    (cborHead 6 98 ++ cborArray [cborBytes [], cborMap [], cborBytes p,
      cborArray [coseSignature 49 cq pq, coseSignature 34 ce ec]]).length ≤ 10000 + p.length := by
  have h6 := cborHead_length 6 98
  have hpq := coseSignature_length 49 cq pq
  have hec := coseSignature_length 34 ce ec
  have l1 : (cborBytes (coseAlg 49)).length = 5 := by decide +kernel
  have l2 : (cborBytes (coseAlg 34)).length = 5 := by decide +kernel
  rw [l1, hq] at hpq
  rw [l2, he] at hec
  have hp := cborBytes_length p
  have h0 : (cborBytes []).length = 1 := by decide +kernel
  have h1 : (cborMap []).length = 1 := by decide +kernel
  have hi := cborArray_length [coseSignature 49 cq pq, coseSignature 34 ce ec]
  have ho := cborArray_length [cborBytes [], cborMap [], cborBytes p, cborArray [coseSignature 49 cq pq, coseSignature 34 ce ec]]
  simp only [List.map_cons, List.map_nil, List.sum_cons, List.sum_nil] at hi ho
  rw [List.length_append]
  omega

theorem signPq_length (b : Block) (n : Nat) (m : Bytes) : (b.signPq n m).length = 4627 := by rw [Block.signPq, slice_length]

theorem signEc_length (b : Block) (n : Nat) (m : Bytes) : (b.signEc n m).length = 96 := by rw [Block.signEc, slice_length]

theorem coseSign_length (b : Block) (p : Bytes) : (b.coseSign p).length ≤ 10000 + p.length := by
  rw [Block.coseSign]
  exact cose_length _ _ _ _ _ (signPq_length _ _ _) (signEc_length _ _ _)

/-- ATTEST_REPORT of the block and of context 1, into buffers of the largest length. -/
def attestCmd (ctx : Nat) : Cmd := cmd [(0, 0x0801), (4, ctx), (24, 2 ^ 32 - 1)]

theorem cborMap_short (l : List (Nat × Bytes)) (h : ∀ p ∈ l, p.2.length ≤ 2000) : (cborMap l).length ≤ 9 + 2009 * l.length := by
  have e : (l.map fun p => 9 + p.2.length).sum ≤ 2009 * l.length := by
    induction l with
    | nil => exact Nat.le_refl 0
    | cons p r ih =>
      have hp := h p List.mem_cons_self
      have hr := ih fun q hq => h q (List.mem_cons_of_mem p hq)
      rw [List.map_cons, List.sum_cons, List.length_cons]
      omega
  have := cborMap_length l
  omega

theorem cborUint_short (n : Nat) : (cborUint n).length ≤ 2000 := by
  have := cborHead_length 0 n
  rw [cborUint]
  omega

theorem cborBytes_short {b : Bytes} (h : b.length ≤ 1991) : (cborBytes b).length ≤ 2000 := by
  have := cborBytes_length b
  omega

theorem cborPair_short (n : Nat) (b : Bool) : (cborArray [cborUint n, cborBool b]).length ≤ 2000 := by
  have h := cborArray_length [cborUint n, cborBool b]
  have hn := cborHead_length 0 n
  have hb : (cborBool b).length = 1 := rfl
  rw [List.map_cons, List.map_cons, List.map_nil, List.sum_cons, List.sum_cons, List.sum_nil, hb, cborUint] at h
  rw [cborUint]
  omega

/-- The entries that every report has. -/
theorem common_short (k : ReportKind) (nonce : Bytes) (hn : nonce.length = 32) (hr : (up.reportRegions k).length ≤ 2000) :
    ∀ p ∈ ([(1, cborUint k.code), (2, cborBytes nonce), (3, cborArray [cborUint up.boot.blockId.toNat, cborBool up.boot.assigned]),
     (4, cborArray (up.versions.map cborUint)), (5, cborBytes (toBe 48 up.boot.digest.toNat)), (6, cborUint
        (if up.boot.lc = .invalid then 0xFF else up.boot.lc.code)),
     (7, cborUint up.boot.rights.toNat), (8, cborArray [cborUint up.tick.toNat, cborBool up.time.valid]),
     (9, cborBytes up.aliasKem), (10, cborArray (up.chains.map cborBytes)), (11, up.reportDomain),
     (12, up.reportRegions k)] : List (Nat × Bytes)), p.2.length ≤ 2000 := by
  intro p hp
  simp only [List.mem_cons, List.not_mem_nil, or_false] at hp
  have h4 : (cborArray (up.versions.map cborUint)).length ≤ 2000 := by decide +kernel
  have h10 : (cborArray (up.chains.map cborBytes)).length ≤ 2000 := by decide +kernel
  have h11 : up.reportDomain.length ≤ 2000 := by decide +kernel
  rcases hp with rfl | rfl | rfl | rfl | rfl | rfl | rfl | rfl | rfl | rfl | rfl | rfl
  exacts [cborUint_short _, cborBytes_short (by rw [hn]; decide), cborPair_short _ _, h4,
    cborBytes_short (by rw [toBe_length]; decide), cborUint_short (if up.boot.lc = .invalid then 0xFF else up.boot.lc.code), cborUint_short up.boot.rights.toNat,
    cborPair_short _ _,
    cborBytes_short (by rw [Block.aliasKem, slice_length]; decide), h10, h11, hr]

/-- The payload of a block without device certificates is short. -/
theorem payload_short (k : ReportKind) (hk : k = .block ∨ k = .context 0 1) (nonce : Bytes) (hn : nonce.length = 32) :
    (up.reportPayload k nonce).length ≤ 100000 := by
  rcases hk with rfl | rfl
  · refine Nat.le_trans (cborMap_short _ ?_) (by decide : 9 + 2009 * 13 ≤ 100000)
    intro p hp
    rcases List.mem_append.mp hp with hp | hp
    · exact common_short .block nonce hn (by decide +kernel) p hp
    · have h13 : (cborBool (up.sharedWays .block)).length ≤ 2000 := by decide +kernel
      rw [List.mem_singleton.mp hp]
      exact h13
  · refine Nat.le_trans (cborMap_short _ ?_) (by decide : 9 + 2009 * 17 ≤ 100000)
    intro p hp
    rcases List.mem_append.mp hp with hp | hp
    · rcases List.mem_append.mp hp with hp | hp
      · exact common_short (.context 0 1) nonce hn (by decide +kernel) p hp
      · have h13 : (cborBool (up.sharedWays (.context 0 1))).length ≤ 2000 := by decide +kernel
        rw [List.mem_singleton.mp hp]
        exact h13
    · have hx : ∀ p ∈ up.contextEntries 0 1, p.2.length ≤ 2000 := by decide +kernel
      exact hx p hp

theorem report_short (ctx : Nat) (k : ReportKind) (hk : k = .block ∨ k = .context 0 1) :
    ((withCmd up (attestCmd ctx)).blk.begin.report k (dbytes (attestCmd ctx).desc 32 32)).length ≤ 110000 := by
  have h1 := coseSign_length (withCmd up (attestCmd ctx)).blk.begin (up.reportPayload k (dbytes (attestCmd ctx).desc 32 32))
  have hn : (dbytes (attestCmd ctx).desc 32 32).length = 32 := toLe_length _ _
  have h2 := payload_short k hk (dbytes (attestCmd ctx).desc 32 32) hn
  have e : (withCmd up (attestCmd ctx)).blk.begin.report k (dbytes (attestCmd ctx).desc 32 32) =
      (withCmd up (attestCmd ctx)).blk.begin.coseSign (up.reportPayload k (dbytes (attestCmd ctx).desc 32 32)) := rfl
  rw [e]
  omega

theorem witness_attest :
    (CmdReady (withCmd up (attestCmd 0)) 7 0x0801 (attestCmd 0) ∧ up.boot.entropyDown = false ∧
      ReportKind.block = (if (attestCmd 0).ctx = 0 then ReportKind.block else ReportKind.context (attestCmd 0).fn (attestCmd 0).ctx) ∧
      ((withCmd up (attestCmd 0)).blk.begin.report .block (dbytes (attestCmd 0).desc 32 32)).length ≤ dfld (attestCmd 0).desc 24 4) ∧
    (CmdReady (withCmd up (attestCmd 1)) 7 0x0801 (attestCmd 1) ∧
      ReportKind.context 0 1 = (if (attestCmd 1).ctx = 0 then ReportKind.block else ReportKind.context (attestCmd 1).fn (attestCmd 1).ctx) ∧
      ((withCmd up (attestCmd 1)).blk.begin.report (.context 0 1) (dbytes (attestCmd 1).desc 32 32)).length ≤
        dfld (attestCmd 1).desc 24 4) := by
  have h0 : (attestCmd 0).ctx = 0 := by decide +kernel
  have h1 : (attestCmd 1).ctx ≠ 0 := by decide +kernel
  have f1 : (attestCmd 1).ctx = 1 := by decide +kernel
  have l0 : 110000 ≤ dfld (attestCmd 0).desc 24 4 := by decide +kernel
  have l1 : 110000 ≤ dfld (attestCmd 1).desc 24 4 := by decide +kernel
  have r0 : CmdReady (withCmd up (attestCmd 0)) 7 0x0801 (attestCmd 0) := readyCmd (by decide +kernel)
  have r1 : CmdReady (withCmd up (attestCmd 1)) 7 0x0801 (attestCmd 1) := readyCmd (by decide +kernel)
  have n1 : (attestCmd 1).fn = 0 := by decide +kernel
  refine ⟨⟨r0, rfl, (if_pos h0).symm, Nat.le_trans (report_short 0 .block (.inl rfl)) l0⟩, r1, ?_,
    Nat.le_trans (report_short 1 (.context 0 1) (.inr rfl)) l1⟩
  rw [if_neg h1, f1, n1]

/-! ### Licences -/

/-- The first 56 bytes of a licence for ingest of 1 byte, and the bytes after its KCV. -/
def licenceHead : Bytes := bytes 56 [(0, 0x494C5843), (4, 77), (8, 1), (10, 1), (16, 1), (32, 1000000000)]
def licenceTail : Bytes := List.replicate 8787 0

theorem licenceHead_length : licenceHead.length = 56 := bytes_length 56 _

/-- The licence with a KCV. -/
def licence (kcv : Bytes) : Bytes := licenceHead ++ (kcv ++ licenceTail)

/-- What the content key's derivation reads of the licence. -/
def licenceKey (b : Block) : Bytes :=
  kmac256 (toLe 32 (mlkemDecap (b.material 5) (slice licenceTail 0 1568)).toNat)
    (sha384 (licenceHead ++ slice licenceTail 0 4160)) 256 "CX.kem"

/-- Its KCV. -/
def licenceKcv (b : Block) : Bytes := (aesBlock (roundKeys (le (licenceKey b))) (List.replicate 16 0)).take 8

theorem licenceKcv_length (b : Block) : (licenceKcv b).length = 8 := by
  rw [licenceKcv, List.length_take, aesBlock, toLe_length]; rfl

theorem licence_head (kcv : Bytes) {off n : Nat} (h : off + n ≤ 56) : slice (licence kcv) off n = slice licenceHead off n :=
  slice_left (by rw [licenceHead_length]; exact h)

theorem licence_tail {kcv : Bytes} (hk : kcv.length = 8) {off n : Nat} (h : 64 ≤ off) :
    slice (licence kcv) off n = slice licenceTail (off - 64) n := by
  rw [licence, slice_right (by rw [licenceHead_length]; omega), slice_right (by rw [licenceHead_length, hk]; omega), licenceHead_length, hk]
  rw [show off - 56 - 8 = off - 64 by omega]

theorem licence_kcv {kcv : Bytes} (hk : kcv.length = 8) : slice (licence kcv) 56 8 = kcv := by
  rw [licence, slice_right (by rw [licenceHead_length]), licenceHead_length, slice_left (by rw [hk])]
  have := slice_all kcv
  rwa [hk] at this

theorem contentKey_licence (b : Block) {kcv : Bytes} (hk : kcv.length = 8) : b.contentKey (licence kcv) = licenceKey b := by
  have h0 : slice licenceHead 0 56 = licenceHead := by
    have := slice_all licenceHead
    rwa [licenceHead_length] at this
  rw [Block.contentKey, licence_tail hk (by decide +kernel), licence_head kcv (by decide +kernel), licence_tail hk (by decide +kernel), h0, licenceKey]

/-- A block whose tenant key of level 3 stands in slot 80. -/
def licUp : Block :=
  { up with
    boot := { up.boot with metersRead := true }
    keys := { slots := [(0, rootSlot), (80, keySlot 80 useV 0 false)], free := { next := 81 } } }

/-- LICENSE_INSTALL of the licence. -/
def installCmd : Cmd := { cmd [(0, 0x0901), (28, 80)] with buf := licence (licenceKcv licUp) }

theorem licence_length : (licence (licenceKcv licUp)).length = 8851 := by
  rw [licence, List.length_append, List.length_append, licenceHead_length, licenceKcv_length, licenceTail, List.length_replicate]

theorem licence_ok : licenceOk (licence (licenceKcv licUp)) = true := by
  have h : ∀ off n, off + n ≤ 56 → bfld (licence (licenceKcv licUp)) off n = bfld licenceHead off n :=
    fun off n k => congrArg le (licence_head _ k)
  rw [licenceOk, licence_length, h 0 4 (by decide +kernel), h 8 2 (by decide +kernel), h 10 1 (by decide +kernel), h 11 1 (by decide +kernel), h 12 4 (by decide +kernel),
    h 16 8 (by decide +kernel), h 24 8 (by decide +kernel), h 32 8 (by decide +kernel), h 44 4 (by decide +kernel), h 48 8 (by decide +kernel)]
  decide +kernel

theorem licence_id : bfld (licence (licenceKcv licUp)) 4 4 = 77 := by
  rw [bfld, licence_head _ (by decide +kernel)]
  decide +kernel

theorem licence_mask : licenceMask (licence (licenceKcv licUp)) = 16 := by
  have h : ∀ off n, off + n ≤ 56 → bfld (licence (licenceKcv licUp)) off n = bfld licenceHead off n :=
    fun off n k => congrArg le (licence_head _ k)
  rw [licenceMask, h 10 1 (by decide +kernel), h 11 1 (by decide +kernel)]
  decide +kernel

theorem install_ok : licUp.installCheck installCmd installCmd.buf = .ok := by
  have hb : installCmd.buf = licence (licenceKcv licUp) := rfl
  have hl : ∀ i, licUp.listed 77 i = false := fun _ => rfl
  have hr : licUp.recordsOf 77 = [] := by decide +kernel
  have hi : licUp.installed 77 = false := by decide +kernel
  have ht : licUp.keyCheck (dfld installCmd.desc 28 2) installCmd.fn installCmd.ctx none useV = .ok := by decide +kernel
  have h3 : (licUp.slot (dfld installCmd.desc 28 2)).level = 3 := by decide +kernel
  have hm : maskWithin 16 (licUp.slot (dfld installCmd.desc 28 2)).mask = true := by decide +kernel
  have hs : (licUp.takeSlot installCmd.fn).isSome = true := by decide +kernel
  have hf : (licUp.recordFor 77).isSome = true := by decide +kernel
  have hk : (aesBlock (roundKeys (le (licUp.contentKey (licence (licenceKcv licUp))))) (List.replicate 16 0)).take 8 =
      slice (licence (licenceKcv licUp)) 56 8 := by
    rw [contentKey_licence licUp (licenceKcv_length _), licence_kcv (licenceKcv_length _)]; rfl
  have hv : installCmd.verified = true := by decide +kernel
  have ho : licUp.boot.storeOk = true := rfl
  rw [Block.installCheck, hb]
  simp only [licence_id, licence_ok, licence_mask, hl, hr, hi, ht, h3, hm, hs, hf, hk, hv, ho, List.any_nil, List.all_nil, decide_true,
    Bool.not_false, Bool.and_true]
  decide

theorem witness_install :
    CmdReady (withCmd licUp installCmd) 7 0x0901 installCmd ∧ licUp.licenceBusy (bfld installCmd.buf 4 4) = false ∧
    licUp.installCheck installCmd installCmd.buf = .ok ∧ licUp.recordFor (bfld installCmd.buf 4 4) = some 0 := by
  have hb : bfld installCmd.buf 4 4 = 77 := licence_id
  refine ⟨readyCmd (by decide +kernel), ?_, install_ok, ?_⟩
  · rw [hb]
    decide +kernel
  · rw [hb]
    decide +kernel

/-- LICENSE_REVOKE of licence 77, whose record 3 is live, by its issuer. -/
def revocation : Bytes := bytes 64 [(0, 0x56525843), (4, 77)] ++ List.replicate 7219 0
def liveRecord : MeterRecord :=
  { licence := 77, state := .live, issuer := issuerOfKey (slice revocation 64 2592), periodTicks := 1000000000, openNumber := 2 }
def recordUp : Block :=
  { up with boot := { up.boot with metersRead := true }
            store := { up.store with meters := [(255, liveRecord)] }
            meters := [(255, { life := { bytes := 9 }, period := { bytes := 4 } })]
            time := { tick := 1000000000, valid := true } }
def revokeCmd2 : Cmd := { cmd [(0, 0x0902)] with buf := revocation }
def usageCmd (closed : Nat) : Cmd := cmd [(0, 0x0903), (16, 77), (20, closed), (24, 0x1000)]

/-- A block without a record of it, whose list names it or not. -/
def listUp (l : List (BitVec 32 × BitVec 160)) : Block := { up with boot := { up.boot with metersRead := true }, store := { up.store with revoked := l } }

def anchorCmd : Cmd := cmd [(0, 0x0905), (16, 5), (24, 2 ^ 64 - 1)]

theorem revocation_id : bfld revocation 4 4 = 77 := by
  rw [bfld, revocation, slice_left (by rw [bytes_length]; decide)]
  decide +kernel

theorem revocation_form : revocationOk revocation = true := by
  have hl : revocation.length = 7283 := by rw [revocation, List.length_append, bytes_length, List.length_replicate]
  rw [revocationOk, hl, bfld, revocation, slice_left (by rw [bytes_length]; decide), slice_left (by rw [bytes_length])]
  decide +kernel

theorem recordsOf_77 : recordUp.recordsOf 77 = [(255, liveRecord)] := by
  have h0 : ((List.range 255).all fun k => (recordUp.latestRecord k).state = .free) = true := by decide +kernel
  have h1 : recordUp.latestRecord 255 = liveRecord := rfl
  have hr : List.range meterRecords = List.range 255 ++ [255] := List.range_succ
  have hn : ((List.range 255).map fun k => (k, recordUp.latestRecord k)).filter
      (fun e => e.2.state ≠ .free && e.2.licence.toNat = 77) = [] := by
    rw [List.filter_eq_nil_iff]
    intro e he
    obtain ⟨k, hk, rfl⟩ := List.mem_map.mp he
    simp only [of_decide_eq_true (List.all_eq_true.mp h0 k hk), ne_eq, not_true, decide_false, Bool.false_and, Bool.false_eq_true, not_false_eq_true]
  have hl : (decide (liveRecord.state ≠ .free) && decide (liveRecord.licence.toNat = 77)) = true := by decide +kernel
  rw [Block.recordsOf, hr, List.map_append, List.filter_append, hn, List.nil_append, List.map_cons, List.map_nil, h1]
  exact List.filter_cons_of_pos hl

/-- What REVOKE asks of its revocation where the block has no record of the licence. -/
theorem unrecorded (l : List (BitVec 32 × BitVec 160)) :
    (listUp l).revokeCheck revokeCmd2 revokeCmd2.buf = .ok ∧ (listUp l).recordsOf (bfld revokeCmd2.buf 4 4) = [] := by
  have hb : bfld revokeCmd2.buf 4 4 = 77 := revocation_id
  have hr : (listUp l).recordsOf 77 = [] := by
    have h : ((List.range meterRecords).map fun k => (k, up.latestRecord k)).all
        (fun e => e.2.state = .free || e.2.licence.toNat ≠ 77) = true := by decide +kernel
    rw [Block.recordsOf, List.filter_eq_nil_iff]
    intro e he
    have := List.all_eq_true.mp h e he
    simp only [Bool.or_eq_true, decide_eq_true_eq] at this
    rcases this with h1 | h1 <;> simp [h1]
  have hv : revokeCmd2.verified = true := by decide +kernel
  have hf : revocationOk revokeCmd2.buf = true := revocation_form
  have ho : (listUp l).boot.storeOk = true := rfl
  refine ⟨?_, by rw [hb, hr]⟩
  rw [Block.revokeCheck, hb, hr, hv, hf, ho]
  decide

theorem witness_records :
    (CmdReady (withCmd recordUp revokeCmd2) 7 0x0902 revokeCmd2 ∧ recordUp.licenceBusy (bfld revokeCmd2.buf 4 4) = false ∧
      recordUp.revokeCheck revokeCmd2 revokeCmd2.buf = .ok ∧ recordUp.recordsOf (bfld revokeCmd2.buf 4 4) = [(255, liveRecord)] ∧
      liveRecord.state ≠ .revoked) ∧
    (∀ closed : Bool, CmdReady (withCmd recordUp (usageCmd (bit closed))) 7 0x0903 (usageCmd (bit closed)) ∧
      recordUp.licenceBusy (dfld (usageCmd (bit closed)).desc 16 4) = false ∧
      recordUp.reportable (usageCmd (bit closed)) = some (255, liveRecord) ∧ dfld (usageCmd (bit closed)).desc 20 1 = bit closed) ∧
    (liveRecord.state ≠ .ended ∧ liveRecord.openNumber ≠ 0 ∧ recordUp.boot.entropyDown = false) ∧
    (CmdReady (withCmd recordUp anchorCmd) 7 0x0905 anchorCmd ∧ recordUp.anchor.isSome = false) ∧
    ((recordUp.latestRecord 255).state = .live ∧ recordUp.boot.storeOk = true ∧
      recordUp.meters.get? 255 = some { life := { bytes := 9 }, period := { bytes := 4 } } ∧
      (recordUp.latestRecord 255).openTick + (recordUp.latestRecord 255).periodTicks ≤ recordUp.tick.toNat) := by
  have hb : bfld revokeCmd2.buf 4 4 = 77 := revocation_id
  refine ⟨⟨readyCmd (by decide +kernel), ?_, ?_, ?_, by decide +kernel⟩, ?_, by decide +kernel,
    ⟨readyCmd (by decide +kernel), by decide +kernel⟩, by decide +kernel⟩
  · rw [hb]
    decide +kernel
  · have hv : revokeCmd2.verified = true := by decide +kernel
    have hf : revocationOk revokeCmd2.buf = true := revocation_form
    have hi : liveRecord.issuer = issuerOfKey (slice revokeCmd2.buf 64 2592) := rfl
    have ho : recordUp.boot.storeOk = true := rfl
    rw [Block.revokeCheck, hb, recordsOf_77, hv, hf, ho]
    simp only [List.all_cons, List.all_nil, ← hi, decide_true, Bool.and_true]
    decide
  · rw [hb, recordsOf_77]
  · intro closed
    have hu : dfld (usageCmd (bit closed)).desc 16 4 = 77 := by cases closed <;> decide +kernel
    refine ⟨?_, ?_, ?_, by cases closed <;> decide +kernel⟩
    · cases closed
      · exact readyCmd (by decide +kernel)
      · exact readyCmd (by decide +kernel)
    · rw [hu]
      decide +kernel
    · rw [Block.reportable, hu, recordsOf_77]
      cases closed <;> rfl

/-- The revocation's own entry of the list. -/
def listEntry : BitVec 32 × BitVec 160 := (77, issuerOfKey (slice revocation 64 2592))

theorem witness_listed :
    (CmdReady (withCmd (listUp [listEntry]) revokeCmd2) 7 0x0902 revokeCmd2 ∧ (listUp [listEntry]).licenceBusy (bfld revokeCmd2.buf 4 4) = false ∧
      (listUp [listEntry]).revokeCheck revokeCmd2 revokeCmd2.buf = .ok ∧ (listUp [listEntry]).recordsOf (bfld revokeCmd2.buf 4 4) = [] ∧
      (listUp [listEntry]).listed (bfld revokeCmd2.buf 4 4) (issuerOfKey (slice revokeCmd2.buf 64 2592)) = true) ∧
    (CmdReady (withCmd (listUp []) revokeCmd2) 7 0x0902 revokeCmd2 ∧ (listUp []).licenceBusy (bfld revokeCmd2.buf 4 4) = false ∧
      (listUp []).revokeCheck revokeCmd2 revokeCmd2.buf = .ok ∧ (listUp []).recordsOf (bfld revokeCmd2.buf 4 4) = [] ∧
      (listUp []).listed (bfld revokeCmd2.buf 4 4) (issuerOfKey (slice revokeCmd2.buf 64 2592)) = false ∧ (listUp []).listBusy = false ∧
      (listUp []).store.revoked.length < listEntries) := by
  have hb : bfld revokeCmd2.buf 4 4 = 77 := revocation_id
  have hk : listEntry.2 = issuerOfKey (slice revokeCmd2.buf 64 2592) := rfl
  refine ⟨⟨readyCmd (by decide +kernel), ?_, (unrecorded _).1, (unrecorded _).2, ?_⟩, readyCmd (by decide +kernel), ?_, (unrecorded _).1,
    (unrecorded _).2, ?_, by decide +kernel, by decide +kernel⟩
  · rw [hb]
    decide +kernel
  · rw [hb, ← hk]
    simp [Block.listed, listUp, up, listEntry]
  · rw [hb]
    decide +kernel
  · rw [hb, Block.listed]
    rfl

/-! ## Recovery and the rake -/

/-- ENGINE_RESET of an engine. -/
def resetCmd (e : Nat) : Cmd := cmd [(0, 0x0C02), (16, e)]

/-- A block whose ash streamer is in reset for command 9. -/
def ashReset : Block := { up with resets := [(0x77, { cause := 1, cmds := [9] })], ctxs := [(1, { fn := 0 })] }

theorem witness_engineResets :
    (CmdReady (withCmd regionUp (resetCmd 3)) 7 0x0C02 (resetCmd 3) ∧ regionUp.build.engineBuilt (dfld (resetCmd 3).desc 16 1) = true ∧
      dfld (resetCmd 3).desc 16 1 ≠ 0x73 ∧ regionUp.resets.get? (dfld (resetCmd 3).desc 16 1) = none) ∧
    (CmdReady (withCmd ashReset (resetCmd 0x77)) 7 0x0C02 (resetCmd 0x77) ∧
      ashReset.build.engineBuilt (dfld (resetCmd 0x77).desc 16 1) = true ∧ dfld (resetCmd 0x77).desc 16 1 ≠ 0x73 ∧
      ashReset.resets.get? (dfld (resetCmd 0x77).desc 16 1) = some { cause := 1, cmds := [9] }) ∧
    (ashReset.build.engineBuilt 0x77 = true ∧ ashReset.pins.blockSafe = false ∧ ashReset.build.mces ≤ 0x40 ∧
      (ashReset.mce 0x77).held = []) :=
  ⟨⟨readyCmd (by decide +kernel), by decide +kernel⟩, ⟨readyCmd (by decide +kernel), by decide +kernel⟩, by decide +kernel⟩

/-- MCE 3 owes the drop of its entry of region 4. -/
def owing : Block := { regionUp with mces := [(3, { regionDrops := [4] })] }

/-- MCE 3 is in reset and still writes a line; context 1 is being killed, and MCE 33 holds a request of it. -/
def late : Block :=
  { regionUp with
    resets := [(3, { cause := 1, cmds := [9] })]
    mces := [(3, { held := [{ write := true, addr := 0, len := 128 }] }),
             (33, { reqs := [{ heldReq with req := { heldReq.req with ctx := 1 } }], nextReq := 1 })]
    seq := { up.seq with killing := [1, 4] } }

theorem witness_missedBounds :
    (owing.pins.blockSafe = false ∧ owing.build.engineBuilt 3 = true ∧ owing.owesAck 3 = true ∧ owing.boot.seqReset = false ∧
      owing.resets.get? 3 = none) ∧
    (late.pins.blockSafe = false ∧ late.build.engineBuilt 3 = true ∧ Tab.has late.resets 3 = true ∧
      ((late.mce 3).held.any fun o => o.write) = true) ∧
    List.contains late.seq.killing (1 : BitVec 16).toNat = true ∧ late.holders (1 : BitVec 16).toNat = [33] := by decide +kernel

/-- HEARTBEAT_CONFIG: an ash record and an interrupt on the last vector. -/
def beatCmd : Cmd := cmd [(0, 0x0C05), (16, 3), (18, 0x7FF)]

/-- The firmware runs at `tick` 2 * 10^9, after watchdogs at the ticks given. -/
def barking (l : List (BitVec 64)) : Block :=
  { up with time := { tick := 2000000000, valid := true }, obs := { up.obs with recentDogs := l, hbAsh := true } }

/-- The sequencer is in reset, one command having committed and one not. -/
def downUp : Block :=
  { up with
    boot := { up.boot with seqReset := true }
    seq := { up.seq with cmds := [(7, { cmd [(0, 0x0C02)] with stage := .waiting }), (8, cmd [(0, 0x0C03)])] } }

theorem witness_emberAndWatchdog :
    CmdReady (withCmd up beatCmd) 7 0x0C05 beatCmd ∧
    ((barking []).firmware = true ∧
      (withinSecond (barking []).tick (barking [999999999, 1000000000, 1000000001]).obs.recentDogs).length < 2) ∧
    ((barking [999999999, 1000000001, 2000000000]).firmware = true ∧
      2 ≤ (withinSecond (barking []).tick (barking [999999999, 1000000001, 2000000000]).obs.recentDogs).length) ∧
    (downUp.boot.seqReset = true ∧ downUp.pins.blockSafe = false ∧ downUp.resets.get? 0x74 = none ∧ downUp.seq.kills = [] ∧
      downUp.seq.heldWrites = []) :=
  ⟨readyCmd (by decide +kernel), by decide +kernel⟩

/-- SCRUB_RANGE of the last line of region 3 and the first of region 4; of region 4 by VF 1; SCRUB_SRAM. -/
def rangeCmd (a n fn : Nat) : Cmd := cmd [(0, 0x0C01), (16, a), (24, n)] [] fn
def scrubSramCmd : Cmd := cmd [(0, 0x0C01), (40, 1)]

/-- Region 4 is VF 1's. -/
def vfRegion : Block := { regionUp with regions := { table := [(4, { mode := .sealed, ownerFn := 1, threshold := 1, keyset := [81, 82] })] } }

/-- A pass from the last line of region 3, which is not bound. -/
def raking : Block :=
  { regionUp with
    seq := { up.seq with cmds := [(7, { rangeCmd (2 ^ 30 - 128) 256 0 with stage := .waiting })]
                         rakes := [{ cmd := 7, next := 2 ^ 30 - 128, stop := 2 ^ 30 + 128, fn := 0, vf := false }] } }

def RangeOk (b : Block) (c : Cmd) : Prop :=
  CmdReady (withCmd b c) 7 0x0C01 c ∧ dfld c.desc 40 1 = 0 ∧ dfld c.desc 16 8 % 128 = 0 ∧ dfld c.desc 24 8 % 128 = 0 ∧
  128 ≤ dfld c.desc 24 8 ∧ b.rangeData (dfld c.desc 16 8) (dfld c.desc 24 8) = true ∧
  (c.fn = 0 ∨ b.ownsRegions c.fn (dfld c.desc 16 8) (dfld c.desc 24 8) = true)

theorem witness_rake :
    RangeOk regionUp (rangeCmd (2 ^ 30 - 128) 256 0) ∧ RangeOk vfRegion (rangeCmd (2 ^ 30) (2 ^ 28) 1) ∧
    ((raking.seq.rakes.find? fun x => x.cmd = 7).map (raking.rakeSkip (regionCount + 1)) =
        some { cmd := 7, next := 2 ^ 30, stop := 2 ^ 30 + 128, fn := 0, vf := false } ∧
      raking.build.dataTier (2 ^ 30) = some tier8 ∧
      raking.passFree (regionOf (2 ^ 30)) (tier8.mce (2 ^ 30)) [2 ^ 30] = true) ∧
    (CmdReady (withCmd regionUp scrubSramCmd) 7 0x0C01 scrubSramCmd ∧ dfld scrubSramCmd.desc 40 1 = 1 ∧ scrubSramCmd.fn = 0 ∧
      dfld scrubSramCmd.desc 16 8 = 0 ∧ dfld scrubSramCmd.desc 24 8 = 0 ∧ regionUp.forgedSlots = []) :=
  ⟨⟨readyCmd (by decide +kernel), by decide +kernel⟩, ⟨readyCmd (by decide +kernel), by decide +kernel⟩, by decide +kernel, readyCmd (by decide +kernel), by decide +kernel⟩

/-! ## The machine and the shared computations -/

/-- A node whose count of child 0 cannot rise, and one whose minors start over. -/
def fullNode : Node := { major := BitVec.ofNat 49 (2 ^ 49 - 1), minors := BitVec.allOnes 384 }
def turningNode : Node := { major := 3, minors := 0x3F }

theorem witness_counters :
    fullNode.lift 63 = none ∧ ({ fullNode with minors := 0 } : Node).lift 0 = some ({ fullNode with minors := 1 }, false) ∧
    turningNode.lift 0 = some ({ major := 4, minors := 0 }, true) ∧ turningNode.lift 1 = some ({ major := 3, minors := 0x7F }, false) ∧
    (List.replicate 8 (0xFF : BitVec 8)).length = 8 := by decide +kernel

/-- MCE 3's `mctl` port of a block that serves, with its clock stopped. -/
def standing : Block := { up with stopped := [.mctl 3] }

theorem witness_machine :
    (siteOf (.mctlReadReturn 3 0 false 0 [])).isBuilt up.build = true ∧
    (siteOf (.mctlReadReturn 63 0 false 0 [])).isBuilt up.build = false ∧
    (siteOf (.mctlReadReturn 3 0 false 0 []) = .port (.mctl 3) ∧ standing.build.shellBuilt (.mctl 3) = true ∧
      standing.stopped.contains (.mctl 3) = true) ∧
    (mayStore .eccLeak = false ∧ ∃ t, exec .eccLeak (st up) = .next t) ∧
    ((st up).Inv ∧ ∃ t, step (st up) = .next t) :=
  ⟨by decide +kernel, by decide +kernel, by decide +kernel, ⟨rfl, _, rfl⟩, rfl, _, rfl⟩

/-! ## Published vectors and values worked out by hand -/

/-- AES-256 of FIPS 197, appendix C.3. -/
theorem test_aes :
    aesEnc (le ((List.range 32).map fun i => BitVec.ofNat 8 i)) (le ((List.range 16).map fun i => BitVec.ofNat 8 (17 * i))) =
      le (toBe 16 0x8ea2b7ca516745bfeafc49904b496089) := by decide +kernel

/-- SHA-384 of "abc", the example of FIPS 180. -/
theorem test_sha384 :
    be (sha384 (ascii "abc")) =
      0xcb00753f45a35e8bb5a03d699ac65007272c32ab0eded1631a8b605a43ff5bed8086072ba1e7cc2358baeca134c825a7 := by decide +kernel

/-- cSHAKE256 sample 3 of SP 800-185's examples. -/
theorem test_cshake256 :
    be (cshake256 [0, 1, 2, 3] 64 "" "Email Signature") =
      0xD008828E2B80AC9D2218FFEE1D070C48B8E4C87BFF32C9699D5B6896EEE0EDD164020E2BE0560858D9C00C037E34A96937C561A74C412BB4C746469527281C8C := by
  decide +kernel

/-- GCM with a zero AES-256 key, IV and block: case 14 of the GCM specification. -/
theorem test_gcm :
    gcmSeal 0 (List.replicate 12 0) [] (List.replicate 16 0) =
      (toBe 16 0xcea7403d4d606b6e074ec5d3baf39d18, toBe 16 0xd0d1c8a799996bf0265b98b5d48ab919) := by decide +kernel

/-- R214: the largest finite values and the smallest positive ones of the table, and what lies beyond them. -/
theorem test_formats :
    elemValue 4 0x7BFF = .fin false 2047 5 ∧ elemValue 5 0x7E = .fin false 14 5 ∧ elemValue 5 0x7F = .nan ∧
    elemValue 7 0x1F = .fin false 7 2 ∧ elemValue 8 1 = .fin false 1 (-3) ∧ elemValue 9 1 = .fin false 1 (-1) ∧
    elemValue 10 0x80 = .fin true 128 0 ∧
    roundTo 4 (.fin false 65519 0) = 0x7BFF ∧ roundTo 4 (.fin false 65520 0) = 0x7C00 ∧ roundTo 4 (.fin false 2049 0) = 0x6800 ∧
    roundTo 4 (.fin false 2051 0) = 0x6802 := by decide +kernel

/-- R216: MXINT8 64 under scale byte 127 is 1; scale byte 0xFF makes NaN. -/
theorem test_scaled : scaledValue 10 64 127 = .fin false 64 (-6) ∧ scaledValue 10 64 255 = .nan := by decide +kernel

/-- R218: -1.5 at the anchor exponent 1 is -1.5 * 2^49; what lies under the last bit is cut toward zero. -/
theorem test_carry : toCarry true 3 (-1) 1 50 = -(3 * 2 ^ 48) ∧ toCarry true 1 (-20) 1 18 = 0 := by decide +kernel

/-- R187: the sum wraps at 64 bits, and compare-and-swap stores only on a match. -/
theorem test_atomics : atomicNew 1 (2 ^ 64 - 1) 2 0 = 1 ∧ atomicNew 3 5 9 5 = 9 ∧ atomicNew 3 6 9 5 = 6 := by decide +kernel

/-! ## Single steps -/

/-- What a command leaves, where it answers. -/
def after (c : Instr) (b : Block) (p : Block → Bool) : Bool :=
  match exec c (st b) with
  | .next t => p t.blk
  | _ => false

/-- R464: the leak takes one from each class's bucket. -/
theorem test_ecc_leak :
    after .eccLeak { up with obs := { up.obs with buckets := [(1, 1), (2, 3)] } } (fun b => b.obs.buckets = [(2, 2)]) = true := by
  decide +kernel

/-- R474: the third watchdog within a second is the last; two within a second and one a second before are not. -/
theorem test_watchdog :
    after .watchdog (barking [1999999999, 1500000000]) (fun b => b.pins.blockSafe) = true ∧
    after .watchdog (barking [1999999999, 1000000000]) (fun b => !b.pins.blockSafe && b.boot.seqReset) = true := by decide +kernel

/-- R26: a stopped shell takes no doorbell; when its clock returns, what was held crosses. -/
theorem test_shell_clock :
    after (.shellClockStop (.mctl 3)) up (fun b => b.stopped = [.mctl 3]) = true ∧
    after (.shellClockReturn (.mctl 3)) { standing with held := [.mreqACrd 3, .mctlRead 3 9 0 128] }
      (fun b => b.out = [.mctlRead 3 9 0 128] && b.held = [.mreqACrd 3] && b.stopped.isEmpty) = true := by decide +kernel

/-- R478: ENGINE_RESET of an engine that the build lacks fails with BAD_OPERAND, and none enters reset. -/
theorem test_engine_reset :
    (match exec (.engineReset 7) (withCmd up (resetCmd 0x6A)) with
     | .next t => t.blk.resets.isEmpty && (t.blk.cmd? 7).isNone
     | _ => false) = true := by decide +kernel

/-- R11: the built configuration of the reference host has no MCE 63. -/
theorem test_not_built : exec (.controllerCredit 63 true) (st up) = .fault .portNotBuilt := by rfl

/-- A step takes the front of the queue. -/
theorem test_step :
    (match step { st up with pending := [.eccLeak, .ember] } with
     | .next t => t.pending = [.ember]
     | _ => false) = true := by decide +kernel

end Sys2Proof.Tests
end

section
/-! The laws of a port whose shell clock runs or stands, of the test port and of the self-test. -/

namespace Sys2Proof.Machine

open Sys2Proof

/-! ## Commands at a port (R26) -/

/-- A port that is built and whose clock stands takes nothing. -/
theorem atPort_stopped {sh : Shell} {s : State} (act : Host.Outcome State Fault Refusal)
    (hb : s.blk.build.shellBuilt sh = true) (hs : s.blk.stopped.contains sh = true) :
    atPort sh s act = .next { s with blk := s.blk.begin } := by
  unfold atPort
  rw [hb, hs]
  rfl

/-- `hcp_*` is in every configuration, so it does not matter which of the two is asked first: whether the sequencer takes a
domain command, or whether the clock of the port runs. -/
theorem atDomain_atPort_hcp (s : State) (act : Host.Outcome State Fault Refusal) :
    atDomain s (atPort .hcp s act) = atPort .hcp s (atDomain s act) := by
  have hb : s.blk.build.shellBuilt .hcp = true := rfl
  cases hs : s.blk.stopped.contains .hcp with
  | true =>
    rw [atPort_stopped act hb hs, atPort_stopped _ hb hs]
    unfold atDomain
    split <;> rfl
  | false => rw [atPort_open act hb hs, atPort_open _ hb hs]

/-- Every command whose site is a port asks for its shell before anything else (R25, R26). -/
theorem exec_eq_atPort_of_siteOf {c : Instr} {sh : Shell} (s : State) (h : siteOf c = .port sh) :
    ∃ act, exec c s = atPort sh s act := by
  cases c <;> cases h
  case domainLoad => exact ⟨_, atDomain_atPort_hcp ..⟩
  case domainLeave => exact ⟨_, atDomain_atPort_hcp ..⟩
  all_goals exact ⟨_, rfl⟩

/-- A command at a port whose clock stands does not arrive. -/
theorem exec_stopped_port {c : Instr} {sh : Shell} {s : State} (h : siteOf c = .port sh)
    (hb : s.blk.build.shellBuilt sh = true) (hs : s.blk.stopped.contains sh = true) :
    exec c s = .next { s with blk := s.blk.begin } := by
  obtain ⟨act, hact⟩ := exec_eq_atPort_of_siteOf s h
  rw [hact, atPort_stopped act hb hs]

/-! ## Clocks that stop and return (R26) -/

/-- A clock that runs stops: the shell joins those that stand. -/
theorem exec_shellClockStop {s : State} {sh : Shell} (hb : s.blk.build.shellBuilt sh = true)
    (hs : s.blk.stopped.contains sh = false) :
    exec (.shellClockStop sh) s = .next { s with blk := { s.blk.begin with stopped := s.blk.stopped ++ [sh] } } := by
  change behindPort sh s _ = _
  rw [behindPort_open _ hb]
  simp only [onBlock, Block.begin_stopped, hs, Bool.false_eq_true, if_false]

/-- The block once a shell's clock runs again: the shell is no longer among those that stand, and what it held has crossed in
order. -/
def Block.shellReturned (b : Block) (sh : Shell) : Block :=
  { b with stopped := b.stopped.filter fun x => x ≠ sh, held := b.held.filter fun c => c.shell ≠ sh
           out := b.out ++ b.held.filter fun c => c.shell = sh }

/-- A clock that stands returns. -/
theorem exec_shellClockReturn {s : State} {sh : Shell} (hb : s.blk.build.shellBuilt sh = true)
    (hs : s.blk.stopped.contains sh = true) :
    exec (.shellClockReturn sh) s = .next { s with blk := s.blk.begin.shellReturned sh } := by
  change behindPort sh s _ = _
  rw [behindPort_open _ hb]
  simp only [onBlock, Block.begin_stopped, hs, if_true]
  rfl

@[simp] theorem Block.shellReturned_stopped_same (b : Block) (sh : Shell) :
    (b.shellReturned sh).stopped.contains sh = false := by
  simp [Block.shellReturned]

theorem Block.shellReturned_stopped_other (b : Block) {sh x : Shell} (h : x ≠ sh) :
    (b.shellReturned sh).stopped.contains x = b.stopped.contains x := by
  simp [Block.shellReturned, h]

/-- Of what was held, the crossings of the shell go out in order, behind what has crossed already. -/
@[simp] theorem Block.shellReturned_out (b : Block) (sh : Shell) :
    (b.shellReturned sh).out = b.out ++ b.held.filter fun c => c.shell = sh := rfl

/-- What was held has crossed or is still held. -/
theorem Block.shellReturned_keeps_held {b : Block} {c : Cross} (sh : Shell) (h : c ∈ b.held) :
    c ∈ (b.shellReturned sh).out ∨ c ∈ (b.shellReturned sh).held := by
  by_cases hc : c.shell = sh
  · exact .inl (List.mem_append_right _ (List.mem_filter.mpr ⟨h, by simpa using hc⟩))
  · exact .inr (List.mem_filter.mpr ⟨h, by simpa using hc⟩)

/-! ## The test port (R70, R71) -/

/-- IDCODE as a number: its fields lie side by side in 32 bits. -/
theorem Block.idcode_toNat (b : Block) :
    b.idcode.toNat = 1 + 2 * b.build.tapMfr.toNat + 0xC7C4 * 2 ^ 12 + 2 * 2 ^ 28 := by
  have hm := b.build.tapMfr.isLt
  rw [Block.idcode, BitVec.toNat_ofNat, Nat.mod_eq_of_lt (by omega)]

/-- The instruction that the test port selects when one is asked for (R70; BYPASS where it is not offered, log 105). -/
def Block.tapSelects (b : Block) (i : TapInstr) : TapInstr := if b.tapOffers i then i else .bypass

/-- IDCODE needs no right, so it is never turned away (R70). -/
@[simp] theorem Block.tapSelects_idcode (b : Block) : b.tapSelects .idcode = .idcode := rfl

theorem Block.tapSelects_of_not_offered {b : Block} {i : TapInstr} (h : b.tapOffers i = false) :
    b.tapSelects i = .bypass := if_neg (by simp [h])

/-- What the data register of a selected instruction captures (R71; the spec leaves the debug instructions' data open, log 4). -/
def Block.tapData (b : Block) : TapInstr → BitVec 32
  | .bypass => 0
  | .idcode => b.idcode
  | _ => (Config.open64 16 b.fresh).truncate 32

/-- The block once the test port has selected an instruction: the port's history has it, and its data crosses. -/
def Block.tapped (b : Block) (u : TapInstr) : Block :=
  (({ b with boot := { b.boot with tap := u :: b.boot.tap } } : Block).emit (.tap u (b.tapData u))).freshen

/-- The test port selects an instruction and shows its data. -/
theorem exec_tapInstruction {s : State} (i : TapInstr) (h : PortOpen .tap s) :
    exec (.tapInstruction i) s = .next { s with blk := s.blk.begin.tapped (s.blk.tapSelects i) } := by
  obtain ⟨hb, hs⟩ := h
  change atPort .tap s _ = _
  rw [atPort_open _ hb hs]
  rfl

@[simp] theorem Block.tapped_boot (b : Block) (u : TapInstr) :
    (b.tapped u).boot = { b.boot with tap := u :: b.boot.tap } := by
  simp [Block.tapped]

/-- While the clock of the test port runs, the data crosses at once. -/
theorem Block.tapped_out {b : Block} (u : TapInstr) (h : b.stopped.contains .tap = false) :
    (b.tapped u).out = b.out ++ [.tap u (b.tapData u)] := by
  rw [Block.tapped, Block.freshen_out, Block.emit_running _ _ h]

/-! ## The self-test (R349, R350) -/

/-- A self-test that finds nothing reports no failed test, raises no event, and succeeds. -/
theorem exec_selftest_passes {s : State} {id : Nat} {c : Cmd} (hc : CmdReady s id 0x0E02 c)
    (hlo : 0 < dfld c.desc 16 4) (hhi : dfld c.desc 16 4 < 16) :
    exec (.selftest id 0) s = .next { s with blk := s.blk.begin.succeed id 0 0 } := by
  have hr : s.blk.begin.runnable id 0x0E02 = some c := hc
  have hasked : ¬ (dfld c.desc 16 4 = 0 ∨ 16 ≤ dfld c.desc 16 4) := by omega
  change execSelftest id 0 s = _
  simp only [execSelftest, onCommand, onBlock, hr, if_neg hasked]
  simp [Block.testsFailed]

end Sys2Proof.Machine

namespace Sys2Proof.Proofs

open Sys2Proof Sys2Proof.Machine

/-- The first part of O46: a command at a port whose clock stands does not arrive (log 18). -/
theorem stoppedShellsTakeNothing : Parts.StoppedShellsTakeNothing :=
  fun _ _ _ h hb hs => exec_stopped_port h hb hs

/-- The second part of O46: clocks that stop and return. -/
theorem shellClocksLoseNothing : Parts.ShellClocksLoseNothing := by
  refine ⟨fun s sh hb hs => exec_shellClockStop hb hs, fun s sh hb hs => ?_, fun b c h => b.emit_held c h⟩
  refine ⟨_, exec_shellClockReturn hb hs, rfl, Block.shellReturned_stopped_same .., fun x hx => ?_, ?_, fun c hc => ?_, rfl⟩
  · exact s.blk.begin.shellReturned_stopped_other hx
  · exact s.blk.begin.shellReturned_out sh
  · exact Block.shellReturned_keeps_held sh hc

/-- Settles O46: every command at a port asks for its shell first, and a returning clock lets out what its shell held. -/
theorem stoppedShellsLoseNothing : Obligations.StoppedShellsLoseNothing :=
  ⟨stoppedShellsTakeNothing, shellClocksLoseNothing⟩

/-- Settles O19: the instruction that the test port selects and what crosses, the fields of IDCODE, and a self-test in which
nothing fails. -/
theorem testPortAndSelfTest : Obligations.TestPortAndSelfTest := by
  refine ⟨fun s i h => ?_, fun b => ?_, fun s id c hc hlo hhi => exec_selftest_passes hc hlo hhi⟩
  · have hout := Block.tapped_out (b := s.blk.begin) (s.blk.tapSelects i) h.2
    refine ⟨_, exec_tapInstruction i h, rfl, ?_, fun hi => ?_, fun hno => ?_⟩
    · rw [Block.tapped_boot]
      rfl
    · subst hi
      rw [Block.tapSelects_idcode] at hout ⊢
      exact hout
    · rw [Block.tapSelects_of_not_offered hno] at hout ⊢
      exact hout
  · have hm := b.build.tapMfr.isLt
    rw [b.idcode_toNat]
    omega

end Sys2Proof.Proofs
end

section
/-! The laws of the key commands that show a key: export, query and push, and the export table. -/

namespace Sys2Proof.Machine

open Sys2Proof Sys2Proof.Machine.Crypto

/-! ## A command that is ready, and its checks -/

/-- A ready command has its effect on the block with no crossings shown. -/
theorem onCommand_ready {s : State} {id op : Nat} {c : Cmd} (f : Cmd → Block → Block) (hc : CmdReady s id op c) :
    onCommand s id op f = .next (s.withBlock (f c s.blk.begin)) := by
  have hr : s.blk.begin.runnable id op = some c := hc
  rw [onCommand, onBlock_eq, hr]
  rfl

/-- A list of checks passes when each of them passes. -/
theorem firstBad_eq_ok_iff (l : List Status) : firstBad l = .ok ↔ ∀ x ∈ l, x = .ok := by
  induction l with
  | nil => simp [firstBad]
  | cons x r ih => cases x <;> simp [firstBad, ih]

theorem require_eq_ok_iff {p : Bool} {st : Status} (h : st ≠ .ok) : require p st = .ok ↔ p = true := by
  cases p <;> simp [require, h]

/-- A field of a descriptor fits its bytes. -/
theorem dfld_lt (d : Descriptor) (off n : Nat) : dfld d off n < 2 ^ (8 * n) := Nat.mod_lt _ (Nat.two_pow_pos _)

/-- The ancestry of a slot is read from the key store alone. -/
theorem Block.chain_congr {a b : Block} (h : a.keys = b.keys) (n : Nat) : a.chain n = b.chain n := by
  have hslot : ∀ m, a.slot m = b.slot m := fun m => by rw [Block.slot, h, Block.slot]
  have hok : ∀ m, a.slotOk m = b.slotOk m := fun m => by rw [Block.slotOk, hslot, h, Block.slotOk]
  have hup : ∀ k m, a.chainUp k m = b.chainUp k m := by
    intro k
    induction k with
    | zero => exact fun _ => rfl
    | succ k ih => exact fun m => by rw [Block.chainUp, hslot, hslot, hslot, hok, ih, Block.chainUp]
  exact hup 8 n

@[simp] theorem Block.begin_chain (b : Block) (n : Nat) : b.begin.chain n = b.chain n := Block.chain_congr rfl n

/-- The checks on a key do not ask what has crossed. -/
theorem Block.begin_keySound (b : Block) (h fn ctx : Nat) : b.begin.keySound h fn ctx = b.keySound h fn ctx := by
  unfold Block.keySound Block.soundCheck
  rw [b.begin_chain]
  rfl

theorem Block.begin_exportCheck (b : Block) (c : Cmd) : b.begin.exportCheck c = b.exportCheck c := by
  simp only [Block.exportCheck, b.begin_keySound]
  rfl

theorem Block.begin_wrapCheck (b : Block) (c : Cmd) : b.begin.wrapCheck c = b.wrapCheck c := by
  simp only [Block.wrapCheck, b.begin_keySound]
  rfl

theorem Block.begin_pushCheck (b : Block) (c : Cmd) : b.begin.pushCheck c = b.pushCheck c := by
  simp only [Block.pushCheck, b.begin_keySound]
  rfl

/-- A push that passes its checks names one of the four destinations (R50). -/
theorem Block.dest_lt_of_pushCheck {b : Block} {c : Cmd} (h : b.pushCheck c = .ok) : dfld c.desc 18 1 < 4 := by
  have hd := (firstBad_eq_ok_iff _).mp h _ List.mem_cons_self
  simpa using (require_eq_ok_iff (by decide)).mp hd

/-! ## KEY_EXPORT and KEY_QUERY (R102, R331) -/

/-- An export whose checks pass writes the wrapped key to the host buffer. -/
theorem exec_keyExport {s : State} {id : Nat} {c : Cmd} (hc : CmdReady s id 0x0104 c)
    (he : s.blk.exportCheck c = .ok) (hw : s.blk.wrapCheck c = .ok) :
    Answers (.keyExport id) s
      (s.blk.begin.output id (dfld c.desc 24 8)
        (kwpWrap (le (s.blk.material (dfld c.desc 18 2))) (s.blk.material (dfld c.desc 16 2))) .ok
        (kwpWrap (le (s.blk.material (dfld c.desc 18 2))) (s.blk.material (dfld c.desc 16 2))).length 0) := by
  have he' : ¬ s.blk.begin.exportCheck c ≠ .ok := by simp [Block.begin_exportCheck, he]
  have hw' : ¬ s.blk.begin.wrapCheck c ≠ .ok := by simp [Block.begin_wrapCheck, hw]
  change execKeyExport id s = _
  rw [execKeyExport, onCommand_ready _ hc, if_neg he', if_neg hw']
  rfl

/-- A query of a slot that the issuer may name, and whose pointer is not in doubt, writes the slot's record to the host
buffer. -/
theorem exec_keyQuery {s : State} {id : Nat} {c : Cmd} (hc : CmdReady s id 0x0106 c) (hn : dfld c.desc 16 2 < 2 ^ 14)
    (hm : s.blk.mayName c (dfld c.desc 16 2) false = true)
    (hd : (s.blk.slot (dfld c.desc 16 2)).persistent = true →
      (s.blk.slot (dfld c.desc 16 2)).persistIdx.toNat ∉ s.blk.keys.dirDoubt) :
    Answers (.keyQuery id) s
      (s.blk.begin.output id (dfld c.desc 24 8) (s.blk.queryBytes (dfld c.desc 16 2)) .ok 0 0) := by
  have hn' : ¬ 2 ^ 14 ≤ dfld c.desc 16 2 := by omega
  have hm' : ¬ (!s.blk.begin.mayName c (dfld c.desc 16 2) false) = true := by
    change ¬ (!s.blk.mayName c (dfld c.desc 16 2) false) = true
    simp [hm]
  have hd' : ¬ ((s.blk.begin.slot (dfld c.desc 16 2)).persistent &&
      List.contains s.blk.begin.keys.dirDoubt (s.blk.begin.slot (dfld c.desc 16 2)).persistIdx.toNat) = true := by
    change ¬ ((s.blk.slot (dfld c.desc 16 2)).persistent &&
      List.contains s.blk.keys.dirDoubt (s.blk.slot (dfld c.desc 16 2)).persistIdx.toNat) = true
    simpa using hd
  change execKeyQuery id s = _
  rw [execKeyQuery, onCommand_ready _ hc]
  simp only [if_neg hn', if_neg hm', if_neg hd']
  rfl

/-! ## The key export port (R50, R104) -/

/-- An order joins the orders of `kxp_*` under the next number; of the key store nothing else changes. -/
theorem Block.kxpOrder_keys (b : Block) (o : KxpOrder) :
    (b.kxpOrder o).keys =
      { b.keys with kxp := b.keys.kxp ++ [{ o with id := b.keys.nextKxp }], nextKxp := b.keys.nextKxp + 1 } := by
  unfold Block.kxpOrder
  split
  · rfl
  · exact Block.emit_keys _ _

/-- The entry of the export table that a push of slot h leaves, with the licence record k of a content key (R104, R280). -/
def Block.pushEntry (b : Block) (h : Nat) (lease : Option Nat) : ExportEntry :=
  { chain := (b.chain h).getD [], lease := lease, loaded := b.tick
    leaseMs := (lease.map fun k => (b.meterRecord k).leaseMs.toNat).getD 0 }

/-- The load order of a push: its two shares together are the key, and the chain of what the destination slot held goes
with it (R50, R104). -/
def Block.pushOrder (b : Block) (id h dest dslot : Nat) : KxpOrder :=
  { id := b.keys.nextKxp, chain := ((b.keys.exports.get? (256 * dest + dslot)).map (·.chain)).getD []
    dest := dest, op := 0, slot := dslot, shareA := b.random 256
    shareB := BitVec.ofNat 256 (le (b.material h)) ^^^ b.random 256, cmd := some id }

theorem Block.pushOrder_shares (b : Block) (id h dest dslot : Nat) :
    (b.pushOrder id h dest dslot).shareA ^^^ (b.pushOrder id h dest dslot).shareB =
      BitVec.ofNat 256 (le (b.material h)) := by
  change b.random 256 ^^^ (BitVec.ofNat 256 (le (b.material h)) ^^^ b.random 256) = _
  rw [BitVec.xor_comm, BitVec.xor_assoc, BitVec.xor_self, BitVec.xor_zero]

/-- All that a push changes of the key store: its entry of the export table, and the order at `kxp_*`. -/
theorem Block.pushKey_keys (b : Block) (id h dest dslot : Nat) (lease : Option Nat) :
    (b.pushKey id h dest dslot lease).keys =
      { b.keys with
        exports := b.keys.exports.put (256 * dest + dslot) (b.pushEntry h lease)
        kxp := b.keys.kxp ++ [b.pushOrder id h dest dslot], nextKxp := b.keys.nextKxp + 1 } := by
  unfold Block.pushKey Block.kxpLoad
  rw [Block.kxpOrder_keys]
  rfl

section Pushed

variable (b : Block) (id h dest dslot : Nat) (lease : Option Nat)

@[simp] theorem Block.pushKey_slots : (b.pushKey id h dest dslot lease).keys.slots = b.keys.slots := by
  rw [Block.pushKey_keys]

@[simp] theorem Block.pushKey_kxp :
    (b.pushKey id h dest dslot lease).keys.kxp = b.keys.kxp ++ [b.pushOrder id h dest dslot] := by
  rw [Block.pushKey_keys]

@[simp] theorem Block.pushKey_exports_same :
    (b.pushKey id h dest dslot lease).keys.exports.get? (256 * dest + dslot) = some (b.pushEntry h lease) := by
  rw [Block.pushKey_keys]
  exact Tab.get?_put_same ..

theorem Block.pushKey_exports_other {m : Nat} (hm : m ≠ 256 * dest + dslot) :
    (b.pushKey id h dest dslot lease).keys.exports.get? m = b.keys.exports.get? m := by
  rw [Block.pushKey_keys]
  exact Tab.get?_put_other _ _ hm

end Pushed

/-! ## What consumption leaves (R284, R289) -/

@[simp] theorem Block.message_keys (b : Block) (op : BitVec 8) (l : List Bytes) : (b.message op l).keys = b.keys :=
  b.emit_keys _

@[simp] theorem Block.message_store (b : Block) (op : BitVec 8) (l : List Bytes) : (b.message op l).store = b.store :=
  b.emit_store _

@[simp] theorem Block.message_time (b : Block) (op : BitVec 8) (l : List Bytes) : (b.message op l).time = b.time :=
  b.emit_time _

/-- A relayed operation leaves the key store, the copy of the device's contents, and the clock: what it writes stands only
once the device has answered. -/
theorem Block.relay_leaves (b : Block) (w : RelayFor) :
    (b.relay w).keys = b.keys ∧ (b.relay w).store = b.store ∧ (b.relay w).time = b.time := by
  unfold Block.relay
  split <;> simp

/-- Consumption moves meters, and may send their record to the device; it leaves the same three. -/
theorem Block.consume_leaves (b : Block) (k : Nat) (d : Counts) :
    (b.consume k d).keys = b.keys ∧ (b.consume k d).store = b.store ∧ (b.consume k d).time = b.time := by
  unfold Block.consume Block.raiseMarks
  dsimp only
  split
  · exact Block.relay_leaves _ _
  · exact ⟨rfl, rfl, rfl⟩

/-! ## KEY_PUSH (R104, R280) -/

/-- The entry that a push records is read from the key store, the device's contents and the clock. -/
theorem Block.pushEntry_congr {a b : Block} (hk : a.keys = b.keys) (hs : a.store = b.store) (ht : a.time = b.time)
    (h : Nat) (lease : Option Nat) : a.pushEntry h lease = b.pushEntry h lease := by
  simp only [Block.pushEntry, Block.chain_congr hk, Block.tick, Block.meterRecord, hs, ht]

/-- A push of a key that is no content key. -/
theorem exec_keyPush_unmetered {s : State} {id : Nat} {c : Cmd} (hc : CmdReady s id 0x0107 c)
    (hp : s.blk.pushCheck c = .ok) (hi : s.blk.installOf (dfld c.desc 16 2) = none) :
    Answers (.keyPush id) s
      (s.blk.begin.pushKey id (dfld c.desc 16 2) (dfld c.desc 18 1) (dfld c.desc 19 1) none) := by
  have hi' : s.blk.begin.installOf (dfld c.desc 16 2) = none := hi
  change execKeyPush id s = _
  rw [execKeyPush, onCommand_ready _ hc]
  simp only [Block.begin_pushCheck, hp, hi']

/-- A push of a content key whose licence has pushes left and whose counts stay within their marks is counted, and then
made under the licence's record. -/
theorem exec_keyPush_metered {s : State} {id k : Nat} {c : Cmd} {i : Install} (hc : CmdReady s id 0x0107 c)
    (hp : s.blk.pushCheck c = .ok) (hi : s.blk.installOf (dfld c.desc 16 2) = some (k, i))
    (hl : (s.blk.meters.getD k {}).life.pushes < i.allowPushes) (hm : s.blk.canConsume k { pushes := 1 } = true) :
    Answers (.keyPush id) s
      ((s.blk.begin.consume k { pushes := 1 }).pushKey id (dfld c.desc 16 2) (dfld c.desc 18 1) (dfld c.desc 19 1)
        (some k)) := by
  have hi' : s.blk.begin.installOf (dfld c.desc 16 2) = some (k, i) := hi
  have hl' : ¬ i.allowPushes ≤ (s.blk.begin.meters.getD k {}).life.pushes := Nat.not_le.mpr hl
  have hm' : ¬ (!s.blk.begin.canConsume k { pushes := 1 }) = true := by
    change ¬ (!s.blk.canConsume k { pushes := 1 }) = true
    simp [hm]
  change execKeyPush id s = _
  rw [execKeyPush, onCommand_ready _ hc]
  simp only [Block.begin_pushCheck, hp, hi', if_neg hl', if_neg hm']

end Sys2Proof.Machine

namespace Sys2Proof.Proofs

open Sys2Proof Sys2Proof.Machine

/-- Settles O26: the bytes of an export and of a query, and what a push leaves in the key store, with a licence and
without one. -/
theorem keysAreShown : Obligations.KeysAreShown := by
  refine fun s id c => ⟨exec_keyExport, exec_keyQuery, fun hc hp hi => ?_, fun k i hc hp hi hl hm => ?_⟩
  · refine ⟨_, exec_keyPush_unmetered hc hp hi, rfl, Block.pushKey_slots .., ?_,
      ⟨_, Block.pushKey_kxp .., rfl, rfl, rfl, rfl, Block.pushOrder_shares ..⟩,
      Block.dest_lt_of_pushCheck hp, dfld_lt c.desc 19 1, fun _ hm => Block.pushKey_exports_other _ _ _ _ _ _ hm⟩
    exact (Block.pushKey_exports_same ..).trans (congrArg some (Block.pushEntry_congr rfl rfl rfl _ _))
  · obtain ⟨hk, hs, ht⟩ := s.blk.begin.consume_leaves k { pushes := 1 }
    refine ⟨_, exec_keyPush_metered hc hp hi hl hm, rfl, ?_, ?_, fun m hmk => ?_⟩
    · exact (Block.pushKey_slots ..).trans (congrArg KeyStore.slots hk)
    · exact (Block.pushKey_exports_same ..).trans
        (congrArg some (Block.pushEntry_congr (b := s.blk) hk hs ht _ (some k)))
    · exact (Block.pushKey_exports_other _ _ _ _ _ _ hmk).trans
        (congrArg (fun x : KeyStore => x.exports.get? m) hk)

end Sys2Proof.Proofs
end

section
/-! The laws of bit fields and of counter nodes: the fields of a number made of parts, one added to a field, the rise of a
count, and the 64 bytes of a stored node. -/

namespace Sys2Proof.Machine

open Sys2Proof Sys2Proof.Machine.Crypto

/-! ## Fields of numbers (R2) -/

theorem fld_eq_div_mod (x lo w : Nat) : fld x lo w = x / 2 ^ lo % 2 ^ w := by rw [fld, Nat.shiftRight_eq_div_pow]

theorem fld_lt (x lo w : Nat) : fld x lo w < 2 ^ w := Nat.mod_lt _ (Nat.two_pow_pos w)

@[simp] theorem fld_zero (lo w : Nat) : fld 0 lo w = 0 := by rw [fld, Nat.zero_shiftRight, Nat.zero_mod]

/-- A number that fits a field from bit 0 is that field. -/
theorem fld_zero_of_lt {x w : Nat} (h : x < 2 ^ w) : fld x 0 w = x := Nat.mod_eq_of_lt h

/-- Above a number there are zeros. -/
theorem fld_of_lt {x lo : Nat} (w : Nat) (h : x < 2 ^ lo) : fld x lo w = 0 := by
  rw [fld_eq_div_mod, Nat.div_eq_of_lt h, Nat.zero_mod]

/-- A field that ends below bit k does not see what stands from bit k up. -/
theorem fld_add_mul_low (x y : Nat) {lo w k : Nat} (h : lo + w ≤ k) : fld (x + 2 ^ k * y) lo w = fld x lo w := by
  obtain ⟨d, rfl⟩ := Nat.exists_eq_add_of_le h
  have e : x + 2 ^ (lo + w + d) * y = x + 2 ^ lo * (2 ^ w * (2 ^ d * y)) := by simp only [Nat.pow_add, Nat.mul_assoc]
  rw [fld_eq_div_mod, e, Nat.add_mul_div_left _ _ (Nat.two_pow_pos lo), Nat.add_mul_mod_self_left, ← fld_eq_div_mod]

/-- A field from bit k up does not see what stands below. -/
theorem fld_add_mul_high {x k : Nat} (y lo w : Nat) (h : x < 2 ^ k) : fld (x + 2 ^ k * y) (k + lo) w = fld y lo w := by
  rw [fld_eq_div_mod, Nat.pow_add, ← Nat.div_div_eq_div_mul, Nat.add_mul_div_left _ _ (Nat.two_pow_pos k),
    Nat.div_eq_of_lt h, Nat.zero_add, ← fld_eq_div_mod]

/-- A field that ends below bit k is a field of the k low bits. -/
theorem fld_mod_two_pow (x : Nat) {lo w k : Nat} (h : lo + w ≤ k) : fld (x % 2 ^ k) lo w = fld x lo w := by
  conv_rhs => rw [← Nat.mod_add_div x (2 ^ k)]
  rw [fld_add_mul_low _ _ h]

/-- A field of a sum of bit vectors that ends within their width is the field of the sum of numbers. -/
theorem fld_toNat_add_ofNat {k lo w : Nat} (x : BitVec k) (y : Nat) (h : lo + w ≤ k) :
    fld (x + BitVec.ofNat k y).toNat lo w = fld (x.toNat + y) lo w := by
  rw [BitVec.toNat_add, BitVec.toNat_ofNat, Nat.add_mod_mod, fld_mod_two_pow _ h]

/-! ## One added to a field -/

/-- One added to a field that is not full raises that field by one. -/
theorem fld_add_two_pow_same {x lo w : Nat} (h : fld x lo w + 1 < 2 ^ w) : fld (x + 2 ^ lo) lo w = fld x lo w + 1 := by
  simp only [fld_eq_div_mod] at h ⊢
  rw [Nat.add_div_right _ (Nat.two_pow_pos lo), ← Nat.mod_add_mod, Nat.mod_eq_of_lt h]

/-- One added to a field leaves the fields below it. -/
theorem fld_add_two_pow_below (x : Nat) {lo lo' w' : Nat} (h : lo' + w' ≤ lo) : fld (x + 2 ^ lo) lo' w' = fld x lo' w' := by
  simpa only [Nat.mul_one] using fld_add_mul_low x 1 h

/-- One added to a field that is not full leaves the fields above it: there is no carry. -/
theorem fld_add_two_pow_above {x lo w lo' : Nat} (w' : Nat) (hx : fld x lo w + 1 < 2 ^ w) (h : lo + w ≤ lo') :
    fld (x + 2 ^ lo) lo' w' = fld x lo' w' := by
  obtain ⟨d, rfl⟩ := Nat.exists_eq_add_of_le h
  have hlow : x % 2 ^ (lo + w) = x % 2 ^ lo + 2 ^ lo * fld x lo w := by rw [Nat.pow_add, Nat.mod_mul, fld_eq_div_mod]
  have hcarry : x % 2 ^ (lo + w) + 2 ^ lo < 2 ^ (lo + w) := by
    calc x % 2 ^ (lo + w) + 2 ^ lo
        < 2 ^ lo + 2 ^ lo * fld x lo w + 2 ^ lo := by
          have := Nat.mod_lt x (Nat.two_pow_pos lo)
          omega
      _ = 2 ^ lo * (fld x lo w + 1 + 1) := by ring
      _ ≤ 2 ^ lo * 2 ^ w := Nat.mul_le_mul_left _ hx
      _ = 2 ^ (lo + w) := (Nat.pow_add ..).symm
  have hsplit : x + 2 ^ lo = x % 2 ^ (lo + w) + 2 ^ lo + 2 ^ (lo + w) * (x / 2 ^ (lo + w)) := by
    have := Nat.mod_add_div x (2 ^ (lo + w))
    omega
  calc fld (x + 2 ^ lo) (lo + w + d) w'
      = fld (x / 2 ^ (lo + w)) d w' := by rw [hsplit, fld_add_mul_high _ _ _ hcarry]
    _ = fld (x % 2 ^ (lo + w) + 2 ^ (lo + w) * (x / 2 ^ (lo + w))) (lo + w + d) w' :=
        (fld_add_mul_high _ _ _ (Nat.mod_lt _ (Nat.two_pow_pos _))).symm
    _ = fld x (lo + w + d) w' := by rw [Nat.mod_add_div]

/-! ## Numbers of joined bytes -/

theorem le_cons (x : Byte) (b : Bytes) : le (x :: b) = x.toNat + 2 ^ 8 * le b := rfl

theorem le_append (a b : Bytes) : le (a ++ b) = le a + 2 ^ (8 * a.length) * le b := by
  induction a with
  | nil => simp [le]
  | cons x a ih =>
    rw [List.cons_append, le_cons, le_cons, ih, List.length_cons, Nat.mul_succ, Nat.pow_add]
    ring

theorem le_lt_two_pow (b : Bytes) : le b < 2 ^ (8 * b.length) := (le_lt b).trans_eq (Nat.pow_mul 2 8 _).symm

theorem le_toLe (n x : Nat) : le (toLe n x) = x % 2 ^ (8 * n) := by
  induction n generalizing x with
  | zero => exact (Nat.mod_one x).symm
  | succ n ih =>
    rw [toLe, le_cons, ih, BitVec.toNat_ofNat, Nat.mul_succ, Nat.add_comm (8 * n), Nat.pow_add, Nat.mod_mul]

/-- A bit vector through bytes that have room for it. -/
theorem le_toLe_toNat {n w : Nat} (x : BitVec w) (h : w ≤ 8 * n) : le (toLe n x.toNat) = x.toNat := by
  rw [le_toLe, Nat.mod_eq_of_lt (x.isLt.trans_le (Nat.pow_le_pow_right Nat.two_pos h))]

/-! ## The rise of a count (R141, R146, R147) -/

theorem Node.minor_lt (n : Node) (i : Nat) : n.minor i < 64 := fld_lt _ _ 6

/-- The node once MAJOR has risen and its minors have started over (R146). -/
def Node.turned (n : Node) : Node := { major := n.major + 1, minors := 0 }

/-- The node once minor i has risen within MAJOR. -/
def Node.bumped (n : Node) (i : Nat) : Node := { n with minors := n.minors + BitVec.ofNat 384 (2 ^ (6 * i)) }

/-- A count cannot rise where its minor is full and MAJOR is the last one below 2^49 (R147). -/
theorem Node.lift_eq_none_iff (n : Node) (i : Nat) :
    n.lift i = none ↔ n.minor i = 63 ∧ n.major.toNat + 1 = 2 ^ 49 := by
  rw [Node.lift]
  split_ifs with hfull hlast
  · exact ⟨fun _ => ⟨hfull, hlast⟩, fun _ => rfl⟩
  · exact ⟨nofun, fun h => absurd h.2 hlast⟩
  · exact ⟨nofun, fun h => absurd h.1 hfull⟩

/-- A count that rises turns its node where the minor is full and MAJOR has room, and bumps its minor otherwise. -/
theorem Node.lift_cases {n n' : Node} {i : Nat} {again : Bool} (h : n.lift i = some (n', again)) :
    (n.major.toNat + 1 < 2 ^ 49 ∧ n' = n.turned ∧ again = true) ∨
    (n.minor i < 63 ∧ n' = n.bumped i ∧ again = false) := by
  unfold Node.lift at h
  split at h
  · split at h
    · cases h
    · cases h
      have := n.major.isLt
      exact .inl ⟨by omega, rfl, rfl⟩
  · cases h
    have := n.minor_lt i
    exact .inr ⟨by omega, rfl, rfl⟩

@[simp] theorem Node.turned_minor (n : Node) (j : Nat) : n.turned.minor j = 0 := by simp [Node.minor, Node.turned]

/-- Counters of a turned node: every minor is 0 under a MAJOR that has risen by one. -/
theorem Node.turned_counter {n : Node} (h : n.major.toNat + 1 < 2 ^ 49) (j : Nat) :
    n.turned.counter j = (n.major.toNat + 1) * 64 := by
  have hmajor : (n.major + 1).toNat = n.major.toNat + 1 := by
    rw [BitVec.toNat_add]
    exact Nat.mod_eq_of_lt h
  rw [Node.counter, Node.turned_minor, Nat.add_zero]
  exact congrArg (· * 64) hmajor

/-- Every count of a turned node is above all that the node has counted. -/
theorem Node.counter_lt_turned {n : Node} (h : n.major.toNat + 1 < 2 ^ 49) (j : Nat) :
    n.counter j < n.turned.counter j := by
  have := n.minor_lt j
  rw [n.turned_counter h, Node.counter]
  omega

/-- The minors of a bumped node, read as fields: what leaves the 384 bits would be above all 64 of them. -/
theorem Node.bumped_minor (n : Node) (i : Nat) {j : Nat} (hj : j < 64) :
    (n.bumped i).minor j = fld (n.minors.toNat + 2 ^ (6 * i)) (6 * j) 6 :=
  fld_toNat_add_ofNat _ _ (by omega)

theorem Node.bumped_minor_same {n : Node} {i : Nat} (hi : i < 64) (h : n.minor i < 63) :
    (n.bumped i).minor i = n.minor i + 1 := by
  rw [n.bumped_minor i hi]
  exact fld_add_two_pow_same (Nat.succ_lt_succ h)

theorem Node.bumped_minor_other {n : Node} {i j : Nat} (hj : j < 64) (h : n.minor i < 63) (hji : j ≠ i) :
    (n.bumped i).minor j = n.minor j := by
  rw [n.bumped_minor i hj]
  obtain hlt | hgt := Nat.lt_or_gt_of_ne hji
  · exact fld_add_two_pow_below _ (by omega)
  · exact fld_add_two_pow_above (w := 6) 6 (Nat.succ_lt_succ h) (by omega)

theorem Node.bumped_counter_same {n : Node} {i : Nat} (hi : i < 64) (h : n.minor i < 63) :
    (n.bumped i).counter i = n.counter i + 1 :=
  congrArg (n.major.toNat * 64 + ·) (n.bumped_minor_same hi h)

theorem Node.bumped_counter_other {n : Node} {i j : Nat} (hj : j < 64) (h : n.minor i < 63) (hji : j ≠ i) :
    (n.bumped i).counter j = n.counter j :=
  congrArg (n.major.toNat * 64 + ·) (n.bumped_minor_other hj h hji)

/-! ## The stored bytes of a node (R140) -/

@[simp] theorem Node.body_length (n : Node) : n.body.length = 56 := by
  rw [Node.body, List.length_append, toLe_length, toLe_length]

/-- A node as stored is three numbers side by side: MAJOR in 64 bits, the minors in 384, and the MAC. -/
theorem Node.stored_toNat (n : Node) {mac : Bytes} (h : mac.length = 8) :
    (n.stored mac).toNat = n.major.toNat + 2 ^ 64 * (n.minors.toNat + 2 ^ 384 * le mac) := by
  have hbits := le_lt_two_pow (n.body ++ mac)
  rw [List.length_append, n.body_length, h] at hbits
  rw [Node.stored, BitVec.toNat_ofNat, Nat.mod_eq_of_lt hbits, Node.body, List.append_assoc, le_append, le_append,
    toLe_length, toLe_length, le_toLe_toNat _ (by decide), le_toLe_toNat _ (by decide)]

section Stored

variable (n : Node) {mac : Bytes} (h : mac.length = 8)
include h

theorem Node.stored_major : fld (n.stored mac).toNat 0 49 = n.major.toNat := by
  rw [n.stored_toNat h, fld_add_mul_low _ _ (by omega), fld_zero_of_lt n.major.isLt]

theorem Node.stored_zeros : fld (n.stored mac).toNat 49 15 = 0 := by
  rw [n.stored_toNat h, fld_add_mul_low _ _ (by omega), fld_of_lt _ n.major.isLt]

/-- What stands behind the first eight bytes is the minors and the MAC. -/
theorem Node.stored_above (lo w : Nat) :
    fld (n.stored mac).toNat (64 + lo) w = fld (n.minors.toNat + 2 ^ 384 * le mac) lo w := by
  rw [n.stored_toNat h, fld_add_mul_high _ _ _ (n.major.isLt.trans (by decide))]

/-- The fields of the 48 bytes behind MAJOR are the fields of the minors. -/
theorem Node.stored_minors_fld {lo w : Nat} (hf : lo + w ≤ 384) :
    fld (n.stored mac).toNat (64 + lo) w = fld n.minors.toNat lo w :=
  (n.stored_above h lo w).trans (fld_add_mul_low _ _ hf)

theorem Node.stored_minors : fld (n.stored mac).toNat 64 384 = n.minors.toNat :=
  (n.stored_minors_fld h (lo := 0) (Nat.le_refl _)).trans (fld_zero_of_lt n.minors.isLt)

theorem Node.stored_minor {i : Nat} (hi : i < 64) : fld (n.stored mac).toNat (64 + 6 * i) 6 = n.minor i :=
  n.stored_minors_fld h (by omega)

theorem Node.stored_mac : toLe 8 (fld (n.stored mac).toNat 448 64) = mac := by
  have hmac : le mac < 2 ^ 64 := by
    have := le_lt_two_pow mac
    rwa [h] at this
  have hfld : fld (n.stored mac).toNat (64 + (384 + 0)) 64 = le mac :=
    ((n.stored_above h _ _).trans (fld_add_mul_high _ _ _ n.minors.isLt)).trans (fld_zero_of_lt hmac)
  rw [hfld, ← h, toLe_le]

/-- A stored node reads back. -/
theorem Node.ofStored_stored : Node.ofStored (n.stored mac) = n := by
  rw [Node.ofStored, n.stored_major h, n.stored_minors h, BitVec.ofNat_toNat, BitVec.ofNat_toNat, BitVec.setWidth_eq,
    BitVec.setWidth_eq]

end Stored

end Sys2Proof.Machine

namespace Sys2Proof.Proofs

open Sys2Proof Sys2Proof.Machine

/-- Settles O35: where a count cannot rise, what a rise does to every count of its node, by whether the minors start over, and
the fields of the stored bytes. -/
theorem countersOnlyRise : Obligations.CountersOnlyRise := by
  refine fun n i hi => ⟨n.lift_eq_none_iff i, fun n' again h => ?_, fun mac hm =>
    ⟨n.ofStored_stored hm, n.stored_major hm, n.stored_zeros hm, n.stored_minor hm hi, n.stored_mac hm⟩⟩
  obtain ⟨hroom, rfl, rfl⟩ | ⟨hroom, rfl, rfl⟩ := Node.lift_cases h
  · exact ⟨n.counter_lt_turned hroom i, fun j _ => (n.counter_lt_turned hroom j).le, nofun, fun _ => ⟨rfl, rfl⟩⟩
  · have hsame := n.bumped_counter_same hi hroom
    have hother := fun j (hj : j < 64) (hji : j ≠ i) => n.bumped_counter_other hj hroom hji
    refine ⟨by omega, fun j hj => ?_, fun _ => ⟨hsame, hother⟩, nofun⟩
    by_cases hji : j = i
    · subst hji
      omega
    · exact (hother j hj hji).ge

end Sys2Proof.Proofs
end

section
/-! The laws of a replay window: what it refuses, the highest number and the map after an acceptance, and that a number it
refuses stays refused. -/

namespace Sys2Proof.Machine

namespace Window1

/-! ## Replay windows (R182) -/

variable {w : Window1} {x y : Nat}

theorem admits_iff :
    w.admits x = true ↔ x ≠ 0 ∧ (w.h < x ∨ (w.h - x < 4096 ∧ w.map.testBit (w.h - x) = false)) := by
  simp only [admits, Bool.and_eq_true, Bool.or_eq_true, decide_eq_true_eq, Bool.not_eq_true']

/-- A window refuses 0, what lies below its map, and what its map records. -/
theorem admits_eq_false_iff :
    w.admits x = false ↔ x = 0 ∨ (x ≤ w.h ∧ (4096 ≤ w.h - x ∨ w.map.testBit (w.h - x) = true)) := by
  rw [← Bool.not_eq_true, admits_iff]
  simp only [not_and_or, not_or, not_not, not_lt, Bool.not_eq_false, ne_eq]

/-- A number above the highest becomes the highest. -/
theorem accept_of_lt (hx : w.h < x) :
    w.accept x = { h := x, map := (if x - w.h < 4096 then (w.map <<< (x - w.h)) % 2 ^ 4096 else 0) ||| 2 ^ 0 } := by
  rw [accept, if_pos hx, Nat.sub_self]

/-- A number up to the highest sets its bit alone. -/
theorem accept_of_le (hx : x ≤ w.h) : w.accept x = { w with map := w.map ||| 2 ^ (w.h - x) } := by
  rw [accept, if_neg hx.not_gt]

@[simp] theorem accept_h : (w.accept x).h = max w.h x := by
  obtain hx | hx := Nat.lt_or_ge w.h x
  · rw [accept_of_lt hx, max_eq_right hx.le]
  · rw [accept_of_le hx, max_eq_left hx]

/-- The map after an acceptance: the number's own bit, and the old bits moved up by what the highest rose. -/
theorem accept_map_testBit {i : Nat} (hi : i < 4096) :
    (w.accept x).map.testBit i =
      (decide (i = max w.h x - x) || (decide (max w.h x - w.h ≤ i) && w.map.testBit (i - (max w.h x - w.h)))) := by
  obtain hx | hx := Nat.lt_or_ge w.h x
  · rw [accept_of_lt hx, max_eq_right hx.le, Nat.testBit_or, Nat.testBit_two_pow, Nat.sub_self, Bool.or_comm]
    simp only [eq_comm (a := 0)]
    split
    · rw [Nat.testBit_mod_two_pow, Nat.testBit_shiftLeft, decide_eq_true hi, Bool.true_and]
    · have hout : ¬ x - w.h ≤ i := by omega
      rw [Nat.zero_testBit, decide_eq_false hout, Bool.false_and]
  · rw [accept_of_le hx, max_eq_left hx, Nat.testBit_or, Nat.testBit_two_pow, Bool.or_comm, Nat.sub_self,
      decide_eq_true (Nat.zero_le i), Bool.true_and, Nat.sub_zero]
    simp only [eq_comm (a := i)]

/-- The map keeps to its 4,096 bits. -/
theorem accept_map_lt (hmap : w.map < 2 ^ 4096) (hx : w.admits x = true) : (w.accept x).map < 2 ^ 4096 := by
  have hbit {i : Nat} (hi : i < 4096) : 2 ^ i < 2 ^ 4096 := (Nat.pow_lt_pow_iff_right Nat.one_lt_two).mpr hi
  obtain hlt | hle := Nat.lt_or_ge w.h x
  · rw [accept_of_lt hlt]
    refine Nat.or_lt_two_pow ?_ (hbit (by decide))
    split
    · exact Nat.mod_lt _ (Nat.two_pow_pos _)
    · exact Nat.two_pow_pos _
  · obtain ⟨hnear, -⟩ := (admits_iff.mp hx).2.resolve_left hle.not_gt
    rw [accept_of_le hle]
    exact Nat.or_lt_two_pow hmap (hbit hnear)

/-- A number that was accepted is refused from then on. -/
theorem admits_accept_self : (w.accept x).admits x = false := by
  refine admits_eq_false_iff.mpr (.inr ?_)
  rw [accept_h]
  refine ⟨le_max_right _ _, (Nat.lt_or_ge (max w.h x - x) 4096).symm.imp_right fun hi => ?_⟩
  rw [accept_map_testBit hi, decide_eq_true rfl, Bool.true_or]

/-- What was refused is refused after any acceptance: a recorded number's bit moves up with the highest, or out of the map. -/
theorem admits_accept_of_refused (hy : w.admits y = false) : (w.accept x).admits y = false := by
  rw [admits_eq_false_iff] at hy ⊢
  obtain hzero | ⟨hle, hold⟩ := hy
  · exact .inl hzero
  rw [accept_h]
  refine .inr ⟨hle.trans (le_max_left _ _), (Nat.lt_or_ge (max w.h x - y) 4096).symm.imp_right fun hi => ?_⟩
  have hbit : w.map.testBit (w.h - y) = true := hold.resolve_left (by omega)
  have hmoved : max w.h x - y - (max w.h x - w.h) = w.h - y := by omega
  have hrise : max w.h x - w.h ≤ max w.h x - y := Nat.sub_le_sub_left hle _
  rw [accept_map_testBit hi, hmoved, hbit, decide_eq_true hrise, Bool.and_true, Bool.or_true]

end Window1

end Sys2Proof.Machine

namespace Sys2Proof.Proofs

open Sys2Proof Sys2Proof.Machine

/-- Settles O33: what a window admits and what lies below its map, the highest number and the map after an acceptance, and that
neither the accepted number nor one refused before is admitted again. -/
theorem replayWindowAdmitsOnce : Obligations.ReplayWindowAdmitsOnce := fun _ _ _ =>
  ⟨Window1.admits_iff, fun hle hfar => Window1.admits_eq_false_iff.mpr (.inr ⟨hle, .inl hfar⟩), fun hmap hx =>
    ⟨Window1.accept_h, Window1.accept_map_lt hmap hx, fun _ hi => Window1.accept_map_testBit hi, Window1.admits_accept_self,
      Window1.admits_accept_of_refused⟩⟩

end Sys2Proof.Proofs
end

section
/-! The laws of the register window for function pages: who reaches a page, what a write that is answered does, the mailboxes,
and CX_FN_ALLOC. -/

namespace Sys2Proof.Machine

open Sys2Proof

/-! ## Registers of a page (R46, R47, R292, R484) -/

/-- Where the registers of a page lie in the window, and that page and offset are read back. -/
theorem pageOff_bounds {f o : Nat} (hf : f < 256) (ho : o < 0x1000) :
    0x10_0000 ≤ pageOff f o ∧ pageOff f o < 0x20_0000 ∧ (pageOff f o - 0x10_0000) / 0x1000 = f ∧
      pageOff f o % 0x1000 = o ∧ pageOff f o % 8 = o % 8 := by
  unfold pageOff
  omega

section Page

variable (b : Block) {f o : Nat} (hf : f < 256) (ho : o < 0x1000)
include hf ho

/-- A page's registers are reached as the page's own rules say, in a block that answers at all. -/
theorem Block.reach_pageOff (fn : Nat) (write : Bool) :
    b.reach fn (pageOff f o) write =
      if b.pins.blockSafe || o % 8 ≠ 0 then false else if b.boot.failed then false else b.pageReach fn f o write := by
  obtain ⟨hlo, hhi, hpage, hoff, h8⟩ := pageOff_bounds hf ho
  have hwin : 0x02_0000 ≤ pageOff f o := by omega
  rw [Block.reach, if_neg (c := pageOff f o < 0x01_0000) (by omega), if_neg (c := pageOff f o < 0x02_0000) (by omega),
    if_neg (c := pageOff f o < 0x10_0000) (by omega), if_pos hhi, hpage, hoff, h8, decide_eq_true hwin, Bool.or_true,
    Bool.and_true]

theorem Block.regRead_pageOff : b.regRead (pageOff f o) = b.readPage f o := by
  obtain ⟨hlo, hhi, hpage, hoff, -⟩ := pageOff_bounds hf ho
  rw [Block.regRead, if_neg (by omega), if_neg (by omega), if_neg (by omega), if_pos hhi, hpage, hoff]

theorem Block.regWrite_pageOff (mem : List Host.Cell) (fn : Nat) (v : Reg) :
    b.regWrite mem fn (pageOff f o) v = b.writePage mem fn f o v := by
  obtain ⟨hlo, hhi, hpage, hoff, -⟩ := pageOff_bounds hf ho
  rw [Block.regWrite, if_neg (by omega), if_neg (by omega), if_neg (by omega), if_pos hhi, hpage, hoff]

/-- An access that its page refuses is refused, whatever else holds. -/
theorem Block.reach_pageOff_refused {fn : Nat} {write : Bool} (h : b.pageReach fn f o write = false) :
    b.reach fn (pageOff f o) write = false := by
  rw [b.reach_pageOff hf ho, h]
  split_ifs <;> rfl

/-- Of the registers of a page, those from 0xC08 to 0xC38 are the sequencer's to write (R19). -/
theorem sequencerReg_pageOff : sequencerReg (pageOff f o) = (decide (0xC08 ≤ o) && decide (o < 0xC40)) := by
  obtain ⟨hlo, hhi, -, hoff, -⟩ := pageOff_bounds hf ho
  unfold sequencerReg
  rw [hoff]
  grind

end Page

/-- An open window reaches an aligned register of a page that the page's rules let the function write. -/
theorem HcpOpen.reach_pageOff {s : State} (h : HcpOpen s) {f o fn : Nat} (hf : f < 256) (ho : o < 0x1000) (h8 : o % 8 = 0)
    (hr : s.blk.pageReach fn f o true = true) : s.blk.begin.reach fn (pageOff f o) true = true := by
  obtain ⟨-, hsafe, hboot⟩ := h
  have hr' : s.blk.begin.pageReach fn f o true = true := hr
  rw [Block.reach_pageOff _ hf ho, Block.begin_pins, Block.begin_boot, hsafe, hboot, h8, hr']
  rfl

/-- A register write that the window answers has its effect and is acknowledged. -/
theorem atRegister_reached {s : State} {fn off : Nat} (h : HcpOpen s) (hr : s.blk.begin.reach fn off true = true)
    (act : Block → Block) :
    atRegister s fn off act = .next (s.withBlock ((act s.blk.begin).emit (.hcpT 0 false))) := by
  rw [atRegister, atPort_open _ rfl h.1, onBlock_eq, Block.regAccess, if_pos hr]
  rfl

/-- So has one to a register whose writes the sequencer carries out, unless it is in reset (R19). -/
theorem atConfig_reached {s : State} {fn off : Nat} (val : Reg) (h : HcpOpen s)
    (hr : s.blk.begin.reach fn off true = true) (hq : (s.blk.boot.seqReset && sequencerReg off) = false)
    (act : Block → Block) :
    atConfig s fn off val act = .next (s.withBlock ((act s.blk.begin).emit (.hcpT 0 false))) := by
  have hq' : ¬ (s.blk.begin.boot.seqReset && sequencerReg off) = true := by simp [hq]
  rw [atConfig, atRegister_reached h hr, Block.bySequencer, if_neg hq']

@[simp] theorem State.withBlock_blk (s : State) (b : Block) : (s.withBlock b).blk = b := rfl

@[simp] theorem Block.begin_fn (b : Block) (f : Nat) : b.begin.fn f = b.fn f := rfl

@[simp] theorem Block.emit_fn (b : Block) (c : Cross) (f : Nat) : (b.emit c).fn f = b.fn f := by
  rw [Block.fn, Block.emit_fns, Block.fn]

/-! ## Mailboxes (R296) -/

/-- The page's own function and the PF write its CX_FN_MBOX. -/
theorem Block.pageReach_mbox (b : Block) {fn f : Nat} (h : fn = f ∨ fn = 0) : b.pageReach fn f 0xC40 true = true := by
  obtain rfl | rfl := h <;> simp [Block.pageReach, pageArea, pfWrites]

/-- A block after more has crossed. -/
def Block.crossed (b : Block) (l : List Cross) : Block := { b with out := b.out ++ l }

theorem Block.crossed_crossed (b : Block) (l m : List Cross) : (b.crossed l).crossed m = b.crossed (l ++ m) :=
  congrArg (fun o => { b with out := o }) (List.append_assoc b.out l m)

/-- An interrupt that is raised on a condition, while the clock of `hcp_*` runs. -/
theorem Block.irq_if_running (b : Block) (c : Prop) [Decidable c] (fn : Nat) (vec : BitVec 11)
    (hrun : b.stopped.contains .hcp = false) :
    (if c then b.irq fn vec else b) = b.crossed (if c then [.irq fn vec] else []) := by
  split
  · exact Block.emit_running b _ hrun
  · exact congrArg (fun o => { b with out := o }) (List.append_nil b.out).symm

/-- What crosses when a write to CX_FN_MBOX takes page f from p to q: the vector of each post that rises, and the
acknowledgement. -/
def mboxCrossings (f : Nat) (p q : FnPage) : List Cross :=
  (if q.upPost = true ∧ p.upPost = false then [.irq 0 q.upVec] else []) ++
    (if q.downPost = true ∧ p.downPost = false then [.irq f q.downVec] else []) ++ [.hcpT 0 false]

/-- A write to a VF page's CX_FN_MBOX changes the mailbox fields of the page, and is acknowledged. -/
theorem Block.setMbox_running {b : Block} {fn f : Nat} {v : MboxWrite} {p : FnPage} (hf : 0 < f)
    (hrun : b.stopped.contains .hcp = false) (hp : (b.fn f).mboxAfter fn f v = p) :
    (b.setMbox fn f v).emit (.hcpT 0 false) = (b.setFn f p).crossed (mboxCrossings f (b.fn f) p) := by
  have hrun' : ∀ l, ((b.setFn f p).crossed l).stopped.contains .hcp = false := fun _ => hrun
  rw [Block.setMbox, if_neg hf.ne']
  simp only [hp, Bool.and_eq_true, Bool.not_eq_true']
  rw [(b.setFn f p).irq_if_running _ _ _ hrun, Block.irq_if_running _ _ _ _ (hrun' _), Block.crossed_crossed,
    Block.emit_running _ _ (hrun' _)]
  exact Block.crossed_crossed _ _ _

/-- The block that a write to CX_FN_MBOX leaves which takes page f to p. -/
def Block.mboxWritten (b : Block) (f : Nat) (p : FnPage) : Block :=
  { b with out := mboxCrossings f (b.fn f) p, fns := b.fns.put f p }

/-- A command that writes mailbox bits of a VF page, as the page's function or as the PF. -/
theorem atRegister_setMbox {s : State} {fn f : Nat} {v : MboxWrite} {p : FnPage} (h : HcpOpen s) (h0 : 0 < f) (hf : f < 256)
    (hg : fn = f ∨ fn = 0) (hp : (s.blk.fn f).mboxAfter fn f v = p) :
    atRegister s fn (pageOff f 0xC40) (fun b => b.setMbox fn f v) =
      .next (s.withBlock (s.blk.mboxWritten f p)) := by
  have hr := h.reach_pageOff hf (by decide) (by decide) (s.blk.pageReach_mbox hg)
  rw [atRegister_reached h hr, Block.setMbox_running (b := s.blk.begin) h0 h.1 hp]
  rfl

/-- What a write of a whole register value asks for. -/
def mboxWrite (v : Reg) : MboxWrite :=
  { upSet := rbit v 2, upClr := rbit v 3, downSet := rbit v 4, downClr := rbit v 5
    upVec := some (BitVec.ofNat 11 (rfld v 16 11)), downVec := some (BitVec.ofNat 11 (rfld v 32 11)) }

/-- A whole-register write to CX_FN_MBOX. -/
theorem exec_registerWrite_mbox {s : State} {fn f : Nat} {p : FnPage} (v : Reg) (h : HcpOpen s) (h0 : 0 < f) (hf : f < 256)
    (hg : fn = f ∨ fn = 0) (hp : (s.blk.fn f).mboxAfter fn f (mboxWrite v) = p) :
    Answers (.registerWrite fn (pageOff f 0xC40) v) s (s.blk.mboxWritten f p) := by
  have hr := h.reach_pageOff hf (by decide) (by decide) (s.blk.pageReach_mbox hg)
  have hseq : (s.blk.boot.seqReset && sequencerReg (pageOff f 0xC40)) = false := by
    rw [sequencerReg_pageOff hf (by decide)]
    exact Bool.and_false _
  have hw : s.blk.begin.regWrite s.mem fn (pageOff f 0xC40) v = s.blk.begin.setMbox fn f (mboxWrite v) :=
    Block.regWrite_pageOff _ hf (by decide) _ _ _
  refine (atConfig_reached v h hr hseq _).trans ?_
  rw [hw, ← atRegister_reached h hr (fun b => b.setMbox fn f (mboxWrite v)), atRegister_setMbox h h0 hf hg hp]

theorem bit_lt_two (x : Bool) : bit x < 2 := by cases x <;> decide

theorem bit_eq_one_iff (x : Bool) : bit x = 1 ↔ x = true := by cases x <;> decide

/-- CX_FN_MBOX as a number: its four fields side by side. -/
theorem FnPage.mbox_toNat (p : FnPage) :
    p.mbox.toNat = bit p.upPost + 2 * bit p.downPost + 2 ^ 16 * p.upVec.toNat + 2 ^ 32 * p.downVec.toNat := by
  have hup := bit_lt_two p.upPost
  have hdown := bit_lt_two p.downPost
  have huv := p.upVec.isLt
  have hdv := p.downVec.isLt
  simp only [FnPage.mbox, pack, List.foldl, Nat.shiftLeft_eq, BitVec.toNat_ofNat]
  omega

/-- What a read of CX_FN_MBOX shows. -/
theorem FnPage.mbox_fields (p : FnPage) :
    rbit p.mbox 0 = p.upPost ∧ rbit p.mbox 1 = p.downPost ∧ rfld p.mbox 2 14 = 0 ∧
      rfld p.mbox 16 11 = p.upVec.toNat ∧ rfld p.mbox 27 5 = 0 ∧ rfld p.mbox 32 11 = p.downVec.toNat ∧
      rfld p.mbox 43 21 = 0 := by
  have hup := bit_lt_two p.upPost
  have hdown := bit_lt_two p.downPost
  have huv := p.upVec.isLt
  have hdv := p.downVec.isLt
  have hup1 := bit_eq_one_iff p.upPost
  have hdown1 := bit_eq_one_iff p.downPost
  simp only [rbit, rfld, fld_eq_div_mod, Nat.testBit_eq_decide_div_mod_eq, p.mbox_toNat]
  refine ⟨Bool.eq_iff_iff.mpr ?_, Bool.eq_iff_iff.mpr ?_, ?_⟩
  · rw [decide_eq_true_iff, ← hup1]
    omega
  · rw [decide_eq_true_iff, ← hdown1]
    omega
  · omega

theorem Block.readPage_mbox (b : Block) {f : Nat} (h : 0 < f) : b.readPage f 0xC40 = (b.fn f).mbox := if_neg h.ne'

/-- A posted mailbox refuses its poster's writes. -/
theorem Block.pageReach_up_posted {b : Block} {f o : Nat} (h0 : 0 < f) (ho : o < 0x400) (hp : (b.fn f).upPost = true) :
    b.pageReach f f o true = false := by
  have harea : pageArea o = .up := if_pos ho
  simp [Block.pageReach, harea, hp, h0.ne']

theorem Block.pageReach_down_posted {b : Block} {f o : Nat} (h0 : 0 < f) (hlo : 0x400 ≤ o) (ho : o < 0x800)
    (hp : (b.fn f).downPost = true) : b.pageReach 0 f o true = false := by
  have harea : pageArea o = .down := by rw [pageArea, if_neg hlo.not_gt, if_pos ho]
  simp [Block.pageReach, harea, hp, h0.ne]

/-- The mailboxes and CX_FN_MBOX of the PF page. -/
def pfMailbox (o : Nat) : Prop := o < 0x800 ∨ o = 0xC40

theorem pageArea_pfMailbox {o : Nat} (h : pfMailbox o) : pageArea o = .up ∨ pageArea o = .down ∨ o = 0xC40 := by
  unfold pageArea
  obtain h | h := h
  · by_cases h4 : o < 0x400
    · exact .inl (if_pos h4)
    · exact .inr (.inl (by rw [if_neg h4, if_pos h]))
  · exact .inr (.inr h)

/-- In the PF page they read zero, ignore writes, and refuse the PF nothing. -/
theorem Block.readPage_pfMailbox (b : Block) {o : Nat} (h : pfMailbox o) : b.readPage 0 o = 0 := by
  obtain h | h | rfl := pageArea_pfMailbox h
  · simp [Block.readPage, h]
  · simp [Block.readPage, h]
  · rfl

theorem Block.writePage_pfMailbox (b : Block) {o : Nat} (mem : List Host.Cell) (v : Reg) (h : pfMailbox o) :
    b.writePage mem 0 0 o v = b := by
  obtain h | h | rfl := pageArea_pfMailbox h
  · simp [Block.writePage, h]
  · simp [Block.writePage, h]
  · rfl

theorem Block.pageReach_pfMailbox (b : Block) {o : Nat} (h : pfMailbox o) : b.pageReach 0 0 o true = true := by
  obtain h | h | rfl := pageArea_pfMailbox h
  · simp [Block.pageReach, h]
  · simp [Block.pageReach, h]
  · exact b.pageReach_mbox (.inl rfl)

theorem exec_registerWrite_pfMailbox {s : State} {o : Nat} (v : Reg) (hs : HcpOpen s) (h8 : o % 8 = 0) (h : pfMailbox o) :
    Answers (.registerWrite 0 (pageOff 0 o) v) s (s.blk.begin.emit (.hcpT 0 false)) := by
  have ho : o < 0x1000 := by unfold pfMailbox at h; omega
  have hseq : (s.blk.boot.seqReset && sequencerReg (pageOff 0 o)) = false := by
    have hno : ¬ (0xC08 ≤ o ∧ o < 0xC40) := by unfold pfMailbox at h; omega
    rw [sequencerReg_pageOff (by decide) ho, ← Bool.decide_and, decide_eq_false hno, Bool.and_false]
  have hr := hs.reach_pageOff (by decide) ho h8 (s.blk.pageReach_pfMailbox h)
  refine (atConfig_reached v hs hr hseq _).trans ?_
  rw [Block.regWrite_pageOff _ (by decide) ho, Block.writePage_pfMailbox _ _ _ h]

/-! ## Writes that are ignored and counted (R487) -/

@[simp] theorem Block.stream_obs (b : Block) (f : Nat) (e : Event) : (b.stream f e).obs = b.obs := by
  unfold Block.stream
  split <;> rfl

@[simp] theorem Block.streams_obs (b : Block) (e : Event) : (b.streams e).obs = b.obs := by
  unfold Block.streams
  split <;> simp

/-- A record joins the ash stream of a page; nothing else of any page changes. -/
theorem Block.stream_fn (b : Block) (f : Nat) (e : Event) (g : Nat) :
    ∃ a, (b.stream f e).fn g = { b.fn g with ash := a } := by
  unfold Block.stream
  split
  · by_cases hg : g = f
    · subst hg
      exact ⟨_, Block.modFn_fn ..⟩
    · exact ⟨_, Block.modFn_fn_other _ _ hg⟩
  · exact ⟨_, rfl⟩

theorem Block.streams_fn (b : Block) (e : Event) (g : Nat) : ∃ a, (b.streams e).fn g = { b.fn g with ash := a } := by
  unfold Block.streams
  split
  · exact b.stream_fn 0 e g
  · obtain ⟨a, ha⟩ := b.stream_fn e.fn.toNat e g
    obtain ⟨a', ha'⟩ := (b.stream e.fn.toNat e).stream_fn 0 e.pfView g
    exact ⟨a', by rw [ha', ha]⟩

/-- A write that is ignored counts one REG_REFUSED. -/
theorem Block.regIgnored_events (b : Block) (fn off : Nat) :
    (b.regIgnored fn off).obs.events.getD 0x0A 0 = satAdd64 (b.obs.events.getD 0x0A 0) 1 := by
  have hobs : (b.regIgnored fn off).obs = b.obs.note (b.record { code := 0x0A, fn := fn, data := [(0, off)] } false) :=
    Block.streams_obs _ _
  rw [hobs]
  exact Tab.getD_put_same ..

/-- A write that is ignored changes nothing of any page but what its ash stream carries. -/
theorem Block.regIgnored_fn (b : Block) (fn off g : Nat) : ∃ a, (b.regIgnored fn off).fn g = { b.fn g with ash := a } :=
  Block.streams_fn _ _ g

/-- The same of the whole access, which is acknowledged. -/
theorem Block.ignoredWrite_leaves (b : Block) (fn off : Nat) :
    ((b.begin.regIgnored fn off).emit (.hcpT 0 false)).obs.events.getD 0x0A 0 =
      satAdd64 (b.obs.events.getD 0x0A 0) 1 ∧
    ∀ g, { ((b.begin.regIgnored fn off).emit (.hcpT 0 false)).fn g with ash := (b.fn g).ash } = b.fn g := by
  refine ⟨?_, fun g => ?_⟩
  · rw [Block.emit_obs, Block.regIgnored_events, Block.begin_obs]
  · obtain ⟨a, ha⟩ := b.begin.regIgnored_fn fn off g
    rw [Block.emit_fn, ha]
    rfl

/-! ## CX_FN_ALLOC (R293, R294) -/

theorem Block.liveCtx_eq_zero_iff (b : Block) (f : Nat) : b.liveCtx f = 0 ↔ ∀ e ∈ b.ctxs, e.2.fn ≠ f := by
  simp [Block.liveCtx, List.filter_eq_nil_iff]

theorem Block.ownsAnything_eq_false_iff (b : Block) (f : Nat) :
    b.ownsAnything f = false ↔
      (∀ e ∈ b.keys.slots, e.2.isEmpty = false → e.2.ownerFn.toNat ≠ f) ∧
      (∀ e ∈ b.regions.table, e.2.ownerFn.toNat ≠ f) ∧ (∀ e ∈ b.programs, e.2.fn ≠ f) ∧
      (∀ e ∈ b.jobs, e.2.fn = f → b.holdsJob e.1 e.2 = false) := by
  simp only [Block.ownsAnything, Bool.or_eq_false_iff, List.any_eq_false, Bool.and_eq_true, Bool.not_eq_true',
    decide_eq_true_eq, not_and, Bool.not_eq_true, and_assoc, ne_eq]

/-- Two ranges of queue pairs do not meet when one is empty or they lie apart. -/
theorem FnPage.meets_eq_false_iff (p q : FnPage) :
    p.meets q = false ↔ p.qpCount = 0 ∨ q.qpCount = 0 ∨
      overlaps p.qpBase.toNat p.qpCount.toNat q.qpBase.toNat q.qpCount.toNat = false := by
  simp only [FnPage.meets, Bool.and_eq_false_iff, decide_eq_false_iff_not, ne_eq, not_not, or_assoc]

/-- The conditions of R294, one by one. -/
theorem Block.mayEnable_iff (b : Block) (f : Nat) (p : FnPage) :
    b.mayEnable f p = true ↔
      p.qpBase.toNat + p.qpCount.toNat ≤ 65536 ∧ p.msix.toNat ≤ 2048 ∧
      (∀ e ∈ b.fns, e.1 ≠ f → e.2.enabled = true → e.2.meets p = false) ∧ p.resetting = false ∧ p.quiesced = false ∧
      (∀ e ∈ b.ctxs, e.2.fn ≠ f) ∧ b.ownsAnything f = false := by
  simp only [Block.mayEnable, Bool.and_eq_true, Bool.not_eq_true', decide_eq_true_eq, List.any_eq_false, not_and,
    Bool.not_eq_true, b.liveCtx_eq_zero_iff, and_assoc]

section Alloc

variable (p : FnPage) (v : Reg)

theorem FnPage.setAlloc_qpBase : (p.setAlloc v).qpBase.toNat = rfld v 0 16 :=
  (BitVec.toNat_ofNat _ _).trans (Nat.mod_eq_of_lt (fld_lt _ _ _))

theorem FnPage.setAlloc_qpCount : (p.setAlloc v).qpCount.toNat = rfld v 16 17 :=
  (BitVec.toNat_ofNat _ _).trans (Nat.mod_eq_of_lt (fld_lt _ _ _))

theorem FnPage.setAlloc_msix : (p.setAlloc v).msix.toNat = rfld v 33 12 :=
  (BitVec.toNat_ofNat _ _).trans (Nat.mod_eq_of_lt (fld_lt _ _ _))

theorem FnPage.setAlloc_qpCount_eq_zero_iff : (p.setAlloc v).qpCount = 0 ↔ rfld v 16 17 = 0 := by
  rw [← p.setAlloc_qpCount v]
  exact BitVec.toNat_inj.symm

end Alloc

/-- They, in the fields of the write. -/
theorem Block.mayEnable_setAlloc_iff (b : Block) (f : Nat) (v : Reg) :
    b.mayEnable f ((b.fn f).setAlloc v) = true ↔
      rfld v 0 16 + rfld v 16 17 ≤ 65536 ∧ rfld v 33 12 ≤ 2048 ∧
      (∀ e ∈ b.fns, e.1 ≠ f → e.2.enabled = true →
        e.2.qpCount = 0 ∨ rfld v 16 17 = 0 ∨
        overlaps e.2.qpBase.toNat e.2.qpCount.toNat (rfld v 0 16) (rfld v 16 17) = false) ∧
      (b.fn f).resetting = false ∧ (b.fn f).quiesced = false ∧ (∀ e ∈ b.ctxs, e.2.fn ≠ f) ∧
      (∀ e ∈ b.keys.slots, e.2.isEmpty = false → e.2.ownerFn.toNat ≠ f) ∧
      (∀ e ∈ b.regions.table, e.2.ownerFn.toNat ≠ f) ∧ (∀ e ∈ b.programs, e.2.fn ≠ f) ∧
      (∀ e ∈ b.jobs, e.2.fn = f → b.holdsJob e.1 e.2 = false) := by
  simp only [Block.mayEnable_iff, FnPage.meets_eq_false_iff, FnPage.setAlloc_qpBase, FnPage.setAlloc_qpCount,
    FnPage.setAlloc_msix, FnPage.setAlloc_qpCount_eq_zero_iff, Block.ownsAnything_eq_false_iff]
  rfl

/-- A page once its allocation and ENABLE are set. -/
def FnPage.enabledWith (p : FnPage) (v : Reg) : FnPage :=
  { p.setAlloc v with enabled := true, cipher := { (p.setAlloc v).cipher with blocks := 0 } }

section WriteAlloc

variable {b : Block} {f : Nat} {v : Reg} (fn : Nat)

/-- A write with ENABLE to a function that is not enabled, where R294 allows it. -/
theorem Block.writeAlloc_enable (he : (b.fn f).enabled = false) (hv : rbit v 63 = true)
    (hmay : b.mayEnable f ((b.fn f).setAlloc v) = true) :
    b.writeAlloc fn f v = b.setFn f ((b.fn f).enabledWith v) := by
  simp only [Block.writeAlloc, he, hv, hmay, Bool.false_eq_true, if_false, if_true, Bool.not_true]
  rfl

theorem Block.writeAlloc_enable_ignored (he : (b.fn f).enabled = false) (hv : rbit v 63 = true)
    (hmay : b.mayEnable f ((b.fn f).setAlloc v) = false) : b.writeAlloc fn f v = b.regIgnored fn (pageOff f 0xC08) := by
  simp only [Block.writeAlloc, he, hv, hmay, Bool.false_eq_true, if_false, Bool.not_true]

/-- A write without ENABLE, and with the fields as they stand, to a function that is enabled and QUIESCED. -/
theorem Block.writeAlloc_disable (he : (b.fn f).enabled = true) (hv : rbit v 63 = false)
    (hsame : rfld v 0 45 = rfld (b.fn f).alloc 0 45) (hq : (b.fn f).quiesced = true) :
    b.writeAlloc fn f v = b.modFn f fun p => { p with enabled := false } := by
  simp [Block.writeAlloc, he, hv, hsame, hq]

theorem Block.writeAlloc_disable_ignored (he : (b.fn f).enabled = true) (hv : rbit v 63 = false)
    (hq : (b.fn f).quiesced = false) : b.writeAlloc fn f v = b.regIgnored fn (pageOff f 0xC08) := by
  simp [Block.writeAlloc, he, hv, hq]

end WriteAlloc

/-- A write of the PF to CX_FN_ALLOC, with the sequencer up. -/
theorem exec_fnAllocWrite {s : State} {f : Nat} (v : Reg) (h : HcpOpen s) (hq : s.blk.boot.seqReset = false) (hf : f < 256) :
    Answers (.fnAllocWrite 0 f v) s ((s.blk.begin.writeAlloc 0 f v).emit (.hcpT 0 false)) := by
  have hr : s.blk.pageReach 0 f 0xC08 true = true := by simp [Block.pageReach, pageArea]
  exact atConfig_reached v h (h.reach_pageOff hf (by decide) (by decide) hr) (by rw [hq, Bool.false_and]) _

end Sys2Proof.Machine

namespace Sys2Proof.Proofs

open Sys2Proof Sys2Proof.Machine

/-- UP_SET and UP_CLR: the crossings depend on whether the mailbox was posted before. -/
theorem upMailboxPostsAndClears : Parts.UpMailboxPostsAndClears := by
  intro s f h h0 hf
  refine ⟨?_, ?_, fun g hg => Block.setFn_fn_other _ _ hg⟩
  · refine (atRegister_setMbox (p := { s.blk.fn f with upPost := true }) h h0 hf (.inl rfl) ?_).trans ?_
    · simp [FnPage.mboxAfter, h0.ne']
    · cases hup : (s.blk.fn f).upPost <;> simp [Block.mboxWritten, mboxCrossings, hup]
  · refine (atRegister_setMbox (p := { s.blk.fn f with upPost := false }) h h0 hf (.inr rfl) ?_).trans ?_
    · simp [FnPage.mboxAfter, h0.ne]
    · simp [Block.mboxWritten, mboxCrossings]

theorem downMailboxPostsAndClears : Parts.DownMailboxPostsAndClears := by
  intro s f h h0 hf
  refine ⟨?_, ?_⟩
  · refine (atRegister_setMbox (p := { s.blk.fn f with downPost := true }) h h0 hf (.inr rfl) ?_).trans ?_
    · simp [FnPage.mboxAfter, h0.ne]
    · cases hdown : (s.blk.fn f).downPost <;> simp [Block.mboxWritten, mboxCrossings, hdown]
  · refine (atRegister_setMbox (p := { s.blk.fn f with downPost := false }) h h0 hf (.inl rfl) ?_).trans ?_
    · simp [FnPage.mboxAfter, h0.ne']
    · simp [Block.mboxWritten, mboxCrossings]

/-- The register of a VF page as written and read, refused posts, and the PF page, where nothing stands behind it. -/
theorem mailboxRegister : Parts.MailboxRegister := by
  refine ⟨fun s f g v h h0 hf hg => ?_, fun b f h0 hf => ?_, fun s o v h h8 ho => ?_⟩
  · have hsame : (s.blk.mboxWritten f ((s.blk.fn f).mboxAfter g f (mboxWrite v))).fn f =
        (s.blk.fn f).mboxAfter g f (mboxWrite v) := Block.setFn_fn s.blk f _
    refine ⟨_, exec_registerWrite_mbox v h h0 hf hg rfl, rfl, hsame.trans ?_,
      fun k hk => Block.setFn_fn_other s.blk _ hk, ?_⟩
    · simp [FnPage.mboxAfter, mboxWrite]
    · rw [State.withBlock_blk, hsame]
      rfl
  · rw [b.regRead_pageOff hf (by decide), b.readPage_mbox h0]
    obtain ⟨h1, h2, h3, h4, h5, h6, h7⟩ := (b.fn f).mbox_fields
    exact ⟨h1, h2, h3, h4, h5, h6, h7,
      fun o ho hp => b.reach_pageOff_refused hf (by omega) (Block.pageReach_up_posted h0 ho hp),
      fun o hlo ho hp => b.reach_pageOff_refused hf (by omega) (Block.pageReach_down_posted h0 hlo ho hp)⟩
  · have hlt : o < 0x1000 := by omega
    refine ⟨?_, _, exec_registerWrite_pfMailbox v h h8 ho, rfl, ?_⟩
    · rw [Block.regRead_pageOff _ (by decide) hlt, Block.readPage_pfMailbox _ ho]
    · exact Block.emit_fn _ _ _

/-- Settles O37: the two mailboxes by their four commands, and the register as it reads and as a whole-register write
changes it. -/
theorem mailboxesPostAndClear : Obligations.MailboxesPostAndClear :=
  ⟨upMailboxPostsAndClears, downMailboxPostsAndClears, mailboxRegister⟩

/-- Settles O8: by whether R294 allows the rise, and by whether the function is QUIESCED for the fall. -/
theorem enableTakesEffectOnlyWhenAllowed : Obligations.EnableTakesEffectOnlyWhenAllowed := by
  intro s f v h hq hf
  have hx := exec_fnAllocWrite v h hq hf
  obtain ⟨hcount, hpages⟩ := s.blk.ignoredWrite_leaves 0 (pageOff f 0xC08)
  have hstays := congrArg FnPage.enabled (hpages f)
  refine ⟨fun he hv => ?_, fun he hv hsame => ?_⟩
  · rw [← Block.mayEnable_setAlloc_iff]
    cases hmay : s.blk.mayEnable f ((s.blk.fn f).setAlloc v) with
    | true =>
      rw [Block.writeAlloc_enable (b := s.blk.begin) 0 he hv hmay] at hx
      refine ⟨_, hx, rfl, ?_⟩
      rw [State.withBlock_blk, Block.emit_fn, Block.setFn_fn]
      refine ⟨⟨fun _ => rfl, fun _ => rfl⟩, fun _ => ⟨rfl, rfl, rfl, fun g hg => ?_⟩, nofun⟩
      rw [Block.emit_fn, Block.setFn_fn_other _ _ hg, Block.begin_fn]
    | false =>
      rw [Block.writeAlloc_enable_ignored (b := s.blk.begin) 0 he hv hmay] at hx
      have hoff := hstays.trans he
      exact ⟨_, hx, rfl, ⟨fun hon => absurd (hon.symm.trans hoff) nofun, nofun⟩,
        fun hon => absurd (hon.symm.trans hoff) nofun, fun _ => ⟨hcount, hpages⟩⟩
  · cases hquiet : (s.blk.fn f).quiesced with
    | true =>
      rw [Block.writeAlloc_disable (b := s.blk.begin) 0 he hv hsame hquiet] at hx
      refine ⟨_, hx, rfl, ⟨fun _ => rfl, fun _ => ?_⟩, nofun, fun _ g hg => ?_⟩
      · rw [State.withBlock_blk, Block.emit_fn, Block.modFn_fn]
      · rw [State.withBlock_blk, Block.emit_fn, Block.modFn_fn_other _ _ hg, Block.begin_fn]
    | false =>
      rw [Block.writeAlloc_disable_ignored (b := s.blk.begin) 0 he hv hquiet] at hx
      have hon := hstays.trans he
      exact ⟨_, hx, rfl, ⟨fun hoff => absurd (hoff.symm.trans hon) nofun, nofun⟩, fun _ => ⟨hcount, hpages⟩, nofun⟩

end Sys2Proof.Proofs
end

section
/-! The laws of what an access at a memory channel engine stores: nothing but the line or sector that it writes, and that only
when it succeeds. -/

namespace Sys2Proof.Machine

open Sys2Proof

/-! ## Counter nodes store no plaintext (R141 to R147) -/

section Stores

variable (x : Nx)

@[simp] theorem Nx.nextLine_stores : x.nextLine.2.stores = x.stores := rfl
@[simp] theorem Nx.actFor_stores (e : RegionEntry) : (x.actFor e).stores = x.stores := rfl
@[simp] theorem Nx.actAs_stores (y : Nx) : (x.actAs y).stores = x.stores := rfl
@[simp] theorem Nx.tooLate_stores (a : Nat) (fns : List Nat) : (x.tooLate a fns).stores = x.stores := rfl
@[simp] theorem Nx.lose_stores (st : Status) (k : Nat) : (x.lose st k).stores = x.stores := rfl

@[simp] theorem Nx.install_stores (tree : Option Nat) (k i : Nat) (n : Node) : (x.install tree k i n).stores = x.stores := by
  unfold Nx.install
  split
  · rfl
  · split <;> rfl

@[simp] theorem Nx.fetchNode_stores (tree : Option Nat) (k i : Nat) : (x.fetchNode tree k i).2.stores = x.stores := by
  unfold Nx.fetchNode
  split <;> rfl

@[simp] theorem Nx.nodeFailed_stores (tree : Option Nat) (k i : Nat) : (x.nodeFailed tree k i).stores = x.stores := by
  unfold Nx.nodeFailed
  dsimp only
  split <;> rfl

/-- A lookup stores nothing, and one that finds no node says how it failed. -/
theorem Nx.get_spec (tree : Option Nat) (f k i : Nat) :
    (Nx.get tree f x k i).2.stores = x.stores ∧
      ((Nx.get tree f x k i).1 = none → (Nx.get tree f x k i).2.status ≠ .ok) := by
  induction f generalizing x k i with
  | zero => exact ⟨rfl, nofun⟩
  | succ f ih =>
    have hup := ih x (k + 1) (i / 64)
    unfold Nx.get
    split
    · exact ⟨by split <;> rfl, nofun⟩
    · split
      · next h => rwa [h] at hup
      · next p y h =>
        rw [h] at hup
        have hy : (y.fetchNode tree k i).2.stores = x.stores := (y.fetchNode_stores tree k i).trans hup.1
        dsimp only
        split_ifs
        · exact ⟨hy, fun _ => nofun⟩
        · exact ⟨hy, fun _ => nofun⟩
        · exact ⟨hy, fun _ => nofun⟩
        · exact ⟨(Nx.install_stores ..).trans hy, nofun⟩

@[simp] theorem Nx.get_stores (tree : Option Nat) (f k i : Nat) : (Nx.get tree f x k i).2.stores = x.stores :=
  (x.get_spec tree f k i).1

@[simp] theorem Nx.writeNode_stores (tree : Option Nat) (k i : Nat) (n : Node) (c : Nat) :
    (x.writeNode tree k i n c).stores = x.stores := rfl

@[simp] theorem Nx.remac_stores (tree : Option Nat) (k i c c' : Nat) : (x.remac tree k i c c').stores = x.stores := by
  unfold Nx.remac
  split
  · rfl
  · dsimp only
    split_ifs <;> simp

@[simp] theorem Nx.remacAll_stores (tree : Option Nat) (k pi i0 : Nat) (old new : Node) (l : List Nat) :
    (Nx.remacAll tree k pi i0 old new l x).stores = x.stores := by
  induction l generalizing x with
  | nil => rfl
  | cons j r ih =>
    unfold Nx.remacAll
    split
    · exact ih x
    · rw [ih, x.remac_stores]

/-- The stores are as they were after a node was put, or where that stopped with a status that says why. -/
def Nx.PutLeaves (l : List Store1) : Except (Status × Nx) Nx → Prop
  | .ok y => y.stores = l
  | .error e => e.2.stores = l ∧ e.1 ≠ .ok

theorem Nx.put_leaves (tree : Option Nat) (f k i : Nat) (n : Node) :
    Nx.PutLeaves x.stores (Nx.put tree f x k i n) := by
  induction f generalizing x k i n with
  | zero => exact rfl
  | succ f ih =>
    have hget := x.get_spec tree f (k + 1) (i / 64)
    unfold Nx.put
    split
    · exact rfl
    · split
      · next y h =>
        rw [h] at hget
        exact ⟨hget.1, hget.2 rfl⟩
      · next p y h =>
        rw [h] at hget
        have hy : y.stores = x.stores := hget.1
        split
        · exact ⟨hy, nofun⟩
        · next p' again _ =>
          have hput := ih y (k + 1) (i / 64) p'
          rw [hy] at hput
          split
          · next h' => rwa [h'] at hput
          · next z h' =>
            rw [h'] at hput
            have hz : z.stores = x.stores := hput
            cases again <;> simp [Nx.PutLeaves, hz]

/-! ## Evictions (R145) -/

@[simp] theorem Nx.writeBack_stores (v : CachedNode) : (x.writeBack v).stores = x.stores := by
  have hget := x.get_stores v.tree (treeLevels v.tree - v.level - 1) (v.level + 1) (v.index / 64)
  unfold Nx.writeBack
  extract_lets out up stop
  have hout : ∀ y, (out y).stores = y.stores := fun _ => rfl
  have hstop : ∀ y st, y.stores = x.stores → (stop y st).stores = x.stores := by
    intro y st hy
    cases st <;> simp [stop, hout, hy]
  split
  · next h => exact hstop _ _ (by rwa [h] at hget)
  · next p y h =>
    have hy : y.stores = x.stores := by rwa [h] at hget
    split
    · exact hstop y .ctrExhausted hy
    · next p' again _ =>
      have hput := y.put_leaves v.tree (treeLevels v.tree - v.level - 1) (v.level + 1) (v.index / 64) p'
      rw [hy] at hput
      split
      · next st z h' =>
        rw [h'] at hput
        exact hstop z st hput.1
      · next z h' =>
        rw [h'] at hput
        have hz : z.stores = x.stores := hput
        extract_lets u w
        have hw : w.stores = x.stores := by cases again <;> simp [w, u, hout, hz]
        split
        · exact hstop w .timeout hw
        · exact hw

@[simp] theorem Nx.evict_stores (v : CachedNode) : (x.evict v).stores = x.stores := by
  unfold Nx.evict
  split <;> simp

@[simp] theorem Nx.trim_stores (f : Nat) : (Nx.trim f x).stores = x.stores := by
  induction f generalizing x with
  | zero => rfl
  | succ f ih =>
    unfold Nx.trim
    split
    · rfl
    · rw [ih, x.evict_stores]

/-! ## Poison and re-sealing write sealed bytes, never plaintext (R146, R160 to R162) -/

@[simp] theorem Nx.poisonEvent_stores (a byRake : Nat) : (x.poisonEvent a byRake).stores = x.stores := by
  unfold Nx.poisonEvent
  split <;> rfl

@[simp] theorem Nx.putTag_stores (slot n v : Nat) : (x.putTag slot n v).stores = x.stores := by
  unfold Nx.putTag
  dsimp only
  split <;> rfl

@[simp] theorem Nx.putData_stores (a len data slot n v : Nat) : (x.putData a len data slot n v).stores = x.stores := by
  rw [Nx.putData, Nx.putTag_stores]

@[simp] theorem Nx.poisonSector_stores (key : BitVec 512) (a s : Nat) : (x.poisonSector key a s).stores = x.stores :=
  x.putData_stores ..

@[simp] theorem Nx.poisonStore_stores (mode : Mode) (key : BitVec 512) (a ctr : Nat) :
    (x.poisonStore mode key a ctr).stores = x.stores := by
  unfold Nx.poisonStore
  split <;> simp

@[simp] theorem Nx.firstKey_stores (e : RegionEntry) : (x.firstKey e).2.stores = x.stores := by
  unfold Nx.firstKey
  split
  · rfl
  · split <;> rfl

@[simp] theorem Nx.carry_stores (alarm : Bool) (a c c' : Nat) (r : LineReturn) :
    (x.carry alarm a c c' r).stores = x.stores := by
  unfold Nx.carry
  extract_lets entry keys y seen
  have hy : y.stores = x.stores := rfl
  clear_value seen y
  split
  · rw [Nx.putData_stores, hy]
  · rw [Nx.poisonStore_stores, hy]
  · have hkey := y.firstKey_stores entry
    split
    · split
      · next z h =>
        rw [h] at hkey
        have hz : z.stores = x.stores := hkey.trans hy
        simp [hz]
      · next h =>
        rw [h] at hkey
        exact hkey.trans hy
    · exact hy
  · split <;> exact hy

@[simp] theorem Nx.fetchLine_stores (a : Nat) : (x.fetchLine a).2.stores = x.stores := rfl

@[simp] theorem Nx.reseal_stores (a c c' : Nat) : (x.reseal a c c').stores = x.stores := by
  unfold Nx.reseal
  split <;> simp

@[simp] theorem Nx.resealAll_stores (base i0 : Nat) (old new : Node) (addr : Nat → Nat) (l : List Nat) :
    (Nx.resealAll base i0 old new addr l x).stores = x.stores := by
  induction l generalizing x with
  | nil => rfl
  | cons j r ih =>
    unfold Nx.resealAll
    split
    · exact ih x
    · rw [ih, x.reseal_stores]

/-- Raising a line's counter stores nothing, and where it stops it says why. -/
theorem Nx.raiseLine_spec (a : Nat) :
    (x.raiseLine a).2.stores = x.stores ∧ ∀ st, (x.raiseLine a).1 = .error st → st ≠ .ok := by
  unfold Nx.raiseLine
  extract_lets tr
  have hnode := x.get_spec tr.1 (treeLevels tr.1 - 0) 0 (tr.2 / 64)
  split
  · next y h =>
    rw [Nx.node] at h
    rw [h] at hnode
    exact ⟨hnode.1, fun st he => by rw [← Except.error.inj he]; exact hnode.2 rfl⟩
  · next leaf y h =>
    rw [Nx.node] at h
    rw [h] at hnode
    have hy : y.stores = x.stores := hnode.1
    split
    · exact ⟨hy, fun st he => by rw [← Except.error.inj he]; nofun⟩
    · next leaf' again _ =>
      have hput := y.put_leaves tr.1 (treeLevels tr.1) 0 (tr.2 / 64) leaf'
      rw [hy] at hput
      split
      · next st z h' =>
        rw [h'] at hput
        exact ⟨hput.1, fun st he => by rw [← Except.error.inj he]; exact hput.2⟩
      · next z h' =>
        rw [h'] at hput
        have hz : z.stores = x.stores := hput
        extract_lets first sealed w
        have hw : w.stores = x.stores := by cases again <;> simp [w, sealed, hz]
        split
        · exact ⟨hy, fun st he => by rw [← Except.error.inj he]; nofun⟩
        · exact ⟨hw, nofun⟩

@[simp] theorem Nx.raiseLine_stores (a : Nat) : (x.raiseLine a).2.stores = x.stores := (x.raiseLine_spec a).1

@[simp] theorem Nx.poisonLine_stores (mode : Mode) (key : BitVec 512) (a byRake : Nat) :
    (x.poisonLine mode key a byRake).stores = x.stores := by
  unfold Nx.poisonLine
  extract_lets y
  have hy : y.stores = x.stores := rfl
  have hraise := y.raiseLine_stores a
  split
  · split
    · next h => rw [h] at hraise; simpa using hraise.trans hy
    · next h => rw [h] at hraise; exact hraise.trans hy
  · simp [hy]

@[simp] theorem Nx.poisonMate_stores (mode : Mode) (key : BitVec 512) (r byRake a : Nat) :
    (x.poisonMate mode key r byRake a).stores = x.stores := by
  unfold Nx.poisonMate
  extract_lets entry
  have hkey := x.firstKey_stores entry
  split_ifs
  · rfl
  · exact x.poisonLine_stores ..
  · rfl
  · rfl
  · split
    · next h => rw [h] at hkey; simpa using hkey
    · next h => rwa [h] at hkey

@[simp] theorem Nx.poisonGroup_stores (mode : Mode) (key : BitVec 512) (r byRake : Nat) (l : List Nat) :
    (Nx.poisonGroup mode key r byRake l x).stores = x.stores := by
  induction l generalizing x with
  | nil => rfl
  | cons a l ih => rw [Nx.poisonGroup, ih, x.poisonMate_stores]

@[simp] theorem Nx.settleLost_stores : x.settleLost.stores = x.stores := by
  unfold Nx.settleLost
  generalize x.lostLines = l
  induction l generalizing x with
  | nil => rfl
  | cons a l ih => rw [List.foldl_cons, ih, x.poisonMate_stores]

@[simp] theorem Nx.finish_stores : x.finish.stores = x.stores := by
  have hend : (Nx.trim 32 { x with late := false }).settleLost.stores = x.stores := by simp
  unfold Nx.finish
  extract_lets y
  split <;> exact hend

/-! ## What a write stores -/

@[simp] theorem Nx.failed_stores (a : Nat) (st : Status) : (x.failed a st).stores = x.stores := by
  unfold Nx.failed
  split_ifs <;> rfl

@[simp] theorem Nx.takeSectors_stores (mode : Mode) (a : Nat) (sector : Option Nat) (ret : LineReturn) :
    (x.takeSectors mode a sector ret).stores = x.stores := rfl

@[simp] theorem Nx.readySector_stores (mode : Mode) (key : BitVec 512) (a : Nat) (sector : Option Nat) (ret : LineReturn) :
    (x.readySector mode key a sector ret).stores = x.stores := by
  rw [Nx.readySector, Nx.poisonGroup_stores, Nx.takeSectors_stores]

@[simp] theorem Nx.writeSectors_stores (key : BitVec 512) (a data : Nat) (l : List Nat) :
    (Nx.writeSectors key a data l x).stores = x.stores := by
  induction l generalizing x with
  | nil => rfl
  | cons s r ih => rw [Nx.writeSectors, ih, Nx.putData_stores]

/-- A line or sector that is sealed and written is the one store. -/
@[simp] theorem Nx.storeLine_stores (mode : Mode) (key : BitVec 512) (a : Nat) (sector : Option Nat) (ctr data : Nat)
    (ret : LineReturn) :
    (x.storeLine mode key a sector ctr data ret).stores = x.stores ++ [lineStore a data sector] := by
  unfold Nx.storeLine
  extract_lets m done sl
  have hdone : ∀ y : Nx, (done y).stores = y.stores ++ [lineStore a data sector] := fun _ => rfl
  split_ifs <;> simp [hdone]

/-- A write stores its line or sector when it succeeds, and nothing when it fails (R158, R207). -/
theorem Nx.writeLine_stores (mode : Mode) (key : BitVec 512) (a : Nat) (sector : Option Nat) (data : Nat)
    (ret : LineReturn) :
    ((x.writeLine mode key a sector data ret).1 = .ok ∧
        (x.writeLine mode key a sector data ret).2.stores = x.stores ++ [lineStore a data sector]) ∨
      ((x.writeLine mode key a sector data ret).1 ≠ .ok ∧ (x.writeLine mode key a sector data ret).2.stores = x.stores) := by
  have hraise := x.raiseLine_spec a
  unfold Nx.writeLine
  split
  · exact .inr ⟨nofun, x.failed_stores ..⟩
  · split
    · split
      · next h =>
        rw [h] at hraise
        exact .inr ⟨hraise.2 _ rfl, (Nx.failed_stores ..).trans hraise.1⟩
      · next h =>
        rw [h] at hraise
        exact .inl ⟨rfl, by rw [Nx.storeLine_stores, hraise.1]⟩
    · exact .inl ⟨rfl, x.storeLine_stores ..⟩

end Stores

end Sys2Proof.Machine
end

section
/-! The laws of the block's own records: what a sealed write over the crossbar stores, and a line of memory with some of its
bytes replaced. -/

namespace Sys2Proof.Machine

open Sys2Proof Sys2Proof.Machine.Crypto

/-! ## Accesses over the crossbar (R127, R128) -/

/-- A key that an engine may not use is refused with a status other than OK. -/
theorem Block.lookup_bad {b : Block} {e n fn ctx use : Nat} {st : Status} (h : b.lookup e n fn ctx use = .bad st) :
    st ≠ .ok := by
  rintro rfl
  unfold Block.lookup at h
  split at h
  · split at h
    · cases h
    · next hne => exact hne (Lookup.bad.inj h)
  · split at h
    · cases h
    · next hne => exact hne (Lookup.bad.inj h)

theorem Block.useKey_error {b : Block} {e n fn ctx use : Nat} {st : Status}
    (h : (b.useKey e n fn ctx use).1 = .error st) : st ≠ .ok := by
  unfold Block.useKey at h
  split at h
  · cases h
  · cases h
  · next hbad =>
    rw [← Except.error.inj h]
    exact Block.lookup_bad hbad

/-- An access that fails a check of R127 fails with a status other than OK. -/
theorem Block.xbarCheck_error {b : Block} {k : Asker} {a use : Nat} {st : Status} (h : (b.xbarCheck k a use).1 = .error st) :
    st ≠ .ok := by
  unfold Block.xbarCheck at h
  split at h
  · rw [← Except.error.inj h]
    nofun
  · extract_lets e entry check n at h
    split at h
    · rw [← Except.error.inj h]
      nofun
    · split at h
      · next hcheck =>
        rw [← Except.error.inj h]
        exact hcheck
      · split at h
        · next hkey =>
          rw [← Except.error.inj h]
          exact Block.useKey_error (congrArg Prod.fst hkey)
        · cases h

/-- An access that starts with no stores and writes a line or sector adds that to the stores of its command when it
succeeds, and nothing when it fails. -/
theorem Serving.after_writeLine_stores (p : Serving) {x : Nx} (hx : x.stores = []) (mode : Mode) (key : BitVec 512) (a : Nat)
    (sector : Option Nat) (data : Nat) (ret : LineReturn) :
    ((x.writeLine mode key a sector data ret).1 = .ok ∧
        (p.after (x.writeLine mode key a sector data ret).2.finish).w.stores = p.w.stores ++ [lineStore a data sector]) ∨
      ((x.writeLine mode key a sector data ret).1 ≠ .ok ∧
        (p.after (x.writeLine mode key a sector data ret).2.finish).w.stores = p.w.stores) := by
  have hafter : ∀ y : Nx, (p.after y.finish).w.stores = p.w.stores ++ y.stores := fun y =>
    congrArg (p.w.stores ++ ·) y.finish_stores
  rw [hafter]
  obtain ⟨hst, hw⟩ | ⟨hst, hw⟩ := x.writeLine_stores mode key a sector data ret
  · exact .inl ⟨hst, by rw [hw, hx, List.nil_append]⟩
  · exact .inr ⟨hst, by rw [hw, hx, List.append_nil]⟩

/-- A write over the crossbar stores its line or sector when it succeeds, and nothing otherwise. -/
theorem Serving.writeUnit_stores (p : Serving) (k : Asker) (a data : Nat) (sector : Option Nat) (ret : LineReturn) :
    ((p.writeUnit k a data sector ret).1 = .ok ∧
        (p.writeUnit k a data sector ret).2.w.stores = p.w.stores ++ [lineStore a data sector]) ∨
      ((p.writeUnit k a data sector ret).1 ≠ .ok ∧ (p.writeUnit k a data sector ret).2.w.stores = p.w.stores) := by
  unfold Serving.writeUnit
  split
  · next q h =>
    unfold Serving.hold at h
    split at h
    · cases h
      exact .inr ⟨nofun, rfl⟩
    · cases h
  · split
    · next h => exact .inr ⟨Block.xbarCheck_error (congrArg Prod.fst h), rfl⟩
    · exact p.after_writeLine_stores rfl ..

/-- Reading one of the block's own records moves the block alone, or finds that it must wait. -/
theorem Work.readRecord_cases (w : Work) (k : Asker) (acc : Access) (a n : Nat) :
    ((w.readRecord k acc a n).1 ≠ .ok ∧ (w.readRecord k acc a n).2.2.stores = w.stores) ∨
      ∃ b, (w.readRecord k acc a n).2.2 = { w with blk := b } := by
  unfold Work.readRecord
  split
  · exact .inl ⟨nofun, rfl⟩
  · split
    · exact .inr ⟨_, rfl⟩
    · dsimp only
      split <;> exact .inr ⟨_, rfl⟩

/-- What the write of a record inside one line stores: its line, with the record's bytes in place. -/
def recordStore (m : List Host.Cell) (a : Nat) (data : Bytes) : Store1 :=
  (a / 128 * 128, toLe 128 (mergeLine (le (Memory.read m (a / 128 * 128) 128)) (a % 128) data))

/-- Writing one of the block's own records stores its line when it succeeds, and nothing otherwise. -/
theorem Work.writeRecord_stores (w : Work) (k : Asker) (acc : Access) (a : Nat) (data : Bytes) :
    ((w.writeRecord k acc a data).1 = .ok ∧
        (w.writeRecord k acc a data).2.stores = w.stores ++ [recordStore w.mem a data]) ∨
      ((w.writeRecord k acc a data).1 ≠ .ok ∧ (w.writeRecord k acc a data).2.stores = w.stores) :=
  Serving.writeUnit_stores { w := w, feed := acc.rets.tail } k _ _ none _

/-! ## A line with some of its bytes replaced -/

@[simp] theorem Memory.read_length (m : List Host.Cell) (a n : Nat) : (Memory.read m a n).length = n := by
  rw [Memory.read, List.length_map, List.length_range]

theorem Memory.read_getElem (m : List Host.Cell) (a n i : Nat) (h : i < (Memory.read m a n).length) :
    (Memory.read m a n)[i] = Memory.get m ((a + i) % memSize) := by
  simp only [Memory.read, List.getElem_map, List.getElem_range]

/-- The low bytes of a number of bytes, and the others. -/
theorem le_mod (b : Bytes) {n : Nat} (h : n ≤ b.length) : le b % 2 ^ (8 * n) = le (b.take n) := by
  have hlen : (b.take n).length = n := List.length_take_of_le h
  have hlt := le_lt_two_pow (b.take n)
  rw [hlen] at hlt
  conv_lhs => rw [← List.take_append_drop n b, le_append, hlen, Nat.add_mul_mod_self_left, Nat.mod_eq_of_lt hlt]

theorem le_shiftRight (b : Bytes) {n : Nat} (h : n ≤ b.length) : le b >>> (8 * n) = le (b.drop n) := by
  have hlen : (b.take n).length = n := List.length_take_of_le h
  have hlt := le_lt_two_pow (b.take n)
  rw [hlen] at hlt
  conv_lhs => rw [← List.take_append_drop n b, le_append, hlen, Nat.shiftRight_eq_div_pow,
    Nat.add_mul_div_left _ _ (Nat.two_pow_pos _), Nat.div_eq_of_lt hlt, Nat.zero_add]

/-- A line merged with bytes is those bytes between what stood before and behind them. -/
theorem toLe_mergeLine {l d : Bytes} {off : Nat} (hl : l.length = 128) (h : off + d.length ≤ 128) :
    toLe 128 (mergeLine (le l) off d) = l.take off ++ d ++ l.drop (off + d.length) := by
  have htake : (l.take off).length = off := List.length_take_of_le (by omega)
  have hlen : (l.take off ++ d ++ l.drop (off + d.length)).length = 128 := by
    simp only [List.length_append, htake, List.length_drop, hl]
    omega
  have hle : mergeLine (le l) off d = le (l.take off ++ d ++ l.drop (off + d.length)) := by
    rw [mergeLine, le_mod l (by omega), le_shiftRight l (by omega), List.append_assoc, le_append, le_append, htake,
      Nat.shiftLeft_eq, Nat.shiftLeft_eq, Nat.mul_add 8, Nat.pow_add]
    ring
  rw [hle, ← hlen, toLe_le]

/-- The bytes of a list with some of them replaced. -/
theorem getElem_take_append_drop {l d : Bytes} {off i : Nat} (h : off + d.length ≤ l.length)
    (hi : i < (l.take off ++ d ++ l.drop (off + d.length)).length) :
    (l.take off ++ d ++ l.drop (off + d.length))[i] =
      if h : off ≤ i ∧ i < off + d.length then d[i - off]'(by omega)
      else l[i]'(by simp only [List.length_append, List.length_take, List.length_drop] at hi; omega) := by
  have htake : (l.take off).length = off := List.length_take_of_le (by omega)
  have hfront : (l.take off ++ d).length = off + d.length := by rw [List.length_append, htake]
  obtain hlo | hlo := Nat.lt_or_ge i off
  · rw [List.getElem_append_left (by omega), List.getElem_append_left (by omega), List.getElem_take, dif_neg (by omega)]
  obtain hhi | hhi := Nat.lt_or_ge i (off + d.length)
  · rw [List.getElem_append_left (by omega), List.getElem_append_right (by omega), dif_pos ⟨hlo, hhi⟩]
    simp only [htake]
  · rw [List.getElem_append_right (by omega), List.getElem_drop, dif_neg (by omega)]
    simp only [hfront, Nat.add_sub_cancel' hhi]

section Merged

variable {m : List Host.Cell} {base off : Nat} {d : Bytes} (hm : Memory.wf m = true) (hb : base + 128 ≤ memSize)
  (hd : off + d.length ≤ 128)
include hm hb hd

/-- A byte of a line that was stored with some of its bytes replaced. -/
theorem Memory.get_write_mergeLine {i : Nat} (hi : i < 128) :
    Memory.get (Memory.write m base (toLe 128 (mergeLine (le (Memory.read m base 128)) off d))) (base + i) =
      if h : off ≤ i ∧ i < off + d.length then d[i - off]'(by omega) else Memory.get m (base + i) := by
  have hmod : (base + i) % memSize = base + i := Nat.mod_eq_of_lt (by omega)
  rw [Memory.get_write_inside _ hm (by rwa [toLe_length]) (by rwa [toLe_length])]
  simp only [toLe_mergeLine (Memory.read_length m base 128) hd]
  rw [getElem_take_append_drop (by rwa [Memory.read_length])]
  simp only [Memory.read_getElem, hmod]

/-- The bytes replaced read back. -/
theorem Memory.read_write_mergeLine :
    Memory.read (Memory.write m base (toLe 128 (mergeLine (le (Memory.read m base 128)) off d))) (base + off) d.length =
      d := by
  refine List.ext_getElem (Memory.read_length ..) fun i hi hid => ?_
  have hmod : (base + off + i) % memSize = base + (off + i) := by rw [Nat.add_assoc, Nat.mod_eq_of_lt (by omega)]
  rw [Memory.read_getElem, hmod, Memory.get_write_mergeLine hm hb hd (by omega), dif_pos (by omega)]
  simp only [Nat.add_sub_cancel_left]

/-- Every other byte of memory is as it was. -/
theorem Memory.get_write_mergeLine_other {a : Nat} (ha : a < base + off ∨ base + off + d.length ≤ a) :
    Memory.get (Memory.write m base (toLe 128 (mergeLine (le (Memory.read m base 128)) off d))) a = Memory.get m a := by
  by_cases hin : base ≤ a ∧ a < base + 128
  · obtain ⟨i, rfl⟩ := Nat.exists_eq_add_of_le hin.1
    rw [Memory.get_write_mergeLine hm hb hd (by omega), dif_neg (by omega)]
  · exact Memory.get_write_outside _ _ (by rwa [toLe_length]) (by rw [toLe_length]; omega)

end Merged

section Record

variable {m : List Host.Cell} {a : Nat} {d : Bytes} (hm : Memory.wf m = true) (hb : a / 128 * 128 + 128 ≤ memSize)
  (hd : a % 128 + d.length ≤ 128)
include hm hb hd

/-- A record that was stored reads back. -/
theorem Memory.read_recordStore : Memory.read (applyStores m [recordStore m a d]) a d.length = d := by
  have h := Memory.read_write_mergeLine hm hb hd
  rwa [Nat.div_add_mod'] at h

/-- A record's store leaves every byte outside it. -/
theorem Memory.get_recordStore_other {x : Nat} (hx : x < a ∨ a + d.length ≤ x) :
    Memory.get (applyStores m [recordStore m a d]) x = Memory.get m x :=
  Memory.get_write_mergeLine_other hm hb hd (by rwa [Nat.div_add_mod'])

end Record

end Sys2Proof.Machine
end

section
/-! The laws of fences: the waits that a signal releases or a destruction ends, and the three commands that write a fence's
record. -/

namespace Sys2Proof.Machine

open Sys2Proof Sys2Proof.Machine.Crypto

/-! ## Completion records (R300, R319) -/

/-- A number that a table does not list is not there to be taken away. -/
theorem Tab.del_of_get?_eq_none {α : Type} {t : Tab α} {k : Nat} (h : t.get? k = none) : t.del k = t := by
  induction t with
  | nil => rfl
  | cons e r ih =>
    obtain ⟨j, v⟩ := e
    unfold Tab.get? at h
    split at h
    · cases h
    · next hj =>
      have hr : Tab.del r k = r := ih h
      unfold Tab.del at hr ⊢
      rw [List.filter_cons_of_pos (by simpa using hj), hr]

/-- An access at `hcp_*` touches neither the commands in flight nor the fence waits. -/
theorem Block.issue_leaves (b : Block) (a : HostAccess) :
    (b.issue a).seq.cmds = b.seq.cmds ∧ (b.issue a).seq.waits = b.seq.waits := by
  unfold Block.issue
  split <;> split <;> exact ⟨rfl, rfl⟩

theorem Block.issues_leaves (b : Block) (l : List HostAccess) :
    (b.issues l).seq.cmds = b.seq.cmds ∧ (b.issues l).seq.waits = b.seq.waits := by
  induction l generalizing b with
  | nil => exact ⟨rfl, rfl⟩
  | cons a r ih =>
    obtain ⟨hc, hw⟩ := b.issue_leaves a
    obtain ⟨hc', hw'⟩ := ih (b.issue a)
    exact ⟨hc'.trans hc, hw'.trans hw⟩

theorem Block.hostWrite_leaves (b : Block) (fn addr : Nat) (data : Bytes) (why : WriteFor) :
    (b.hostWrite fn addr data why).seq.cmds = b.seq.cmds ∧ (b.hostWrite fn addr data why).seq.waits = b.seq.waits := by
  unfold Block.hostWrite
  split
  · exact b.issue_leaves _
  · exact Block.issues_leaves _ _

theorem Block.queueRecord_leaves (b : Block) (q : Nat) (r : Rec) :
    (b.queueRecord q r).seq.cmds = b.seq.cmds ∧ (b.queueRecord q r).seq.waits = b.seq.waits := by
  unfold Block.queueRecord
  split_ifs
  · exact ⟨rfl, rfl⟩
  · unfold Block.writeRecord
    split
    · exact ⟨rfl, rfl⟩
    · exact Block.hostWrite_leaves _ _ _ _ _
  · exact ⟨rfl, rfl⟩

section Complete

variable (b : Block) (id : Nat) (st : Status) (x y : BitVec 64) (r : Bool)

/-- A completion takes its command out of the command table, and leaves the fence waits. -/
theorem Block.complete_leaves :
    (b.complete id st x y r).seq.cmds = b.seq.cmds.del id ∧ (b.complete id st x y r).seq.waits = b.seq.waits := by
  cases h : b.cmd? id with
  | none =>
    rw [Block.complete_none _ _ _ _ _ _ h, Tab.del_of_get?_eq_none h]
    exact ⟨rfl, rfl⟩
  | some c =>
    rw [Block.complete_some _ _ _ _ h]
    exact Block.queueRecord_leaves _ _ _

@[simp] theorem Block.complete_waits : (b.complete id st x y r).seq.waits = b.seq.waits := (b.complete_leaves id st x y r).2

@[simp] theorem Block.complete_cmd_same : (b.complete id st x y r).cmd? id = none := by
  rw [Block.cmd?, (b.complete_leaves id st x y r).1, Tab.get?_del_same]

/-- A command that is not in flight does not come back. -/
theorem Block.complete_cmd_none {j : Nat} (h : b.cmd? j = none) : (b.complete id st x y r).cmd? j = none := by
  by_cases hj : j = id
  · rw [hj, Block.complete_cmd_same]
  · rw [Block.cmd?, (b.complete_leaves id st x y r).1, Tab.get?_del_other _ hj]
    exact h

end Complete

/-! ## Waits that end (R306, R307) -/

section Waits

variable (b : Block) (st : Status) (x y : BitVec 64) (r : Bool) (l : List FenceWaiter)

/-- The commands of a list of waits complete alike. -/
def Block.completeWaits : Block := l.foldl (fun b w => b.complete w.cmd st x y r) b

theorem Block.completeWaits_waits : (b.completeWaits st x y r l).seq.waits = b.seq.waits := by
  unfold Block.completeWaits
  induction l generalizing b with
  | nil => rfl
  | cons w l ih => rw [List.foldl_cons, ih, Block.complete_waits]

theorem Block.completeWaits_cmd_none {j : Nat} (h : b.cmd? j = none) : (b.completeWaits st x y r l).cmd? j = none := by
  unfold Block.completeWaits
  induction l generalizing b with
  | nil => exact h
  | cons w l ih => exact ih _ (b.complete_cmd_none _ _ _ _ _ h)

/-- None of them is in flight afterwards. -/
theorem Block.completeWaits_cmd {w : FenceWaiter} (h : w ∈ l) : (b.completeWaits st x y r l).cmd? w.cmd = none := by
  induction l generalizing b with
  | nil => cases h
  | cons v l ih =>
    obtain rfl | h := List.mem_cons.mp h
    · exact Block.completeWaits_cmd_none _ st x y r l (Block.complete_cmd_same ..)
    · exact ih _ h

end Waits

/-- A block with other fence waits. -/
def Block.setWaits (b : Block) (l : List FenceWaiter) : Block := { b with seq := { b.seq with waits := l } }

theorem Block.endWaits_eq (b : Block) (st : Status) (p : FenceWaiter → Bool) :
    b.endWaits st p =
      (b.setWaits (b.seq.waits.filter fun w => !p w)).completeWaits st 0 0 false (b.seq.waits.filter p) := rfl

/-- Whether a wait is met by a value of its fence. -/
def FenceWaiter.metBy (w : FenceWaiter) (fn fence value : Nat) : Bool := w.on fn fence && w.value.toNat ≤ value

theorem Block.releaseWaits_eq (b : Block) (fn fence value : Nat) :
    b.releaseWaits fn fence value =
      (b.setWaits (b.seq.waits.filter fun w => !w.metBy fn fence value)).completeWaits .ok (BitVec.ofNat 64 value)
        (BitVec.ofNat 64 0) false (b.seq.waits.filter fun w => w.metBy fn fence value) := rfl

/-! ## Commands on protected memory -/

/-- A ready command on protected memory works on memory as it stands. -/
theorem onCommandMem_ready {s : State} {id op : Nat} {c : Cmd} (f : Cmd → Work → Work) (hc : CmdReady s id op c) :
    onCommandMem s id op f = onMemoryWait s (f c) := by
  have hr : s.blk.begin.runnable id op = some c := hc
  simp only [onCommandMem, onMemoryWait, hr]

/-- Work none of whose accesses must wait is done. -/
theorem onMemoryWait_done {s : State} {f : Work → Work} {w : Work} (hw : f s.waitWork = w) (hs : w.stuck = false) :
    onMemoryWait s f = .next { s with blk := w.blk, mem := applyStores s.mem w.stores } := by
  have hw' : f { blk := s.blk.begin, base := s.mem, patient := true } = w := hw
  rw [onMemoryWait, hw']
  exact if_neg (by simp [hs])

/-! ## The fence's record (R305) -/

theorem Block.lt_of_fencesOf {b : Block} {fn r : Nat} (h : b.fencesOf fn = some r) : r < 2 ^ 14 := by
  unfold Block.fencesOf at h
  split at h
  · rw [← Option.some.inj h]
    exact BitVec.isLt _
  · cases h

/-- The bytes of a fence's record. -/
def fenceBytes (value : Nat) (live : Bool) : Bytes := toLe 8 value ++ toLe 1 (bit live) ++ toLe 7 0

@[simp] theorem fenceBytes_length (value : Nat) (live : Bool) : (fenceBytes value live).length = 16 := by
  simp [fenceBytes]

section Fence

variable {s : State} {r : Nat} {c : Cmd} {acc : Access} (hr : s.blk.begin.fencesOf c.fn = some r)
include hr

/-- A fence's record lies in one line of memory. -/
theorem fenceAddr_inLine : fenceAddr r c.fence / 128 * 128 + 128 ≤ memSize ∧ fenceAddr r c.fence % 128 + 16 ≤ 128 := by
  have hr := Block.lt_of_fencesOf hr
  have hn : c.fence < 2 ^ 16 := dfld_lt _ _ _
  unfold fenceAddr memSize
  omega

/-- A fence that could be read is what its command works on. -/
theorem withFence_found (id : Nat) (hok : (s.fenceRead c acc r).1 = .ok) (act : Nat → FenceRec → Work → Work) :
    s.waitWork.withFence id c acc act = act r (s.fenceFound c acc r) (s.fenceWork c acc r) := by
  have hr' : s.waitWork.blk.fencesOf c.fn = some r := hr
  have hread : s.waitWork.readRecord (s.waitWork.blk.fenceAsker c r) acc (fenceAddr r c.fence) 16 =
      (.ok, (s.fenceRead c acc r).2.1, s.fenceWork c acc r) := by
    rw [← hok]
    rfl
  simp only [Work.withFence, hr', hread]
  rfl

end Fence

/-- The work after a read that succeeded has moved the block alone. -/
theorem fenceWork_of_ok {s : State} {c : Cmd} {acc : Access} {r : Nat} (hok : (s.fenceRead c acc r).1 = .ok) :
    ∃ b, s.fenceWork c acc r = { s.waitWork with blk := b } :=
  (Work.readRecord_cases ..).resolve_left fun h => h.1 hok

/-- The stores of a fence's write that succeeded. -/
theorem fenceWrite_stores {s : State} {c : Cmd} {acc : Access} {r value : Nat} {live : Bool}
    (hok : (s.fenceRead c acc r).1 = .ok) (hput : (s.fenceWrite c acc r value live).1 = .ok) :
    (s.fenceWrite c acc r value live).2.stores = [recordStore s.mem (fenceAddr r c.fence) (fenceBytes value live)] := by
  obtain ⟨b, hb⟩ := fenceWork_of_ok hok
  obtain ⟨-, hst⟩ := (Work.writeRecord_stores ..).resolve_right fun h => h.1 hput
  refine hst.trans ?_
  rw [hb]
  rfl

theorem putFence_ok {w : Work} {id : Nat} {c : Cmd} {acc : Access} {r value : Nat} {live : Bool} (act : Block → Block)
    (h : (w.writeRecord (w.blk.fenceAsker c r) acc (fenceAddr r c.fence) (fenceBytes value live)).1 = .ok) :
    w.putFence id c acc r value live act =
      (w.writeRecord (w.blk.fenceAsker c r) acc (fenceAddr r c.fence) (fenceBytes value live)).2.on act := by
  unfold Work.putFence
  rw [← fenceBytes]
  generalize w.writeRecord (w.blk.fenceAsker c r) acc (fenceAddr r c.fence) (fenceBytes value live) = y at h ⊢
  obtain ⟨st, w'⟩ := y
  obtain rfl : st = .ok := h
  rfl

/-! ## SIGNAL, CREATE and DESTROY (R305, R306) -/

section Acts

variable (id : Nat) (c : Cmd) (acc : Access) (r : Nat) (f : FenceRec) (w : Work)

/-- What SIGNAL does with the fence that it finds. -/
def signalFence : Work :=
  if !f.live then w.on fun b => b.fail id .badOperand
  else if c.value < f.value then w.on fun b => b.complete id .fenceRegression (BitVec.ofNat 64 f.value) 0 false
  else w.putFence id c acc r c.value true fun b => (b.releaseWaits c.fn c.fence c.value).succeed id c.value 0

/-- What CREATE does with the fence that it finds. -/
def createFence : Work :=
  if f.live then w.on fun b => b.fail id .badOperand
  else w.putFence id c acc r c.value true fun b => b.succeed id c.value 0

/-- What DESTROY does with the fence that it finds. -/
def destroyFence : Work :=
  if !f.live then w.on fun b => b.fail id .badOperand
  else
    w.putFence id c acc r f.value false fun b =>
      (b.endWaits .badOperand fun x => x.on c.fn c.fence).succeed id f.value 0

end Acts

section Commands

variable {s : State} {id : Nat} {c : Cmd} (acc : Access) (hc : CmdReady s id 0x0A01 c)
include hc

/-- A reserved operation touches no fence. -/
theorem exec_signal_reserved (hop : 2 < dfld c.desc 18 1) :
    Answers (.signal id acc) s (s.blk.begin.fail id .badOperand) := by
  change execSignal id acc s = _
  rw [execSignal, onCommandMem_ready _ hc]
  refine onMemoryWait_done (w := s.waitWork.on fun b => b.fail id .badOperand) ?_ rfl
  rw [if_neg (by omega), if_pos hop]

theorem exec_signal (hop : dfld c.desc 18 1 = 0) :
    exec (.signal id acc) s = onMemoryWait s fun w => w.withFence id c acc (signalFence id c acc) := by
  change execSignal id acc s = _
  rw [execSignal, onCommandMem_ready _ hc]
  simp only [hop]
  rfl

theorem exec_create (hop : dfld c.desc 18 1 = 1) :
    exec (.create id acc) s = onMemoryWait s fun w => w.withFence id c acc (createFence id c acc) := by
  change execCreate id acc s = _
  rw [execCreate, onCommandMem_ready _ hc]
  simp only [hop]
  rfl

theorem exec_destroy (hop : dfld c.desc 18 1 = 2) :
    exec (.destroy id acc) s = onMemoryWait s fun w => w.withFence id c acc (destroyFence id c acc) := by
  change execDestroy id acc s = _
  rw [execDestroy, onCommandMem_ready _ hc]
  simp only [hop]
  rfl

end Commands

section Found

variable {s : State} {i : Instr} {id r : Nat} {c : Cmd} {acc : Access} {act : Nat → FenceRec → Work → Work}
  (hx : exec i s = onMemoryWait s fun w => w.withFence id c acc act) (hr : s.blk.begin.fencesOf c.fn = some r)
  (hok : (s.fenceRead c acc r).1 = .ok)
include hx hr hok

/-- A command that only answers with the fence it found stores nothing. -/
theorem answers_fenceFound {g : Block → Block}
    (hact : act r (s.fenceFound c acc r) (s.fenceWork c acc r) = (s.fenceWork c acc r).on g) :
    AnswersStores i s (g (s.fenceWork c acc r).blk) [] := by
  obtain ⟨b, hb⟩ := fenceWork_of_ok hok
  rw [AnswersStores, hx, onMemoryWait_done ((withFence_found hr id hok act).trans hact) (by rw [hb]; rfl), hb]
  rfl

/-- A command that writes the fence's record, and completes, leaves the record in memory. -/
theorem answers_fenceWritten {value : Nat} {live : Bool} {g : Block → Block} (hm : s.Inv)
    (hact : act r (s.fenceFound c acc r) (s.fenceWork c acc r) =
      (s.fenceWork c acc r).putFence id c acc r value live fun b => (g b).succeed id value 0)
    (hput : (s.fenceWrite c acc r value live).1 = .ok) (hs : (s.fenceWrite c acc r value live).2.stuck = false) :
    AnswersStores i s ((g (s.fenceWrite c acc r value live).2.blk).succeed id value 0)
        (s.fenceWrite c acc r value live).2.stores ∧
      ∃ t, exec i s = .next t ∧ t.blk.cmd? id = none ∧
        Memory.read t.mem (fenceAddr r c.fence) 16 = fenceBytes value live := by
  have hw := (withFence_found hr id hok act).trans (hact.trans (putFence_ok _ hput))
  have hans : AnswersStores i s ((g (s.fenceWrite c acc r value live).2.blk).succeed id value 0)
      (s.fenceWrite c acc r value live).2.stores := by
    rw [AnswersStores, hx,
      onMemoryWait_done (w := (s.fenceWrite c acc r value live).2.on fun b => (g b).succeed id value 0) hw hs]
    rfl
  obtain ⟨hline, hoff⟩ := fenceAddr_inLine hr
  refine ⟨hans, _, hans, Block.complete_cmd_same .., ?_⟩
  have hread := Memory.read_recordStore (d := fenceBytes value live) hm hline (by simpa using hoff)
  rw [fenceBytes_length] at hread
  rw [← fenceWrite_stores hok hput] at hread
  exact hread

end Found

/-! ### What no fence command stores -/

/-- Work of a fence command has stored nothing, or the 16 bytes of its fence's record in their line. -/
def FenceStored (s : State) (c : Cmd) (r : Nat) (w : Work) : Prop :=
  w.stores = [] ∨ ∃ d : Bytes, d.length = 16 ∧ w.stores = [recordStore s.mem (fenceAddr r c.fence) d]

theorem putFence_stored {s : State} {id r value : Nat} {c : Cmd} {acc : Access} {live : Bool} {g : Block → Block} {w : Work}
    (hmem : w.mem = s.mem) (hw : w.stores = []) : FenceStored s c r (w.putFence id c acc r value live g) := by
  have hput := w.writeRecord_stores (w.blk.fenceAsker c r) acc (fenceAddr r c.fence) (fenceBytes value live)
  rw [hmem, hw] at hput
  have hst : (w.putFence id c acc r value live g).stores =
      (w.writeRecord (w.blk.fenceAsker c r) acc (fenceAddr r c.fence) (fenceBytes value live)).2.stores := by
    unfold Work.putFence
    rw [← fenceBytes]
    split <;> next h => rw [h]; rfl
  obtain ⟨-, h⟩ | ⟨-, h⟩ := hput
  · exact .inr ⟨_, fenceBytes_length _ _, hst.trans h⟩
  · exact .inl (hst.trans h)

/-- It is enough to look at what a command does with the fence that it finds. -/
theorem withFence_stored {s : State} {id r : Nat} {c : Cmd} {acc : Access} {act : Nat → FenceRec → Work → Work}
    (hr : s.blk.begin.fencesOf c.fn = some r) (hact : ∀ f w, w.mem = s.mem → w.stores = [] → FenceStored s c r (act r f w)) :
    FenceStored s c r (s.waitWork.withFence id c acc act) := by
  have hr' : s.waitWork.blk.fencesOf c.fn = some r := hr
  have hread := s.waitWork.readRecord_cases (s.waitWork.blk.fenceAsker c r) acc (fenceAddr r c.fence) 16
  simp only [Work.withFence, hr']
  split
  · next h =>
    rw [h] at hread
    obtain ⟨hst, -⟩ | ⟨b, hb⟩ := hread
    · exact absurd rfl hst
    · obtain rfl : _ = { s.waitWork with blk := b } := hb
      exact hact _ _ rfl rfl
  · next h =>
    rw [h] at hread
    obtain ⟨-, hw⟩ | ⟨b, hb⟩ := hread
    · exact .inl hw
    · exact .inl (congrArg Work.stores hb)

section StoredActs

variable {s : State} {id r : Nat} {c : Cmd} {acc : Access} {f : FenceRec} {w : Work} (hmem : w.mem = s.mem)
  (hw : w.stores = [])
include hmem hw

theorem signalFence_stored : FenceStored s c r (signalFence id c acc r f w) := by
  unfold signalFence
  split_ifs
  · exact .inl hw
  · exact .inl hw
  · exact putFence_stored hmem hw

theorem createFence_stored : FenceStored s c r (createFence id c acc r f w) := by
  unfold createFence
  split_ifs
  · exact .inl hw
  · exact putFence_stored hmem hw

theorem destroyFence_stored : FenceStored s c r (destroyFence id c acc r f w) := by
  unfold destroyFence
  split_ifs
  · exact .inl hw
  · exact putFence_stored hmem hw

end StoredActs

/-- A command that must wait leaves memory; one that need not leaves it after its work's stores. -/
theorem FenceStored.of_onMemoryWait {s t : State} {f : Work → Work} {c : Cmd} {r : Nat}
    (h : FenceStored s c r (f s.waitWork)) (ht : onMemoryWait s f = .next t) :
    ∃ w, FenceStored s c r w ∧ t.mem = applyStores s.mem w.stores := by
  obtain ⟨-, rfl⟩ | ⟨-, -, -, hmem⟩ := onMemoryWait_cases ht
  · exact ⟨s.waitWork, .inl rfl, rfl⟩
  · exact ⟨_, h, hmem⟩

/-- Of the three commands, whatever operation the descriptor names. -/
theorem fenceCommand_stored {s t : State} {i : Instr} {id r : Nat} {c : Cmd} {acc : Access} (hc : CmdReady s id 0x0A01 c)
    (hr : s.blk.begin.fencesOf c.fn = some r) (hi : i = .signal id acc ∨ i = .create id acc ∨ i = .destroy id acc)
    (ht : exec i s = .next t) : ∃ w, FenceStored s c r w ∧ t.mem = applyStores s.mem w.stores := by
  have hnone : ∀ b, FenceStored s c r { s.waitWork with blk := b } := fun _ => .inl rfl
  obtain rfl | rfl | rfl := hi
  · change execSignal id acc s = _ at ht
    rw [execSignal, onCommandMem_ready _ hc] at ht
    refine FenceStored.of_onMemoryWait ?_ ht
    split_ifs
    · exact hnone _
    · exact hnone _
    · exact withFence_stored hr fun _ _ => signalFence_stored
  · change execCreate id acc s = _ at ht
    rw [execCreate, onCommandMem_ready _ hc] at ht
    refine FenceStored.of_onMemoryWait ?_ ht
    split_ifs
    · exact hnone _
    · exact withFence_stored hr fun _ _ => createFence_stored
  · change execDestroy id acc s = _ at ht
    rw [execDestroy, onCommandMem_ready _ hc] at ht
    refine FenceStored.of_onMemoryWait ?_ ht
    split_ifs
    · exact hnone _
    · exact withFence_stored hr fun _ _ => destroyFence_stored

/-- Such work leaves every byte outside the fence's record. -/
theorem FenceStored.get_other {s : State} {c : Cmd} {r a : Nat} {w : Work} (h : FenceStored s c r w) (hm : s.Inv)
    (hr : s.blk.begin.fencesOf c.fn = some r) (ha : a < fenceAddr r c.fence ∨ fenceAddr r c.fence + 16 ≤ a) :
    Memory.get (applyStores s.mem w.stores) a = Memory.get s.mem a := by
  obtain ⟨hline, hoff⟩ := fenceAddr_inLine hr
  obtain h | ⟨d, hd, h⟩ := h
  · rw [h, applyStores]
  · rw [h]
    exact Memory.get_recordStore_other hm hline (by rwa [hd]) (by rwa [hd])

end Sys2Proof.Machine

namespace Sys2Proof.Proofs

open Sys2Proof Sys2Proof.Machine

/-- Each command by what it finds of the fence. -/
theorem fenceCommandsWriteTheRecord : Parts.FenceCommandsWriteTheRecord := by
  intro s id r c acc hm hc hr hok
  refine ⟨fun hop hlive hle => ?_, fun hop hlive => ?_, fun value hop hlive hv => ?_, fun hop hlive hlt => ?_,
    fun hop hlive => ?_, fun hop hlive => ?_, fun hop hlive => ?_⟩
  · refine answers_fenceWritten (g := fun b => b.releaseWaits c.fn c.fence c.value) (exec_signal acc hc hop) hr hok hm ?_
    rw [signalFence, if_neg (by simp [hlive]), if_neg hle.not_gt]
  · refine answers_fenceWritten (g := fun b => b) (exec_create acc hc hop) hr hok hm ?_
    rw [createFence, if_neg (by simp [hlive])]
  · refine answers_fenceWritten (g := fun b => b.endWaits .badOperand fun x => x.on c.fn c.fence) (exec_destroy acc hc hop)
      hr hok hm ?_
    rw [destroyFence, if_neg (by simp [hlive]), hv]
  · refine answers_fenceFound (g := fun b => b.complete id .fenceRegression _ 0 false) (exec_signal acc hc hop) hr hok ?_
    rw [signalFence, if_neg (by simp [hlive]), if_pos hlt]
  · refine answers_fenceFound (g := fun b => b.fail id .badOperand) (exec_signal acc hc hop) hr hok ?_
    rw [signalFence, if_pos (by simp [hlive])]
  · refine answers_fenceFound (g := fun b => b.fail id .badOperand) (exec_create acc hc hop) hr hok ?_
    rw [createFence, if_pos hlive]
  · refine answers_fenceFound (g := fun b => b.fail id .badOperand) (exec_destroy acc hc hop) hr hok ?_
    rw [destroyFence, if_pos (by simp [hlive])]

/-- The waits left are those that do not meet the condition, and the commands of the others complete. -/
theorem fenceWaitsReleased : Parts.FenceWaitsReleased := by
  refine ⟨fun s id c acc hc hop => exec_signal_reserved acc hc hop, fun b fn fence value =>
    ⟨?_, fun x hx hfn hfe hv => ?_, ?_, fun x hx hfn hfe => ?_⟩⟩
  · rw [Block.releaseWaits_eq, Block.completeWaits_waits]
    rfl
  · rw [Block.releaseWaits_eq]
    refine Block.completeWaits_cmd _ _ _ _ _ _ (List.mem_filter.mpr ⟨hx, ?_⟩)
    simp [FenceWaiter.metBy, FenceWaiter.on, hfn, hfe, hv]
  · rw [Block.endWaits_eq, Block.completeWaits_waits]
    rfl
  · rw [Block.endWaits_eq]
    refine Block.completeWaits_cmd _ _ _ _ _ _ (List.mem_filter.mpr ⟨hx, ?_⟩)
    simp [FenceWaiter.on, hfn, hfe]

/-- Whatever such a command answers, it has stored the record's 16 bytes or nothing. -/
theorem fenceCommandsStoreSixteenBytes : Parts.FenceCommandsStoreSixteenBytes := by
  intro s t id r c acc i hm hc hr hi ht a _ ha
  obtain ⟨w, hw, hmem⟩ := fenceCommand_stored hc hr hi ht
  rw [hmem]
  exact hw.get_other hm hr ha

/-- Settles O41: what each command writes or answers, the waits that it releases or ends, and that it stores the sixteen bytes
of the record at most. -/
theorem fenceCommandsSignal : Obligations.FenceCommandsSignal :=
  ⟨fenceCommandsWriteTheRecord, fenceWaitsReleased, fenceCommandsStoreSixteenBytes⟩

end Sys2Proof.Proofs
end

section
/-! The laws of status codes and of completion records: the fields of a record's bytes, and the write that a queue pair's only
record goes out with. -/

namespace Sys2Proof.Machine

open Sys2Proof Sys2Proof.Machine.Crypto

/-! ## Status codes (R325) -/

/-- Every status is listed under its code, and so no two codes are alike. -/
theorem Status.ofCode_code (x : Status) : Status.ofCode x.code.toNat = some x := by cases x <;> rfl

theorem Status.ofCode_eq_some_iff (n : Nat) (x : Status) : Status.ofCode n = some x ↔ x.code.toNat = n := by
  refine ⟨fun h => ?_, fun h => h ▸ Status.ofCode_code x⟩
  have hx := List.find?_some (p := fun s : Status => decide (s.code.toNat = n)) h
  exact of_decide_eq_true hx

/-! ## Fields of byte strings -/

/-- The number in front of other bytes. -/
theorem bfld_toLe_append (n x : Nat) (b : Bytes) : bfld (toLe n x ++ b) 0 n = x % 2 ^ (8 * n) := by
  have hfront : slice (toLe n x ++ b) 0 n = toLe n x := by
    simp [slice]
  rw [bfld, hfront, le_toLe]

theorem bfld_toLe (n x : Nat) : bfld (toLe n x) 0 n = x % 2 ^ (8 * n) := by
  rw [← List.append_nil (toLe n x), bfld_toLe_append]

/-- A field behind a number is one of the bytes that follow. -/
theorem bfld_toLe_append_skip {m off : Nat} (n x : Nat) (b : Bytes) (h : m ≤ off) :
    bfld (toLe m x ++ b) off n = bfld b (off - m) n := by
  have hdrop : (toLe m x ++ b).drop off = b.drop (off - m) := by
    rw [List.drop_append, List.drop_eq_nil_of_le (by rwa [toLe_length]), toLe_length, List.nil_append]
  rw [bfld, slice, hdrop, ← slice, ← bfld]

/-! ## The bytes of a record (R319) -/

@[simp] theorem Rec.bytes_length (r : Rec) (phase : Bool) : (r.bytes phase).length = 32 := by
  simp only [Rec.bytes, List.length_append, toLe_length]

/-- Each number of a record stands at its offset. -/
theorem Rec.bytes_fields (r : Rec) (phase : Bool) :
    bfld (r.bytes phase) 0 8 = r.cookie.toNat % 2 ^ 64 ∧ bfld (r.bytes phase) 8 8 = r.res0.toNat % 2 ^ 64 ∧
    bfld (r.bytes phase) 16 8 = r.res1.toNat % 2 ^ 64 ∧ bfld (r.bytes phase) 24 2 = r.status.code.toNat % 2 ^ 16 ∧
    bfld (r.bytes phase) 26 2 = r.sqIdx % 2 ^ 16 ∧ bfld (r.bytes phase) 28 2 = r.opcode.toNat % 2 ^ 16 ∧
    bfld (r.bytes phase) 30 2 = (bit phase + 2 * bit r.rblock) % 2 ^ 16 := by
  simp [Rec.bytes, bfld_toLe_append_skip, bfld_toLe_append, bfld_toLe]

/-! ## Writes at `hcp_*` (R46, R300) -/

/-- The block once a write has gone out under a tag. -/
def Block.wrote (b : Block) (fn addr : Nat) (data : Bytes) (why : WriteFor) (tag : Nat) : Block :=
  { b with
    out := b.out ++ [.hcpWrite fn (BitVec.ofNat 64 addr) data tag]
    seq := { b.seq with writes := b.seq.writes.put tag why } }

/-- A queue pair with one more record. -/
def QueuePair.withRecord (p : QueuePair) (r : Rec) : QueuePair := { p with done := p.done ++ [r] }

section Running

variable {b : Block} {tag : Nat} (hrun : b.stopped.contains .hcp = false) (htag : b.seq.writes.lowest hcpTags = some tag)
include hrun htag

/-- A write of at most 4,096 bytes goes out at once while the shell's clock runs and a tag is free. -/
theorem Block.hostWrite_running (fn addr : Nat) {data : Bytes} (why : WriteFor) (h : data.length ≤ hcpMax) :
    b.hostWrite fn addr data why = b.wrote fn addr data why tag := by
  have hout := b.emit_running (.hcpWrite fn (BitVec.ofNat 64 addr) data tag) hrun
  rw [Block.hostWrite, if_pos h, Block.issue, htag]
  simp only [hout]
  rfl

/-- The write of a queue pair's first record is to its CQ tail, with its phase. -/
theorem Block.writeRecord_running {q : Nat} {r : Rec} {l : List Rec} (hd : (b.qp q).done = r :: l) :
    b.writeRecord q =
      b.wrote (b.qp q).fn ((b.qp q).cqBase.toNat + 32 * (b.qp q).cqTail) (r.bytes (b.qp q).phase) (.record q) tag := by
  rw [Block.writeRecord, hd]
  refine Block.hostWrite_running hrun htag _ _ _ ?_
  rw [Rec.bytes_length]
  decide

/-- A queue pair's only record goes out at once. -/
theorem Block.queueRecord_out {q : Nat} (r : Rec) (he : (b.qp q).enabled = true) (hd : (b.qp q).done = []) :
    (b.queueRecord q r).out = b.out ++
      [.hcpWrite (b.qp q).fn (BitVec.ofNat 64 ((b.qp q).cqBase.toNat + 32 * (b.qp q).cqTail)) (r.bytes (b.qp q).phase)
        tag] := by
  have hdone : ((b.modQp q fun p => p.withRecord r).qp q).done = [r] := by
    rw [Block.modQp_qp, QueuePair.withRecord, hd, List.nil_append]
  have hout := congrArg Block.out
    (Block.writeRecord_running (b := b.modQp q fun p => p.withRecord r) hrun htag hdone)
  rw [Block.modQp_qp] at hout
  rw [b.queueRecord_first q r he (by rw [hd, List.isEmpty_nil])]
  exact hout

end Running

/-! ## The record of a command (R319) -/

/-- What a command that completes puts into its record. -/
def Cmd.record (c : Cmd) (st : Status) (r0 r1 : BitVec 64) (rb : Bool) : Rec :=
  { cookie := c.cookie, res0 := r0, res1 := r1, status := st, sqIdx := c.sqIdx, opcode := BitVec.ofNat 16 c.opcode
    rblock := rb, irq := c.flags.testBit 0, force := c.opcode = 0x0A03 }

theorem Cmd.record_opcode (c : Cmd) (st : Status) (r0 r1 : BitVec 64) (rb : Bool) :
    (c.record st r0 r1 rb).opcode.toNat = dfld c.desc 0 2 :=
  (BitVec.toNat_ofNat _ _).trans (Nat.mod_eq_of_lt (dfld_lt c.desc 0 2))

/-- A command whose queue pair has no other record writes its own at once. -/
theorem Block.complete_out {b : Block} {id tag : Nat} {c : Cmd} (st : Status) (r0 r1 : BitVec 64) (rb : Bool)
    (hc : b.cmd? id = some c) (htag : b.seq.writes.lowest hcpTags = some tag) (he : (b.qp c.qp).enabled = true)
    (hd : (b.qp c.qp).done = []) (hrun : b.stopped.contains .hcp = false) :
    (b.complete id st r0 r1 rb).out = b.out ++
      [.hcpWrite (b.qp c.qp).fn (BitVec.ofNat 64 ((b.qp c.qp).cqBase.toNat + 32 * (b.qp c.qp).cqTail))
        ((c.record st r0 r1 rb).bytes (b.qp c.qp).phase) tag] := by
  rw [Block.complete_some st r0 r1 rb hc, ← Cmd.record]
  exact Block.queueRecord_out (b := { b with seq := { b.seq with cmds := b.seq.cmds.del id } }) hrun htag _ he hd

end Sys2Proof.Machine

namespace Sys2Proof.Proofs

open Sys2Proof Sys2Proof.Machine

/-- Settles O13: the codes by computation; looking a code up is the inverse of giving it. -/
theorem statusCodes : Obligations.StatusCodes :=
  ⟨rfl, rfl, rfl, rfl, rfl, rfl, rfl, rfl, rfl, rfl, rfl, rfl, rfl, rfl, rfl, rfl, rfl, rfl, rfl, rfl, rfl, rfl, rfl,
    Status.ofCode_eq_some_iff⟩

/-- Settles O12: every number of a record fits the bytes it stands in, and a completing command's record is the one that goes
out. -/
theorem recordLayout : Obligations.RecordLayout := by
  refine ⟨fun r phase hi => ?_, fun b id tag c st r0 r1 rb hc htag he hd hrun => ?_⟩
  · obtain ⟨hcookie, hres0, hres1, hstatus, hidx, hop, hflags⟩ := r.bytes_fields phase
    have hphase := bit_lt_two phase
    have hblock := bit_lt_two r.rblock
    exact ⟨r.bytes_length phase, hcookie.trans (Nat.mod_eq_of_lt r.cookie.isLt),
      hres0.trans (Nat.mod_eq_of_lt r.res0.isLt), hres1.trans (Nat.mod_eq_of_lt r.res1.isLt),
      hstatus.trans (Nat.mod_eq_of_lt r.status.code.isLt), hidx.trans (Nat.mod_eq_of_lt hi),
      hop.trans (Nat.mod_eq_of_lt r.opcode.isLt), hflags.trans (Nat.mod_eq_of_lt (by omega))⟩
  · exact ⟨c.record st r0 r1 rb, rfl, rfl, rfl, rfl, rfl, c.record_opcode st r0 r1 rb, rfl,
      Block.complete_out st r0 r1 rb hc htag he hd hrun⟩

end Sys2Proof.Proofs
end

section
/-! The laws of what the host chip answers with an error: the accesses that follow an answer, the event of a record's write,
and the record of a descriptor's fetch. -/

namespace Sys2Proof.Machine

open Sys2Proof

/-! ## Accesses at `hcp_*` (R46) -/

/-- Block `b` is block `a` after accesses at `hcp_*` and no interrupts: nothing but what crosses there and the sequencer's
bookkeeping of accesses has moved. -/
def Block.Accessed (a b : Block) : Prop :=
  ∃ out held seq, b = { a with out := out, held := held, seq := seq } ∧ seq.cmds = a.seq.cmds ∧
    (∀ f vec, .irq f vec ∈ out → .irq f vec ∈ a.out) ∧ (a.stopped.contains .hcp = false → held = a.held)

namespace Block.Accessed

theorem refl (a : Block) : a.Accessed a := ⟨_, _, _, rfl, rfl, fun _ _ h => h, fun _ => rfl⟩

theorem trans {a b c : Block} (h : a.Accessed b) (h' : b.Accessed c) : a.Accessed c := by
  obtain ⟨_, _, _, rfl, hcmds, hirq, hheld⟩ := h
  obtain ⟨out, held, seq, rfl, hcmds', hirq', hheld'⟩ := h'
  exact ⟨out, held, seq, rfl, hcmds'.trans hcmds, fun f vec hi => hirq f vec (hirq' f vec hi),
    fun hrun => (hheld' hrun).trans (hheld hrun)⟩

/-- A crossing that is at `hcp_*` and no interrupt. -/
theorem emit (b : Block) {c : Cross} (hc : c.shell = .hcp) (hi : ∀ f vec, c ≠ .irq f vec) : b.Accessed (b.emit c) := by
  have hirq : ∀ f vec, Cross.irq f vec ∈ b.out ++ [c] → Cross.irq f vec ∈ b.out := fun f vec h =>
    (List.mem_append.mp h).resolve_right fun h => hi f vec (List.mem_singleton.mp h).symm
  cases hs : b.stopped.contains c.shell with
  | false => exact ⟨_, _, _, b.emit_running c hs, rfl, hirq, fun _ => rfl⟩
  | true =>
    refine ⟨_, _, _, b.emit_held c hs, rfl, fun _ _ h => h, fun hrun => ?_⟩
    rw [← hc, hs] at hrun
    cases hrun

/-- Other bookkeeping of the sequencer, with the same commands in flight. -/
theorem setSeq (b : Block) {q : Sequencer} (h : q.cmds = b.seq.cmds) : b.Accessed { b with seq := q } :=
  ⟨_, _, _, rfl, h, fun _ _ h => h, fun _ => rfl⟩

/-- Such a crossing, and the bookkeeping that goes with it. -/
theorem emitSeq (b : Block) {c : Cross} {q : Sequencer} (hc : c.shell = .hcp) (hi : ∀ f vec, c ≠ .irq f vec)
    (hq : q.cmds = b.seq.cmds) : b.Accessed { b.emit c with seq := q } :=
  (emit b hc hi).trans (setSeq _ (by rw [hq, emit_seq]))

theorem issue (b : Block) (a : HostAccess) : b.Accessed (b.issue a) := by
  unfold Block.issue
  split
  · split
    · exact emitSeq b rfl nofun rfl
    · exact setSeq b rfl
  · split
    · exact emitSeq b rfl nofun rfl
    · exact setSeq b rfl

theorem issues (b : Block) (l : List HostAccess) : b.Accessed (b.issues l) := by
  induction l generalizing b with
  | nil => exact refl b
  | cons a r ih => exact (issue b a).trans (ih _)

theorem hostWrite (b : Block) (fn addr : Nat) (data : Bytes) (why : WriteFor) :
    b.Accessed (b.hostWrite fn addr data why) := by
  unfold Block.hostWrite
  split
  · exact issue b _
  · exact (setSeq b rfl).trans (issues _ _)

theorem hostNext (b : Block) (write : Bool) : b.Accessed (b.hostNext write) := by
  unfold Block.hostNext
  split
  · exact refl b
  · exact (setSeq b rfl).trans (issue _ _)

theorem writeRecord (b : Block) (q : Nat) : b.Accessed (b.writeRecord q) := by
  unfold Block.writeRecord
  split
  · exact refl b
  · exact hostWrite b _ _ _ _

theorem writeFault (b : Block) (f : Nat) : b.Accessed (b.writeFault f) := by
  unfold Block.writeFault
  split
  · exact refl b
  · exact hostWrite b _ _ _ _

/-! ### What they leave -/

section Leaves

variable {a b : Block} (h : a.Accessed b)
include h

theorem qp (q : Nat) : b.qp q = a.qp q := by
  obtain ⟨_, _, _, rfl, -⟩ := h
  rfl

theorem fn (f : Nat) : b.fn f = a.fn f := by
  obtain ⟨_, _, _, rfl, -⟩ := h
  rfl

theorem cmds : b.seq.cmds = a.seq.cmds := by
  obtain ⟨_, _, _, rfl, hcmds, -⟩ := h
  exact hcmds

theorem record (v : Ev) (alarm : Bool) : b.record v alarm = a.record v alarm := by
  obtain ⟨_, _, _, rfl, -⟩ := h
  rfl

theorem no_irq (ha : ∀ f vec, .irq f vec ∉ a.out) (f : Nat) (vec : BitVec 11) : .irq f vec ∉ b.out := by
  obtain ⟨_, _, _, rfl, -, hirq, -⟩ := h
  exact fun hi => ha f vec (hirq f vec hi)

end Leaves

end Block.Accessed

/-! ## An event for one fault queue (R309, R461) -/

/-- A fault queue with one more record on its way. -/
def FnPage.faulted (p : FnPage) (e : Event) (alarm : Bool) : FnPage :=
  { p with faultq := { p.faultq with queue := p.faultq.queue ++ [{ event := e, alarm := alarm }] } }

/-- A fault queue with room takes a record. -/
theorem Block.faultRecord_room {b : Block} {f : Nat} (e : Event) (alarm : Bool) (h : (b.fn f).faultq.room = true) :
    Block.Accessed (b.modFn f fun p => p.faulted e alarm) (b.faultRecord f e alarm) := by
  rw [Block.faultRecord, if_pos h]
  dsimp only
  split
  · exact Block.Accessed.writeFault _ f
  · exact Block.Accessed.refl _

/-- A block with other counts of events and other pages. -/
def Block.noted (b : Block) (o : Observe) (t : Tab FnPage) : Block := { b with obs := o, fns := t }

theorem Block.stream_noted (b : Block) (f : Nat) (e : Event) : ∃ t, b.stream f e = b.noted b.obs t := by
  unfold Block.stream
  split
  · exact ⟨_, rfl⟩
  · exact ⟨b.fns, rfl⟩

/-- The ash streams that carry a record are in the pages. -/
theorem Block.streams_noted (b : Block) (e : Event) : ∃ t, b.streams e = b.noted b.obs t := by
  unfold Block.streams
  split
  · exact b.stream_noted 0 e
  · obtain ⟨t, ht⟩ := b.stream_noted e.fn.toNat e
    obtain ⟨t', ht'⟩ := (b.stream e.fn.toNat e).stream_noted 0 e.pfView
    exact ⟨t', by rw [ht', ht]; rfl⟩

/-- A function's own record goes to its fault queue whole, the PF's too (R462). -/
theorem Block.sendTo_own (b : Block) {f : Nat} {e : Event} (h : f = 0 → e.fn = 0) :
    b.sendTo e false [f] = b.faultRecord f e false := by
  have hwhole : (if f = 0 then e.pfView else e) = e := by
    split
    · next h0 => exact if_pos (.inl (h h0))
    · rfl
  rw [Block.sendTo, Block.sendTo, hwhole]
  simp

/-- An event of a function, raised for that function's fault queue, which has room: the record joins that queue, and of the
rest only the counts and the pages have changed, and the accesses at `hcp_*` move on. -/
theorem Block.raise_own {b : Block} {v : Ev} (h : (b.fn v.fn).faultq.room = true) :
    ∃ o t, (b.noted o t).Accessed (b.raise v [v.fn]) ∧
      (t.getD v.fn {}).faultq.queue = (b.fn v.fn).faultq.queue ++ [{ event := b.record v false }] := by
  obtain ⟨t, ht⟩ := (b.noted (b.obs.note (b.record v false)) b.fns).streams_noted (b.record v false)
  obtain ⟨ash, hash⟩ := (b.noted (b.obs.note (b.record v false)) b.fns).streams_fn (b.record v false) v.fn
  rw [ht] at hash
  have hfn : (b.noted (b.obs.note (b.record v false)) t).fn v.fn = { b.fn v.fn with ash := ash } := hash
  have hown : v.fn = 0 → (b.record v false).fn = 0 := fun h0 => congrArg (BitVec.ofNat 8) h0
  have hsent : b.raise v [v.fn] =
      (b.noted (b.obs.note (b.record v false)) t).faultRecord v.fn (b.record v false) false :=
    (congrArg (fun x : Block => x.sendTo (b.record v false) false [v.fn]) ht).trans (Block.sendTo_own _ hown)
  rw [hsent]
  refine ⟨_, _, Block.faultRecord_room _ false ?_, ?_⟩
  · rw [hfn]
    exact h
  · rw [Tab.getD_put_same, hfn]
    rfl

/-! ## A record whose write has been answered (R300, R322) -/

/-- A queue pair once the write of its first record has been answered. -/
def QueuePair.recordTaken (p : QueuePair) : QueuePair :=
  { p with
    done := p.done.tail
    cqTail := (p.cqTail + 1) % ringSize p.cqLog2
    phase := if (p.cqTail + 1) % ringSize p.cqLog2 = 0 then !p.phase else p.phase
    reserved := p.reserved - 1 }

/-- Behind the only record of a queue pair no other write goes out. -/
theorem Block.advanceCq_last {b : Block} {q : Nat} {r : Rec} (h : (b.qp q).done = [r]) :
    b.advanceCq q = b.modQp q QueuePair.recordTaken := by
  have hdone : ((b.modQp q QueuePair.recordTaken).qp q).done = [] := by
    rw [Block.modQp_qp, QueuePair.recordTaken, h, List.tail_cons]
  change (b.modQp q QueuePair.recordTaken).writeRecord q = _
  rw [Block.writeRecord, hdone]

/-- With no command in flight none can start. -/
theorem Block.kick_idle {b : Block} (q : Nat) (h : b.seq.cmds = []) : b.kick q = b := by
  rw [Block.kick, h, List.filter_nil, Block.kickList]

/-- The event of a record whose write returned an error (R322). -/
def recordFault (q fn : Nat) (r : Rec) : Ev :=
  { code := 0x08, fn := fn, data := [(0, q), (2, r.sqIdx), (4, r.opcode.toNat), (6, r.status.code.toNat)] }

/-- The write of a queue pair's only record has returned an error, with no command in flight: a fault queue with room has the
event, and the CQ tail moves on. -/
theorem Block.recordAnswered_err {b : Block} {q : Nat} {r : Rec} (hd : (b.qp q).done = [r]) (hr : r.restart = false)
    (hc : b.seq.cmds = []) (hroom : (b.fn (b.qp q).fn).faultq.room = true) :
    ∃ o t x, (b.noted o t).Accessed x ∧
      (t.getD (b.qp q).fn {}).faultq.queue =
        (b.fn (b.qp q).fn).faultq.queue ++ [{ event := b.record (recordFault q (b.qp q).fn r) false }] ∧
      b.recordAnswered q true = x.modQp q QueuePair.recordTaken := by
  obtain ⟨o, t, hraised, hqueue⟩ := Block.raise_own (v := recordFault q (b.qp q).fn r) hroom
  refine ⟨o, t, _, hraised, hqueue, ?_⟩
  have hdone := (congrArg QueuePair.done (hraised.qp q)).trans hd
  have hidle := Block.kick_idle (b := (b.raise (recordFault q (b.qp q).fn r) [(b.qp q).fn]).modQp q QueuePair.recordTaken) q
    (hraised.cmds.trans hc)
  rw [Block.recordAnswered, hd]
  simp only [if_true, hr, Bool.false_eq_true, if_false]
  rw [← recordFault]
  exact (congrArg (fun x : Block => x.kick q) (Block.advanceCq_last hdone)).trans hidle

/-- The block once the tag of an answered write is free, and a write that waited for one has gone out. -/
def Block.writeTagFreed (b : Block) (tag : Nat) : Block :=
  ({ b with seq := { b.seq with writes := Tab.del b.seq.writes tag } } : Block).hostNext true

theorem Block.writeTagFreed_accessed (b : Block) (tag : Nat) : b.Accessed (b.writeTagFreed tag) :=
  (Block.Accessed.setSeq b rfl).trans (Block.Accessed.hostNext _ true)

/-- The answer to the write of a record. -/
theorem exec_hcpWriteResponse_record {s : State} {tag q : Nat} (err : Bool) (h : PortOpen .hcp s)
    (hw : s.blk.seq.writes.get? tag = some (.record q)) :
    exec (.hcpWriteResponse tag err) s = .next (s.withBlock ((s.blk.begin.writeTagFreed tag).recordAnswered q err)) := by
  have hw' : s.blk.begin.seq.writes.get? tag = some (.record q) := hw
  change execHcpWriteResponse tag err s = _
  rw [execHcpWriteResponse, atPort_open _ h.1 h.2, onBlock_eq, hw']
  rfl

/-! ## A descriptor fetch that fails (R322) -/

/-- A page's queue that was served last is set. -/
theorem Block.modFn_lastSq (b : Block) (f q g : Nat) :
    ∃ k, (b.modFn f fun p => { p with lastSq := q }).fn g = { b.fn g with lastSq := k } := by
  by_cases hg : g = f
  · subst hg
    exact ⟨q, Block.modFn_fn ..⟩
  · exact ⟨_, Block.modFn_fn_other _ _ hg⟩

/-- A turn that moves on changes whose turn it is, and the queue that its function was served from last (R302). -/
theorem Block.takeTurn_eq (b : Block) (q : Nat) :
    ∃ lastFn turnQp turnLeft t,
      b.takeTurn q =
        { b with seq := { b.seq with lastFn := lastFn, turnQp := turnQp, turnLeft := turnLeft }, fns := t } ∧
      ∀ g, ∃ k, t.getD g {} = { b.fn g with lastSq := k } := by
  unfold Block.takeTurn
  split
  · exact ⟨b.seq.lastFn, b.seq.turnQp, _, b.fns, rfl, fun _ => ⟨_, rfl⟩⟩
  · exact ⟨_, _, _, _, rfl, b.modFn_lastSq (b.qp q).fn q⟩

/-- The read of the SQ entry at a queue pair's head. -/
def Block.entryFetch (b : Block) (q : Nat) : Cross :=
  .hcpRead (b.qp q).fn (BitVec.ofNat 64 ((b.qp q).sqBase.toNat + 64 * (b.qp q).sqHead)) 64
    ((b.seq.reads.lowest hcpTags).getD 255)

/-- A fetch of an SQ entry reads it, takes the turn, and moves the head past it, while the shell's clock runs. -/
theorem Block.fetchEntry_running {b : Block} (q : Nat) (hrun : b.stopped.contains .hcp = false) :
    ∃ lastFn turnQp turnLeft t,
      b.fetchEntry q =
        { b with
          out := b.out ++ [b.entryFetch q]
          qps := b.qps.put q (b.qp q).advanceSq
          seq := { b.seq with lastFn := lastFn, turnQp := turnQp, turnLeft := turnLeft }
          fns := t } ∧
      ∀ g, ∃ k, t.getD g {} = { b.fn g with lastSq := k } := by
  obtain ⟨lastFn, turnQp, turnLeft, t, ht, hfn⟩ := b.takeTurn_eq q
  have hread : (b.takeTurn q).hostFetch (b.qp q).fn ((b.qp q).sqBase.toNat + 64 * (b.qp q).sqHead) 64 =
      { b.takeTurn q with out := b.out ++ [b.entryFetch q] } := by
    rw [ht]
    exact Block.emit_running _ _ hrun
  refine ⟨lastFn, turnQp, turnLeft, t, ?_, hfn⟩
  rw [Block.fetchEntry, hread, ht]
  rfl

/-- An enabled queue pair takes a record, whose write goes out or waits. -/
theorem Block.queueRecord_accessed {b : Block} {q : Nat} (r : Rec) (h : (b.qp q).enabled = true) :
    Block.Accessed (b.modQp q fun p => p.withRecord r) (b.queueRecord q r) := by
  cases hd : (b.qp q).done.isEmpty with
  | true =>
    rw [b.queueRecord_first q r h hd]
    exact Block.Accessed.writeRecord _ q
  | false =>
    rw [b.queueRecord_behind q r h hd]
    exact Block.Accessed.refl _

theorem Block.enabled_of_mayFetch {b : Block} {q : Nat} (h : b.mayFetch q = true) : (b.qp q).enabled = true := by
  simp only [Block.mayFetch, Block.canFetch, Bool.and_eq_true] at h
  grind

/-- The record of a descriptor whose fetch returned an error (R322). -/
def fetchFault (sqIdx : Nat) : Rec := { status := .translationFault, sqIdx := sqIdx, irq := true }

/-- A fetch that returns an error ends with that record. -/
theorem exec_descriptorFetchFault {s : State} {q : Nat} (h : PortOpen .hcp s) (hm : s.blk.mayFetch q = true) :
    exec (.descriptorFetchFault q) s =
      .next (s.withBlock ((s.blk.begin.fetchEntry q).queueRecord q (fetchFault (s.blk.qp q).sqHead))) := by
  have hm' : s.blk.begin.mayFetch q = true := hm
  change execDescriptorFetchFault q s = _
  rw [execDescriptorFetchFault, atPort_open _ h.1 h.2, onBlock_eq, if_pos hm']
  rfl

end Sys2Proof.Machine

namespace Sys2Proof.Proofs

open Sys2Proof Sys2Proof.Machine

/-- The answer frees the write's tag, the event takes the interrupt's place, and the CQ tail moves on. -/
theorem recordWriteFault : Parts.RecordWriteFault := by
  intro s tag q r hp hw hd hr hc hroom
  have hfreed := s.blk.begin.writeTagFreed_accessed tag
  have hqp : (s.blk.begin.writeTagFreed tag).qp q = s.blk.qp q := hfreed.qp q
  have hfn : (s.blk.begin.writeTagFreed tag).fn (s.blk.qp q).fn = s.blk.fn (s.blk.qp q).fn := hfreed.fn _
  have hevent : (s.blk.begin.writeTagFreed tag).record (recordFault q (s.blk.qp q).fn r) false =
      s.blk.record (recordFault q (s.blk.qp q).fn r) false := hfreed.record _ _
  obtain ⟨o, t, x, hx, hqueue, hans⟩ := Block.recordAnswered_err (b := s.blk.begin.writeTagFreed tag) (q := q)
    (by rwa [hqp]) hr (hfreed.cmds.trans hc) (by rwa [hqp, hfn])
  rw [hqp, hfn, hevent] at hqueue
  have hpage : (x.modQp q QueuePair.recordTaken).fn (s.blk.qp q).fn = t.getD (s.blk.qp q).fn {} := hx.fn _
  have hpair : (x.modQp q QueuePair.recordTaken).qp q = (s.blk.qp q).recordTaken := by
    rw [Block.modQp_qp, hx.qp]
    exact congrArg QueuePair.recordTaken hqp
  refine ⟨_, exec_hcpWriteResponse_record true hp hw, rfl, ?_⟩
  rw [State.withBlock_blk, hans, hpage, hpair]
  exact ⟨hx.no_irq (hfreed.no_irq nofun), hqueue, rfl, congrArg List.tail hd, rfl⟩

/-- The head moves past the entry, and the record takes the slot reserved. -/
theorem descriptorFetchFault : Parts.DescriptorFetchFault := by
  intro s q hp hm
  obtain ⟨lastFn, turnQp, turnLeft, t, hfetch, hpages⟩ := Block.fetchEntry_running (b := s.blk.begin) q hp.2
  have hpair : (s.blk.begin.fetchEntry q).qp q = (s.blk.qp q).advanceSq := by
    rw [hfetch]
    exact Tab.getD_put_same ..
  have hothers : ∀ p, p ≠ q → (s.blk.begin.fetchEntry q).qp p = s.blk.qp p := fun p hpq => by
    rw [hfetch]
    exact Tab.getD_put_other _ _ _ hpq
  have henabled : ((s.blk.begin.fetchEntry q).qp q).enabled = true := by
    rw [hpair]
    exact Block.enabled_of_mayFetch hm
  have hx := Block.queueRecord_accessed (fetchFault (s.blk.qp q).sqHead) henabled
  refine ⟨_, exec_descriptorFetchFault hp hm, rfl, ?_⟩
  rw [State.withBlock_blk]
  refine ⟨?_, ?_, fun p hpq => ?_, fun tag hd htag => ?_, fun g => ?_, ?_⟩
  · exact hx.cmds.trans (by rw [hfetch]; rfl)
  · rw [hx.qp, Block.modQp_qp, hpair]
    rfl
  · rw [hx.qp, Block.modQp_qp_other _ _ hpq, hothers p hpq]
  · have hout := Block.queueRecord_out (b := s.blk.begin.fetchEntry q) (by rw [hfetch]; exact hp.2)
      (by rw [hfetch]; exact htag) (fetchFault (s.blk.qp q).sqHead) henabled (by rw [hpair]; exact hd)
    rw [hpair] at hout
    exact hout.trans (by rw [hfetch]; rfl)
  · obtain ⟨k, hk⟩ := hpages g
    rw [hx.fn, hfetch]
    exact congrArg (fun p : FnPage => { p with lastSq := (s.blk.fn g).lastSq }) hk
  · obtain ⟨out, held, seq, hblk, -, -, hheld⟩ := hx
    rw [hblk, hheld (by rw [hfetch]; exact hp.2), hfetch]
    rfl

/-- Settles O39: the write of a record and the fetch of a descriptor, each answered with an error. -/
theorem hostErrorsOfQueues : Obligations.HostErrorsOfQueues := ⟨recordWriteFault, descriptorFetchFault⟩

end Sys2Proof.Proofs
end

section
/-! The laws of the governor: a limit that moves towards its target, a partition's microsecond, and the microsecond of all
sixteen. -/

namespace Sys2Proof.Machine

open Sys2Proof

/-! ## The ramp of a limit (R418, R419) -/

/-- A limit once it has moved towards a target, by at most 16. -/
def rampTo (target limit : Nat) : Nat := if limit < target then min target (limit + 16) else max target (limit - 16)

section Ramp

variable {target limit : Nat}

theorem rampTo_up (h : limit < target) : rampTo target limit = min target (limit + 16) := if_pos h

theorem rampTo_down (h : target ≤ limit) : rampTo target limit = max target (limit - 16) := if_neg (by omega)

/-- A ramp moves by at most 16 either way, and no further than the target. -/
theorem rampTo_bounds : rampTo target limit ≤ max target limit ∧ rampTo target limit ≤ limit + 16 ∧
    limit ≤ rampTo target limit + 16 := by
  rcases Nat.lt_or_ge limit target with h | h
  · rw [rampTo_up h]
    omega
  · rw [rampTo_down h]
    omega

end Ramp

/-! ## A partition's microsecond (R418) -/

theorem bucketDepth_nonneg (cap : Nat) : 0 ≤ bucketDepth cap := Int.natCast_nonneg _

theorem clampInt_mem {lo hi : Int} (x : Int) (h : lo ≤ hi) : lo ≤ clampInt x lo hi ∧ clampInt x lo hi ≤ hi :=
  ⟨le_max_left _ _, max_le h (min_le_left _ _)⟩

/-- The limit that a bucket's level asks for: all of it from half full on, none of it when empty. -/
def bucketTarget (depth level : Int) : Nat := (clampInt (2048 * level / depth) 0 1024).toNat

theorem bucketTarget_cast (depth level : Int) : (bucketTarget depth level : Int) = max 0 (min 1024 (2048 * level / depth)) :=
  Int.toNat_of_nonneg (le_max_left _ _)

theorem bucketTarget_le (depth level : Int) : bucketTarget depth level ≤ 1024 :=
  Int.toNat_le.mpr (clampInt_mem _ (by decide)).2

namespace Partition

variable (p : Partition) (e : Nat)

/-- The level of a capped partition's bucket after a microsecond. -/
def levelAfter : Int :=
  clampInt (p.level + (p.cap * nanojoule : Nat) - e) (-bucketDepth p.cap) (bucketDepth p.cap)

/-- What a partition's limit moves towards in a microsecond. -/
def targetAfter : Nat := if p.cap = 0 then 1024 else bucketTarget (bucketDepth p.cap) (p.levelAfter e)

theorem step_eq : p.step e =
    { p with level := if p.cap = 0 then 0 else p.levelAfter e, limit := rampTo (p.targetAfter e) p.limit } := by
  by_cases h : p.cap = 0 <;> simp only [step, targetAfter, h, if_true, if_false] <;> rfl

theorem step_limit : (p.step e).limit = rampTo (p.targetAfter e) p.limit := by rw [step_eq]

variable {p}

theorem step_level (h : p.cap ≠ 0) : (p.step e).level = p.levelAfter e := by rw [step_eq, if_neg h]

theorem targetAfter_capped (h : p.cap ≠ 0) : p.targetAfter e = bucketTarget (bucketDepth p.cap) (p.levelAfter e) := if_neg h

theorem targetAfter_uncapped (h : p.cap = 0) : p.targetAfter e = 1024 := if_pos h

variable (p)

theorem targetAfter_le : p.targetAfter e ≤ 1024 := by
  by_cases h : p.cap = 0
  · exact (targetAfter_uncapped e h).le
  · rw [targetAfter_capped e h]
    exact bucketTarget_le _ _

theorem levelAfter_mem : -bucketDepth p.cap ≤ p.levelAfter e ∧ p.levelAfter e ≤ bucketDepth p.cap :=
  clampInt_mem _ (by have := bucketDepth_nonneg p.cap; omega)

end Partition

/-! ## PARTITION_SET (R346) -/

/-- Mapping engines changes nothing else of the governor. -/
theorem Block.mapEngines_gov (b : Block) (p : Nat) (l : List Nat) :
    ∃ m, (b.mapEngines p l).gov = { b.gov with engineMap := m } := by
  induction l generalizing b with
  | nil => exact ⟨_, rfl⟩
  | cons e l ih =>
    obtain ⟨m, hm⟩ := ih ((b.modGov fun g => { g with engineMap := g.engineMap.put e p }).emit (.govMap e p))
    rw [Block.emit_gov] at hm
    exact ⟨m, hm⟩

theorem Block.Accessed.gov {a b : Block} (h : a.Accessed b) : b.gov = a.gov := by
  obtain ⟨_, _, _, rfl, -⟩ := h
  rfl

theorem Block.queueRecord_gov (b : Block) (q : Nat) (r : Rec) : (b.queueRecord q r).gov = b.gov := by
  cases h : (b.qp q).enabled with
  | false => rw [b.queueRecord_lost q r h]
  | true => exact (Block.queueRecord_accessed r h).gov

/-- A command that completes leaves the governor. -/
@[simp] theorem Block.complete_gov (b : Block) (id : Nat) (st : Status) (x y : BitVec 64) (r : Bool) :
    (b.complete id st x y r).gov = b.gov := by
  cases h : b.cmd? id with
  | none => rw [b.complete_none id st x y r h]
  | some c =>
    rw [b.complete_some st x y r h]
    exact Block.queueRecord_gov _ _ _

/-- PARTITION_SET with a cap in range sets the partition's cap and owner, and fills its bucket. -/
theorem exec_partitionSet {s : State} {id : Nat} {c : Cmd} (hc : CmdReady s id 0x0B01 c) (hcap : dfld c.desc 56 4 ≤ 4000000) :
    ∃ t, exec (.partitionSet id) s = .next t ∧
      t.blk.partition (dfld c.desc 16 1) = { s.blk.partition (dfld c.desc 16 1) with
        cap := dfld c.desc 56 4, owner := dfld c.desc 17 1, level := bucketDepth (dfld c.desc 56 4) } := by
  obtain ⟨m, hm⟩ := s.blk.begin.mapEngines_gov (dfld c.desc 16 1)
    ((List.range 256).filter fun n => (dfld c.desc 24 32).testBit n)
  change ∃ t, execPartitionSet id s = _ ∧ _
  rw [execPartitionSet, onCommand_ready _ hc]
  refine ⟨_, rfl, ?_⟩
  rw [State.withBlock_blk, if_neg (by omega), Block.partition, Block.succeed, Block.complete_gov]
  dsimp only [Block.modGov]
  rw [hm]
  exact Tab.getD_put_same ..

/-! ## One partition's turn in a governor tick (R414, R418) -/

/-- The energy that a partition counted in the present microsecond, calibrated. -/
def Block.energy (b : Block) (p : Nat) : Nat := b.gov.now.getD p 0 * b.gov.scale

section GovStep

variable (b : Block) (p : Nat)

/-- A partition's account once it has taken the energy counted. -/
def Block.accountsAfter : Tab Nat :=
  if b.energy p = 0 then b.gov.accounts else b.gov.accounts.mod p 0 fun x => x + b.energy p

/-- The partitions once one of them has taken its microsecond. -/
def Block.partsAfter : Tab Partition :=
  if (b.partition p).step (b.energy p) = b.partition p then b.gov.parts
  else b.gov.parts.put p ((b.partition p).step (b.energy p))

theorem Block.govStep_gov : (b.govStep p).gov = { b.gov with accounts := b.accountsAfter p, parts := b.partsAfter p } := by
  unfold Block.govStep
  dsimp only
  split
  · rw [Block.emit_gov]
    rfl
  · rfl

theorem Block.govStep_account_same :
    (b.govStep p).gov.accounts.getD p 0 = b.gov.accounts.getD p 0 + b.energy p := by
  rw [Block.govStep_gov]
  dsimp only [Block.accountsAfter]
  split
  case isTrue h => rw [h, Nat.add_zero]
  case isFalse => exact Tab.getD_put_same ..

theorem Block.govStep_partition_same : (b.govStep p).partition p = (b.partition p).step (b.energy p) := by
  rw [Block.partition, Block.govStep_gov]
  dsimp only [Block.partsAfter]
  split
  case isTrue h => exact h.symm
  case isFalse => exact Tab.getD_put_same ..

variable {p}

theorem Block.govStep_account_other {q : Nat} (h : q ≠ p) :
    (b.govStep p).gov.accounts.getD q 0 = b.gov.accounts.getD q 0 := by
  rw [Block.govStep_gov]
  dsimp only [Block.accountsAfter]
  split
  · rfl
  · exact Tab.getD_put_other _ _ _ h

theorem Block.govStep_partition_other {q : Nat} (h : q ≠ p) : (b.govStep p).partition q = b.partition q := by
  rw [Block.partition, Block.govStep_gov]
  dsimp only [Block.partsAfter]
  split
  · rfl
  · exact Tab.getD_put_other _ _ _ h

theorem Block.govStep_energy (q : Nat) : (b.govStep p).energy q = b.energy q := by
  rw [Block.energy, Block.govStep_gov]
  rfl

end GovStep

/-! ## The turns of several partitions -/

/-- The microsecond of each partition of a list. -/
def Block.govSteps (b : Block) (l : List Nat) : Block := l.foldl Block.govStep b

/-- Turns of partitions touch the accounts and the partitions alone. -/
theorem Block.govSteps_gov (b : Block) (l : List Nat) :
    ∃ accounts parts, (b.govSteps l).gov = { b.gov with accounts := accounts, parts := parts } := by
  induction l generalizing b with
  | nil => exact ⟨_, _, rfl⟩
  | cons p l ih =>
    obtain ⟨accounts, parts, h⟩ := ih (b.govStep p)
    rw [Block.govStep_gov] at h
    exact ⟨accounts, parts, h⟩

/-- A partition whose turn is not among them keeps its account and its state. -/
theorem Block.govSteps_of_not_mem (b : Block) {l : List Nat} {q : Nat} (h : q ∉ l) :
    (b.govSteps l).gov.accounts.getD q 0 = b.gov.accounts.getD q 0 ∧ (b.govSteps l).partition q = b.partition q := by
  induction l generalizing b with
  | nil => exact ⟨rfl, rfl⟩
  | cons p l ih =>
    obtain ⟨hqp, hql⟩ := List.ne_and_not_mem_of_not_mem_cons h
    obtain ⟨haccount, hpart⟩ := ih (b.govStep p) hql
    exact ⟨haccount.trans (b.govStep_account_other hqp), hpart.trans (b.govStep_partition_other hqp)⟩

/-- A partition that has one turn takes the energy that it counted, once. -/
theorem Block.govSteps_of_mem (b : Block) {l : List Nat} {q : Nat} (hl : l.Nodup) (h : q ∈ l) :
    (b.govSteps l).gov.accounts.getD q 0 = b.gov.accounts.getD q 0 + b.energy q ∧
      (b.govSteps l).partition q = (b.partition q).step (b.energy q) := by
  induction l generalizing b with
  | nil => cases h
  | cons p l ih =>
    obtain ⟨hp, hl⟩ := List.nodup_cons.mp hl
    by_cases hqp : q = p
    · subst hqp
      obtain ⟨haccount, hpart⟩ := (b.govStep q).govSteps_of_not_mem hp
      exact ⟨haccount.trans (b.govStep_account_same q), hpart.trans (b.govStep_partition_same q)⟩
    · obtain ⟨haccount, hpart⟩ := ih (b.govStep p) hl ((List.mem_cons.mp h).resolve_left hqp)
      rw [b.govStep_account_other hqp, b.govStep_energy] at haccount
      rw [b.govStep_partition_other hqp, b.govStep_energy] at hpart
      exact ⟨haccount, hpart⟩

/-! ## The whole tick (R414, R415) -/

/-- The governor at the end of a microsecond in which the block's own lanes used an energy and the partitions counted one. -/
def Governor.endTick (g : Governor) (own counted : Nat) : Governor :=
  { g with
    accounts := g.accounts.mod 16 0 fun x => x + own * g.scale
    cal := g.cal.map fun c => (c.1 + g.railEnergy, c.2 + counted)
    now := []
    scale := g.nextScale.getD g.scale
    nextScale := none }

/-- The accounts of the partitions are not the one of the block's own lanes. -/
theorem Governor.endTick_account (g : Governor) (own counted : Nat) {p : Nat} (h : p < 16) :
    (g.endTick own counted).accounts.getD p 0 = g.accounts.getD p 0 := Tab.getD_put_other _ _ _ (by omega)

theorem Governor.endTick_parts (g : Governor) (own counted : Nat) : (g.endTick own counted).parts = g.parts := rfl

/-- A tick outside the safe state and a governor reset: the turns of the sixteen partitions, and the end of the microsecond. -/
theorem exec_governorTick {s : State} (hsafe : s.blk.pins.blockSafe = false) (hreset : Tab.has s.blk.resets 0x75 = false) :
    ∃ b own counted, exec .governorTick s = .next (s.withBlock b) ∧
      b.gov = (s.blk.begin.govSteps (List.range 16)).gov.endTick own counted := by
  have hruns : ¬ (s.blk.begin.pins.blockSafe || Tab.has s.blk.begin.resets 0x75) = true := by
    rw [Block.begin_pins, Block.begin_resets, hsafe, hreset]
    exact Bool.false_ne_true
  change ∃ b own counted, execGovernorTick s = _ ∧ _
  rw [execGovernorTick, onBlock_eq, if_neg hruns]
  generalize List.range 16 = l
  exact ⟨_, _, _, rfl, rfl⟩

end Sys2Proof.Machine

namespace Sys2Proof.Proofs

open Sys2Proof Sys2Proof.Machine

/-- The first part of O15: the bucket, the target and the limit of a capped partition. -/
theorem cappedPartition_step (p : Partition) (e : Nat) (hcap : p.cap ≠ 0) (depth level target : Int)
    (hdepth : depth = p.cap * 1000 * nanojoule)
    (hlevel : level = max (-depth) (min depth (p.level + p.cap * nanojoule - e)))
    (htarget : target = max 0 (min 1024 (2048 * level / depth))) :
    (p.step e).level = level ∧
    ((p.limit : Int) < target → ((p.step e).limit : Int) = min target (p.limit + 16)) ∧
    (target < p.limit → ((p.step e).limit : Int) = max target ((p.limit : Int) - 16)) ∧
    (target = p.limit → (p.step e).limit = p.limit) := by
  have hd : depth = bucketDepth p.cap := by rw [hdepth, bucketDepth]; push_cast; rfl
  have hl : level = p.levelAfter e := by rw [hlevel, hd, Partition.levelAfter, clampInt]; push_cast; rfl
  have ht : target = (p.targetAfter e : Int) := by
    rw [Partition.targetAfter_capped e hcap, bucketTarget_cast, htarget, hl, hd]
  rw [ht, Partition.step_level e hcap, Partition.step_limit]
  refine ⟨hl.symm, fun h => ?_, fun h => ?_, fun h => ?_⟩
  · rw [rampTo_up (by omega)]
    push_cast
    rfl
  · rw [rampTo_down (by omega)]
    omega
  · rw [rampTo_down (by omega)]
    omega

/-- The bounds of O15: a step moves the limit by at most 16 within 1,024, keeps the cap and the owner, and keeps the level
within the bucket. -/
theorem partition_step_bounds (p : Partition) (e : Nat) (h : p.limit ≤ 1024) :
    (p.step e).limit ≤ 1024 ∧ (p.step e).limit ≤ p.limit + 16 ∧ p.limit ≤ (p.step e).limit + 16 ∧
    (p.step e).cap = p.cap ∧ (p.step e).owner = p.owner ∧
    (p.cap ≠ 0 → -(p.cap * 1000 * nanojoule : Nat) ≤ (p.step e).level ∧
      (p.step e).level ≤ (p.cap * 1000 * nanojoule : Nat)) := by
  obtain ⟨hmax, hup, hdown⟩ := rampTo_bounds (target := p.targetAfter e) (limit := p.limit)
  rw [Partition.step_limit]
  refine ⟨hmax.trans (max_le (p.targetAfter_le e) h), hup, hdown, rfl, rfl, fun hcap => ?_⟩
  rw [Partition.step_level e hcap]
  exact p.levelAfter_mem e

/-- Settles O15: the ramp of a partition with and without a cap, its bounds, the bucket that PARTITION_SET fills, and a tick in
which each partition has one turn. -/
theorem governorTickRampsLimits : Obligations.GovernorTickRampsLimits := by
  refine ⟨cappedPartition_step, fun p e h => ?_, fun s id c hc hcap => ?_, partition_step_bounds, fun s hsafe hreset => ?_⟩
  · rw [Partition.step_limit, Partition.targetAfter_uncapped e h]
    rfl
  · obtain ⟨t, ht, hpart⟩ := exec_partitionSet hc hcap
    exact ⟨t, ht, by rw [hpart]; rfl⟩
  · obtain ⟨b, own, counted, hexec, hend⟩ := exec_governorTick hsafe hreset
    obtain ⟨accounts, parts, hgov⟩ := s.blk.begin.govSteps_gov (List.range 16)
    refine ⟨_, hexec, rfl, ?_⟩
    rw [State.withBlock_blk, hend]
    refine ⟨rfl, ?_, rfl, fun p hp => ?_⟩
    · rw [Governor.endTick, hgov]
      rfl
    · obtain ⟨haccount, hpart⟩ := s.blk.begin.govSteps_of_mem List.nodup_range (List.mem_range.mpr hp)
      rw [Governor.endTick_account _ own counted hp, Governor.endTick_parts, haccount]
      exact ⟨rfl, congrArg Partition.limit hpart⟩

end Sys2Proof.Proofs
end

section
/-! The shapes in which commands act, and what every command keeps: the queue, the canonical form of memory, and, unless it may
store, memory itself. -/

namespace Sys2Proof.Machine
open Sys2Proof

/-- A run of a command: a next state with the queue as it was and memory as it was but for stores, of which there are none unless
the command may store. -/
def Runs (s : State) (storing : Bool) (o : Host.Outcome State Fault Refusal) : Prop :=
  ∃ (b : Block) (l : List Store1), o = .next { s with blk := b, mem := applyStores s.mem l } ∧ (storing = false → l = [])

/-- A command runs where its site is built and faults where it is not (R11, R22). -/
def RunsAt (s : State) (x : Site) (storing : Bool) (o : Host.Outcome State Fault Refusal) : Prop :=
  (x.isBuilt s.blk.build = true → Runs s storing o) ∧ (x.isBuilt s.blk.build = false → o = .fault .portNotBuilt)

section Shapes

variable {s : State} {storing : Bool} {o : Host.Outcome State Fault Refusal}

theorem runs_onBlock (f : Block → Block) : Runs s storing (onBlock s f) := ⟨_, [], rfl, fun _ => rfl⟩

theorem runs_onMemory (f : Work → Work) : Runs s true (onMemory s f) := ⟨_, _, rfl, nofun⟩

theorem runs_onMemoryWait (f : Work → Work) : Runs s true (onMemoryWait s f) := by
  unfold onMemoryWait
  dsimp only
  split
  · exact ⟨_, [], rfl, nofun⟩
  · exact ⟨_, _, rfl, nofun⟩

theorem runs_onCommand (id op : Nat) (f : Cmd → Block → Block) : Runs s storing (onCommand s id op f) := runs_onBlock _

theorem runs_onCommandMem (id op : Nat) (f : Cmd → Work → Work) : Runs s true (onCommandMem s id op f) := runs_onMemoryWait _

theorem runsAt_anywhere (h : Runs s storing o) : RunsAt s .anywhere storing o := ⟨fun _ => h, nofun⟩

/-- At a port whose clock stands the command leaves all but the record of the last crossings. -/
theorem runsAt_port {sh : Shell} (h : Runs s storing o) : RunsAt s (.port sh) storing (atPort sh s o) := by
  refine ⟨fun hb => ?_, fun hb => ?_⟩
  · cases hs : s.blk.stopped.contains sh with
    | true => rw [atPort_stopped o hb hs]; exact runs_onBlock id
    | false => rw [atPort_open o hb hs]; exact h
  · have hb : s.blk.build.shellBuilt sh = false := hb
    simp [atPort, hb]

theorem runsAt_behind {sh : Shell} (h : Runs s storing o) : RunsAt s (.behind sh) storing (behindPort sh s o) :=
  ⟨fun hb => (behindPort_open o hb).symm ▸ h, fun hb => if_neg (ne_true_of_eq_false hb)⟩

theorem runsAt_engine {e : Nat} (h : Runs s storing o) : RunsAt s (.engine e) storing (atEngine e s o) :=
  ⟨fun hb => (atEngine_open o hb).symm ▸ h, fun hb => if_neg (ne_true_of_eq_false hb)⟩

/-- A domain command waits at its port while the sequencer is in reset (R19); `hcp_*` is in every configuration. -/
theorem runsAt_domain (h : RunsAt s (.port .hcp) storing o) : RunsAt s (.port .hcp) storing (atDomain s o) := by
  refine ⟨fun hb => ?_, nofun⟩
  unfold atDomain
  split
  · exact runs_onBlock id
  · exact h.1 hb

end Shapes

/-- Every command runs at its site: each has one of the shapes in which a command acts. -/
theorem exec_runsAt (c : Instr) (s : State) : RunsAt s (siteOf c) (mayStore c) (exec c s) := by
  cases c <;> unfold exec
  case porAssert | kindling | kindlingStepDone | pwrGoodFall | pwrFailWarn | ctxKillNotice | qpDisableDone | ashRecord |
      cipherDone | calibrationEnd | keySweep | ember | watchdog | sequencerRestart | alarmFatalTimeout | powerCycleRetry |
      contextKillTimeout | leaseExpiry | coalesceTimeout | ashPacketTimeout | xlateBatchTimeout | periodBoundary |
      fenceWaitTimeout | quiesceDeadline | railRequestTimeout | rpmbRelayTimeout | seedWaitExpiry | governorTick |
      canaryMeasure | railLowerRequest | entropyTestFail | entropyRestart | drbgReseed | maskRekey | eccLeak |
      pkhRequestDone | functionBoundMissed =>
    exact runsAt_anywhere (runs_onBlock _)
  case mreqRead | mreqWrite | mctlReadReturn | lreqLoad | lreqLoadCache | lreqStore | lreqAtomic | lreqCopy | lreqReduce |
      lreqInvalidate | rxLoad | rxLoadCache | rxStore | rxAtomic | rxCopy | rxReduce | rxInvalidate | rxCpl | rxCplData |
      rxCplDataNc | rxInval | rxInvalAck | rxEvict | rxTear | rxAgg | bindLineWrite | rekeyLine | controllerCredit |
      mctlQoccUpdate =>
    exact runsAt_port (runs_onMemory _)
  case keyFillArrival | engineResetComplete | rtagQuarantineExpiry =>
    exact runsAt_engine (runs_onMemory _)
  case dropOrder | dropAck | engineAckTimeout | engineDrainTimeout | bandwidthWindow =>
    exact runsAt_engine (runs_onBlock _)
  case kxpDone | rxTimeReq | rxTimeResp | hello | deferred | evidence | kem | finish | ready | cred | reject | leave |
      lphyUpRise | lphyUpFall | govActReport | govTelReport | railAck | rpmbResult | powerCycleAck | spdmGetVersion |
      spdmGetCapabilities | spdmNegotiateAlgorithms | spdmGetDigests | spdmGetCertificate | spdmChallenge |
      spdmGetMeasurements | spdmKeyExchange | spdmFinish | spdmHeartbeat | spdmEndSession | spdmChunkGet | tapInstruction |
      hcpWriteResponse | hcpReadReturn | descriptorFetch | descriptorFetchFault | doorbellWrite | fnAllocWrite | qpEnable |
      qpDisable | upSet | upClr | downSet | downClr | faultqCtlWrite | ashEnable | ashRelease | flush | cipherGo |
      cipIvWrite | calibrationStart | ccWayWrite | ringSelect | alarmClear | registerWrite | linkTxCredit | refusedRead |
      malformedPacket =>
    exact runsAt_port (runs_onBlock _)
  case windowRetired | ingestChunk | laneInvocation | dmaLine | translationWalkDone =>
    exact runsAt_anywhere (runs_onMemoryWait _)
  case domainLoad =>
    exact runsAt_domain (runsAt_port (runs_onBlock _))
  case domainLeave =>
    exact runsAt_domain (runsAt_port (runs_onMemory _))
  case ccWayApplied | rakeLine =>
    exact runsAt_anywhere (runs_onMemory _)
  case keyGenerate | keyDerive | keyImport | keyExport | keyInvalidate | keyQuery | keyPush | regionBind | regionUnbind |
      regionRekey | regionQuery | ctxOpen | ctxClose | jobJoin | jobLeave | jobKeys | progLoad | progBind | progUnload |
      kilnFinish | dmaCopy | dmaIngest | addrConvert | attestReport | measureLoad | licenseInstall | licenseRevoke |
      meterReport | shuffleEpoch | timeAnchor | eventNotify | partitionSet | ledgerRead | scrubRange | engineReset |
      functionQuiesce | functionResume | heartbeatConfig | debugChallenge | patchWriteFirst | patchWrite | patchVerify |
      patchActivate | patchConfirm | selftest =>
    exact runsAt_anywhere (runs_onCommand _ _ _)
  case ctxKill | kilnSetup | kilnExponent | kilnSum | dmaMap | dmaUnmap | signal | create | destroy | fenceWait |
      scrubSram | functionReset | lcTransition | debugResponse | debugCert | trafficGen =>
    exact runsAt_anywhere (runs_onCommandMem _ _ _)
  case fabTimeout | admissionTimeout | deferredRetry | rejectRetry | timeExchange | shellClockStop | shellClockReturn |
      regionCacheDropAck =>
    exact runsAt_behind (runs_onBlock _)
  case t1Timeout | pairKeyDerivation =>
    exact runsAt_behind (runs_onMemory _)

/-- What a next state shares with the state that the command found. -/
theorem exec_next {c : Instr} {s t : State} (h : exec c s = .next t) :
    t.pending = s.pending ∧ ∃ l, t.mem = applyStores s.mem l ∧ (mayStore c = false → l = []) := by
  obtain ⟨hrun, hfault⟩ := exec_runsAt c s
  cases hb : (siteOf c).isBuilt s.blk.build with
  | false => rw [hfault hb] at h; cases h
  | true =>
    obtain ⟨b, l, he, hl⟩ := hrun hb
    rw [he] at h
    cases h
    exact ⟨rfl, l, rfl, hl⟩

end Sys2Proof.Machine

namespace Sys2Proof.Proofs

open Sys2Proof Sys2Proof.Machine

/-- Settles O4: a command's stores keep the canonical form, and an edge of `tref_clk` makes none. -/
theorem everyStepKeepsMemoryCanonical : Obligations.EveryStepKeepsMemoryCanonical := by
  intro s t hs h
  cases hp : s.pending with
  | nil =>
    simp only [step, hp] at h
    obtain ⟨-, hm, -⟩ := onBlock_cases h
    exact (congrArg Memory.wf hm).trans hs
  | cons c rest =>
    simp only [step, hp] at h
    obtain ⟨-, l, hm, -⟩ := exec_next h
    exact (congrArg Memory.wf hm).trans (wf_applyStores l hs)

/-- Settles O2: every command has one of the shapes in which a command acts, and all of them answer at a built site. -/
theorem everyCommandAnswersWhereItsSiteIsBuilt : Obligations.EveryCommandAnswersWhereItsSiteIsBuilt := by
  intro c s
  obtain ⟨hrun, hfault⟩ := exec_runsAt c s
  exact ⟨fun hb => let ⟨_, _, he, _⟩ := hrun hb; ⟨_, he⟩, hfault⟩

/-- Settles O3. -/
theorem commandsLeaveTheQueue : Obligations.CommandsLeaveTheQueue := fun _ _ _ h => (exec_next h).1

/-- Settles O5: a command that may not store makes no stores. -/
theorem onlyStoringCommandsChangeMemory : Obligations.OnlyStoringCommandsChangeMemory := by
  intro c s t hc h
  obtain ⟨-, l, hm, hl⟩ := exec_next h
  rw [hl hc] at hm
  exact ⟨hm, fun a => congrArg (Memory.get · a) hm⟩

/-- Settles O1. -/
theorem stepRunsTheFrontCommand : Obligations.StepRunsTheFrontCommand := fun _ _ _ => rfl

end Sys2Proof.Proofs
end

section
/-! Two computations that undo themselves or miss nothing: the scramble pad (R134) and the cycle walk of an epoch's order
(R282). -/

namespace Sys2Proof.Machine

open Sys2Proof Sys2Proof.Machine.Crypto

/-! ## Scrambling (R134) -/

theorem scramblePad_lt (x k0 k1 : Nat) : scramblePad x k0 k1 < 2 ^ 64 := by
  unfold scramblePad
  refine Nat.xor_lt_two_pow (Nat.mod_lt _ (by decide)) (lt_of_le_of_lt (Nat.shiftRight_le _ _) (Nat.mod_lt _ (by decide)))

/-- The first word of a run under its pad. -/
theorem scramble_word_lt (a k0 k1 x : Nat) : (x % 2 ^ 64) ^^^ scramblePad a k0 k1 < 2 ^ 64 :=
  Nat.xor_lt_two_pow (Nat.mod_lt _ (by decide)) (scramblePad_lt a k0 k1)

theorem scramble_lt (a k0 k1 n x : Nat) : scramble a k0 k1 n x < 2 ^ (64 * n) := by
  induction n generalizing a x with
  | zero => exact Nat.one_pos
  | succ n ih =>
    have hw := scramble_word_lt a k0 k1 x
    have hr := ih (a + 8) (x / 2 ^ 64)
    rw [scramble, Nat.mul_succ, Nat.add_comm, Nat.pow_add]
    calc 2 ^ 64 * scramble (a + 8) k0 k1 n (x / 2 ^ 64) + ((x % 2 ^ 64) ^^^ scramblePad a k0 k1)
        < 2 ^ 64 * (scramble (a + 8) k0 k1 n (x / 2 ^ 64) + 1) := by rw [Nat.mul_succ]; omega
      _ ≤ 2 ^ 64 * 2 ^ (64 * n) := Nat.mul_le_mul_left _ hr
      _ = 2 ^ (64 * n) * 2 ^ 64 := Nat.mul_comm _ _

theorem scramble_scramble (a k0 k1 n x : Nat) : scramble a k0 k1 n (scramble a k0 k1 n x) = x % 2 ^ (64 * n) := by
  induction n generalizing a x with
  | zero => rw [scramble, Nat.mul_zero, Nat.pow_zero, Nat.mod_one]
  | succ n ih =>
    have hw := scramble_word_lt a k0 k1 x
    have hmod : scramble a k0 k1 (n + 1) x % 2 ^ 64 = (x % 2 ^ 64) ^^^ scramblePad a k0 k1 := by
      rw [scramble, Nat.add_mul_mod_self_left, Nat.mod_eq_of_lt hw]
    have hdiv : scramble a k0 k1 (n + 1) x / 2 ^ 64 = scramble (a + 8) k0 k1 n (x / 2 ^ 64) := by
      rw [scramble, Nat.add_mul_div_left _ _ (by decide), Nat.div_eq_of_lt hw, Nat.zero_add]
    calc scramble a k0 k1 (n + 1) (scramble a k0 k1 (n + 1) x)
        = (((x % 2 ^ 64) ^^^ scramblePad a k0 k1) ^^^ scramblePad a k0 k1) + 2 ^ 64 * (x / 2 ^ 64 % 2 ^ (64 * n)) := by
          conv_lhs => rw [scramble]
          rw [hmod, hdiv, ih]
      _ = x % 2 ^ 64 + 2 ^ 64 * (x / 2 ^ 64 % 2 ^ (64 * n)) := by rw [Nat.xor_xor_cancel_right]
      _ = x % 2 ^ (64 * (n + 1)) := by rw [Nat.mul_succ, Nat.add_comm (64 * n), Nat.pow_add, Nat.mod_mul]

/-! ## The permutation of an epoch (R282) -/

theorem shuffleRound_injective (rk : List Nat) (h k : Nat) : Function.Injective fun x => shuffleRound rk h x k := by
  rintro ⟨a, b⟩ ⟨c, d⟩ he
  simp only [shuffleRound, Prod.mk.injEq] at he
  obtain ⟨rfl, hx⟩ := he
  rw [Nat.xor_left_inj.mp hx]

/-- Both halves of a pair have at most h bits. -/
def HalvesBelow (h : Nat) (x : Nat × Nat) : Prop := x.1 < 2 ^ h ∧ x.2 < 2 ^ h

theorem shuffleRound_below (rk : List Nat) {h : Nat} (k : Nat) {x : Nat × Nat} (hx : HalvesBelow h x) :
    HalvesBelow h (shuffleRound rk h x k) :=
  ⟨hx.2, Nat.xor_lt_two_pow hx.1 (Nat.mod_lt _ (Nat.two_pow_pos h))⟩

theorem shuffleRounds_injective (rk : List Nat) (h : Nat) (l : List Nat) : Function.Injective (l.foldl (shuffleRound rk h)) := by
  induction l with
  | nil => exact Function.injective_id
  | cons k l ih => exact ih.comp (shuffleRound_injective rk h k)

theorem shuffleRounds_below (rk : List Nat) {h : Nat} (l : List Nat) {x : Nat × Nat} (hx : HalvesBelow h x) :
    HalvesBelow h (l.foldl (shuffleRound rk h) x) := by
  induction l generalizing x with
  | nil => exact hx
  | cons k l ih => exact ih (shuffleRound_below rk k hx)

/-- The halves of a number of 2h bits. -/
def halves (h x : Nat) : Nat × Nat := (x >>> h, x % 2 ^ h)

theorem halves_below {h x : Nat} (hx : x < 2 ^ (2 * h)) : HalvesBelow h (halves h x) := by
  refine ⟨?_, Nat.mod_lt _ (Nat.two_pow_pos h)⟩
  rw [halves, Nat.shiftRight_eq_div_pow]
  rw [Nat.two_mul, Nat.pow_add] at hx
  exact Nat.div_lt_of_lt_mul hx

theorem halves_injective (h : Nat) : Function.Injective (halves h) := by
  intro x y he
  simp only [halves, Prod.mk.injEq, Nat.shiftRight_eq_div_pow] at he
  rw [← Nat.div_add_mod x (2 ^ h), ← Nat.div_add_mod y (2 ^ h), he.1, he.2]

/-- Two halves side by side, as a sum. -/
theorem joined_halves {h : Nat} {r : Nat × Nat} (hr : HalvesBelow h r) : (r.1 <<< h ||| r.2) = r.1 * 2 ^ h + r.2 := by
  rw [← Nat.shiftLeft_add_eq_or_of_lt hr.2, Nat.shiftLeft_eq]

/-- The halves of a number after the network's eight rounds. -/
def shuffled (rk : List Nat) (h x : Nat) : Nat × Nat := (List.range 8).foldl (shuffleRound rk h) (halves h x)

theorem shuffled_below (rk : List Nat) {h x : Nat} (hx : x < 2 ^ (2 * h)) : HalvesBelow h (shuffled rk h x) :=
  shuffleRounds_below rk _ (halves_below hx)

theorem shuffled_injective (rk : List Nat) (h : Nat) : Function.Injective (shuffled rk h) :=
  (shuffleRounds_injective rk h _).comp (halves_injective h)

theorem shufflePerm_eq (rk : List Nat) {h x : Nat} (hx : x < 2 ^ (2 * h)) :
    shufflePerm rk h x = 2 ^ h * (shuffled rk h x).1 + (shuffled rk h x).2 := by
  rw [Nat.mul_comm, ← joined_halves (shuffled_below rk hx)]
  rfl

/-- The permutation stays inside its domain. -/
theorem shufflePerm_mapsTo (rk : List Nat) (h : Nat) : Set.MapsTo (shufflePerm rk h) (Set.Iio (2 ^ (2 * h))) (Set.Iio (2 ^ (2 * h))) := by
  intro x hx
  obtain ⟨h1, h2⟩ := shuffled_below rk hx
  change shufflePerm rk h x < 2 ^ (2 * h)
  rw [shufflePerm_eq rk hx, Nat.two_mul, Nat.pow_add]
  calc 2 ^ h * (shuffled rk h x).1 + (shuffled rk h x).2
      < 2 ^ h * ((shuffled rk h x).1 + 1) := Nat.add_lt_add_left h2 _
    _ ≤ 2 ^ h * 2 ^ h := Nat.mul_le_mul_left _ h1

/-- It sends no two numbers of its domain to one. -/
theorem shufflePerm_injOn (rk : List Nat) (h : Nat) : Set.InjOn (shufflePerm rk h) (Set.Iio (2 ^ (2 * h))) := by
  intro x hx y hy he
  obtain ⟨-, hx2⟩ := shuffled_below rk hx
  obtain ⟨-, hy2⟩ := shuffled_below rk hy
  rw [shufflePerm_eq rk hx, shufflePerm_eq rk hy] at he
  have hdiv := congrArg (· / 2 ^ h) he
  have hmod := congrArg (· % 2 ^ h) he
  simp only [Nat.mul_add_mod, Nat.mod_eq_of_lt hx2, Nat.mod_eq_of_lt hy2] at hmod
  simp only [Nat.mul_add_div (Nat.two_pow_pos h), Nat.div_eq_of_lt hx2, Nat.div_eq_of_lt hy2, Nat.add_zero] at hdiv
  exact shuffled_injective rk h (Prod.ext hdiv hmod)

/-! ## Cycle walking -/

section Walk

variable {p : Nat → Nat} {N : Nat} (hp : Set.MapsTo p (Set.Iio N) (Set.Iio N)) (hinj : Set.InjOn p (Set.Iio N))

include hp hinj

/-- Of the first N + 1 places of a walk two are the same, so the walk comes back to where it began. -/
theorem iterate_returns {x : Nat} (hx : x < N) : ∃ k, 0 < k ∧ k ≤ N ∧ p^[k] x = x := by
  have hw : ∀ k, p^[k] x < N := fun k => (hp.iterate k) hx
  obtain ⟨a, b, hab, he⟩ := Fintype.exists_ne_map_eq_of_card_lt (fun k : Fin (N + 1) => (⟨p^[k] x, hw k⟩ : Fin N)) (by simp)
  have he : p^[a] x = p^[b] x := congrArg Fin.val he
  have hback : ∀ {i j : Nat}, i < j → j ≤ N → p^[i] x = p^[j] x → ∃ k, 0 < k ∧ k ≤ N ∧ p^[k] x = x := by
    intro i j hij hj e
    refine ⟨j - i, by omega, by omega, ?_⟩
    rw [show j = i + (j - i) by omega, Function.iterate_add_apply] at e
    exact ((hinj.iterate hp i) hx (hw (j - i)) e).symm
  rcases Nat.lt_or_gt_of_ne (Fin.val_ne_of_ne hab) with h | h
  · exact hback h (Nat.le_of_lt_succ b.isLt) he
  · exact hback h (Nat.le_of_lt_succ a.isLt) he.symm

/-- A walk that leaves from below n comes below n again, for the first time, within N places. -/
theorem iterate_first_below {n i : Nat} (hn : n ≤ N) (hi : i < n) :
    ∃ k, k < N ∧ p^[k] (p i) < n ∧ ∀ j, j < k → n ≤ p^[j] (p i) := by
  obtain ⟨k, hk, hkN, he⟩ := iterate_returns hp hinj (hi.trans_le hn)
  have hex : ∃ j, p^[j] (p i) < n := by
    refine ⟨k - 1, ?_⟩
    rw [← Function.iterate_succ_apply, show (k - 1).succ = k by omega, he]
    exact hi
  have hle : Nat.find hex ≤ k - 1 := Nat.find_min' hex (by
    rw [← Function.iterate_succ_apply, show (k - 1).succ = k by omega, he]; exact hi)
  exact ⟨Nat.find hex, by omega, Nat.find_spec hex, fun j hj => Nat.le_of_not_lt (Nat.find_min hex hj)⟩

/-- Two walks that leave from below n and meet at their first places below n left from one place. -/
theorem walks_meet_once {n i j a b : Nat} (hn : n ≤ N) (hi : i < n) (hj : j < n) (hab : a ≤ b)
    (hb : ∀ c, c < b → n ≤ p^[c] (p j)) (he : p^[a] (p i) = p^[b] (p j)) : i = j := by
  rw [← Function.iterate_succ_apply, ← Function.iterate_succ_apply, show b.succ = a.succ + (b - a) by omega,
    Function.iterate_add_apply] at he
  have hij : i = p^[b - a] j := (hinj.iterate hp a.succ) (hi.trans_le hn) ((hp.iterate _) (hj.trans_le hn)) he
  cases hd : b - a with
  | zero => rw [hd] at hij; exact hij
  | succ d =>
    rw [hd, Function.iterate_succ_apply] at hij
    have := hb d (by omega)
    omega

end Walk

/-- The order's walk ends at its first place below n, when its steps suffice. -/
theorem shuffleOrder_of_first (rk : List Nat) {h n f k x : Nat} (hk : k < f) (hx : (shufflePerm rk h)^[k] x < n)
    (hfirst : ∀ j, j < k → n ≤ (shufflePerm rk h)^[j] x) : shuffleOrder rk h n f x = (shufflePerm rk h)^[k] x := by
  induction k generalizing f x with
  | zero =>
    obtain ⟨f, rfl⟩ := Nat.exists_eq_succ_of_ne_zero (Nat.ne_of_gt hk)
    exact if_pos hx
  | succ k ih =>
    obtain ⟨f, rfl⟩ := Nat.exists_eq_succ_of_ne_zero (Nat.ne_of_gt (Nat.zero_lt_of_lt hk))
    have hx0 : n ≤ x := hfirst 0 (Nat.succ_pos k)
    rw [shuffleOrder, if_neg (Nat.not_lt.mpr hx0)]
    exact ih (Nat.lt_of_succ_lt_succ hk) hx fun j hj => hfirst (j + 1) (Nat.succ_lt_succ hj)

/-- The domain of the permutation holds every sample. -/
theorem le_shuffleDomain (n : Nat) : n ≤ 2 ^ (2 * shuffleHalf n) := by
  have hlog : n - 1 < 2 ^ (Nat.log2 (n - 1) + 1) := Nat.lt_log2_self
  have hhalf : Nat.log2 (n - 1) + 1 ≤ 2 * shuffleHalf n := by
    unfold shuffleHalf ceilDiv
    omega
  have := Nat.pow_le_pow_right (n := 2) (by decide) hhalf
  omega

/-- A position's sample is the first place below n of the walk that leaves from the position. -/
theorem shuffleOrder_eq_first (rk : List Nat) {n i : Nat} (hi : i < n) :
    ∃ k, shuffleOrder rk (shuffleHalf n) n (2 ^ (2 * shuffleHalf n)) (shufflePerm rk (shuffleHalf n) i) =
        (shufflePerm rk (shuffleHalf n))^[k] (shufflePerm rk (shuffleHalf n) i) ∧
      (shufflePerm rk (shuffleHalf n))^[k] (shufflePerm rk (shuffleHalf n) i) < n ∧
      ∀ j, j < k → n ≤ (shufflePerm rk (shuffleHalf n))^[j] (shufflePerm rk (shuffleHalf n) i) := by
  obtain ⟨k, hk, hx, hfirst⟩ :=
    iterate_first_below (shufflePerm_mapsTo rk _) (shufflePerm_injOn rk _) (le_shuffleDomain n) hi
  exact ⟨k, shuffleOrder_of_first rk hk hx hfirst, hx, hfirst⟩

end Sys2Proof.Machine

namespace Sys2Proof.Proofs

open Sys2Proof Sys2Proof.Machine

/-- Settles O36, by induction on the words of the run. -/
theorem scrambleUndoesItself : Obligations.ScrambleUndoesItself :=
  fun a k0 k1 n x => ⟨scramble_scramble a k0 k1 n x, scramble_lt a k0 k1 n x⟩

/-- Settles O34: the network permutes the numbers of 2h bits, and walks of a permutation that leave from different places below n
first come below n at different places. -/
theorem epochOrdersArePermutations : Obligations.EpochOrdersArePermutations := by
  intro rk n _
  refine ⟨fun i hi => ?_, fun i j hi hj he => ?_⟩
  · obtain ⟨k, hk, hx, -⟩ := shuffleOrder_eq_first rk hi
    exact hk ▸ hx
  · obtain ⟨a, ha, -, hfa⟩ := shuffleOrder_eq_first rk hi
    obtain ⟨b, hb, -, hfb⟩ := shuffleOrder_eq_first rk hj
    rw [ha, hb] at he
    have meet := @walks_meet_once _ _ (shufflePerm_mapsTo rk (shuffleHalf n)) (shufflePerm_injOn rk (shuffleHalf n)) n
    rcases Nat.le_total a b with hab | hba
    · exact meet (le_shuffleDomain n) hi hj hab hfb he
    · exact (meet (le_shuffleDomain n) hj hi hba hfa he.symm).symm

end Sys2Proof.Proofs
end

section
/-! Frames: what the shared operations of the block leave. Each is an equation between what is left of a block, of a page or of
the sequencer once the fields that the operation moves are blanked; a field of what is left is then read off by `congrArg`. -/

namespace Sys2Proof.Machine

open Sys2Proof Sys2Proof.Machine.Crypto

/-! ## What is left once the fields that report are blanked -/

/-- A block without its crossings, the sequencer, the queue pairs, the pages and what is observed. -/
def Block.core (b : Block) : Block := { b with out := [], held := [], seq := {}, qps := [], fns := [], obs := {} }

/-- A sequencer without its accesses at `hcp_*`. -/
def Sequencer.core (q : Sequencer) : Sequencer := { q with reads := [], writes := [], hostWait := [], groups := [], nextGroup := 0 }

/-- A page without its ash stream and its fault queue. -/
def FnPage.core (p : FnPage) : FnPage := { p with ash := {}, faultq := {} }

/-- Two pages that differ in their ash stream and fault queue alone. -/
theorem FnPage.core_eq {p q : FnPage} (h : p.core = q.core) : p = { q with ash := p.ash, faultq := p.faultq } := by
  cases p
  cases q
  cases h
  rfl

/-- A field that `core` does not blank, of two blocks that agree but for what it blanks. -/
theorem Block.keeps_of_core {a b : Block} (h : b.core = a.core) {α : Type} (g : Block → α) (hg : ∀ b : Block, g b.core = g b) :
    g b = g a := by rw [← hg b, h, hg a]

/-! ## Crossings and accesses at `hcp_*` (R26, R46) -/

section Accesses

variable (b : Block)

@[simp] theorem Block.emit_core (c : Cross) : (b.emit c).core = b.core := by
  rcases b.emit_cases c with h | h <;> rw [h] <;> rfl

@[simp] theorem Block.emits_frame (l : List Cross) :
    (b.emits l).core = b.core ∧ (b.emits l).seq = b.seq ∧ (b.emits l).qps = b.qps ∧ (b.emits l).fns = b.fns ∧
      (b.emits l).obs = b.obs := by
  induction l generalizing b with
  | nil => exact ⟨rfl, rfl, rfl, rfl, rfl⟩
  | cons c r ih => simpa [Block.emits] using ih (b.emit c)

/-- What an access at `hcp_*` leaves: everything but the tables of accesses and the crossings, none of which is taken back. -/
def Block.Accesses (a b : Block) : Prop :=
  b.core = a.core ∧ b.seq.core = a.seq.core ∧ b.qps = a.qps ∧ b.fns = a.fns ∧ b.obs = a.obs ∧ a.out ⊆ b.out

theorem Block.emit_subset (c : Cross) : b.out ⊆ (b.emit c).out := by
  rcases b.emit_cases c with h | h <;> rw [h]
  · exact List.subset_append_left _ _
  · exact List.Subset.refl _

theorem Block.Accesses.refl : b.Accesses b := ⟨rfl, rfl, rfl, rfl, rfl, List.Subset.refl _⟩

theorem Block.Accesses.trans {a b c : Block} (h : a.Accesses b) (k : b.Accesses c) : a.Accesses c := by
  obtain ⟨h1, h2, h3, h4, h5, h6⟩ := h
  obtain ⟨k1, k2, k3, k4, k5, k6⟩ := k
  exact ⟨k1.trans h1, k2.trans h2, k3.trans h3, k4.trans h4, k5.trans h5, List.Subset.trans h6 k6⟩

theorem Block.accesses_emit (c : Cross) : b.Accesses (b.emit c) :=
  ⟨by simp, by simp, by simp, by simp, by simp, b.emit_subset c⟩

/-- A change of the tables of accesses alone. -/
theorem Block.accesses_setSeq {q : Sequencer} (hq : q.core = b.seq.core) : b.Accesses { b with seq := q } :=
  ⟨rfl, hq, rfl, rfl, rfl, List.Subset.refl _⟩

theorem Block.accesses_issue (a : HostAccess) : b.Accesses (b.issue a) := by
  unfold Block.issue
  split <;> split
  · exact ⟨(b.emit_core _ :), rfl, by simp, by simp, by simp, b.emit_subset _⟩
  · exact b.accesses_setSeq rfl
  · exact ⟨(b.emit_core _ :), rfl, by simp, by simp, by simp, b.emit_subset _⟩
  · exact b.accesses_setSeq rfl

theorem Block.accesses_issues (l : List HostAccess) : b.Accesses (b.issues l) := by
  induction l generalizing b with
  | nil => exact .refl b
  | cons a r ih => exact (b.accesses_issue a).trans (ih _)

theorem Block.accesses_issueGroup (g : HostGroup) (piece : Nat → Nat → HostAccess) : b.Accesses (b.issueGroup g piece) :=
  Block.Accesses.trans (b.accesses_setSeq rfl) (Block.accesses_issues _ _)

theorem Block.accesses_hostRead (fn addr len : Nat) (why : ReadFor) : b.Accesses (b.hostRead fn addr len why) := by
  unfold Block.hostRead
  split
  · exact b.accesses_issue _
  · exact b.accesses_issueGroup _ _

theorem Block.accesses_hostWrite (fn addr : Nat) (data : Bytes) (why : WriteFor) :
    b.Accesses (b.hostWrite fn addr data why) := by
  unfold Block.hostWrite
  split
  · exact b.accesses_issue _
  · exact b.accesses_issueGroup _ _

theorem Block.accesses_hostNext (write : Bool) : b.Accesses (b.hostNext write) := by
  unfold Block.hostNext
  split
  · exact .refl b
  · exact Block.Accesses.trans (b.accesses_setSeq rfl) (Block.accesses_issue _ _)

theorem Block.accesses_writeRecord (q : Nat) : b.Accesses (b.writeRecord q) := by
  unfold Block.writeRecord
  split
  · exact .refl b
  · exact b.accesses_hostWrite _ _ _ _

theorem Block.accesses_writeFault (f : Nat) : b.Accesses (b.writeFault f) := by
  unfold Block.writeFault
  split
  · exact .refl b
  · exact b.accesses_hostWrite _ _ _ _

end Accesses

namespace Block.Accesses

variable {a b : Block} (h : a.Accesses b)
include h

theorem core : b.core = a.core := h.1
theorem seqCore : b.seq.core = a.seq.core := h.2.1
theorem qps : b.qps = a.qps := h.2.2.1
theorem fns : b.fns = a.fns := h.2.2.2.1
theorem obs : b.obs = a.obs := h.2.2.2.2.1
theorem out : a.out ⊆ b.out := h.2.2.2.2.2
theorem fn (f : Nat) : b.fn f = a.fn f := by rw [Block.fn, h.fns, Block.fn]
theorem qp (q : Nat) : b.qp q = a.qp q := by rw [Block.qp, h.qps, Block.qp]
theorem cmds : b.seq.cmds = a.seq.cmds := (congrArg Sequencer.cmds h.seqCore :)
theorem cmd (id : Nat) : b.cmd? id = a.cmd? id := congrArg (Tab.get? · id) h.cmds

end Block.Accesses

/-! ## Events (R309, R460, R481) -/

/-- What an event leaves: everything but the accesses, what is observed, the ash streams and fault queues, and the crossings, none of
which is taken back. -/
def Block.Notifies (a b : Block) : Prop :=
  b.core = a.core ∧ b.seq.core = a.seq.core ∧ b.qps = a.qps ∧ (∀ f, (b.fn f).core = (a.fn f).core) ∧ a.out ⊆ b.out

namespace Block.Notifies

theorem refl (b : Block) : b.Notifies b := ⟨rfl, rfl, rfl, fun _ => rfl, List.Subset.refl _⟩

theorem trans {a b c : Block} (h : a.Notifies b) (k : b.Notifies c) : a.Notifies c := by
  obtain ⟨h1, h2, h3, h4, h5⟩ := h
  obtain ⟨k1, k2, k3, k4, k5⟩ := k
  exact ⟨k1.trans h1, k2.trans h2, k3.trans h3, fun f => (k4 f).trans (h4 f), List.Subset.trans h5 k5⟩

theorem ofAccesses {a b : Block} (h : a.Accesses b) : a.Notifies b :=
  ⟨h.core, h.seqCore, h.qps, fun f => congrArg FnPage.core (h.fn f), h.out⟩

/-- A page takes another ash stream or fault queue. -/
theorem modFn (b : Block) (f : Nat) {g : FnPage → FnPage} (hg : ∀ p, (g p).core = p.core) : b.Notifies (b.modFn f g) := by
  refine ⟨rfl, rfl, rfl, fun k => ?_, List.Subset.refl _⟩
  by_cases hk : k = f
  · rw [hk, Block.modFn_fn, hg]
  · rw [Block.modFn_fn_other _ _ hk]

variable {a b : Block} (h : a.Notifies b)
include h

theorem core : b.core = a.core := h.1
theorem seqCore : b.seq.core = a.seq.core := h.2.1
theorem qps : b.qps = a.qps := h.2.2.1
theorem fnCore (f : Nat) : (b.fn f).core = (a.fn f).core := h.2.2.2.1 f
theorem out : a.out ⊆ b.out := h.2.2.2.2
theorem qp (q : Nat) : b.qp q = a.qp q := by rw [Block.qp, h.qps, Block.qp]
theorem cmds : b.seq.cmds = a.seq.cmds := (congrArg Sequencer.cmds h.seqCore :)
theorem cmd (id : Nat) : b.cmd? id = a.cmd? id := congrArg (Tab.get? · id) h.cmds

end Block.Notifies

section Events

variable (b : Block)

theorem Block.notifies_stream (f : Nat) (e : Event) : b.Notifies (b.stream f e) := by
  unfold Block.stream
  split
  · exact .modFn b f fun _ => rfl
  · exact .refl b

theorem Block.notifies_streams (e : Event) : b.Notifies (b.streams e) := by
  unfold Block.streams
  split
  · exact b.notifies_stream 0 e
  · exact (b.notifies_stream _ e).trans (Block.notifies_stream _ 0 _)

/-- A change of a fault queue and an access after it. -/
theorem Block.notifies_faultq (f : Nat) (g : FnPage → FnPage) (hg : ∀ p, (g p).core = p.core) {c : Block}
    (h : (b.modFn f g).Accesses c) : b.Notifies c ∧ c.obs = b.obs :=
  ⟨(Block.Notifies.modFn b f hg).trans (.ofAccesses h), h.obs⟩

theorem Block.notifies_faultRecord (f : Nat) (e : Event) (alarm : Bool) :
    b.Notifies (b.faultRecord f e alarm) ∧ (b.faultRecord f e alarm).obs = b.obs := by
  unfold Block.faultRecord
  split
  · dsimp only
    split
    · exact b.notifies_faultq f _ (by intro _; rfl) (Block.accesses_writeFault _ f)
    · exact b.notifies_faultq f _ (by intro _; rfl) (.refl _)
  · dsimp only
    split
    · exact b.notifies_faultq f _ (by intro _; rfl) (Block.accesses_emit _ _)
    · exact b.notifies_faultq f _ (by intro _; rfl) (.refl _)

theorem Block.notifies_sendTo (e : Event) (alarm : Bool) (l : List Nat) :
    b.Notifies (b.sendTo e alarm l) ∧ (b.sendTo e alarm l).obs = b.obs := by
  induction l generalizing b with
  | nil => exact ⟨.refl b, rfl⟩
  | cons f r ih =>
    obtain ⟨h, ho⟩ := b.notifies_faultRecord f (if f = 0 then e.pfView else e) (alarm ∧ f = 0)
    obtain ⟨k, ko⟩ := ih (b.faultRecord f (if f = 0 then e.pfView else e) (alarm ∧ f = 0))
    exact ⟨h.trans k, ko.trans ho⟩

theorem Block.raiseRecord_obs (e : Event) (alarm : Bool) (qs : List Nat) : (b.raiseRecord e alarm qs).obs = b.obs.note e :=
  (Block.notifies_sendTo _ _ _ _).2.trans (Block.streams_obs _ _)

theorem Block.notifies_raiseRecord (e : Event) (alarm : Bool) (qs : List Nat) : b.Notifies (b.raiseRecord e alarm qs) := by
  have hn : b.Notifies { b with obs := b.obs.note e } := ⟨rfl, rfl, rfl, fun _ => rfl, List.Subset.refl _⟩
  exact (hn.trans (Block.notifies_streams _ _)).trans (Block.notifies_sendTo _ _ _ _).1

/-- An event that is raised leaves all that does not report. -/
theorem Block.notifies_raise (v : Ev) (qs : List Nat) : b.Notifies (b.raise v qs) := b.notifies_raiseRecord _ _ _

theorem Block.notifies_raisePf (code engine : Nat) (data : List (Nat × Nat)) : b.Notifies (b.raisePf code engine data) :=
  b.notifies_raise _ _

@[simp] theorem Block.raise_obs (v : Ev) (qs : List Nat) : (b.raise v qs).obs = b.obs.note (b.record v false) :=
  b.raiseRecord_obs _ _ _

/-- An event is counted (R480). -/
theorem Observe.note_events (o : Observe) (e : Event) : (o.note e).events.getD e.code.toNat 0 = satAdd64 (o.events.getD e.code.toNat 0) 1 :=
  Tab.getD_put_same _ _ _ _

/-- An event that is raised counts one of its code. -/
theorem Block.raise_events (v : Ev) (qs : List Nat) (hv : v.code < 65536) :
    (b.raise v qs).obs.events.getD v.code 0 = satAdd64 (b.obs.events.getD v.code 0) 1 := by
  have hc : (b.record v false).code.toNat = v.code := by
    rw [Block.record, BitVec.toNat_ofNat, Nat.mod_eq_of_lt hv]
  have h := Observe.note_events b.obs (b.record v false)
  rw [hc] at h
  rw [Block.raise_obs, h]

theorem Block.raisePf_events (code engine : Nat) (data : List (Nat × Nat)) (hv : code < 65536) :
    (b.raisePf code engine data).obs.events.getD code 0 = satAdd64 (b.obs.events.getD code 0) 1 :=
  b.raise_events { code := code, engine := engine, blockwide := true, data := data } [0] hv

/-- An alarm leaves all that does not report, sets its bit, and counts its event (R483). -/
theorem Block.notifies_alarm (k : Nat) (v : Ev) (qs : List Nat) :
    b.Notifies (b.alarm k v qs) ∧
      (b.alarm k v qs).obs = ({ b.obs with alarm := b.obs.alarm ||| BitVec.ofNat 7 (2 ^ k) } : Observe).note (b.record v true) := by
  have h1 : b.Notifies { b with obs := { b.obs with alarm := b.obs.alarm ||| BitVec.ofNat 7 (2 ^ k) } } :=
    ⟨rfl, rfl, rfl, fun _ => rfl, List.Subset.refl _⟩
  unfold Block.alarm
  dsimp only
  split
  · exact ⟨(h1.trans (Block.notifies_raiseRecord _ _ _ _)).trans (.ofAccesses (Block.accesses_emit _ _)),
      (Block.emit_obs _ _).trans (Block.raiseRecord_obs _ _ _ _)⟩
  · exact ⟨h1.trans (Block.notifies_raiseRecord _ _ _ _), Block.raiseRecord_obs _ _ _ _⟩

theorem Block.alarm_events (k : Nat) (v : Ev) (qs : List Nat) (hv : v.code < 65536) :
    (b.alarm k v qs).obs.events.getD v.code 0 = satAdd64 (b.obs.events.getD v.code 0) 1 := by
  have hc : (b.record v true).code.toNat = v.code := by
    rw [Block.record, BitVec.toNat_ofNat, Nat.mod_eq_of_lt hv]
  have h := Observe.note_events { b.obs with alarm := b.obs.alarm ||| BitVec.ofNat 7 (2 ^ k) } (b.record v true)
  rw [hc] at h
  rw [(b.notifies_alarm k v qs).2, h]

theorem Block.alarm_alarm (k : Nat) (v : Ev) (qs : List Nat) :
    (b.alarm k v qs).obs.alarm = b.obs.alarm ||| BitVec.ofNat 7 (2 ^ k) := by
  rw [(b.notifies_alarm k v qs).2]
  rfl

end Events

/-! ## Completions (R319 to R321) -/

section Completions

variable (b : Block)

/-- A record leaves all but its queue pair and the accesses at `hcp_*`. -/
theorem Block.queueRecord_frame (q : Nat) (r : Rec) :
    (b.queueRecord q r).core = b.core ∧ (b.queueRecord q r).seq.core = b.seq.core ∧ (b.queueRecord q r).fns = b.fns ∧
      (b.queueRecord q r).obs = b.obs := by
  unfold Block.queueRecord
  split_ifs
  · exact ⟨rfl, rfl, rfl, rfl⟩
  · have h := Block.accesses_writeRecord (b.modQp q fun p => { p with done := p.done ++ [r] }) q
    exact ⟨h.core, h.seqCore, h.fns, h.obs⟩
  · exact ⟨rfl, rfl, rfl, rfl⟩

/-- The queue pairs after a record. -/
theorem Block.queueRecord_qp (q p : Nat) (r : Rec) :
    (b.queueRecord q r).qp p =
      if p = q ∧ (b.qp q).enabled = true then { b.qp q with done := (b.qp q).done ++ [r] } else b.qp p := by
  have hmod : ((b.modQp q fun p => { p with done := p.done ++ [r] }).qp p) =
      if p = q then { b.qp q with done := (b.qp q).done ++ [r] } else b.qp p := by
    split
    · next h => rw [h, Block.modQp_qp]
    · next h => rw [Block.modQp_qp_other _ _ h]
  unfold Block.queueRecord
  cases he : (b.qp q).enabled with
  | false => simp
  | true =>
    simp only [Bool.not_true, Bool.false_eq_true, if_false, and_true]
    split
    · rw [(Block.accesses_writeRecord _ q).qp, hmod]
    · exact hmod

variable (id : Nat) (st : Status) (x y : BitVec 64) (r : Bool)

theorem Block.complete_frame :
    (b.complete id st x y r).core = b.core ∧
      (b.complete id st x y r).seq.core = { b.seq.core with cmds := b.seq.cmds.del id } ∧
      (b.complete id st x y r).fns = b.fns ∧ (b.complete id st x y r).obs = b.obs := by
  cases h : b.cmd? id with
  | none =>
    rw [Block.complete_none _ _ _ _ _ _ h, Tab.del_of_get?_eq_none h]
    exact ⟨rfl, rfl, rfl, rfl⟩
  | some c =>
    rw [Block.complete_some _ _ _ _ h]
    exact Block.queueRecord_frame _ _ _

@[simp] theorem Block.complete_core : (b.complete id st x y r).core = b.core := (b.complete_frame id st x y r).1
@[simp] theorem Block.complete_fns : (b.complete id st x y r).fns = b.fns := (b.complete_frame id st x y r).2.2.1
@[simp] theorem Block.complete_obs : (b.complete id st x y r).obs = b.obs := (b.complete_frame id st x y r).2.2.2
@[simp] theorem Block.complete_cmds : (b.complete id st x y r).seq.cmds = b.seq.cmds.del id :=
  (b.complete_leaves id st x y r).1
@[simp] theorem Block.complete_fn (f : Nat) : (b.complete id st x y r).fn f = b.fn f := by
  rw [Block.fn, Block.complete_fns, Block.fn]

theorem Block.complete_cmd_other {j : Nat} (h : j ≠ id) : (b.complete id st x y r).cmd? j = b.cmd? j := by
  rw [Block.cmd?, Block.complete_cmds, Tab.get?_del_other _ h, Block.cmd?]

/-- The queue pairs after a completion. -/
theorem Block.complete_qp {c : Cmd} (h : b.cmd? id = some c) (q : Nat) :
    (b.complete id st x y r).qp q =
      if q = c.qp ∧ (b.qp c.qp).enabled = true then { b.qp c.qp with done := (b.qp c.qp).done ++
        [{ cookie := c.cookie, res0 := x, res1 := y, status := st, sqIdx := c.sqIdx, opcode := BitVec.ofNat 16 c.opcode,
           rblock := r, irq := c.flags.testBit 0, force := c.opcode = 0x0A03 }] } else b.qp q := by
  rw [Block.complete_some _ _ _ _ h]
  exact Block.queueRecord_qp _ _ _ _

variable (m n : Nat)

@[simp] theorem Block.succeed_core : (b.succeed id m n).core = b.core := Block.complete_core ..
@[simp] theorem Block.succeed_fns : (b.succeed id m n).fns = b.fns := Block.complete_fns ..
@[simp] theorem Block.succeed_obs : (b.succeed id m n).obs = b.obs := Block.complete_obs ..
@[simp] theorem Block.succeed_cmd : (b.succeed id m n).cmd? id = none := Block.complete_cmd_same ..
@[simp] theorem Block.fail_core : (b.fail id st).core = b.core := Block.complete_core ..
@[simp] theorem Block.fail_fns : (b.fail id st).fns = b.fns := Block.complete_fns ..
@[simp] theorem Block.fail_obs : (b.fail id st).obs = b.obs := Block.complete_obs ..
@[simp] theorem Block.fail_cmd : (b.fail id st).cmd? id = none := Block.complete_cmd_same ..

/-- A result block leaves all but the sequencer and the crossings. -/
theorem Block.output_frame (addr : Nat) (data : Bytes) :
    (b.output id addr data st m n).core = b.core ∧ (b.output id addr data st m n).qps = b.qps ∧
      (b.output id addr data st m n).fns = b.fns ∧ (b.output id addr data st m n).obs = b.obs := by
  unfold Block.output
  split
  · exact ⟨rfl, rfl, rfl, rfl⟩
  · have h := Block.accesses_hostWrite (b.modCmd id fun c => { c with stage := .waiting }) ‹Cmd›.fn addr data
      (.block id st (BitVec.ofNat 64 m) (BitVec.ofNat 64 n))
    exact ⟨h.core, h.qps, h.fns, h.obs⟩

end Completions

end Sys2Proof.Machine
end

section
/-! Registers: the state after reset, writes to the global registers and to CX_FN_FAULTQ_CTL, doorbells, queue pairs, the ash
stream, and an edge of `tref_clk`. -/

namespace Sys2Proof.Machine

open Sys2Proof Sys2Proof.Machine.Crypto

/-! ## Reach -/

/-- The PF reaches every aligned register below the capability table and every observation register (R484). -/
theorem HcpOpen.reach_global {s : State} (h : HcpOpen s) {off : Nat} (h8 : off % 8 = 0) (hoff : off < 0x01_0000) :
    s.blk.begin.reach 0 off true = true := by
  obtain ⟨-, hsafe, hboot⟩ := h
  simp [Block.reach, hsafe, hboot, h8, hoff]

theorem HcpOpen.reach_observe {s : State} (h : HcpOpen s) {off : Nat} (h8 : off % 8 = 0) (hlo : 0x02_0000 ≤ off)
    (hhi : off < 0x10_0000) : s.blk.begin.reach 0 off true = true := by
  obtain ⟨-, hsafe, hboot⟩ := h
  have h1 : ¬ off < 0x01_0000 := by omega
  have h2 : ¬ off < 0x02_0000 := by omega
  simp [Block.reach, hsafe, hboot, h8, h1, h2, hhi]

/-- The owner of a queue pair reaches its doorbell (R292). -/
theorem HcpOpen.reach_doorbell {s : State} (h : HcpOpen s) {f q : Nat} (hq : q < 65536) (ho : s.blk.qpOwner q = some f) :
    s.blk.begin.reach f (0x40_0000 + 8 * q) true = true := by
  obtain ⟨-, hsafe, hboot⟩ := h
  have ho' : s.blk.begin.qpOwner q = some f := ho
  have h8 : (0x40_0000 + 8 * q) % 8 = 0 := by omega
  have h1 : ¬ 0x40_0000 + 8 * q < 0x01_0000 := by omega
  have h2 : ¬ 0x40_0000 + 8 * q < 0x02_0000 := by omega
  have h3 : ¬ 0x40_0000 + 8 * q < 0x10_0000 := by omega
  have h4 : ¬ 0x40_0000 + 8 * q < 0x20_0000 := by omega
  have h5 : 0x40_0000 + 8 * q < 0x48_0000 := by omega
  simp [Block.reach, hsafe, hboot, h8, h1, h2, h3, h4, h5, ho']

/-- A control register of a page that the PF and the page's own function write (R292). -/
theorem Block.pageReach_control (b : Block) {fn f o : Nat} (h : fn = f ∨ fn = 0) (ho : pageArea o = .control)
    (hp : pfWrites o = false) (hb : o = 0xC30 → (b.fn f).qpCtlBusy = false) : b.pageReach fn f o true = true := by
  have hfn : (fn = f || fn = 0) = true := by simpa using h
  have hbusy : (decide (o = 0xC30) && (b.fn f).qpCtlBusy) = false := by
    by_cases ho : o = 0xC30
    · rw [hb ho, Bool.and_false]
    · rw [decide_eq_false ho, Bool.false_and]
  simp only [Block.pageReach, ho, hfn, hp, Bool.and_false, Bool.false_and, Bool.not_false, Bool.true_and, hbusy]

/-- A register command that a running shell answers: the act, and then the acknowledgement. -/
theorem atRegister_acked {s : State} {fn off : Nat} (h : HcpOpen s) (hr : s.blk.begin.reach fn off true = true)
    (act : Block → Block) {b : Block} (ha : act s.blk.begin = b) (hs : b.stopped = s.blk.stopped) :
    atRegister s fn off act = .next (s.withBlock (b.crossed [.hcpT 0 false])) := by
  rw [atRegister_reached h hr, ha, Block.emit_running _ _ (by rw [hs]; exact h.1)]
  rfl

theorem atConfig_acked {s : State} {fn off : Nat} (val : Reg) (h : HcpOpen s) (hr : s.blk.begin.reach fn off true = true)
    (hq : (s.blk.boot.seqReset && sequencerReg off) = false) (act : Block → Block) {b : Block} (ha : act s.blk.begin = b)
    (hs : b.stopped = s.blk.stopped) : atConfig s fn off val act = .next (s.withBlock (b.crossed [.hcpT 0 false])) := by
  rw [atConfig_reached val h hr hq, ← atRegister_reached h hr act, atRegister_acked h hr act ha hs]

/-- A write to a register of the PF's, while the sequencer is up. -/
theorem exec_registerWrite_global {s : State} {off : Nat} (v : Reg) (h : HcpOpen s) (hq : s.blk.boot.seqReset = false)
    (h8 : off % 8 = 0) (hoff : off < 0x01_0000) {b : Block} (ha : s.blk.begin.writeGlobal 0 off v = b)
    (hs : b.stopped = s.blk.stopped) : Answers (.registerWrite 0 off v) s (b.crossed [.hcpT 0 false]) := by
  refine atConfig_acked v h (h.reach_global h8 hoff) (by rw [hq, Bool.false_and]) _ ?_ hs
  rw [Block.regWrite, if_pos hoff, ha]

/-- A way group that is free and that a write changes (R491). -/
theorem Block.writeCcWay_differs {b : Block} {fn g : Nat} {v : Reg} (hg : 2 ≤ g) (hb : (b.ways.getD g {}).busy = false)
    (hv : rbit v 9 = true → rbit v 8 = true) (hd : (b.ways.getD g {}).differs v = true) :
    b.writeCcWay fn g v =
      { b with ways := b.ways.put g
                 { b.ways.getD g {} with busy := true, next := some (v.truncate 8, rbit v 8, rbit v 9) } } := by
  have hshared : (rbit v 9 && !rbit v 8) = false := by
    cases h9 : rbit v 9 with
    | false => rfl
    | true => rw [hv h9]; rfl
  have hno : ¬ (decide (g < 2) || (b.ways.getD g {}).busy || (rbit v 9 && !rbit v 8)) = true := by
    rw [hb, hshared, decide_eq_false hg.not_gt]
    nofun
  exact (if_neg hno).trans (if_pos hd)

/-! ## Queue pairs (R298) -/

/-- The page once a write to CX_FN_QP_CTL names its queue pair and operation. -/
def FnPage.qpCtlSet (p : FnPage) (q op : Nat) : FnPage :=
  { p with qpCtlQp := BitVec.ofNat 16 q, qpCtlOp := BitVec.ofNat 2 op }

/-- The page while its CX_FN_QP_CTL is BUSY with an operation. -/
def FnPage.qpCtlBegun (p : FnPage) (q op : Nat) : FnPage := { p.qpCtlSet q op with qpCtlBusy := true }

@[simp] theorem Block.setFn_qp (b : Block) (f : Nat) (p : FnPage) (q : Nat) : (b.setFn f p).qp q = b.qp q := rfl

/-- QP_ENABLE of a pair of the range that is not enabled: BUSY, and the read of its entry. -/
theorem Block.writeQpCtl_enable {b : Block} {f q : Nat} (hr : b.boot.ready = true) (hh : (b.fn f).holdsQp q = true)
    (he : (b.qp q).enabled = false) :
    b.writeQpCtl f q 1 =
      (b.setFn f ((b.fn f).qpCtlBegun q 1)).hostRead f
        ((b.fn f).qtable.toNat * 4096 + 64 * (q - (b.fn f).qpBase.toNat)) 64 (.queueEntry f (BitVec.ofNat 16 q)) := by
  have hh' : ((b.fn f).qpCtlSet q 1).holdsQp q = true := hh
  have he' : ((b.setFn f ((b.fn f).qpCtlSet q 1)).qp q).enabled = false := he
  have hset : b.modFn f (fun p => { p with qpCtlQp := BitVec.ofNat 16 q, qpCtlOp := BitVec.ofNat 2 1 }) =
      b.setFn f ((b.fn f).qpCtlSet q 1) := rfl
  have hr' : (b.setFn f ((b.fn f).qpCtlSet q 1)).boot.ready = true := hr
  rw [Block.writeQpCtl, hset]
  simp only [hr', Block.setFn_fn, hh', he', Block.modFn, Bool.not_true, Bool.false_eq_true, if_false, if_true]
  rw [Block.setFn, Block.setFn, Tab.put_put]
  rfl

/-- QP_DISABLE of an enabled pair of the range: BUSY, and the end of its fetching. -/
theorem Block.writeQpCtl_disable {b : Block} {f q : Nat} (hr : b.boot.ready = true) (hh : (b.fn f).holdsQp q = true)
    (he : (b.qp q).enabled = true) :
    b.writeQpCtl f q 2 =
      { b with fns := b.fns.put f ((b.fn f).qpCtlBegun q 2), qps := b.qps.put q { b.qp q with closing := true } } := by
  have hh' : ((b.fn f).qpCtlSet q 2).holdsQp q = true := hh
  have hset : b.modFn f (fun p => { p with qpCtlQp := BitVec.ofNat 16 q, qpCtlOp := BitVec.ofNat 2 2 }) =
      b.setFn f ((b.fn f).qpCtlSet q 2) := rfl
  have hr' : (b.setFn f ((b.fn f).qpCtlSet q 2)).boot.ready = true := hr
  rw [Block.writeQpCtl, hset]
  simp only [hr', Block.setFn_fn, hh', he, Block.modFn, Bool.not_true, Bool.false_eq_true, if_false, if_true,
    OfNat.ofNat_ne_one, Block.modQp, Block.setFn_qp]
  rw [Block.setFn, Block.setFn, Tab.put_put]
  rfl

/-- A read goes out under the lowest free tag while the clock of `hcp_*` runs. -/
theorem Block.hostRead_running {b : Block} {fn addr len tag : Nat} {why : ReadFor} (hlen : len ≤ hcpMax)
    (ht : b.seq.reads.lowest hcpTags = some tag) (hs : b.stopped.contains .hcp = false) :
    b.hostRead fn addr len why =
      { b with
        out := b.out ++ [.hcpRead fn (BitVec.ofNat 64 addr) len tag]
        seq := { b.seq with reads := b.seq.reads.put tag why } } := by
  simp only [Block.hostRead, if_pos hlen, Block.issue, ht]
  rw [Block.emit_running _ _ hs]

/-- No access waits for a tag, so none goes out as one comes free. -/
theorem Block.hostNext_none {b : Block} (write : Bool) (h : b.seq.hostWait = []) : b.hostNext write = b := by
  rw [Block.hostNext, h, takeWait]

/-- QP_ENABLE and QP_DISABLE at a page whose CX_FN_QP_CTL is free. -/
theorem atConfig_qpCtl {s : State} {f : Nat} (val : Reg) (h : HcpOpen s) (hf : f < 256) (hq : s.blk.boot.seqReset = false)
    (hb : (s.blk.fn f).qpCtlBusy = false) (act : Block → Block) {b : Block} (ha : act s.blk.begin = b)
    (hs : b.stopped = s.blk.stopped) :
    atConfig s f (pageOff f 0xC30) val act = .next (s.withBlock (b.crossed [.hcpT 0 false])) :=
  atConfig_acked val h
    (h.reach_pageOff hf (by decide) (by decide) (s.blk.pageReach_control (.inl rfl) rfl rfl fun _ => hb))
    (by rw [hq, Bool.false_and]) act ha hs

/-- Where the entry of a queue pair stands (R297). -/
def FnPage.entryAt (p : FnPage) (q : Nat) : Nat := p.qtable.toNat * 4096 + 64 * (q - p.qpBase.toNat)

theorem exec_qpEnable {s : State} {f tag : Nat} {q : BitVec 16} (h : HcpOpen s) (hf : f < 256) (hr : s.blk.boot.ready = true)
    (hq : s.blk.boot.seqReset = false) (hb : (s.blk.fn f).qpCtlBusy = false) (hh : (s.blk.fn f).holdsQp q.toNat = true)
    (he : (s.blk.qp q.toNat).enabled = false) (ht : s.blk.seq.reads.lowest hcpTags = some tag) :
    Answers (.qpEnable f f q) s
      { s.blk with
        out := [.hcpRead f (BitVec.ofNat 64 ((s.blk.fn f).entryAt q.toNat)) 64 tag, .hcpT 0 false]
        fns := s.blk.fns.put f ((s.blk.fn f).qpCtlBegun q.toNat 1)
        seq := { s.blk.seq with reads := s.blk.seq.reads.put tag (.queueEntry f q) } } := by
  have hact := Block.writeQpCtl_enable (b := s.blk.begin) hr hh he
  rw [Block.hostRead_running (by decide) (by exact ht) (by exact h.1), BitVec.ofNat_toNat, BitVec.setWidth_eq] at hact
  exact atConfig_qpCtl (qpCtlWord q.toNat 1) h hf hq hb (fun b => b.writeQpCtl f q.toNat 1) hact rfl

theorem exec_qpDisable {s : State} {f : Nat} {q : BitVec 16} (h : HcpOpen s) (hf : f < 256) (hr : s.blk.boot.ready = true)
    (hq : s.blk.boot.seqReset = false) (hb : (s.blk.fn f).qpCtlBusy = false) (hh : (s.blk.fn f).holdsQp q.toNat = true)
    (he : (s.blk.qp q.toNat).enabled = true) :
    Answers (.qpDisable f f q) s
      { s.blk with
        out := [.hcpT 0 false]
        fns := s.blk.fns.put f ((s.blk.fn f).qpCtlBegun q.toNat 2)
        qps := s.blk.qps.put q.toNat { s.blk.qp q.toNat with closing := true } } := by
  have hact := Block.writeQpCtl_disable (b := s.blk.begin) hr hh he
  exact atConfig_qpCtl (qpCtlWord q.toNat 2) h hf hq hb (fun b => b.writeQpCtl f q.toNat 2) hact rfl

/-- The answer to the read of a queue table entry. -/
theorem exec_hcpReadReturn_queueEntry {s : State} {f tag : Nat} {q : BitVec 16} (e : HostRead) (h : PortOpen .hcp s)
    (hr : s.blk.seq.reads.get? tag = some (.queueEntry f q)) (hw : s.blk.seq.hostWait = []) :
    exec (.hcpReadReturn tag e) s =
      .next (s.withBlock (({ s.blk.begin with seq := { s.blk.seq with reads := Tab.del s.blk.seq.reads tag } } : Block).entryRead f
        q.toNat e)) := by
  have hr' : s.blk.begin.seq.reads.get? tag = some (.queueEntry f q) := hr
  change execHcpReadReturn tag e s = _
  rw [execHcpReadReturn, atPort_open _ h.1 h.2, onBlock_eq, hr']
  dsimp only
  rw [Block.hostNext_none false (by exact hw)]
  rfl

/-! ## Doorbells (R299) -/

theorem QueuePair.bellOk_iff (p : QueuePair) (v : Reg) :
    p.bellOk v = true ↔
      p.enabled = true ∧ (rbit v 32 = true → rfld v 0 16 < ringSize p.sqLog2) ∧
        (rbit v 33 = true → rfld v 16 16 < ringSize p.cqLog2) := by
  cases h32 : rbit v 32 <;> cases h33 : rbit v 33 <;> simp [QueuePair.bellOk, h32, h33, and_assoc]

/-- A doorbell command by the owner while the sequencer is up. -/
theorem exec_doorbellWrite {s : State} {f q : Nat} (v : Reg) (h : HcpOpen s) (hq : q < 65536)
    (ho : s.blk.qpOwner q = some f) (hr : s.blk.boot.seqReset = false) :
    Answers (.doorbellWrite f q v) s ((s.blk.begin.ringBell f q v).emit (.hcpT 0 false)) :=
  atConfig_reached v h (h.reach_doorbell hq ho) (by rw [hr, Bool.false_and]) _

end Sys2Proof.Machine

namespace Sys2Proof.Proofs

open Sys2Proof Sys2Proof.Machine

/-- Settles O6: the state after reset is a constant, and every clause is an evaluation but the one over all functions. -/
theorem resetLeavesTheBlockSafe : Obligations.ResetLeavesTheBlockSafe := by
  have hpages : ∀ f, f ≠ 0 → State.reset.blk.fn f = ({} : FnPage) := by
    intro f hf
    have hnone : Tab.get? [(0, FnPage.pfReset)] f = none := by rw [Tab.get?, if_neg hf.symm, Tab.get?]
    exact congrArg (Option.getD · {}) hnone
  exact ⟨rfl, rfl, rfl, rfl, rfl, rfl, rfl, rfl, rfl, rfl, rfl, rfl, rfl, by decide, rfl, rfl, rfl, rfl, rfl, hpages, rfl⟩

/-- Settles O7: by whether LOG2 lies in its range. -/
theorem faultQueueControl : Obligations.FaultQueueControl := by
  intro s f g v h hf hg
  have hr : s.blk.begin.reach g (pageOff f 0xC50) true = true :=
    h.reach_pageOff hf (by decide) (by decide) (s.blk.pageReach_control hg rfl rfl nofun)
  refine ⟨fun hlo hhi => ?_, fun hbad => ?_⟩
  · have hin : ¬ (rfld v 0 5 < 6 ∨ 16 < rfld v 0 5) := by omega
    exact atRegister_acked h hr (fun b => b.writeFaultCtl g f v) (if_neg hin) rfl
  · obtain ⟨hcount, hpages⟩ := s.blk.ignoredWrite_leaves g (pageOff f 0xC50)
    have hx := atRegister_reached h hr (fun b => b.writeFaultCtl g f v)
    rw [show s.blk.begin.writeFaultCtl g f v = s.blk.begin.regIgnored g (pageOff f 0xC50) from if_pos hbad] at hx
    exact ⟨_, hx, rfl, (congrArg FnPage.faultq (hpages f) :), hcount⟩

/-- Settles O9: held in reset; taken or counted by whether the write is valid. -/
theorem doorbellsMoveTheirIndices : Obligations.DoorbellsMoveTheirIndices := by
  refine ⟨fun s f q v h hq ho hr => ?_, fun s f q v h hq ho hr => ?_⟩
  · have hreg : (s.blk.begin.boot.seqReset && sequencerReg (0x40_0000 + 8 * q)) = true := by
      have hlo : 0x40_0000 ≤ 0x40_0000 + 8 * q := by omega
      simp [hr, sequencerReg, hlo]
    exact atRegister_acked h (h.reach_doorbell hq ho)
      (fun b => b.bySequencer f (0x40_0000 + 8 * q) v fun b => b.ringBell f q v) (if_pos hreg) rfl
  · have hx := exec_doorbellWrite v h hq ho hr
    refine ⟨fun he hsq hcq => ?_, fun hbad => ?_⟩
    · have hok : (s.blk.begin.qp q).bellOk v = true := (QueuePair.bellOk_iff _ _).mpr ⟨he, hsq, hcq⟩
      rw [Block.ringBell, if_pos hok, Block.emit_running _ _ (by exact h.1)] at hx
      exact hx
    · have hno : ¬ (s.blk.begin.qp q).bellOk v = true := by
        rw [QueuePair.bellOk_iff]
        rintro ⟨he, hsq, hcq⟩
        obtain hbad | ⟨h32, hbad⟩ | ⟨h33, hbad⟩ := hbad
        · exact absurd (he.symm.trans hbad) nofun
        · exact absurd (hsq h32) hbad.not_gt
        · exact absurd (hcq h33) hbad.not_gt
      rw [Block.ringBell, if_neg hno] at hx
      refine ⟨_, hx, rfl, ?_, ?_⟩
      · rw [State.withBlock_blk, Block.emit_qps, (Block.notifies_raise _ _ _).qps]
        rfl
      · rw [State.withBlock_blk, Block.emit_obs, Block.raise_events _ _ _ (show 0x09 < 65536 by decide)]
        rfl

/-- Settles O10: the four moments of a queue pair's life. -/
theorem queuePairsEnableAndDisable : Obligations.QueuePairsEnableAndDisable := by
  refine ⟨fun s f q h hf hready hseq hbusy hh => ⟨fun he tag ht => ?_, fun he => ?_⟩,
    fun s f tag q e h hr hbusy hwait hok => ⟨?_, rfl, rfl, rfl, rfl, rfl, rfl⟩, fun s f hbusy hop hclosing hidle => ?_⟩
  · refine ⟨_, exec_qpEnable h hf hready hseq hbusy hh he ht, rfl, ?_, rfl, rfl, rfl⟩
    exact congrArg FnPage.qpCtlBusy (Block.setFn_fn s.blk f _)
  · refine ⟨_, exec_qpDisable h hf hready hseq hbusy hh he, rfl, ?_, ?_, rfl⟩
    · exact congrArg FnPage.qpCtlBusy (Block.setFn_fn s.blk f _)
    · exact Block.modQp_qp s.blk q.toNat fun p => { p with closing := true }
  · refine (exec_hcpReadReturn_queueEntry (.data e) h hr hwait).trans ?_
    have hb : ¬ (!(s.blk.fn f).qpCtlBusy) = true := by rw [hbusy]; nofun
    exact congrArg (fun b => Host.Outcome.next (s.withBlock b)) ((if_neg hb).trans (if_pos hok))
  · have hgo : ((s.blk.fn f).qpCtlBusy && decide ((s.blk.fn f).qpCtlOp = 2) &&
        (s.blk.qp (s.blk.fn f).qpCtlQp.toNat).closing && s.blk.qpIdle (s.blk.fn f).qpCtlQp.toNat) = true := by
      rw [hbusy, hop, hclosing, hidle]; rfl
    exact congrArg (fun b => Host.Outcome.next (s.withBlock b)) (if_pos hgo)

/-- Settles O11: each register by the equation of its write. -/
theorem globalRegisterWrites : Obligations.GlobalRegisterWrites := by
  intro s v h
  refine ⟨atRegister_acked h (h.reach_global (by decide) (by decide)) (fun b => b.clearAlarm v) rfl rfl,
    atRegister_acked h (h.reach_observe (by decide) (by decide) (by decide)) (fun b => b.selectRing v) rfl rfl, fun hcal => ?_,
    fun g hseq hg hbusy hv hd => ?_, fun hseq => ?_, fun hseq hlo => ?_, fun hseq hlo => ?_⟩
  · have hnone : ¬ s.blk.begin.gov.cal.isSome = true := by
      rw [show s.blk.begin.gov.cal = none from hcal]
      nofun
    exact atRegister_acked h (h.reach_global (by decide) (by decide))
      (fun b => b.writeGov 0 b.gov.railMask true) (if_neg hnone) rfl
  · have hlt := g.isLt
    exact atConfig_acked v h (h.reach_global (off := 0x0300 + 8 * g.toNat) (by omega) (by omega)) (by rw [hseq, Bool.false_and])
      (fun b => b.writeCcWay 0 g.toNat v) (Block.writeCcWay_differs (b := s.blk.begin) hg hbusy hv hd) rfl
  · exact exec_registerWrite_global (off := 0x2380) v h hseq (by decide) (by decide) rfl rfl
  · exact exec_registerWrite_global (off := 0x0000) v h hseq (by decide) (by decide) (if_neg hlo.not_gt) rfl
  · exact exec_registerWrite_global (off := 0x0008) v h hseq (by decide) (by decide) (if_neg hlo.not_gt) rfl

/-- Settles O16. -/
theorem idleEdgesAdvanceTheTick : Obligations.IdleEdgesAdvanceTheTick := by
  intro s hp hv hs
  have hstep : step s = idleEdge s := by rw [step, hp]
  have hblk : step s = .next (s.withBlock { s.blk with
      out := [], fresh := s.blk.fresh + 1
      time := { s.blk.time with tick := s.blk.time.tick + 9 + BitVec.ofNat 64 (Config.tickJitter s.blk.fresh % 3), step := false } }) := by
    rw [hstep]
    exact congrArg (fun b => Host.Outcome.next (s.withBlock b)) ((if_neg (ne_true_of_eq_false hs)).trans (if_pos hv))
  have hj : Config.tickJitter s.blk.fresh % 3 < 3 := Nat.mod_lt _ (by decide)
  refine ⟨_, hblk, rfl, hp, ⟨9 + Config.tickJitter s.blk.fresh % 3, by omega, by omega, ?_⟩, rfl⟩
  rw [BitVec.ofNat_add, ← BitVec.add_assoc]
  rfl

end Sys2Proof.Proofs
end

section
/-! Commands that move one table of the block: the ash stream, patches, lane programs and jobs. -/

namespace Sys2Proof.Machine

open Sys2Proof Sys2Proof.Machine.Crypto

/-- A command answers with what its row makes of the block. -/
theorem answers_onCommand {i : Instr} {s : State} {id op : Nat} {c : Cmd} {f : Cmd → Block → Block} {b : Block}
    (hx : exec i s = onCommand s id op f) (hc : CmdReady s id op c) (hf : f c s.blk.begin = b) : Answers i s b := by
  rw [Answers, hx, onCommand_ready _ hc, hf]

/-! ## Patches (R454) -/

/-- A patch command that nothing stands in the way of acts (R431, R454). -/
theorem Block.patchCommand_open {b : Block} (id : Nat) {confirm : Bool} (act : Block → Block) (hlc : b.boot.lc.serves = true)
    (hst : b.boot.storeOk = true) (hw : b.patchWriting = false) (ht : confirm = true ∨ b.store.patch.trial = none) :
    b.patchCommand id confirm act = act b := by
  have htrial : (!confirm && b.store.patch.trial.isSome) = false := by
    obtain rfl | h := ht
    · rfl
    · rw [h]; exact Bool.and_false _
  simp only [Block.patchCommand, hlc, hst, hw, htrial, Bool.not_true, Bool.false_eq_true, if_false]

/-! ## Lane programs (R265 to R268) -/

theorem Tab.get?_map {α β : Type} (t : Tab α) (f : α → β) (k : Nat) :
    Tab.get? (t.map fun e : Nat × α => (e.1, f e.2)) k = (Tab.get? t k).map f := by
  induction t with
  | nil => rfl
  | cons e r ih =>
    obtain ⟨j, v⟩ := e
    by_cases h : j = k
    · simp [Tab.get?, h]
    · simp only [List.map_cons, Tab.get?, if_neg h]
      exact ih

theorem Tab.get?_filter_key {α : Type} (t : Tab α) (p : Nat → Bool) (k : Nat) :
    Tab.get? (t.filter fun e : Nat × α => p e.1) k = if p k then Tab.get? t k else none := by
  induction t with
  | nil => simp [Tab.get?]
  | cons e r ih =>
    obtain ⟨j, v⟩ := e
    by_cases hj : j = k
    · subst hj
      cases hp : p j <;> simp [hp, Tab.get?, ih]
    · cases hp : p j <;> simp [hp, Tab.get?, hj, ih]

section Unload

variable (b : Block) (h : Nat)

theorem Block.unloadPrograms_program (k : Nat) :
    (b.unloadPrograms [h]).programs.get? k = if k = h then none else b.programs.get? k := by
  refine (Tab.get?_filter_key b.programs (fun k => !List.contains [h] k) k).trans ?_
  by_cases hk : k = h <;> simp [hk]

/-- No context has the program bound any more. -/
theorem Block.unloadPrograms_unbound {n : Nat} {x : Ctx} (hx : (b.unloadPrograms [h]).ctxs.get? n = some x) : h ∉ x.progs := by
  have hmap : (b.unloadPrograms [h]).ctxs.get? n =
      (b.ctxs.get? n).map fun x => { x with progs := x.progs.filter fun k => !List.contains [h] k } :=
    Tab.get?_map b.ctxs (fun x : Ctx => ({ x with progs := x.progs.filter fun k => !List.contains [h] k } : Ctx)) n
  rw [hmap, Option.map_eq_some_iff] at hx
  obtain ⟨y, -, rfl⟩ := hx
  simp

end Unload

/-- A context with another program bound. -/
def Block.bindProgram (b : Block) (ctx h : Nat) : Block :=
  { b with ctxs := b.ctxs.upd ctx fun x => { x with progs := x.progs ++ [h] } }

theorem Block.bindProgram_ctxs (b : Block) (ctx h : Nat) :
    (b.bindProgram ctx h).ctxs = b.ctxs.upd ctx fun x => { x with progs := x.progs ++ [h] } := rfl

/-- PROG_BIND of a program of the function that the context has not bound. -/
theorem exec_progBind {s : State} {id : Nat} {c : Cmd} {x : Ctx} (hc : CmdReady s id 0x0502 c)
    (ho : s.blk.ownsProgram c.fn (dfld c.desc 16 2) = true) (hx : s.blk.ctxs.get? c.ctx = some x)
    (hn : x.progs.contains (dfld c.desc 16 2) = false) (hlen : x.progs.length < 16) :
    Answers (.progBind id) s ((s.blk.begin.bindProgram c.ctx (dfld c.desc 16 2)).succeed id 0 0) := by
  refine answers_onCommand (by unfold exec execProgBind; rfl) hc ?_
  have ho' : s.blk.begin.ownsProgram c.fn (dfld c.desc 16 2) = true := ho
  have hx' : ((s.blk.begin.ctxs.get? c.ctx).map fun x => x.progs).getD [] = x.progs := by rw [Block.begin_ctxs, hx]; rfl
  simp only [ho', hx', hn, hlen.not_ge, Bool.not_true, Bool.false_eq_true, if_false]
  rfl

/-- PROG_UNLOAD of a program that nothing uses. -/
theorem exec_progUnload {s : State} {id : Nat} {c : Cmd} (hc : CmdReady s id 0x0503 c)
    (ho : s.blk.ownsProgram c.fn (dfld c.desc 16 2) = true) (hu : s.blk.programUsed (dfld c.desc 16 2) = false) :
    Answers (.progUnload id) s ((s.blk.begin.unloadPrograms [dfld c.desc 16 2]).succeed id 0 0) := by
  refine answers_onCommand (by unfold exec execProgUnload; rfl) hc ?_
  have ho' : s.blk.begin.ownsProgram c.fn (dfld c.desc 16 2) = true := ho
  have hu' : s.blk.begin.programUsed (dfld c.desc 16 2) = false := hu
  simp only [ho', hu', Bool.not_true, Bool.false_eq_true, if_false]

/-! ## Jobs (R335 to R338) -/

def Block.putJob (b : Block) (id : Nat) (j : Job) : Block := { b with jobs := b.jobs.put id j }

/-- A context joins a job, whose state region is set. -/
def Block.joinJob (b : Block) (ctx id r : Nat) (j : Job) : Block :=
  { b with jobs := b.jobs.put id { j with stateRegion := some r }
           ctxs := b.ctxs.upd ctx fun x => { x with jobs := x.jobs ++ [id] } }

theorem Block.joinJob_ctxs (b : Block) (ctx id r : Nat) (j : Job) :
    (b.joinJob ctx id r j).ctxs = b.ctxs.upd ctx fun x => { x with jobs := x.jobs ++ [id] } := rfl

/-- JOB_JOIN of a live job of the function. -/
theorem exec_jobJoin {s : State} {id : Nat} {c : Cmd} {j : Job} (hc : CmdReady s id 0x0401 c)
    (hj : s.blk.jobs.get? (dfld c.desc 16 2) = some j) (hfn : j.fn = c.fn) (hlive : s.blk.jobKeyLive j = true)
    (htorn : j.torn = false) (hnew : (s.blk.jobsOf c.ctx).contains (dfld c.desc 16 2) = false)
    (hregion : s.blk.begin.stateRegionOk c (dfld c.desc 16 2) (dfld c.desc 18 2) j = true)
    (hroom : j.stateRegion = none → s.blk.joinedJobs < 256) :
    Answers (.jobJoin id) s
      ((s.blk.begin.joinJob c.ctx (dfld c.desc 16 2) (dfld c.desc 18 2) j).succeed id 0 0) := by
  refine answers_onCommand (by unfold exec execJobJoin; rfl) hc ?_
  have hlive' : s.blk.begin.jobKeyLive j = true := hlive
  have hnew' : (s.blk.begin.jobsOf c.ctx).contains (dfld c.desc 16 2) = false := hnew
  have hfound : (s.blk.begin.jobs.get? (dfld c.desc 16 2)).filter
      (fun j => j.fn = c.fn && s.blk.begin.jobKeyLive j && !j.torn) = some j := by
    rw [Block.begin_jobs, hj, Option.filter_some, if_pos (by simp [hfn, hlive', htorn])]
  have hfull : (j.stateRegion.isNone && decide (256 ≤ s.blk.begin.joinedJobs)) = false := by
    cases hr : j.stateRegion with
    | none => exact decide_eq_false (hroom hr).not_ge
    | some r => rfl
  simp only [hfound, hnew', hregion, hfull, Bool.not_true, Bool.or_self, Bool.false_eq_true, if_false]
  rfl

/-! ## The ash stream (R310 to R312) -/

/-- The stream after a write to CX_FN_ASH_CTL that is taken. -/
def AshStream.written (a : AshStream) (v : Reg) : AshStream :=
  let a := ({ a with sizeLog2 := BitVec.ofNat 5 (rfld v 0 5), vector := BitVec.ofNat 11 (rfld v 16 11),
                     overrun := a.overrun && !rbit v 8 } : AshStream).release (rbit v 6) (rbit v 7)
  if rbit v 5 && !a.enable then a.start else { a with enable := rbit v 5 }

/-- A write that names an allowed size, and the present one while the stream is enabled. -/
theorem Block.writeAshCtl_taken {b : Block} {fn f : Nat} {v : Reg} (hlo : 12 ≤ rfld v 0 5) (hhi : rfld v 0 5 ≤ 20)
    (hsame : (b.fn f).ash.enable = true → rfld v 0 5 = (b.fn f).ash.sizeLog2.toNat) :
    b.writeAshCtl fn f v =
      if rbit v 10 then (b.modAsh f fun a => a.written v).ashFlush f else b.modAsh f fun a => a.written v := by
  have hok : ¬ (rfld v 0 5 < 12 ∨ 20 < rfld v 0 5 ∨ ((b.fn f).ash.enable = true ∧ rfld v 0 5 ≠ (b.fn f).ash.sizeLog2.toNat)) := by
    rintro (h | h | ⟨he, h⟩)
    · omega
    · omega
    · exact h (hsame he)
  exact if_neg hok

@[simp] theorem Block.modAsh_ash (b : Block) (f : Nat) (g : AshStream → AshStream) :
    ((b.modAsh f g).fn f).ash = g (b.fn f).ash := by
  rw [Block.modAsh, Block.modFn_fn]

/-- Nothing follows while writes of the stream are out. -/
theorem Block.ashSettle_writes {b : Block} {f : Nat} (h : 0 < (b.fn f).ash.writes) : b.ashSettle f = b := if_pos h

/-- An open packet that is closed while its records' writes are out. -/
theorem Block.ashClose_writes {b : Block} {f : Nat} (flush : Bool) (h : 0 < (b.fn f).ash.writes) :
    b.ashClose f flush = b.modAsh f fun a => { a with phase := .closing flush } :=
  Block.ashSettle_writes (by rw [Block.modAsh_ash]; exact h)

/-- A command that writes CX_FN_ASH_CTL and has nothing cross. -/
theorem atRegister_ash {s : State} {fn f : Nat} (h : HcpOpen s) (hf : f < 256) (hg : fn = f ∨ fn = 0) (act : Block → Block)
    {g : AshStream → AshStream} (ha : act s.blk.begin = s.blk.begin.modAsh f g) :
    atRegister s fn (pageOff f 0xC68) act = .next (s.withBlock ((s.blk.begin.modAsh f g).crossed [.hcpT 0 false])) :=
  atRegister_acked h
    (h.reach_pageOff hf (by decide) (by decide) (s.blk.pageReach_control hg rfl rfl fun h => absurd h (by decide))) act ha rfl

theorem Block.crossed_ash (b : Block) (f : Nat) (g : AshStream → AshStream) (l : List Cross) :
    (((b.modAsh f g).crossed l).fn f).ash = g (b.fn f).ash := b.modAsh_ash f g

/-- The word that FLUSH writes: the register as it stands, without its HELD bits, and FLUSH. -/
def AshStream.flushWord (a : AshStream) : Reg :=
  pack [(0, a.sizeLog2.toNat), (5, bit a.enable), (10, 1), (16, a.vector.toNat)]

theorem AshStream.flushWord_toNat (a : AshStream) :
    a.flushWord.toNat = a.sizeLog2.toNat + 2 ^ 5 * bit a.enable + 2 ^ 10 + 2 ^ 16 * a.vector.toNat := by
  have hs := a.sizeLog2.isLt
  have hb := bit_lt_two a.enable
  have hv := a.vector.isLt
  simp only [AshStream.flushWord, pack, List.foldl, Nat.shiftLeft_eq, BitVec.toNat_ofNat]
  omega

theorem AshStream.flushWord_fields (a : AshStream) :
    rfld a.flushWord 0 5 = a.sizeLog2.toNat ∧ rbit a.flushWord 5 = a.enable ∧ rbit a.flushWord 6 = false ∧
      rbit a.flushWord 7 = false ∧ rbit a.flushWord 8 = false ∧ rbit a.flushWord 10 = true ∧
      rfld a.flushWord 16 11 = a.vector.toNat := by
  have hs := a.sizeLog2.isLt
  have hb := bit_lt_two a.enable
  have hv := a.vector.isLt
  have hb1 := bit_eq_one_iff a.enable
  simp only [rbit, rfld, fld_eq_div_mod, Nat.testBit_eq_decide_div_mod_eq, a.flushWord_toNat]
  refine ⟨by omega, Bool.eq_iff_iff.mpr ?_, by simp; omega, by simp; omega, by simp; omega, by simp; omega, by omega⟩
  rw [decide_eq_true_iff, ← hb1]
  omega

/-- A release that names no buffer changes nothing. -/
theorem AshStream.release_none (a : AshStream) : a.release false false = a := by
  cases a
  simp [AshStream.release]

/-- A write of the register as it stands leaves an enabled stream as it is. -/
theorem AshStream.written_flushWord {a : AshStream} (he : a.enable = true) : a.written a.flushWord = a := by
  obtain ⟨hsize, hen, ha, hb, hover, -, hvec⟩ := a.flushWord_fields
  simp only [AshStream.written, hsize, hen, ha, hb, hover, hvec, he, BitVec.ofNat_toNat, BitVec.setWidth_eq, Bool.not_false,
    Bool.and_true, AshStream.release_none, Bool.not_true, Bool.and_false, Bool.false_eq_true, if_false]
  rw [← he]

/-- FLUSH with records in the open packet whose writes are out. -/
theorem Block.ashFlush_open {b : Block} {f : Nat} (hen : (b.fn f).ash.enable = true) (hst : (b.fn f).ash.stalled = false)
    (hph : (b.fn f).ash.phase = .filling) (hrec : 0 < (b.fn f).ash.records) (hwr : 0 < (b.fn f).ash.writes) :
    b.ashFlush f = b.modAsh f fun a => { a with phase := .closing true } := by
  rw [← Block.ashClose_writes true hwr]
  simp [Block.ashFlush, hen, hst, hph, hrec]

/-- A record while both buffers are held is dropped. -/
theorem Block.ashPut_stalled {b : Block} {f : Nat} (e : Event) (h : (b.fn f).ash.stalled = true) :
    b.ashPut f e = b.modAsh f fun a => { a with dropped := a.dropped + 1, overrun := true } := if_pos h

/-- The next record in transit, while no packet is being closed and the streamer is up. -/
theorem exec_ashRecord {s : State} {f : Nat} {e : Event} {r : List Event} (hen : (s.blk.fn f).ash.enable = true)
    (hph : (s.blk.fn f).ash.phase = .filling) (hres : Tab.has s.blk.resets 0x77 = false)
    (htr : (s.blk.fn f).ash.transit = e :: r) :
    Answers (.ashRecord f) s ((s.blk.begin.modAsh f fun a => { a with transit := r }).ashPut f e) := by
  have htr' : (s.blk.begin.fn f).ash.transit = e :: r := htr
  have hgo : (!(s.blk.begin.fn f).ash.enable || decide ((s.blk.begin.fn f).ash.phase ≠ .filling) ||
      Tab.has s.blk.begin.resets 0x77) = false := by
    simp [hen, hph, hres]
  change execAshRecord f s = _
  rw [execAshRecord, onBlock_eq]
  simp only [htr', hgo, Bool.false_eq_true, if_false]
  rfl

/-- FLUSH of an open packet. -/
theorem Block.writeAshCtl_flush {b : Block} {f : Nat} (hen : (b.fn f).ash.enable = true) (hst : (b.fn f).ash.stalled = false)
    (hph : (b.fn f).ash.phase = .filling) (hrec : 0 < (b.fn f).ash.records) (hwr : 0 < (b.fn f).ash.writes)
    (hlo : 12 ≤ (b.fn f).ash.sizeLog2.toNat) (hhi : (b.fn f).ash.sizeLog2.toNat ≤ 20) :
    b.writeAshCtl f f (b.fn f).ash.flushWord = b.modAsh f fun a => { a with phase := .closing true } := by
  obtain ⟨hsize, -, -, -, -, hflush, -⟩ := (b.fn f).ash.flushWord_fields
  have hsame : b.modAsh f (fun a => a.written (b.fn f).ash.flushWord) = b.modAsh f fun a => a := by
    rw [Block.modAsh, Block.modFn, AshStream.written_flushWord hen]
    rfl
  have hash : ((b.modAsh f fun a => a).fn f).ash = (b.fn f).ash := b.modAsh_ash f _
  rw [← hsize] at hlo hhi
  rw [← hash] at hen hst hph hrec hwr
  rw [Block.writeAshCtl_taken hlo hhi fun _ => hsize, if_pos hflush, hsame, Block.ashFlush_open hen hst hph hrec hwr]
  simp only [Block.modAsh, Block.modFn, Block.setFn_fn]
  rw [Block.setFn, Block.setFn, Tab.put_put]
  rfl

end Sys2Proof.Machine

namespace Sys2Proof.Proofs

open Sys2Proof Sys2Proof.Machine

/-- Settles O18: every command's checks pass, and its record write or its piece goes out. -/
theorem patchCommands : Obligations.PatchCommands := by
  intro s id c hlc hst hw
  refine ⟨fun ht => ⟨fun hc hkind hoff hp => ?_, fun hc hkind hd hal hp hend => ?_, fun flash hc he => ?_, fun hc hv hq => ?_⟩,
    fun hc ht => ?_⟩
  · refine answers_onCommand (by unfold exec execPatchWriteFirst; rfl) hc ?_
    rw [if_neg hkind, Block.patchCommand_open (b := s.blk.begin) id _ hlc hst hw (.inr ht)]
    exact if_neg (by simp [hoff, hp])
  · refine answers_onCommand (by unfold exec execPatchWrite; rfl) hc ?_
    have hgo : ((s.blk.store.patch.slot s.blk.store.patch.inactive).state ≠ .downloading || dfld c.desc 28 4 % 256 ≠ 0 ||
        !pieceOk c || 2 ^ 24 < dfld c.desc 28 4 + dfld c.desc 24 4) = false := by
      rw [hd, hp, hal, decide_eq_false hend.not_gt]
      rfl
    rw [if_neg (by simp [hkind]), Block.patchCommand_open (b := s.blk.begin) id _ hlc hst hw (.inr ht)]
    exact if_neg (ne_true_of_eq_false hgo)
  · refine ⟨_, rfl, answers_onCommand (by unfold exec execPatchVerify; rfl) hc ?_⟩
    rw [Block.patchCommand_open (b := s.blk.begin) id _ hlc hst hw (.inr ht)]
    refine (if_neg he).trans ?_
    cases hok : s.blk.begin.flashBundleOk flash <;> rfl
  · refine answers_onCommand (by unfold exec execPatchActivate; rfl) hc ?_
    rw [Block.patchCommand_open (b := s.blk.begin) id _ hlc hst hw (.inr ht)]
    have hgo : ((s.blk.store.patch.slot s.blk.store.patch.inactive).state ≠ .verified || !s.blk.vfsQuiet) = false := by
      simp [hv, hq]
    exact if_neg (ne_true_of_eq_false hgo)
  · refine answers_onCommand (by unfold exec execPatchConfirm; rfl) hc ?_
    rw [Block.patchCommand_open (b := s.blk.begin) id _ hlc hst hw (.inl rfl)]
    exact if_neg (by simp [ht])

/-- Settles O20. -/
theorem programCommands : Obligations.ProgramCommands := by
  refine ⟨fun s id h c hc hok hl => ?_, fun s id c x hc ho hx hn hlen => ?_, fun s id c hc ho hu => ?_⟩
  · refine answers_onCommand (by unfold exec execProgLoad; rfl) hc ?_
    have hl' : Tab.lowest s.blk.begin.programs 64 = some h := hl
    rw [if_neg (by simp [hok]), hl']
    rfl
  · have hcore := Block.succeed_core (s.blk.begin.bindProgram c.ctx (dfld c.desc 16 2)) id 0 0
    have hctxs := Block.keeps_of_core hcore Block.ctxs fun _ => rfl
    refine ⟨_, exec_progBind hc ho hx hn hlen, rfl, Block.succeed_cmd .., ?_, fun n hn => ?_,
      Block.keeps_of_core hcore Block.programs fun _ => rfl⟩
    · rw [State.withBlock_blk, hctxs, Block.bindProgram_ctxs, Tab.get?_upd_same, Block.begin_ctxs, hx, Option.map_some]
    · rw [State.withBlock_blk, hctxs, Block.bindProgram_ctxs, Tab.get?_upd_other _ _ hn, Block.begin_ctxs]
  · have hcore := Block.succeed_core (s.blk.begin.unloadPrograms [dfld c.desc 16 2]) id 0 0
    have hprogs := Block.keeps_of_core hcore Block.programs fun _ => rfl
    have hctxs := Block.keeps_of_core hcore Block.ctxs fun _ => rfl
    refine ⟨_, exec_progUnload hc ho hu, rfl, Block.succeed_cmd .., ?_, fun k hk => ?_, fun n x hx => ?_⟩
    · exact (congrArg (Tab.get? · _) hprogs).trans ((Block.unloadPrograms_program ..).trans (if_pos rfl))
    · exact (congrArg (Tab.get? · k) hprogs).trans ((Block.unloadPrograms_program ..).trans (if_neg hk))
    · exact Block.unloadPrograms_unbound s.blk.begin _ ((congrArg (Tab.get? · n) hctxs).symm.trans hx)

/-- Settles O21. -/
theorem jobCommands : Obligations.JobCommands := by
  refine ⟨fun s id c j hc hj hfn hlive htorn hnew hregion hroom => ?_, fun s id c hc hin hred => ?_, fun s id c j hc hj hok => ?_⟩
  · have hcore := Block.succeed_core (s.blk.begin.joinJob c.ctx (dfld c.desc 16 2) (dfld c.desc 18 2) j) id 0 0
    have hjobs := Block.keeps_of_core hcore Block.jobs fun _ => rfl
    refine ⟨_, exec_jobJoin hc hj hfn hlive htorn hnew hregion hroom, rfl, Block.succeed_cmd .., ?_, fun n hn => ?_, ?_,
      Block.keeps_of_core hcore Block.keys fun _ => rfl⟩
    · exact (congrArg (Tab.get? · _) hjobs).trans (Tab.get?_put_same ..)
    · exact (congrArg (Tab.get? · n) hjobs).trans (Tab.get?_put_other _ _ hn)
    · rw [State.withBlock_blk, Block.keeps_of_core hcore Block.ctxs fun _ => rfl, Block.joinJob_ctxs, Tab.get?_upd_same,
        Block.begin_ctxs]
  · refine answers_onCommand (by unfold exec execJobLeave; rfl) hc ?_
    have hfree : (s.blk.reductions.any fun k => k.2.ctx.toNat = c.ctx && k.2.job.toNat = dfld c.desc 16 2) = false := by
      simpa using hred
    have hin' : s.blk.begin.jobsOf c.ctx |>.contains (dfld c.desc 16 2) := hin
    exact (if_neg (by rw [hin']; nofun)).trans (if_neg (ne_true_of_eq_false hfree))
  · have hj' : s.blk.begin.heldJob (dfld c.desc 16 2) = some j := hj
    have hans := answers_onCommand (i := .jobKeys id) (b := s.blk.begin.startEpoch id c (dfld c.desc 16 2) j)
      (by unfold exec execJobKeys; rfl) hc (by simp only [hj', hok])
    have hcore := Block.succeed_core (s.blk.begin.putJob (dfld c.desc 16 2)
      { j with epoch := BitVec.ofNat 32 (dfld c.desc 20 4), prev := some j.epoch }) id j.slot j.members.length
    refine ⟨_, hans, rfl, Block.succeed_cmd .., ?_, Block.keeps_of_core hcore Block.keys fun _ => rfl⟩
    exact (congrArg (Tab.get? · _) (Block.keeps_of_core hcore Block.jobs fun _ => rfl)).trans (Tab.get?_put_same ..)

/-- Settles O17: the register's write, the closing of the open packet, and the next record. -/
theorem ashStreamControl : Obligations.AshStreamControl := by
  refine ⟨fun s f g v h hf hg hlo hhi hflush => ⟨fun hoff hon => ?_, fun hen hon hsame => ?_⟩,
    fun s f h hf hen hst hph hrec hwr hlo hhi => ?_, fun s f hen hph hrec hwr => ?_, fun s f e r hen hph hres htr => ?_⟩
  · have hact : s.blk.begin.writeAshCtl g f v = s.blk.begin.modAsh f fun a => a.written v := by
      rw [Block.writeAshCtl_taken (b := s.blk.begin) hlo hhi fun he => absurd (he.symm.trans hoff) nofun, hflush]
      rfl
    refine ⟨_, atRegister_ash h hf hg _ hact, rfl, rfl, ?_⟩
    rw [State.withBlock_blk, Block.crossed_ash, Block.begin_fn]
    simp [AshStream.written, AshStream.release, AshStream.start, hon, hoff]
  · have hact : s.blk.begin.writeAshCtl g f v = s.blk.begin.modAsh f fun a => a.written v := by
      rw [Block.writeAshCtl_taken (b := s.blk.begin) hlo hhi fun _ => hsame, hflush]
      rfl
    refine ⟨_, atRegister_ash h hf hg _ hact, rfl, rfl, ?_⟩
    rw [State.withBlock_blk, Block.crossed_ash, Block.begin_fn]
    simp [AshStream.written, AshStream.release, hon, hen]
  · have hact := Block.writeAshCtl_flush (b := s.blk.begin) hen hst hph hrec hwr hlo hhi
    refine ⟨_, atRegister_ash h hf (.inl rfl) _ hact, rfl, ?_⟩
    rw [State.withBlock_blk, Block.crossed_ash, Block.begin_fn]
  · have hgo : ((s.blk.fn f).ash.enable && decide ((s.blk.fn f).ash.phase = .filling) && decide (0 < (s.blk.fn f).ash.records)) = true := by
      rw [hen, hph, decide_eq_true hrec]; rfl
    exact congrArg (fun b => Host.Outcome.next (s.withBlock b)) ((if_pos hgo).trans (Block.ashClose_writes false hwr))
  · have hans : Answers (.ashRecord f) s ((s.blk.begin.modAsh f fun a => { a with transit := r }).ashPut f e) :=
      exec_ashRecord hen hph hres htr
    refine ⟨hans, fun hst => ⟨_, hans, ?_⟩⟩
    have hst' : (((s.blk.begin.modAsh f fun a => { a with transit := r }).fn f).ash).stalled = true := by
      rw [Block.modAsh_ash]; exact hst
    rw [State.withBlock_blk, Block.ashPut_stalled e hst', Block.modAsh_ash, Block.modAsh_ash]
    exact ⟨rfl, rfl⟩

end Sys2Proof.Proofs
end

section
/-! The traffic of a link port: what credits, crossings, sends and receive checks leave of the block and of every port; and the
exchanges of time over it (R42, R181, R397, R425, R426). -/

namespace Sys2Proof.Machine

open Sys2Proof Sys2Proof.Machine.Crypto

/-! ## Frames of a port -/

/-- A block without its crossings, ports and operation counters. -/
def Block.port (b : Block) : Block := { b with out := [], held := [], lpes := [], obs := { b.obs with ops := [] } }

/-- A port without its credits and what waits to leave. -/
def Lpe.link (l : Lpe) : Lpe :=
  { l with aCrd := 0, wCrd := 0, aOwed := 0, wOwed := 0, rxCrd := 0, rxOwed := 0, txCrd := 0, txHeld := [] }

/-- A port without its sequence numbers and replay window as well. -/
def Lpe.session (l : Lpe) : Lpe := { l.link with linkSeq0 := 0, linkSeq1 := 0, linkHigh := 0, linkMap := 0 }

/-- What traffic leaves: all but counters of operations, the credits of the ports, and the crossings, none of which is taken back. -/
def Block.Ships (a b : Block) : Prop := b.port = a.port ∧ (∀ n, (b.lpe n).link = (a.lpe n).link) ∧ a.out ⊆ b.out

/-- What sends and receive checks leave: the sequence numbers and replay windows of the ports move as well. -/
def Block.Talks (a b : Block) : Prop := b.port = a.port ∧ (∀ n, (b.lpe n).session = (a.lpe n).session) ∧ a.out ⊆ b.out

@[simp] theorem Block.modLpe_lpe (b : Block) (n : Nat) (f : Lpe → Lpe) : (b.modLpe n f).lpe n = f (b.lpe n) :=
  Tab.getD_put_same ..

theorem Block.modLpe_lpe_other (b : Block) {n m : Nat} (f : Lpe → Lpe) (h : m ≠ n) : (b.modLpe n f).lpe m = b.lpe m :=
  Tab.getD_put_other _ _ _ h

/-- A field that `port` does not blank. -/
theorem Block.keeps_of_port {a b : Block} (h : b.port = a.port) {α : Type} (g : Block → α) (hg : ∀ b : Block, g b.port = g b) :
    g b = g a := by rw [← hg b, h, hg a]

/-- A field of a port that `session` does not blank. -/
theorem Lpe.keeps_of_session {l m : Lpe} (h : l.session = m.session) {α : Type} (g : Lpe → α) (hg : ∀ l : Lpe, g l.session = g l) :
    g l = g m := by rw [← hg l, h, hg m]

theorem Lpe.keeps_of_link {l m : Lpe} (h : l.link = m.link) {α : Type} (g : Lpe → α) (hg : ∀ l : Lpe, g l.link = g l) :
    g l = g m := by rw [← hg l, h, hg m]

namespace Block.Ships

theorem refl (b : Block) : b.Ships b := ⟨rfl, fun _ => rfl, List.Subset.refl _⟩

theorem trans {a b c : Block} (h : a.Ships b) (k : b.Ships c) : a.Ships c :=
  ⟨k.1.trans h.1, fun n => (k.2.1 n).trans (h.2.1 n), List.Subset.trans h.2.2 k.2.2⟩

theorem modLpe (b : Block) (n : Nat) {f : Lpe → Lpe} (hf : ∀ l, (f l).link = l.link) : b.Ships (b.modLpe n f) := by
  refine ⟨rfl, fun m => ?_, List.Subset.refl _⟩
  by_cases hm : m = n
  · rw [hm, Block.modLpe_lpe, hf]
  · rw [Block.modLpe_lpe_other _ _ hm]

theorem emit (b : Block) (c : Cross) : b.Ships (b.emit c) := by
  have hport : (b.emit c).port = b.port ∧ (b.emit c).lpes = b.lpes := by
    rcases b.emit_cases c with h | h <;> rw [h] <;> exact ⟨rfl, rfl⟩
  exact ⟨hport.1, fun n => by rw [Block.lpe, hport.2, Block.lpe], b.emit_subset c⟩

theorem emits (b : Block) (l : List Cross) : b.Ships (b.emits l) := by
  induction l generalizing b with
  | nil => exact refl b
  | cons c r ih => exact (emit b c).trans (ih _)

theorem emitTimes (b : Block) (c : Cross) (k : Nat) : b.Ships (b.emitTimes c k) := by
  induction k generalizing b with
  | zero => exact refl b
  | succ k ih => exact (emit b c).trans (ih _)

theorem count (b : Block) (g k n : Nat) : b.Ships (b.count g k n) :=
  ⟨rfl, fun _ => rfl, List.Subset.refl _⟩

theorem answerLreq (b : Block) (n : Nat) (tag : BitVec 12) (st : Status) (data : Bytes) : b.Ships (b.answerLreq n tag st data) :=
  emits b _

theorem leave (b : Block) (n : Nat) (p : TxPacket) (answer : Option (BitVec 12)) : b.Ships (b.leave n p answer) := by
  have h := ((count b 2 (fld p.hdr.toNat 8 2) (64 * p.payload.length)).trans
    (modLpe _ n (f := fun l => { l with txCrd := l.txCrd - packetBeats p.payload.length }) fun _ => rfl)).trans (emits _ (p.cross n))
  cases answer with
  | none => exact h
  | some tag => exact h.trans (answerLreq _ n tag .ok [])

theorem transmit (b : Block) (n : Nat) (p : TxPacket) (answer : Option (BitVec 12)) : b.Ships (b.transmit n p answer) := by
  unfold Block.transmit
  split
  · exact leave b n p answer
  · exact modLpe b n fun _ => rfl

theorem takeBeats (b : Block) (n beats : Nat) : b.Ships (b.takeBeats n beats) := modLpe b n fun _ => rfl

theorem linkBeats (b : Block) (p : RxPacket) : b.Ships (b.linkBeats p) := by
  unfold Block.linkBeats
  split
  · exact takeBeats b _ _
  · exact refl b

/-- A step that is taken on a condition. -/
theorem ite {b c : Block} (p : Prop) [Decidable p] (h : b.Ships c) : b.Ships (if p then b else c) := by
  split
  · exact refl b
  · exact h

/-- Credits that return: the port's count, and their crossings. -/
theorem creditsBack (b : Block) (n k : Nat) (c : Cross) {f : Lpe → Lpe} (hf : ∀ l, (f l).link = l.link) :
    b.Ships ((b.modLpe n f).emitTimes c k) := (modLpe b n hf).trans (emitTimes _ _ _)

theorem payLpe (b : Block) (n : Nat) : b.Ships (b.payLpe n) := by
  refine ite _ ?_
  dsimp only
  refine trans ?_ (ite _ ((modLpe _ n ?_).trans (emit _ _)))
  · refine trans ?_ (ite _ (creditsBack _ n _ _ ?_))
    · exact ite _ (creditsBack b n _ _ (by intro _; rfl))
    · intro _; rfl
  · intro _; rfl

variable {a b : Block} (h : a.Ships b)
include h

theorem port : b.port = a.port := h.1
theorem link (n : Nat) : (b.lpe n).link = (a.lpe n).link := h.2.1 n
theorem out : a.out ⊆ b.out := h.2.2

/-- A field of the block that traffic leaves. -/
theorem keeps {α : Type} (g : Block → α) (hg : ∀ b : Block, g b.port = g b) : g b = g a := Block.keeps_of_port h.1 g hg

/-- A field of a port that traffic leaves. -/
theorem keepsLpe (n : Nat) {α : Type} (g : Lpe → α) (hg : ∀ l : Lpe, g l.link = g l) : g (b.lpe n) = g (a.lpe n) :=
  Lpe.keeps_of_link (h.link n) g hg

theorem talks : a.Talks b := ⟨h.1, fun n => Lpe.keeps_of_link (h.link n) Lpe.session fun _ => rfl, h.out⟩

end Block.Ships

namespace Block.Talks

theorem refl (b : Block) : b.Talks b := ⟨rfl, fun _ => rfl, List.Subset.refl _⟩

theorem trans {a b c : Block} (h : a.Talks b) (k : b.Talks c) : a.Talks c :=
  ⟨k.1.trans h.1, fun n => (k.2.1 n).trans (h.2.1 n), List.Subset.trans h.2.2 k.2.2⟩

theorem modLpe (b : Block) (n : Nat) {f : Lpe → Lpe} (hf : ∀ l, (f l).session = l.session) : b.Talks (b.modLpe n f) := by
  refine ⟨rfl, fun m => ?_, List.Subset.refl _⟩
  by_cases hm : m = n
  · rw [hm, Block.modLpe_lpe, hf]
  · rw [Block.modLpe_lpe_other _ _ hm]

/-- The same of a port that takes a value. -/
theorem setLpe (b : Block) (n : Nat) {l : Lpe} (hl : l.session = (b.lpe n).session) : b.Talks (b.modLpe n fun _ => l) := by
  refine ⟨rfl, fun m => ?_, List.Subset.refl _⟩
  by_cases hm : m = n
  · rw [hm, Block.modLpe_lpe, hl]
  · rw [Block.modLpe_lpe_other _ _ hm]

variable {a b : Block} (h : a.Talks b)
include h

theorem port : b.port = a.port := h.1
theorem out : a.out ⊆ b.out := h.2.2

theorem keeps {α : Type} (g : Block → α) (hg : ∀ b : Block, g b.port = g b) : g b = g a := Block.keeps_of_port h.1 g hg

theorem keepsLpe (n : Nat) {α : Type} (g : Lpe → α) (hg : ∀ l : Lpe, g l.session = g l) : g (b.lpe n) = g (a.lpe n) :=
  Lpe.keeps_of_session (h.2.1 n) g hg

end Block.Talks

/-! ## Sends (R397) -/

theorem Lpe.takeSeq_session (l : Lpe) (epoch : Nat) : (l.takeSeq epoch).2.session = l.session := by
  unfold Lpe.takeSeq
  split <;> rfl

/-- A link packet that leaves takes a sequence number; without its epoch's key none leaves. -/
theorem Block.linkSend_cases (b : Block) (n ty epoch : Nat) (payload : Bytes) :
    ((b.lpe n).epochKey epoch = none ∧ b.linkSend n ty epoch payload = b) ∨
      ((b.lpe n).epochKey epoch ≠ none ∧
        (b.modLpe n fun _ => ((b.lpe n).takeSeq epoch).2).Ships (b.linkSend n ty epoch payload)) := by
  unfold Block.linkSend
  split
  · next h => exact .inl ⟨h, rfl⟩
  · next h => exact .inr ⟨by rw [h]; nofun, Block.Ships.transmit _ _ _ _⟩

theorem Block.talks_linkSend (b : Block) (n ty epoch : Nat) (payload : Bytes) : b.Talks (b.linkSend n ty epoch payload) := by
  obtain ⟨-, h⟩ | ⟨-, h⟩ := b.linkSend_cases n ty epoch payload
  · rw [h]
    exact .refl b
  · exact (Block.Talks.setLpe b n (Lpe.takeSeq_session _ _)).trans h.talks

theorem Block.talks_sendAdm (b : Block) (n : Nat) (a : Adm) : b.Talks (b.sendAdm n a) := b.talks_linkSend _ _ _ _

/-! ## Receive checks on a link packet (R181, R397) -/

/-- A link packet that opens came under its epoch's key, and moves its port's replay window. -/
theorem Block.openLink_some {b : Block} {p : RxPacket} {h : Hdr} {body : Bytes} (ho : (b.openLink p).1 = some (h, body)) :
    h = Hdr.read p.hdr ∧ (b.lpe p.lpe).epochKey h.epoch ≠ none ∧
      (b.openLink p).2 = (b.modLpe p.lpe fun l => l.linkAccept h).count 3 3 (64 * p.payload.length) := by
  unfold Block.openLink at ho ⊢
  dsimp only at ho ⊢
  split at ho
  · cases ho
  split at ho
  · cases ho
  split at ho
  · cases ho
  next hform hjob _ key hkey =>
    split at ho
    · cases ho
    split at ho
    · cases ho
    next hadm _ x hopen =>
      cases ho
      refine ⟨rfl, ?_, ?_⟩
      · split at hkey
        · cases hkey
        · rw [hkey]; nofun
      · rw [if_neg hform, if_neg hjob, if_neg hadm]

theorem Lpe.linkAccept_session (l : Lpe) (h : Hdr) : (l.linkAccept h).session = l.session := by
  unfold Lpe.linkAccept
  split <;> rfl

theorem Lpe.linkAccept_seq1 (l : Lpe) (h : Hdr) : (l.linkAccept h).linkSeq1 = l.linkSeq1 := by
  unfold Lpe.linkAccept
  split <;> rfl

section Passed

variable {ty : Nat} {s : State} {p : RxPacket} {h : Hdr} {body : Bytes} (hp : LinkPasses ty s p h body)
include hp

/-- The block after the receive checks on a packet that passes them. -/
theorem LinkPasses.after :
    s.linkAfter p = ((s.blk.begin.linkBeats p).modLpe p.lpe fun l => l.linkAccept h).count 3 3 (64 * p.payload.length) := by
  obtain ⟨-, -, -, ho⟩ := hp
  exact (Block.openLink_some ho).2.2

/-- They leave the block but for the port's window. -/
theorem LinkPasses.talks : s.blk.begin.Talks (s.linkAfter p) := by
  rw [hp.after]
  exact ((Block.Ships.linkBeats _ p).talks.trans (.modLpe _ _ fun l => l.linkAccept_session h)).trans (Block.Ships.count ..).talks

theorem LinkPasses.keeps {α : Type} (g : Block → α) (hg : ∀ b : Block, g b.port = g b) : g (s.linkAfter p) = g s.blk.begin :=
  hp.talks.keeps g hg

theorem LinkPasses.keepsLpe (n : Nat) {α : Type} (g : Lpe → α) (hg : ∀ l : Lpe, g l.session = g l) :
    g ((s.linkAfter p).lpe n) = g (s.blk.lpe n) := hp.talks.keepsLpe n g hg

theorem LinkPasses.seq1 : ((s.linkAfter p).lpe p.lpe).linkSeq1 = (s.blk.lpe p.lpe).linkSeq1 := by
  have hacc : ((s.linkAfter p).lpe p.lpe).linkSeq1 = (((s.blk.begin.linkBeats p).lpe p.lpe).linkAccept h).linkSeq1 := by
    rw [hp.after]
    exact congrArg Lpe.linkSeq1 (Block.modLpe_lpe (s.blk.begin.linkBeats p) p.lpe fun l => l.linkAccept h)
  rw [hacc, Lpe.linkAccept_seq1]
  exact (Block.Ships.linkBeats s.blk.begin p).keepsLpe p.lpe Lpe.linkSeq1 fun _ => rfl

/-- The port holds the key of the packet's epoch. -/
theorem LinkPasses.epochKey : ((s.linkAfter p).lpe p.lpe).epochKey h.epoch ≠ none := by
  obtain ⟨-, -, -, ho⟩ := id hp
  have hk := (Block.openLink_some ho).2.1
  rw [(Block.Ships.linkBeats s.blk.begin p).keepsLpe p.lpe (fun l => l.epochKey h.epoch) fun _ => rfl] at hk
  rw [hp.keepsLpe p.lpe (fun l => l.epochKey h.epoch) fun _ => rfl]
  exact hk

/-- The row of its TYPE acts on the block after the checks, and pays the credits that are due. -/
theorem LinkPasses.arrives {act : Hdr → Bytes → Block → Option Block} {c : Block}
    (ha : act h body (s.linkAfter p) = some c) :
    atPort (.lphy p.lpe) s (onBlock s fun b => b.linkArrives ty p act) = .next (s.withBlock (c.payLpe p.lpe)) := by
  obtain ⟨hport, hty, htakes, ho⟩ := hp
  have htakes' : s.blk.begin.takesLink p = true := htakes
  have hopen : (s.blk.begin.linkBeats p).openLink p = (some (h, body), s.linkAfter p) := Prod.ext ho rfl
  rw [atPort_open _ hport.1 hport.2, onBlock_eq, Block.linkArrives, hopen, if_pos (by simp [hty, htakes'])]
  dsimp only
  rw [ha]
  rfl

end Passed

/-! ## Time (R425, R426) -/

@[simp] theorem Block.retime_lpe (b : Block) (n : Nat) : b.retime.lpe n = b.lpe n := rfl
@[simp] theorem Block.retime_keys (b : Block) : b.retime.keys = b.keys := rfl

@[simp] theorem Block.partnerAt_lpe (b : Block) (n hops : Nat) :
    (b.partnerAt n hops).lpe n = { b.lpe n with partnerHops := BitVec.ofNat 8 hops } :=
  b.modLpe_lpe n fun l => { l with partnerHops := BitVec.ofNat 8 hops }

@[simp] theorem Block.steer_lpe (b : Block) (mean : Int) (n : Nat) : (b.steer mean).lpe n = b.lpe n := by
  unfold Block.steer
  dsimp only
  split <;> rfl

@[simp] theorem Block.steer_keys (b : Block) (mean : Int) : (b.steer mean).keys = b.keys := by
  unfold Block.steer
  dsimp only
  split <;> rfl

/-- A field of n bytes. -/
theorem bfld_lt (b : Bytes) (off n : Nat) : bfld b off n < 2 ^ (8 * n) := by
  have hlen : (slice b off n).length = n := by
    simp only [slice, List.length_append, List.length_replicate, List.length_take, List.length_drop]
    omega
  have h := le_lt_two_pow (slice b off n)
  rwa [hlen] at h

/-- HOPS of a message is a byte. -/
theorem TimeMsg.read_hops (body : Bytes) : (BitVec.ofNat 8 (TimeMsg.read body).hops).toNat = (TimeMsg.read body).hops :=
  (BitVec.toNat_ofNat _ _).trans (Nat.mod_eq_of_lt (bfld_lt body 1 1))

/-- A message of an admitted partner has its row's effect. -/
theorem TimePasses.answers {msg : Nat} {s : State} {p : RxPacket} {h : Hdr} {body : Bytes} (hp : TimePasses msg s p h body)
    (act : TimeMsg → Block → Block) :
    atTime s p msg act = .next (s.withBlock ((act (TimeMsg.read body) (s.linkAfter p)).payLpe p.lpe)) := by
  obtain ⟨hlink, hepoch, hok, hmsg, hadm⟩ := hp
  refine hlink.arrives ?_
  simp only [hepoch, hok, hmsg, hadm, decide_true, Bool.and_self, if_true, ne_eq, not_true_eq_false, if_false]

/-- The session of an admitted partner has a link key, under which a packet leaves. -/
theorem TimePasses.epochKey {msg : Nat} {s : State} {p : RxPacket} {h : Hdr} {body : Bytes} (hp : TimePasses msg s p h body) :
    ((s.linkAfter p).lpe p.lpe).epochKey 1 ≠ none := by
  obtain ⟨hlink, hepoch, -⟩ := hp
  have hk := hlink.epochKey
  rwa [hepoch] at hk

/-- A packet that leaves under epoch 1 takes its next sequence number. -/
theorem Block.linkSend_seq1 {b : Block} {n ty : Nat} {payload : Bytes} (h : (b.lpe n).epochKey 1 ≠ none) :
    ((b.linkSend n ty 1 payload).lpe n).linkSeq1 = (b.lpe n).linkSeq1 + 1 := by
  obtain ⟨hno, -⟩ | ⟨-, hs⟩ := b.linkSend_cases n ty 1 payload
  · exact absurd hno h
  · rw [hs.keepsLpe n Lpe.linkSeq1 fun _ => rfl, Block.modLpe_lpe]
    rfl

/-- A packet sent under the link key, and the credits paid after it. -/
theorem Block.linkSent {b : Block} {n ty : Nat} (payload : Bytes) (h : (b.lpe n).epochKey 1 ≠ none) :
    (((b.linkSend n ty 1 payload).payLpe n).lpe n).linkSeq1 = (b.lpe n).linkSeq1 + 1 ∧
      (((b.linkSend n ty 1 payload).payLpe n).lpe n).partnerHops = (b.lpe n).partnerHops ∧
      ((b.linkSend n ty 1 payload).payLpe n).keys = b.keys := by
  have hpay := Block.Ships.payLpe (b.linkSend n ty 1 payload) n
  have hsend := (b.talks_linkSend n ty 1 payload).trans hpay.talks
  exact ⟨(hpay.keepsLpe n Lpe.linkSeq1 fun _ => rfl).trans (Block.linkSend_seq1 h), hsend.keepsLpe n Lpe.partnerHops fun _ => rfl,
    hsend.keeps Block.keys fun _ => rfl⟩

@[simp] theorem Block.partnerAt_keys (b : Block) (n hops : Nat) : (b.partnerAt n hops).keys = b.keys := rfl

@[simp] theorem Block.partnerAt_asymmetry (b : Block) (n hops m : Nat) : (b.partnerAt n hops).asymmetry m = b.asymmetry m := by
  have h : ∀ c : Block, c.retime.time.asym = c.time.asym := by
    intro c
    unfold Block.retime
    dsimp only
    repeat' split
    all_goals rfl
  rw [Block.asymmetry, Block.partnerAt, h]
  rfl

/-- What a RESP that answers the last REQ does (R426). -/
def Block.takeOffset (b : Block) (n : Nat) (t : TimeMsg) (stamp : Stamp) : Block :=
  let b := b.partnerAt n t.hops
  let o := timeOffset (b.asymmetry n) t stamp
  let b := b.modLpe n fun l => { l with offsets := (o :: l.offsets).take 16 }
  if b.domain.state = .member && (b.timeParent.map fun x => x.1) = some n && !(b.domain.seed && b.time.locked) then
    b.steer (meanOf (b.lpe n).offsets)
  else b

/-- A step that leaves a port and the keys alone, or does not happen. -/
theorem Block.takeOffset_fields (b : Block) (n : Nat) (t : TimeMsg) (stamp : Stamp) :
    ((b.takeOffset n t stamp).lpe n).offsets = (timeOffset (b.asymmetry n) t stamp :: (b.lpe n).offsets).take 16 ∧
      ((b.takeOffset n t stamp).lpe n).partnerHops = BitVec.ofNat 8 t.hops ∧ (b.takeOffset n t stamp).keys = b.keys := by
  unfold Block.takeOffset
  dsimp only
  split
  · rw [Block.steer_lpe, Block.steer_keys, Block.modLpe_lpe, Block.partnerAt_lpe, Block.partnerAt_asymmetry]
    exact ⟨rfl, rfl, rfl⟩
  · rw [Block.modLpe_lpe, Block.partnerAt_lpe, Block.partnerAt_asymmetry]
    exact ⟨rfl, rfl, rfl⟩

end Sys2Proof.Machine

namespace Sys2Proof.Proofs

open Sys2Proof Sys2Proof.Machine

/-- Settles O23. -/
theorem timeExchanges : Obligations.TimeExchanges := by
  refine ⟨fun s n x hb hadm hmem => ?_, fun s p x h body => ⟨fun hp => ?_, fun hp hexch ht1 hf1 => ?_⟩⟩
  · change execTimeExchange n x s = _
    have hgo : ¬ (!(s.blk.begin.lpe n).admitted || !(s.blk.begin.lpe n).member) = true := by
      rw [show (s.blk.begin.lpe n).admitted = true from hadm, show (s.blk.begin.lpe n).member = true from hmem]
      nofun
    rw [execTimeExchange, behindPort_open _ hb, onBlock_eq, if_neg hgo]
    rfl
  · have hans := hp.answers fun t b =>
      (b.partnerAt p.lpe t.hops).freshen.linkSend p.lpe 0x40 1
        ({ t with msg := 2, hops := (b.partnerAt p.lpe t.hops).time.hops.toNat, t2 := x.tick.toNat, f2 := x.frac.toNat
                  t3 := (Config.open64 11 (b.partnerAt p.lpe t.hops).fresh).toNat
                  f3 := (Config.open64 12 (b.partnerAt p.lpe t.hops).fresh).toNat % 65536 } : TimeMsg).bytes
    have hfresh : ((s.linkAfter p).partnerAt p.lpe (TimeMsg.read body).hops).fresh = s.blk.fresh :=
      hp.1.keeps Block.fresh fun _ => rfl
    rw [hfresh] at hans
    have hlpe : ((s.linkAfter p).partnerAt p.lpe (TimeMsg.read body).hops).freshen.lpe p.lpe = _ := Block.partnerAt_lpe ..
    have hkey : (((s.linkAfter p).partnerAt p.lpe (TimeMsg.read body).hops).freshen.lpe p.lpe).epochKey 1 ≠ none := by
      rw [hlpe]
      exact hp.epochKey
    obtain ⟨hseq, hhops, hkeys⟩ := Block.linkSent (ty := 0x40) _ hkey
    rw [hlpe] at hseq hhops
    exact ⟨hans, _, hans, rfl, (congrArg BitVec.toNat hhops).trans (TimeMsg.read_hops body),
      hseq.trans (congrArg (· + 1) hp.1.seq1), hkeys.trans (hp.1.keeps Block.keys fun _ => rfl)⟩
  · have hask : ((TimeMsg.read body).exch ≠ ((s.linkAfter p).lpe p.lpe).exchange.toNat ||
        (TimeMsg.read body).t1 ≠ ((s.linkAfter p).lpe p.lpe).reqTick.toNat ||
        (TimeMsg.read body).f1 ≠ ((s.linkAfter p).lpe p.lpe).reqFrac.toNat) = false := by
      rw [hp.1.keepsLpe p.lpe Lpe.exchange fun _ => rfl, hp.1.keepsLpe p.lpe Lpe.reqTick fun _ => rfl,
        hp.1.keepsLpe p.lpe Lpe.reqFrac fun _ => rfl, hexch, ht1, hf1]
      simp
    have hans := hp.answers fun t b =>
      if t.exch ≠ (b.lpe p.lpe).exchange.toNat || t.t1 ≠ (b.lpe p.lpe).reqTick.toNat || t.f1 ≠ (b.lpe p.lpe).reqFrac.toNat then b
      else b.takeOffset p.lpe t x
    rw [if_neg (ne_true_of_eq_false hask)] at hans
    have hpay := Block.Ships.payLpe ((s.linkAfter p).takeOffset p.lpe (TimeMsg.read body) x) p.lpe
    obtain ⟨hoff, hhops, hkeys⟩ := (s.linkAfter p).takeOffset_fields p.lpe (TimeMsg.read body) x
    have hasym : (s.linkAfter p).asymmetry p.lpe = s.blk.asymmetry p.lpe :=
      hp.1.keeps (fun b => b.asymmetry p.lpe) fun _ => rfl
    rw [hasym, hp.1.keepsLpe p.lpe Lpe.offsets fun _ => rfl] at hoff
    refine ⟨_, hans, rfl, (hpay.keepsLpe p.lpe Lpe.offsets fun _ => rfl).trans hoff, ?_,
      (hpay.keeps Block.keys fun _ => rfl).trans (hkeys.trans (hp.1.keeps Block.keys fun _ => rfl))⟩
    exact (congrArg BitVec.toNat ((hpay.keepsLpe p.lpe Lpe.partnerHops fun _ => rfl).trans hhops)).trans (TimeMsg.read_hops body)

end Sys2Proof.Proofs
end

section
/-! Two more frames: what reading one of the block's own records leaves, and what the key store, the relay and their commands leave;
and with them fence waits (R307) and the answers of the relay (R68, R69). -/

namespace Sys2Proof.Machine

open Sys2Proof Sys2Proof.Machine.Crypto

/-! ## A record read over the crossbar (R127, R128) -/

/-- A block without its crossings, key caches and memory channel engines. -/
def Block.sansMces (b : Block) : Block := { b with out := [], held := [], caches := [], mces := [] }

section Read

variable (b : Block)

@[simp] theorem Block.emit_sansMces (c : Cross) : (b.emit c).sansMces = b.sansMces := by
  rcases b.emit_cases c with h | h <;> rw [h] <;> rfl

@[simp] theorem Block.modCache_sansMces (e : Nat) (f : KeyCache → KeyCache) : (b.modCache e f).sansMces = b.sansMces := rfl

@[simp] theorem Block.modMce_sansMces (e : Nat) (f : Mce → Mce) : (b.modMce e f).sansMces = b.sansMces := rfl

@[simp] theorem Block.mctlFetch_sansMces (e a len : Nat) : (b.mctlFetch e a len).sansMces = b.sansMces := by
  rw [Block.mctlFetch, Block.emit_sansMces, Block.modMce_sansMces]

@[simp] theorem Block.cacheRegion_sansMces (e r : Nat) : (b.cacheRegion e r).sansMces = b.sansMces := by
  unfold Block.cacheRegion
  split <;> rfl

@[simp] theorem Block.touchLine_sansMces (e : Nat) (k : CachedKey) (r : Nat) (mode : Mode) :
    (b.touchLine e k r mode).sansMces = b.sansMces := by
  unfold Block.touchLine
  split <;> rfl

/-- A key that may be used moves its engine's cache alone. -/
theorem Block.useKey_sansMces {e n fn ctx use : Nat} {k : CachedKey} {c : Block} (h : b.useKey e n fn ctx use = (.ok k, c)) :
    c.sansMces = b.sansMces := by
  unfold Block.useKey at h
  split at h
  · cases h; rfl
  · cases h; rfl
  · cases h

/-- An access that passes its checks moves caches alone. -/
theorem Block.xbarCheck_sansMces {k : Asker} {a use : Nat} {x : Tier × RegionEntry × CachedKey} {c : Block}
    (h : b.xbarCheck k a use = (.ok x, c)) : c.sansMces = b.sansMces := by
  unfold Block.xbarCheck at h
  split at h
  · cases h
  · extract_lets e entry check n at h
    split at h
    · cases h
    · split at h
      · cases h
      · split at h
        · cases h
        · next hkey =>
          cases h
          rw [Block.touchLine_sansMces, Block.useKey_sansMces _ hkey, Block.cacheRegion_sansMces]

theorem Block.xbarServe_sansMces (k : Asker) (t : Tier) (mode : Mode) (write : Bool) (sector : Option Nat) (a : Nat) :
    (b.xbarServe k t mode write sector a).sansMces = b.sansMces := by
  have hfold : ∀ (l : List (Part × Nat × Nat)) (c : Block),
      (l.foldl (fun b p => b.mctlFetch (t.mce a) p.2.1 p.2.2) c).sansMces = c.sansMces := by
    intro l
    induction l with
    | nil => exact fun _ => rfl
    | cons p r ih => exact fun c => (ih _).trans (c.mctlFetch_sansMces _ _ _)
  exact hfold _ _

end Read

theorem Block.recordFailed_ok (b : Block) (k : Asker) (a : Nat) : b.recordFailed k a .ok = b := by
  unfold Block.recordFailed
  split <;> rfl

/-- A record that could be read leaves all but crossings, caches and engines. -/
theorem Work.readRecord_sansMces {w : Work} {k : Asker} {acc : Access} {a n : Nat} (h : (w.readRecord k acc a n).1 = .ok) :
    (w.readRecord k acc a n).2.2.blk.sansMces = w.blk.sansMces := by
  unfold Work.readRecord at h ⊢
  split at h
  · cases h
  next hgo =>
    rw [if_neg hgo]
    split at h
    · next hx => exact absurd h (Block.xbarCheck_error (congrArg Prod.fst hx))
    next t entry c b hx =>
      have hserve := (b.xbarServe_sansMces k t entry.mode false none (a / 128 * 128)).trans (Block.xbarCheck_sansMces _ hx)
      split at h
      · obtain rfl : _ = Status.ok := h
        exact (congrArg Block.sansMces (Block.recordFailed_ok _ k a)).trans hserve
      · exact hserve

/-! ## Fence waits (R305, R307) -/

theorem exec_fenceWait {s : State} {id : Nat} {c : Cmd} (acc : Access) (hc : CmdReady s id 0x0A02 c) :
    exec (.fenceWait id acc) s =
      onMemoryWait s fun w => w.withFence id c acc fun _ f w => w.on fun b => b.registerWait id c f := by
  change execFenceWait id acc s = _
  rw [execFenceWait, onCommandMem_ready _ hc]

section Wait

variable {b : Block} {id : Nat} {c : Cmd} {f : FenceRec} (hl : f.live = true)
include hl

theorem Block.registerWait_met (h : c.value ≤ f.value) : b.registerWait id c f = b.succeed id f.value 0 := by
  simp only [Block.registerWait, hl, h, Bool.not_true, Bool.false_eq_true, if_false, if_true]

/-- A wait that is not met and has room is kept. -/
theorem Block.registerWait_waits (h : f.value < c.value) (hroom : b.seq.waits.length < 4096) :
    (b.registerWait id c f).seq.waits =
      b.seq.waits ++ [{ cmd := id, fn := c.fn, fence := c.fence, value := BitVec.ofNat 64 c.value }] := by
  simp only [Block.registerWait, hl, h.not_ge, hroom.not_ge, Bool.not_true, Bool.false_eq_true, if_false]

end Wait

/-- Reading the fence leaves the sequencer. -/
theorem fenceWork_seq {s : State} {c : Cmd} {acc : Access} {r : Nat} (hok : (s.fenceRead c acc r).1 = .ok) :
    (s.fenceWork c acc r).blk.seq = s.blk.seq := (congrArg Block.seq (Work.readRecord_sansMces hok) :)

theorem Block.succeed_waits (b : Block) (id m n : Nat) : (b.succeed id m n).seq.waits = b.seq.waits :=
  (congrArg Sequencer.waits (b.complete_frame id .ok (BitVec.ofNat 64 m) (BitVec.ofNat 64 n) false).2.1 :)

/-! ## The key store and the relay (R68, R105, R119) -/

/-- A block without its crossings, the sequencer, the queue pairs, the key store with its caches, regions, and random draws. -/
def Block.vault (b : Block) : Block :=
  { b with out := [], held := [], seq := {}, qps := [], keys := {}, caches := [], regions := {}, fresh := 0, boot := {} }

section Vault

variable (b : Block)

@[simp] theorem Block.emit_vault (c : Cross) : (b.emit c).vault = b.vault := by
  rcases b.emit_cases c with h | h <;> rw [h] <;> rfl

/-- A completion leaves it. -/
theorem Block.vault_of_core {a b : Block} (h : b.core = a.core) (hf : b.fns = a.fns) (ho : b.obs = a.obs) : b.vault = a.vault := by
  have hv : ∀ b : Block, b.vault = { b.core.vault with fns := b.fns, obs := b.obs } := fun _ => rfl
  rw [hv b, hv a, h, hf, ho]

@[simp] theorem Block.complete_vault (id : Nat) (st : Status) (x y : BitVec 64) (r : Bool) :
    (b.complete id st x y r).vault = b.vault :=
  Block.vault_of_core (b.complete_core ..) (b.complete_fns ..) (b.complete_obs ..)

@[simp] theorem Block.fail_vault (id : Nat) (st : Status) : (b.fail id st).vault = b.vault := b.complete_vault ..
@[simp] theorem Block.succeed_vault (id m n : Nat) : (b.succeed id m n).vault = b.vault := b.complete_vault ..

@[simp] theorem Block.failSome_vault (id : Option Nat) (st : Status) : (b.failSome id st).vault = b.vault := by
  cases id with
  | none => rfl
  | some id => exact b.fail_vault id st

@[simp] theorem Block.kxpOrder_vault (o : KxpOrder) : (b.kxpOrder o).vault = b.vault := by
  unfold Block.kxpOrder
  dsimp only
  split
  · rfl
  · rw [Block.emit_vault]; rfl

@[simp] theorem Block.dropExports_vault (l : Tab ExportEntry) : (b.dropExports l).vault = b.vault := by
  induction l generalizing b with
  | nil => rfl
  | cons e r ih => exact (ih _).trans (b.kxpOrder_vault _)

@[simp] theorem Block.orderDrops_vault (o : DropOrder) (l : List Nat) : (b.orderDrops o l).vault = b.vault := by
  induction l generalizing b with
  | nil => rfl
  | cons e r ih => exact (ih _).trans rfl

@[simp] theorem Block.endRekey_vault (r : Nat) (st : Status) : (b.endRekey r st).vault = b.vault := by
  unfold Block.endRekey
  split
  · rfl
  · split
    · rfl
    · rw [Block.complete_vault]; rfl

@[simp] theorem Block.endRekeys_vault (st : Status) (l : List Nat) : (b.endRekeys st l).vault = b.vault := by
  induction l generalizing b with
  | nil => rfl
  | cons r l ih => exact (ih _).trans (b.endRekey_vault r st)

@[simp] theorem Block.invalidateFor_vault (n : Nat) (cmd : Option Nat) (res0 : Nat) :
    (b.invalidateFor n cmd res0).vault = b.vault := by
  unfold Block.invalidateFor
  dsimp only
  rw [Block.endRekeys_vault, Block.orderDrops_vault]
  exact (b.emptySlot n).dropExports_vault _

@[simp] theorem Block.message_vault (op : BitVec 8) (l : List Bytes) : (b.message op l).vault = b.vault := b.emit_vault _

@[simp] theorem Block.relay_vault (w : RelayFor) : (b.relay w).vault = b.vault := by
  unfold Block.relay
  dsimp only
  split
  · exact b.message_vault _ _
  · exact b.drew.message_vault _ _

@[simp] theorem Block.listNext_vault : b.listNext.vault = b.vault := by
  unfold Block.listNext
  split
  · rfl
  · split
    · rfl
    · exact Block.relay_vault _ _

@[simp] theorem Block.dropNew_vault (k : Nat × BitVec 16) : (b.dropNew k).vault = b.vault := by
  unfold Block.dropNew
  split
  · exact b.invalidateFor_vault _ _ _
  · rfl

/-- What follows a lost or rejected write leaves all but the key store, the relay and its command. -/
@[simp] theorem Block.relayFailed_vault (st : Status) (w : RelayFor) : (b.relayFailed st w).vault = b.vault := by
  cases w with
  | boot | meter | readMeters => rfl
  | patch cmd r => exact b.failSome_vault cmd st
  | install | revokeRecord | readPointer => exact b.fail_vault _ st
  | revokeList cmd l i k => exact (Block.listNext_vault _).trans (b.failSome_vault cmd st)
  | blob cmd index bl p n old =>
    exact (Block.failSome_vault _ _ _).trans (Block.dropNew_vault (b.releaseIndex index) n)
  | pointer cmd index p slot old =>
    refine (Block.failSome_vault _ _ _).trans ?_
    cases slot with
    | none => rfl
    | some n => exact Block.dropNew_vault (b.releaseIndex index) n

@[simp] theorem Block.resend_vault (w : RelayFor) : (b.resend w).vault = b.vault := by
  unfold Block.resend
  split
  · rfl
  · exact b.relay_vault w

@[simp] theorem Block.abandonRelay_vault (st : Status) (q : BitVec 8) (w : RelayFor) : (b.abandonRelay st q w).vault = b.vault := by
  unfold Block.abandonRelay
  dsimp only
  rw [Block.relayFailed_vault]
  split <;> rfl

end Vault

/-! ## Answers of the relay (R68, R69) -/

section Relay

variable {s : State} {q : BitVec 8} (hport : PortOpen .mgmt s)

include hport in
/-- An answer that an operation awaits. -/
theorem exec_rpmbResult {r : Relay} {rest : List Relay} (a : RpmbAnswer) (h : takeRelay q s.blk.seq.relays = some (r, rest)) :
    exec (.rpmbResult q a) s = .next (s.withBlock
      (match r.answer s.blk.store s.blk.otp.rpmbKey a with
        | .stray => s.blk.begin.strayRelay
        | .accepted data =>
          if r.live then
            ({ s.blk.begin with seq := { s.blk.seq with relays := rest }
                                store := (s.blk.store.accept r.what).counted r.what } : Block).relayDone data r.what
          else { s.blk.begin with seq := { s.blk.seq with relays := rest }
                                  store := (s.blk.store.accept r.what).counted r.what }
        | .rejected =>
          if !r.live then s.blk.begin.setRelays rest
          else if r.what.owned then (s.blk.begin.setRelays rest).resend r.what
          else (s.blk.begin.setRelays rest).relayFailed .notReady r.what)) := by
  have h' : takeRelay q s.blk.begin.seq.relays = some (r, rest) := h
  change execRpmbResult q a s = _
  rw [execRpmbResult, atPort_open _ hport.1 hport.2, onBlock_eq, h']
  rfl

include hport in
theorem exec_rpmbResult_none (a : RpmbAnswer) (h : takeRelay q s.blk.seq.relays = none) :
    Answers (.rpmbResult q a) s s.blk.begin.strayRelay := by
  have h' : takeRelay q s.blk.begin.seq.relays = none := h
  change execRpmbResult q a s = _
  rw [execRpmbResult, atPort_open _ hport.1 hport.2, onBlock_eq, h']
  rfl

/-- Frames that do not verify answer nothing. -/
theorem Relay.answer_unverified (r : Relay) (st : Store) {key : Bytes} {a : RpmbAnswer} (h : framesOk key a.frames = false) :
    r.answer st key a = .stray := by
  simp [Relay.answer, h]

/-- What a command or an own write does when no answer has come. -/
def Block.relayLost (b : Block) (q : BitVec 8) (r : Relay) (rest : List Relay) : Block :=
  if r.what.owned then (b.setRelays rest).resend r.what else b.abandonRelay .timeout q r.what

theorem Block.relayLost_vault (b : Block) (q : BitVec 8) (r : Relay) (rest : List Relay) :
    (b.relayLost q r rest).vault = b.vault := by
  unfold Block.relayLost
  split
  · exact Block.resend_vault _ _
  · exact Block.abandonRelay_vault _ _ _ _

theorem exec_rpmbRelayTimeout {r : Relay} {rest : List Relay} (h : takeRelay q s.blk.seq.relays = some (r, rest))
    (hl : r.live = true) :
    Answers (.rpmbRelayTimeout q) s ((s.blk.begin.raisePf 0x35 0x74 [(0, 2)]).relayLost q r rest) := by
  have h' : takeRelay q s.blk.begin.seq.relays = some (r, rest) := h
  change execRpmbRelayTimeout q s = _
  rw [execRpmbRelayTimeout, onBlock_eq, h']
  simp only [hl, Bool.not_true, Bool.false_eq_true, if_false]
  rfl

end Relay

end Sys2Proof.Machine

namespace Sys2Proof.Proofs

open Sys2Proof Sys2Proof.Machine

/-- Settles O14: by whether the fence holds the value, and by whether there is room to wait. -/
theorem fenceWaitsCompleteOrWait : Obligations.FenceWaitsCompleteOrWait := by
  refine ⟨fun s id r c acc hc hr hok hl => ⟨fun hv => ?_, fun hv hroom => ?_⟩, fun s id c hc ht => ?_⟩
  · have hans := answers_fenceFound (exec_fenceWait acc hc) hr hok (g := fun b => b.succeed id (s.fenceFound c acc r).value 0)
      (congrArg (fun b => { s.fenceWork c acc r with blk := b }) (Block.registerWait_met hl hv))
    refine ⟨hans, _, hans, rfl, Block.succeed_cmd .., ?_⟩
    exact (Block.succeed_waits _ _ _ _).trans (congrArg Sequencer.waits (fenceWork_seq hok))
  · have hans := answers_fenceFound (exec_fenceWait acc hc) hr hok
      (g := fun b => b.registerWait id c (s.fenceFound c acc r)) rfl
    have hseq := fenceWork_seq hok
    refine ⟨_, hans, rfl, ?_⟩
    have hw := Block.registerWait_waits (b := (s.fenceWork c acc r).blk) (id := id) hl hv (by rw [hseq]; exact hroom)
    rwa [hseq] at hw
  · have hc' : s.blk.begin.cmd? id = some c := hc
    change execFenceWaitTimeout id s = _
    rw [execFenceWaitTimeout, onBlock_eq, hc']
    exact congrArg (fun b => Host.Outcome.next (s.withBlock b)) (if_neg ht)

/-- Settles O24: by what the answer says, and by whether a command waits. -/
theorem relayAnswers : Obligations.RelayAnswers := by
  refine ⟨fun s q r rest hp hr a => ⟨fun ha => ?_, fun data ha hl => ?_, fun data ha hl => ?_, fun ha hl ho => ?_, fun ha hl ho => ?_,
    r.answer_unverified _⟩, fun s q a hp hr => exec_rpmbResult_none hp a hr, fun s q r rest hr hl => ⟨fun ho => ?_, fun ho => ?_, ?_⟩⟩
  · rw [Answers, exec_rpmbResult hp a hr, ha]
    rfl
  · rw [Answers, exec_rpmbResult hp a hr, ha]
    simp only [hl, if_true]
  · rw [Answers, exec_rpmbResult hp a hr, ha]
    simp only [hl, Bool.false_eq_true, if_false]
    rfl
  · rw [Answers, exec_rpmbResult hp a hr, ha]
    simp only [hl, ho, Bool.not_true, Bool.false_eq_true, if_false]
  · rw [Answers, exec_rpmbResult hp a hr, ha]
    simp only [hl, ho, Bool.not_true, Bool.false_eq_true, if_false, if_true]
  · exact (exec_rpmbRelayTimeout hr hl).trans (congrArg (fun b => Host.Outcome.next (s.withBlock b)) (if_pos ho))
  · exact (exec_rpmbRelayTimeout hr hl).trans
      (congrArg (fun b => Host.Outcome.next (s.withBlock b)) (if_neg (ne_true_of_eq_false ho)))
  · have hv := (s.blk.begin.raisePf 0x35 0x74 [(0, 2)]).relayLost_vault q r rest
    have hobs : ((s.blk.begin.raisePf 0x35 0x74 [(0, 2)]).relayLost q r rest).obs = (s.blk.begin.raisePf 0x35 0x74 [(0, 2)]).obs :=
      (congrArg Block.obs hv :)
    refine ⟨_, exec_rpmbRelayTimeout hr hl, rfl, ?_, ?_⟩
    · exact (congrArg Block.store hv :).trans (congrArg Block.store (Block.notifies_raisePf ..).core :)
    · rw [State.withBlock_blk, hobs, Block.raisePf_events _ _ _ _ (by decide)]
      rfl

end Sys2Proof.Proofs
end

section
/-! Power partitions and the ledger (R346, R418), rail requests and canaries (R56, R58, R420, R421). -/

namespace Sys2Proof.Machine

open Sys2Proof Sys2Proof.Machine.Crypto

/-! ## Partitions (R53, R346) -/

theorem Tab.getD_put {α : Type} (t : Tab α) (k j : Nat) (a d : α) :
    Tab.getD (Tab.put t k a) j d = if j = k then a else Tab.getD t j d := by
  split
  · next h => rw [h, Tab.getD_put_same]
  · next h => exact Tab.getD_put_other t a d h

/-- The engines named go to the partition; the others stay where they were. -/
theorem Block.mapEngines_map (b : Block) (p : Nat) (l : List Nat) (e : Nat) :
    (b.mapEngines p l).gov.engineMap.getD e 0 = if e ∈ l then p else b.gov.engineMap.getD e 0 := by
  induction l generalizing b with
  | nil => rfl
  | cons n l ih =>
    refine (ih _).trans ?_
    rw [Block.emit_gov]
    change (if e ∈ l then p else Tab.getD (Tab.put b.gov.engineMap n p) e 0) = _
    rw [Tab.getD_put]
    simp only [List.mem_cons]
    split <;> split <;> simp_all

/-- The block after a PARTITION_SET whose cap is in range. -/
def Block.partitionSet (b : Block) (id : Nat) (c : Cmd) : Block :=
  ((b.mapEngines (dfld c.desc 16 1) ((List.range 256).filter fun n => (dfld c.desc 24 32).testBit n)).modGov fun g =>
    { g with parts := g.parts.mod (dfld c.desc 16 1) {} fun q =>
        { q with cap := dfld c.desc 56 4, owner := dfld c.desc 17 1, level := bucketDepth (dfld c.desc 56 4) } }).succeed id 0 0

theorem answers_partitionSet {s : State} {id : Nat} {c : Cmd} (hc : CmdReady s id 0x0B01 c) (hcap : dfld c.desc 56 4 ≤ 4000000) :
    Answers (.partitionSet id) s (s.blk.begin.partitionSet id c) :=
  answers_onCommand (by unfold exec execPartitionSet; rfl) hc (if_neg hcap.not_gt)

section PartitionSet

variable (b : Block) (id : Nat) (c : Cmd)

theorem Block.partitionSet_partition : (b.partitionSet id c).partition (dfld c.desc 16 1) =
    { (b.mapEngines (dfld c.desc 16 1) ((List.range 256).filter fun n => (dfld c.desc 24 32).testBit n)).partition (dfld c.desc 16 1) with
      cap := dfld c.desc 56 4, owner := dfld c.desc 17 1, level := bucketDepth (dfld c.desc 56 4) } := by
  rw [Block.partition, Block.partitionSet, Block.succeed, Block.complete_gov]
  exact Tab.getD_put_same ..

theorem Block.partitionSet_map {e : Nat} (he : e < 256) : (b.partitionSet id c).gov.engineMap.getD e 0 =
    if (dfld c.desc 24 32).testBit e then dfld c.desc 16 1 else b.gov.engineMap.getD e 0 := by
  rw [Block.partitionSet, Block.succeed, Block.complete_gov]
  refine (b.mapEngines_map _ _ e).trans ?_
  simp only [List.mem_filter, List.mem_range, he, true_and]

end PartitionSet

/-! ## The rail (R56, R58, R420, R421) -/

/-- A field of the block that notices leave. -/
theorem Block.Notifies.keeps {a b : Block} (h : a.Notifies b) {α : Type} (g : Block → α) (hg : ∀ b : Block, g b.core = g b) :
    g b = g a := Block.keeps_of_core h.core g hg

@[simp] theorem Block.raisePf_gov (b : Block) (code engine : Nat) (data : List (Nat × Nat)) :
    (b.raisePf code engine data).gov = b.gov := (b.notifies_raisePf code engine data).keeps Block.gov fun _ => rfl

/-- DEFICIT moves its own fields alone. -/
theorem Block.setDeficit_gov (b : Block) : b.setDeficit.gov =
    { b.gov with deficit := decide (b.gov.railMv < b.gov.needMv)
                 deficitSeen := b.gov.deficitSeen || decide (b.gov.railMv < b.gov.needMv)
                 deficits := b.setDeficit.gov.deficits } := by
  unfold Block.setDeficit
  dsimp only
  split
  · rw [Block.raisePf_gov]
    rfl
  · rfl

theorem Block.requestRail_idle {b : Block} {mv : Nat} (h : b.gov.railReq = none) :
    b.requestRail mv = (b.modGov fun g => { g with railReq := some mv }).emit (.railReq mv) :=
  if_neg (by rw [h]; exact Bool.false_ne_true)

theorem Block.requestRail_gov (b : Block) (mv : Nat) :
    (b.requestRail mv).gov = { b.gov with railReq := (b.requestRail mv).gov.railReq } := by
  unfold Block.requestRail
  split
  · rfl
  · rw [Block.emit_gov]
    rfl

/-- A voltage that is requested when the rail lies below it. -/
def Block.raiseRail (b : Block) (mv : Nat) : Block := if b.gov.railMv < mv then b.requestRail mv else b

theorem Block.raiseRail_gov (b : Block) (mv : Nat) :
    (b.raiseRail mv).gov = { b.gov with railReq := (b.raiseRail mv).gov.railReq } := by
  unfold Block.raiseRail
  split
  · exact b.requestRail_gov mv
  · rfl

theorem Block.raiseRail_idle {b : Block} {mv : Nat} (h : b.gov.railReq = none) (hlow : b.gov.railMv < mv) :
    (b.raiseRail mv).gov.railReq = some mv := by
  rw [Block.raiseRail, if_pos hlow, Block.requestRail_idle h, Block.emit_gov]
  rfl

theorem ceilDiv_five (x : Nat) : x ≤ ceilDiv x 5 * 5 := by
  unfold ceilDiv
  omega

/-! ## Canaries (R420, R421) -/

theorem Block.payCredits_gov (b : Block) (e : Nat) : (b.payCredits e).gov = b.gov := by
  have htimes : ∀ (k : Nat) (c : Cross) (b : Block), (b.emitTimes c k).gov = b.gov := fun k c b =>
    (Block.Ships.emitTimes b c k).keeps Block.gov fun _ => rfl
  rw [Block.payCredits, htimes, htimes]
  rfl

/-- An engine that withholds credits, or pays them, leaves the governor. -/
theorem Block.setShort_gov (b : Block) (c : CanaryRate) : (b.setShort c).gov = b.gov := by
  unfold Block.setShort
  dsimp only
  split
  · split
    · rfl
    · exact Block.payCredits_gov _ _
  · split
    · exact (Block.Ships.payLpe _ _).keeps Block.gov fun _ => rfl
    · rfl

theorem Block.setShorts_gov (l : List CanaryRate) (b : Block) : (l.foldl Block.setShort b).gov = b.gov := by
  induction l generalizing b with
  | nil => rfl
  | cons c l ih => exact (ih _).trans (b.setShort_gov c)

/-- The block with the needs that a measurement shows. -/
def Block.measured (b : Block) (rates : List CanaryRate) : Block :=
  (rates.foldl Block.setShort (b.modGov fun g =>
    { g with needs := b.canaryNeeds rates, needMv := (Tab.vals (b.canaryNeeds rates)).foldl max 0 })).setDeficit

theorem Block.measured_gov (b : Block) (rates : List CanaryRate) :
    (b.measured rates).gov.needMv = (Tab.vals (b.canaryNeeds rates)).foldl max 0 ∧
      (b.measured rates).gov.railMv = b.gov.railMv ∧ (b.measured rates).gov.railReq = b.gov.railReq := by
  rw [Block.measured, Block.setDeficit_gov, Block.setShorts_gov]
  exact ⟨rfl, rfl, rfl⟩

theorem answers_canaryMeasure {s : State} {rates : List CanaryRate} (hsafe : s.blk.pins.blockSafe = false) (hne : rates ≠ [])
    (hbuilt : ∀ c ∈ rates, c.engine < 0x60 ∧ s.blk.build.engineBuilt c.engine = true) :
    Answers (.canaryMeasure rates) s
      ((s.blk.begin.measured rates).raiseRail (railTarget ((Tab.vals (s.blk.canaryNeeds rates)).foldl max 0))) := by
  have hall : (rates.filter fun c => decide (c.engine < 0x60) && s.blk.begin.build.engineBuilt c.engine) = rates :=
    List.filter_eq_self.mpr fun c hc => by
      obtain ⟨hlt, hb⟩ := hbuilt c hc
      exact Bool.and_eq_true_iff.mpr ⟨decide_eq_true hlt, hb⟩
  have hruns : ¬ (s.blk.begin.pins.blockSafe || rates.isEmpty) = true := by
    simp [hsafe, hne]
  change execCanaryMeasure rates s = _
  rw [execCanaryMeasure, onBlock_eq]
  dsimp only
  rw [hall, if_neg hruns]
  rfl

theorem Tab.has_put {α : Type} (t : Tab α) (k j : Nat) (a : α) : Tab.has (Tab.put t k a) j = true ↔ j = k ∨ Tab.has t j = true := by
  by_cases h : j = k
  · simp [h]
  · simp [h, Tab.has, Tab.get?_put_other t a h]

/-- The engines with a need are those that had one and those measured. -/
theorem Block.has_canaryNeeds (b : Block) (rates : List CanaryRate) (e : Nat) :
    Tab.has (b.canaryNeeds rates) e = true ↔ Tab.has b.gov.needs e = true ∨ ∃ c ∈ rates, c.engine = e := by
  unfold Block.canaryNeeds
  generalize b.gov.needs = t
  induction rates generalizing t with
  | nil => simp
  | cons c l ih =>
    refine (ih _).trans ?_
    rw [Tab.has_put]
    simp only [List.mem_cons, exists_eq_or_imp]
    constructor
    · rintro ((h | h) | h)
      · exact .inr (.inl h.symm)
      · exact .inl h
      · exact .inr (.inr h)
    · rintro (h | h | h)
      · exact .inl (.inr h)
      · exact .inl (.inl h.symm)
      · exact .inr h

end Sys2Proof.Machine

namespace Sys2Proof.Proofs

open Sys2Proof Sys2Proof.Machine

theorem partitionCommands : Parts.PartitionCommands := by
  refine ⟨fun s id c hc hcap => ?_, fun s id c hc hown => ?_⟩
  · refine ⟨_, answers_partitionSet hc hcap, rfl, Block.succeed_cmd .., ?_, ?_, ?_, fun e he => Block.partitionSet_map _ id c he⟩ <;>
      exact (congrArg _ (s.blk.begin.partitionSet_partition id c)).trans rfl
  · refine answers_onCommand (by unfold exec execLedgerRead; rfl) hc (if_neg ?_)
    rw [Bool.and_eq_true, decide_eq_true_eq, decide_eq_true_eq]
    exact fun ⟨hfn, hne⟩ => hown.elim hfn hne

theorem railRequests : Parts.RailRequests := by
  refine ⟨fun s code mv r hp hr => ?_, fun s mv hr => ?_, fun s hsafe hr hneed hlow hup => ?_, fun need => ?_⟩
  · have hr' : s.blk.begin.gov.railReq = some r := hr
    refine ⟨s.withBlock (s.blk.begin.modGov fun g =>
      { g with railReq := none, railMv := if code = 0 then r else if code = 2 then mv.toNat else g.railMv }).setDeficit, ?_, rfl, ?_⟩
    · change execRailAck code mv s = _
      rw [execRailAck, atPort_open _ hp.1 hp.2, onBlock_eq, hr']
      rfl
    · rw [State.withBlock_blk, Block.setDeficit_gov]
      exact ⟨rfl, rfl, decide_eq_true_iff, rfl⟩
  · have hr' : s.blk.begin.gov.railReq = some mv := hr
    refine ⟨s.withBlock ((s.blk.begin.modGov fun g =>
      { g with railReq := none, railTimeouts := g.railTimeouts + 1 }).raisePf 0x31 0x75 [(0, mv)]), ?_, rfl, ?_⟩
    · change execRailRequestTimeout s = _
      rw [execRailRequestTimeout, onBlock_eq, hr']
      rfl
    · have hg := (congrArg Block.gov (Block.notifies_raisePf (s.blk.begin.modGov fun g =>
        { g with railReq := none, railTimeouts := g.railTimeouts + 1 }) 0x31 0x75 [(0, mv)]).core :)
      rw [State.withBlock_blk]
      exact ⟨(congrArg Governor.railReq hg :), (congrArg Governor.railTimeouts hg :), (congrArg Governor.railMv hg :),
        Block.raisePf_events _ _ _ _ (by decide)⟩
  · have hruns : ¬ (s.blk.pins.blockSafe || decide (s.blk.gov.railMv < s.blk.gov.needMv + 50) ||
        decide (s.blk.gov.railMv ≤ railTarget s.blk.gov.needMv)) = true := by
      simp [hsafe, hneed, hlow]
    change execRailLowerRequest s = _
    rw [execRailLowerRequest, onBlock_eq]
    refine congrArg (fun b => Host.Outcome.next (s.withBlock b)) ((if_neg hruns).trans ?_)
    exact (Block.requestRail_idle (b := s.blk.begin) hr).trans (if_neg (Bool.eq_false_iff.mp hup))
  · have h := ceilDiv_five (need + 30)
    unfold railTarget
    omega

theorem canariesSetTheNeed : Parts.CanariesSetTheNeed := by
  intro s rates hsafe hne hbuilt
  obtain ⟨hneed, hrail, hreq⟩ := s.blk.begin.measured_gov rates
  have hgov := (s.blk.begin.measured rates).raiseRail_gov (railTarget ((Tab.vals (s.blk.canaryNeeds rates)).foldl max 0))
  have hneed' := (congrArg Governor.needMv hgov).trans hneed
  refine ⟨_, answers_canaryMeasure hsafe hne hbuilt, rfl, hneed', s.blk.has_canaryNeeds rates, ?_,
    (congrArg Governor.railMv hgov).trans hrail, fun hidle hlow => ?_⟩
  · rintro c rfl
    exact Tab.get?_put_same ..
  · rw [State.withBlock_blk, hneed'] at hlow ⊢
    exact Block.raiseRail_idle (hreq.trans hidle) (hrail.trans_lt hlow)

/-- Settles O43: partitions and the ledger, the regulator's answers and the requests, and the canaries. -/
theorem partitionsAndRails : Obligations.PartitionsAndRails := ⟨partitionCommands, railRequests, canariesSetTheNeed⟩

end Sys2Proof.Proofs
end

section
/-! Cipher pages (R368 to R380) and the entropy source (R384 to R387). -/

namespace Sys2Proof.Machine

open Sys2Proof Sys2Proof.Machine.Crypto

/-! ## The turn of a page (R377) -/

/-- Taking a turn moves `cipherAt` alone. -/
theorem Block.pageTurn_eq (b : Block) : ∃ n, b.pageTurn = { b with cipherAt := n } := by
  unfold Block.pageTurn
  split
  · exact ⟨_, rfl⟩
  · split <;> exact ⟨_, rfl⟩

/-- A field of the block that a turn leaves. -/
theorem Block.pageTurn_keeps (b : Block) {α : Type} (g : Block → α) (hg : ∀ n, g { b with cipherAt := n } = g b) :
    g b.pageTurn = g b := by
  obtain ⟨n, h⟩ := b.pageTurn_eq
  rw [h, hg]

@[simp] theorem Block.pageTurn_fn (b : Block) (f : Nat) : b.pageTurn.fn f = b.fn f := b.pageTurn_keeps (Block.fn · f) fun _ => rfl
@[simp] theorem Block.pageTurn_keys (b : Block) : b.pageTurn.keys = b.keys := b.pageTurn_keeps Block.keys fun _ => rfl
@[simp] theorem Block.pageTurn_stopped (b : Block) : b.pageTurn.stopped = b.stopped := b.pageTurn_keeps Block.stopped fun _ => rfl
@[simp] theorem Block.pageTurn_obs (b : Block) : b.pageTurn.obs = b.obs := b.pageTurn_keeps Block.obs fun _ => rfl
@[simp] theorem Block.pageTurn_resets (b : Block) : b.pageTurn.resets = b.resets := b.pageTurn_keeps Block.resets fun _ => rfl

/-! ## GO and the IV (R369, R371) -/

/-- A function reaches the registers of its own page that an operation locks, while none runs. -/
theorem HcpOpen.reach_cipher {s : State} (h : HcpOpen s) {f o : Nat} (hf : f < 256) (hb : (s.blk.fn f).cipher.busy = false)
    (harea : pageArea o = .cipher) (ho : o < 0x1000) (h8 : o % 8 = 0) : s.blk.begin.reach f (pageOff f o) true = true := by
  refine h.reach_pageOff hf ho h8 ?_
  simp [Block.pageReach, harea, CipherPage.shut, hb]

/-- A page whose operation has begun. -/
def CipherPage.begun (c : CipherPage) : CipherPage := { c with busy := true, dataOut := 0, outLen := 0, checkFail := false }

/-- A page whose operation has ended with a status. -/
def CipherPage.ended (c : CipherPage) (st : Status) : CipherPage :=
  { c with busy := false, done := true, code := st, running := none, chain := [] }

/-- A page whose output is released. -/
def CipherPage.released (c : CipherPage) (out : Bytes) (iv : BitVec 128) (ce : Bool) (n : Nat) : CipherPage :=
  { c with blocks := satAdd64 c.blocks c.textBlocks, iv := iv, ctrEnd := ce, outLen := n, dataOut := BitVec.ofNat 2048 (le out) }

/-- The cipher page of a function takes a value. -/
def Block.modCipher (b : Block) (f : Nat) (g : CipherPage → CipherPage) : Block := b.modFn f fun p => { p with cipher := g p.cipher }

section ModCipher

variable (b : Block) (f : Nat) (g : CipherPage → CipherPage)

@[simp] theorem Block.modCipher_cipher : ((b.modCipher f g).fn f).cipher = g (b.fn f).cipher := by
  rw [Block.modCipher, Block.modFn_fn]

theorem Block.modCipher_modCipher (g' : CipherPage → CipherPage) :
    (b.modCipher f g).modCipher f g' = b.modCipher f fun c => g' (g c) := by
  rw [Block.modCipher, Block.modFn, Block.modCipher, Block.modFn_fn]
  exact congrArg (fun t => { b with fns := t }) (Tab.put_put ..)

end ModCipher

/-- A page whose operation runs, with what it computes under its key. -/
def Block.run (b : Block) (f : Nat) : Block :=
  b.modCipher f fun c => { c with
    running := some ((b.fn f).cipher.compute (le (b.material (b.fn f).cipher.key.toNat)))
    chain := (b.chain (b.fn f).cipher.key.toNat).getD [] }

/-- An operation whose checks pass: the page is busy with its result, and a turn may begin. -/
theorem Block.cipherStart_passes {b : Block} {f : Nat} (hr : Tab.has b.resets 0x70 = false)
    (hc : (b.modCipher f CipherPage.begun).cipherCheck f (b.fn f).cipher.begun = .ok) :
    ∃ x ch, b.cipherStart f = (b.modCipher f fun c => { c.begun with running := some x, chain := ch }).pageTurn := by
  have hpage : ((b.modCipher f CipherPage.begun).fn f).cipher = (b.fn f).cipher.begun := b.modCipher_cipher f _
  have hst : (if Tab.has (b.modCipher f CipherPage.begun).resets 0x70 then Status.engineReset
      else (b.modCipher f CipherPage.begun).cipherCheck f ((b.modCipher f CipherPage.begun).fn f).cipher) = .ok := by
    rw [hpage, if_neg (by rw [Block.modCipher, Block.modFn_resets, hr]; exact Bool.false_ne_true), hc]
  have hrun : b.cipherStart f = ((b.modCipher f CipherPage.begun).run f).pageTurn := if_neg (not_not.mpr hst)
  exact ⟨_, _, hrun.trans (congrArg Block.pageTurn (b.modCipher_modCipher f CipherPage.begun _))⟩

/-! ## The end of an operation (R374, R377, R378) -/

/-- The block in which an operation ends with a status, and no interrupt is enabled. -/
theorem Block.cipherEnd_quiet {b : Block} {f : Nat} (st : Status) (h : (b.fn f).cipher.irq = false) :
    b.cipherEnd f st = b.modCipher f (·.ended st) := by
  have hirq : ((b.modCipher f (·.ended st)).fn f).cipher.irq = false := by rw [Block.modCipher_cipher]; exact h
  exact if_neg fun h => Bool.false_ne_true (hirq.symm.trans h)

/-- The end of an operation shows its status and leaves the other results. -/
theorem Block.cipherEnd_cipher (b : Block) (f : Nat) (st : Status) :
    ((b.cipherEnd f st).fn f).cipher = (b.fn f).cipher.ended st := by
  have h : b.cipherEnd f st = (b.modCipher f (·.ended st)) ∨
      ∃ v, b.cipherEnd f st = (b.modCipher f (·.ended st)).irq f v := ite_eq_or_eq .. |>.symm.imp id fun h => ⟨_, h⟩
  obtain h | ⟨v, h⟩ := h
  · rw [h, Block.modCipher_cipher]
  · rw [h, Block.irq, (Block.accesses_emit _ _).fn f, Block.modCipher_cipher]

/-- The block whose cores have disagreed: nothing is released, and the engine is reset. -/
def Block.disagreed (b : Block) (f : Nat) : Block :=
  let b := ((b.modCipher f fun c => { c with checkFail := true }).cipherEnd f .integrityFail).alarm 4
    { code := 0x33, engine := 0x70, fn := f } (ownerAndPf f)
  if Tab.has b.resets 0x70 then b else { b with resets := b.resets.put 0x70 { cause := 3 } }

theorem Block.disagreed_fields (b : Block) (f : Nat) :
    ((b.disagreed f).fn f).cipher = ({ (b.fn f).cipher with checkFail := true }).ended .integrityFail ∧
      (b.disagreed f).obs.alarm.getLsbD 4 = true ∧ Tab.has (b.disagreed f).resets 0x70 = true := by
  have hcip := Block.cipherEnd_cipher (b.modCipher f fun c => { c with checkFail := true }) f .integrityFail
  rw [Block.modCipher_cipher] at hcip
  have halarm := ((b.modCipher f fun c => { c with checkFail := true }).cipherEnd f .integrityFail).alarm_alarm 4
    { code := 0x33, engine := 0x70, fn := f } (ownerAndPf f)
  have hfn := ((((b.modCipher f fun c => { c with checkFail := true }).cipherEnd f .integrityFail).notifies_alarm 4
    { code := 0x33, engine := 0x70, fn := f } (ownerAndPf f)).1.fnCore f |> (congrArg FnPage.cipher · :)).trans hcip
  unfold Block.disagreed
  generalize ((b.modCipher f fun c => { c with checkFail := true }).cipherEnd f .integrityFail).alarm 4
    { code := 0x33, engine := 0x70, fn := f } (ownerAndPf f) = d at halarm hfn
  have hbit : d.obs.alarm.getLsbD 4 = true := by
    rw [halarm, BitVec.getLsbD_or]
    exact Bool.or_eq_true_iff.mpr (.inr (by decide))
  dsimp only
  split
  · next h => exact ⟨hfn, hbit, h⟩
  · exact ⟨hfn, hbit, Tab.has_put_same ..⟩

section Done

variable {s : State} {f n : Nat} {out : Bytes} {iv : BitVec 128} {ce : Bool}
  (hrun : (s.blk.fn f).cipher.running = some (out, iv, ce, n)) (hat : s.blk.cipherAt = f)
  (hd : (s.blk.fn f).cipher.discard = false)

include hrun hat in
/-- The operation whose turn it is. -/
theorem State.turnOf : ((s.blk.begin.fn f).cipher.running.filter fun _ => decide (s.blk.begin.cipherAt = f)) = some (out, iv, ce, n) := by
  have h : (s.blk.begin.fn f).cipher.running = some (out, iv, ce, n) := hrun
  rw [h]
  exact if_pos (decide_eq_true hat)

include hrun hat hd

/-- Cores that agree release what they computed. -/
theorem answers_cipherDone_agree (hirq : (s.blk.fn f).cipher.irq = false) (hn : 0 < n) : Answers (.cipherDone f true) s
    ((s.blk.begin.modCipher f fun c => (c.released out iv ce n).ended .ok).count 10 (s.blk.fn f).cipher.mode.toNat
        (s.blk.fn f).cipher.textBlocks).pageTurn := by
  have hd' : (s.blk.begin.fn f).cipher.discard = false := hd
  change execCipherDone f true s = _
  rw [execCipherDone, onBlock_eq]
  dsimp only
  rw [State.turnOf hrun hat]
  dsimp only
  rw [hd', if_neg Bool.false_ne_true, if_neg (show ¬ (!true) = true by decide)]
  simp only [if_neg hn.ne']
  refine congrArg (fun b => Host.Outcome.next (s.withBlock (Block.pageTurn b))) ?_
  have hq : (((s.blk.begin.modCipher f (·.released out iv ce n)).count 10 (s.blk.fn f).cipher.mode.toNat
      (s.blk.fn f).cipher.textBlocks).fn f).cipher.irq = false :=
    (congrArg CipherPage.irq (s.blk.begin.modCipher_cipher f (·.released out iv ce n))).trans hirq
  refine (Block.cipherEnd_quiet .ok hq).trans ?_
  exact congrArg (fun b => b.count 10 (s.blk.fn f).cipher.mode.toNat (s.blk.fn f).cipher.textBlocks)
    (s.blk.begin.modCipher_modCipher f (·.released out iv ce n) (·.ended .ok))

/-- Cores that disagree release nothing. -/
theorem exec_cipherDone_disagree : ∃ b, Answers (.cipherDone f false) s b ∧
    (b.fn f).cipher = ({ (s.blk.fn f).cipher with checkFail := true }).ended .integrityFail ∧
    b.obs.alarm.getLsbD 4 = true ∧ Tab.has b.resets 0x70 = true := by
  have hd' : (s.blk.begin.fn f).cipher.discard = false := hd
  change ∃ b, execCipherDone f false s = _ ∧ _
  rw [execCipherDone, onBlock_eq]
  dsimp only
  rw [State.turnOf hrun hat]
  dsimp only
  rw [hd', if_neg Bool.false_ne_true, if_pos (show (!false) = true by decide)]
  refine ⟨(s.blk.begin.disagreed f).pageTurn, rfl, ?_⟩
  rw [Block.pageTurn_fn, Block.pageTurn_obs, Block.pageTurn_resets]
  exact Block.disagreed_fields ..

end Done

/-! ## The entropy source (R384 to R387) -/

theorem exec_entropyTestFail {s : State} {k : BitVec 2} (h : ¬ (k = 0 ∨ s.blk.boot.entropyDown = true ∨ s.blk.boot.step < 2)) :
    Answers (.entropyTestFail k) s (s.blk.begin.entropyFail k.toNat) := by
  change execEntropyTestFail k s = _
  rw [execEntropyTestFail, onBlock_eq]
  exact congrArg (fun b => Host.Outcome.next (s.withBlock b)) (if_neg h)

/-- A failed test stops new output, and raises the alarm and its event. -/
theorem Block.entropyFail_fields (b : Block) (test : Nat) :
    (b.entropyFail test).boot.entropyDown = true ∧ (b.entropyFail test).obs.alarm.getLsbD 5 = true ∧
      (b.entropyFail test).obs.events.getD 0x34 0 = satAdd64 (b.obs.events.getD 0x34 0) 1 ∧ (b.entropyFail test).keys = b.keys := by
  have hn := (Block.notifies_alarm { b with boot := { b.boot with entropyDown := true } } 5
    { code := 0x34, engine := 0x72, blockwide := true, data := [(0, test)] } [0]).1
  refine ⟨hn.keeps (·.boot.entropyDown) fun _ => rfl, ?_, Block.alarm_events _ 5 _ [0] (show 0x34 < 65536 by decide), hn.keeps Block.keys fun _ => rfl⟩
  rw [Block.entropyFail, Block.alarm_alarm, BitVec.getLsbD_or]
  exact Bool.or_eq_true_iff.mpr (.inr (by decide))

end Sys2Proof.Machine

namespace Sys2Proof.Proofs

open Sys2Proof Sys2Proof.Machine

theorem cipherPagesRun : Parts.CipherPagesRun := by
  refine ⟨fun s f v h hf hb hgo hres hc => ?_, fun s f n out iv ce hrun hat hd hirq hn => answers_cipherDone_agree hrun hat hd hirq hn,
    fun s f n out iv ce hrun hat hd => ?_, fun s f v h hf hb => ?_⟩
  · have hc' : ((s.blk.begin.modCipher f (·.write 0x800 v)).modCipher f CipherPage.begun).cipherCheck f
        (((s.blk.begin.modCipher f (·.write 0x800 v)).fn f).cipher.begun) = .ok := by
      rw [Block.modCipher_cipher]
      exact hc
    obtain ⟨x, ch, hst⟩ := Block.cipherStart_passes (b := s.blk.begin.modCipher f (·.write 0x800 v)) hres hc'
    rw [Block.modCipher_modCipher] at hst
    have hact := atRegister_acked h (h.reach_cipher hf hb (o := 0x800) rfl (by decide) (by decide))
      (fun b => if rbit v 63 then (b.modCipher f (·.write 0x800 v)).cipherStart f else b.modCipher f (·.write 0x800 v))
      ((if_pos hgo).trans hst) (by simp [Block.modCipher])
    refine ⟨_, hact, rfl, ?_⟩
    have hpage : ((((s.blk.begin.modCipher f fun c => { (c.write 0x800 v).begun with running := some x, chain := ch }).pageTurn).crossed
        [.hcpT 0 false]).fn f).cipher = { ((s.blk.fn f).cipher.write 0x800 v).begun with running := some x, chain := ch } :=
      (congrArg FnPage.cipher (Block.pageTurn_fn _ f)).trans (Block.modCipher_cipher ..)
    have hkeys := (s.blk.begin.modCipher f fun c => { (c.write 0x800 v).begun with running := some x, chain := ch }).pageTurn_keys
    rw [State.withBlock_blk, hpage]
    exact ⟨rfl, rfl, rfl, rfl, hkeys⟩
  · obtain ⟨b, hb, hcip, halarm, hreset⟩ := exec_cipherDone_disagree hrun hat hd
    refine ⟨_, hb, ?_⟩
    rw [State.withBlock_blk, hcip]
    exact ⟨rfl, rfl, rfl, rfl, halarm, hreset⟩
  · have hact := atRegister_acked h (h.reach_cipher hf hb (o := 0x810) rfl (by decide) (by decide))
      (fun b => b.modFn f fun p => { p with cipher := p.cipher.writeIv false v }) rfl rfl
    exact hact

theorem entropySourceEvents : Parts.EntropySourceEvents := by
  refine ⟨fun s k hk hdown hstep => ?_, fun s hdown hfails => ?_, fun s hdown => ⟨?_, ?_⟩⟩
  · have hlive : ¬ (k = 0 ∨ s.blk.boot.entropyDown = true ∨ s.blk.boot.step < 2) := by
      rw [hdown]
      exact fun h => h.elim hk fun h => h.elim nofun hstep.not_gt
    exact ⟨_, exec_entropyTestFail hlive, rfl, s.blk.begin.entropyFail_fields k.toNat⟩
  · have hlive : ¬ ((!s.blk.boot.entropyDown) = true ∨ 3 ≤ s.blk.boot.entropyFails) := by
      rw [hdown]
      exact fun h => h.elim nofun hfails.not_ge
    change execEntropyRestart true s = _
    rw [execEntropyRestart, onBlock_eq]
    exact congrArg (fun b => Host.Outcome.next (s.withBlock b)) ((if_neg hlive).trans (if_pos rfl))
  · exact congrArg (fun b => Host.Outcome.next (s.withBlock b)) (if_neg (Bool.eq_false_iff.mp hdown))
  · exact congrArg (fun b => Host.Outcome.next (s.withBlock b)) (if_neg (Bool.eq_false_iff.mp hdown))

/-- Settles O44: the operations of a page, and the events of the entropy source. -/
theorem cipherPagesAndEntropy : Obligations.CipherPagesAndEntropy := ⟨cipherPagesRun, entropySourceEvents⟩

end Sys2Proof.Proofs
end

section
/-! Contexts are opened, closed and killed (R304, R333, R334, R476). -/

namespace Sys2Proof.Machine

open Sys2Proof Sys2Proof.Machine.Crypto

/-- A ready command stands in the command table, under its opcode. -/
theorem CmdReady.found {s : State} {id op : Nat} {c : Cmd} (h : CmdReady s id op c) :
    s.blk.begin.cmd? id = some c ∧ c.opcode = op := by
  unfold CmdReady Block.runnable at h
  split at h
  · next d hd =>
    split at h
    · next hgo =>
      cases h
      exact ⟨hd, hgo.1⟩
    · cases h
  · cases h

/-! ## CTX_OPEN (R304, R333) -/

/-- The context that takes a number. -/
def Block.ctxOpened (b : Block) (n : Nat) (free : FreeList) (fn : Nat) : Block :=
  { b with ctxFree := free, ctxs := b.ctxs.put n { fn := fn } }

theorem answers_ctxOpen {s : State} {id n : Nat} {free : FreeList} {c : Cmd} (hc : CmdReady s id 0x0301 c)
    (hroom : s.blk.ctxs.length < 4096) (hfree : s.blk.ctxFree.take 0x10000 = some (n, free)) :
    Answers (.ctxOpen id) s ((s.blk.begin.ctxOpened n free c.fn).succeed id n 0) := by
  have hfree' : s.blk.begin.ctxFree.take 0x10000 = some (n, free) := hfree
  refine answers_onCommand (by unfold exec execCtxOpen; rfl) hc ((if_neg hroom.not_ge).trans ?_)
  rw [hfree']
  rfl

/-! ## CTX_KILL (R333, R476) -/

/-- A kill of a context that the caller may kill, without a teardown. -/
theorem answers_ctxKill {s : State} {id f : Nat} {c : Cmd} (acc : Access) (hc : CmdReady s id 0x0303 c)
    (hf : s.blk.ctxFn (dfld c.desc 16 2) = some f) (hmay : c.fn = 0 ∨ c.fn = f) (htear : (dfld c.desc 18 1).testBit 0 = false) :
    Answers (.ctxKill id acc) s ((s.blk.begin.killCtx (dfld c.desc 16 2) 2 0 (some id)).cleanCtx (dfld c.desc 16 2)) := by
  have hf' : s.blk.begin.ctxFn (dfld c.desc 16 2) = some f := hf
  have hmay' : ¬ (decide (c.fn ≠ 0) && (false || decide (f ≠ c.fn))) = true := by
    rw [Bool.false_or, Bool.and_eq_true, decide_eq_true_eq, decide_eq_true_eq]
    exact fun ⟨h0, hne⟩ => hmay.elim h0 fun h => hne h.symm
  change execCtxKill id acc s = _
  rw [execCtxKill, onCommandMem_ready _ hc]
  refine onMemoryWait_done (w := (s.waitWork.on fun b => b.killCtx (dfld c.desc 16 2) 2 0 (some id)).on fun b =>
    b.cleanCtx (dfld c.desc 16 2)) ?_ rfl
  simp only [State.waitWork, hf', htear, Bool.false_eq_true, if_false]
  exact if_neg hmay'

/-! ## Kill notices (R64) -/

section Notice

variable {s : State} (ctx : BitVec 16) (cause : BitVec 4) (hsafe : s.blk.pins.blockSafe = false)
  (hseq : s.blk.boot.seqReset = false)
include hsafe hseq

theorem answers_ctxKillNotice : Answers (.ctxKillNotice ctx cause) s (s.blk.begin.killNotice ctx.toNat cause.toNat) := by
  refine congrArg (fun b => Host.Outcome.next (s.withBlock b)) ((if_neg ?_).trans (if_pos ?_))
  · exact Bool.eq_false_iff.mp hsafe
  · exact (congrArg (!·) hseq :)

theorem answers_ctxKillNotice_live (h : (s.blk.ctxFn ctx.toNat).isSome = true) :
    Answers (.ctxKillNotice ctx cause) s ((s.blk.begin.killCtx ctx.toNat 1 cause.toNat none).cleanCtx ctx.toNat) := by
  have hlive : ¬ (s.blk.begin.ctxFn ctx.toNat).isNone = true := by
    obtain ⟨f, hf⟩ := Option.isSome_iff_exists.mp h
    have hf' : s.blk.begin.ctxFn ctx.toNat = some f := hf
    rw [hf']
    exact Bool.false_ne_true
  refine (answers_ctxKillNotice ctx cause hsafe hseq).trans (congrArg (fun b => Host.Outcome.next (s.withBlock b)) ?_)
  exact (if_neg hlive).trans (if_neg hlive)

theorem answers_ctxKillNotice_ignored (h : s.blk.ctxFn ctx.toNat = none) :
    Answers (.ctxKillNotice ctx cause) s (s.blk.begin.raisePf 0x38 0x74 [(0, ctx.toNat)]) := by
  have hdead : (s.blk.begin.ctxFn ctx.toNat).isNone = true := Option.isNone_iff_eq_none.mpr h
  exact (answers_ctxKillNotice ctx cause hsafe hseq).trans
    (congrArg (fun b => Host.Outcome.next (s.withBlock b)) (if_pos hdead))

end Notice

end Sys2Proof.Machine

namespace Sys2Proof.Proofs

open Sys2Proof Sys2Proof.Machine

theorem contextOpen : Parts.ContextOpen := by
  refine ⟨fun s id n free c hc hroom hfree => ?_, fun s id c hc hfull => ?_⟩
  · have hcore := Block.succeed_core (s.blk.begin.ctxOpened n free c.fn) id n 0
    have hctxs := (congrArg Block.ctxs hcore :)
    have hcmd : (s.blk.begin.ctxOpened n free c.fn).cmd? id = some c := hc.found.1
    refine ⟨_, answers_ctxOpen hc hroom hfree, rfl, Block.succeed_cmd .., ?_, fun m hm => ?_, (congrArg Block.ctxFree hcore :),
      (congrArg Block.keys hcore :), (congrArg Block.regions hcore :), fun he => ?_⟩
    · exact (congrArg (Tab.get? · n) hctxs).trans (Tab.get?_put_same ..)
    · exact (congrArg (Tab.get? · m) hctxs).trans (Tab.get?_put_other _ _ hm)
    · have hqp := (Block.complete_qp _ id .ok (BitVec.ofNat 64 n) 0 false hcmd c.qp).trans (if_pos ⟨rfl, he⟩)
      have hforce : decide (c.opcode = 0x0A03) = false := by rw [hc.found.2]; rfl
      rw [hforce] at hqp
      exact congrArg QueuePair.done hqp
  · have hcore := Block.fail_core s.blk.begin id .retryLater
    have hans : Answers (.ctxOpen id) s (s.blk.begin.fail id .retryLater) :=
      answers_onCommand (by unfold exec execCtxOpen; rfl) hc (if_pos hfull)
    exact ⟨_, hans, rfl, (congrArg Block.ctxs hcore :), (congrArg Block.ctxFree hcore :)⟩

theorem contextCloseAndKill : Parts.ContextCloseAndKill := by
  refine ⟨fun s id c hc hjobs hcmds hbusy => ?_, fun s id f c acc hc hf hmay htear => answers_ctxKill acc hc hf hmay htear,
    fun s ctx cause hsafe hseq => ⟨answers_ctxKillNotice_live ctx cause hsafe hseq, fun hdead => ?_⟩⟩
  · have hfree : ¬ (!(s.blk.begin.jobsOf c.ctx).isEmpty) = true := by
      have h : s.blk.begin.jobsOf c.ctx = [] := hjobs
      rw [h]
      exact Bool.false_ne_true
    have hidle : ¬ ((s.blk.begin.seq.cmds.any fun e => decide (e.1 ≠ id) && decide (e.2.ctx = c.ctx)) || s.blk.begin.ctxBusy c.ctx) =
        true := by
      have hb : s.blk.begin.ctxBusy c.ctx = false := hbusy
      rw [hb, Bool.or_false, List.any_eq_true]
      rintro ⟨e, he, hsame⟩
      rw [Bool.and_eq_true, decide_eq_true_eq, decide_eq_true_eq] at hsame
      exact hcmds e he hsame.1 hsame.2
    exact answers_onCommand (by unfold exec execCtxClose; rfl) hc ((if_neg hfree).trans (if_neg hidle))
  · have hans := answers_ctxKillNotice_ignored ctx cause hsafe hseq hdead
    exact ⟨hans, _, hans, (s.blk.begin.notifies_raisePf _ _ _).keeps Block.ctxs fun _ => rfl,
      s.blk.begin.raisePf_events _ _ _ (by decide)⟩

/-- Settles O48: CTX_OPEN with and without room, CTX_CLOSE, and kills by command and by notice. -/
theorem contextCommands : Obligations.ContextCommands := ⟨contextOpen, contextCloseAndKill⟩

end Sys2Proof.Proofs
end

section
/-! Deadlines, credits and key derivations of a link, and the arithmetic of ATOMIC (R42, R179, R190, R205 to R207). -/

namespace Sys2Proof.Machine

open Sys2Proof Sys2Proof.Machine.Crypto

/-- Work on protected memory as the step finds it. -/
theorem onMemory_done {s : State} {f : Work → Work} {w : Work} (h : f s.work = w) :
    onMemory s f = .next { s with blk := w.blk, mem := applyStores s.mem w.stores } := by
  rw [← h]
  rfl

@[simp] theorem Block.modMce_mce (b : Block) (e : Nat) (f : Mce → Mce) : (b.modMce e f).mce e = f (b.mce e) :=
  Tab.getD_put_same ..

/-! ## A request's deadline (R205, R206) -/

/-- A request without data is answered with one crossing. -/
theorem Block.answerLreq_refused (b : Block) (n : Nat) (tag : BitVec 12) {st : Status} (data : Bytes) (h : st ≠ .ok) :
    b.answerLreq n tag st data = b.emit (.lreqD n tag st true 0) := by
  unfold Block.answerLreq
  rw [if_neg h]
  rfl

theorem Block.mem_emit {b : Block} {c : Cross} (h : b.stopped.contains c.shell = false) : c ∈ (b.emit c).out := by
  rw [Block.emit_running _ _ h]
  exact List.mem_append_right _ (List.mem_singleton.mpr rfl)

/-- A port whose request has passed its deadline: the RTAG is in quarantine. -/
def Lpe.expired (l : Lpe) (rtag : Nat) (seqs : List Nat) : Lpe :=
  { l with
    rtags := Tab.del l.rtags rtag
    outWait := l.outWait.filter fun x => !(x.req && x.rtag = rtag)
    quarantine := l.quarantine ++ [{ rtag := rtag, seqs := seqs }] }

/-- A deadline of a request that a program of the port's own made. -/
theorem Block.fabricTimeout_own {b : Block} {n rtag : Nat} {o : Outstanding} (ho : (b.lpe n).rtags.get? rtag = some o)
    (hs : o.seqs ≠ []) (hk : o.kiln = none) :
    b.fabricTimeout n rtag = ((b.modLpe n (·.expired rtag o.seqs)).emit (.lreqD n o.req.tag .timeout true 0)).raise
      { code := 0x20, engine := lpeId n, fn := o.fn, ctx := o.req.ctx.toNat
        data := [(0, o.req.job.toNat), (2, o.req.dst.toNat), (4, rtag)] } (ownerAndPf o.fn) := by
  unfold Block.fabricTimeout
  rw [ho]
  dsimp only
  rw [if_neg (by simpa using hs), Block.answerOut, hk]
  dsimp only
  rw [Block.answerLreq_refused _ _ _ _ (by decide)]
  rfl

theorem Block.fabricTimeout_fields {b : Block} {n rtag : Nat} {o : Outstanding} (ho : (b.lpe n).rtags.get? rtag = some o)
    (hs : o.seqs ≠ []) (hk : o.kiln = none) :
    ((b.fabricTimeout n rtag).lpe n).rtags = Tab.del (b.lpe n).rtags rtag ∧
      ((b.fabricTimeout n rtag).lpe n).quarantine = (b.lpe n).quarantine ++ [{ rtag := rtag, seqs := o.seqs }] ∧
      (b.fabricTimeout n rtag).obs.events.getD 0x20 0 = satAdd64 (b.obs.events.getD 0x20 0) 1 ∧
      (b.fabricTimeout n rtag).jobs = b.jobs ∧ (b.fabricTimeout n rtag).keys = b.keys ∧
      (b.stopped.contains (.lreq n) = false → Cross.lreqD n o.req.tag .timeout true 0 ∈ (b.fabricTimeout n rtag).out) := by
  rw [Block.fabricTimeout_own ho hs hk]
  have hemit := Block.Ships.emit (b.modLpe n (·.expired rtag o.seqs)) (.lreqD n o.req.tag .timeout true 0)
  have hlpe : ((b.modLpe n (·.expired rtag o.seqs)).lpe n) = (b.lpe n).expired rtag o.seqs := b.modLpe_lpe n _
  generalize hx : (b.modLpe n (·.expired rtag o.seqs)).emit (.lreqD n o.req.tag .timeout true 0) = x at hemit ⊢
  have hn := x.notifies_raise
    { code := 0x20, engine := lpeId n, fn := o.fn, ctx := o.req.ctx.toNat
      data := [(0, o.req.job.toNat), (2, o.req.dst.toNat), (4, rtag)] } (ownerAndPf o.fn)
  have hev := x.raise_events
    { code := 0x20, engine := lpeId n, fn := o.fn, ctx := o.req.ctx.toNat
      data := [(0, o.req.job.toNat), (2, o.req.dst.toNat), (4, rtag)] } (ownerAndPf o.fn) (show 0x20 < 65536 by decide)
  refine ⟨?_, ?_, ?_, (hn.keeps Block.jobs fun _ => rfl).trans (hemit.keeps Block.jobs fun _ => rfl),
    (hn.keeps Block.keys fun _ => rfl).trans (hemit.keeps Block.keys fun _ => rfl), fun hup => hn.out ?_⟩
  · rw [hn.keeps (·.lpe n) fun _ => rfl, hemit.keepsLpe n Lpe.rtags fun _ => rfl, hlpe]
    rfl
  · rw [hn.keeps (·.lpe n) fun _ => rfl, hemit.keepsLpe n Lpe.quarantine fun _ => rfl, hlpe]
    rfl
  · exact hev.trans (congrArg (fun t => satAdd64 (Tab.getD t 0x20 0) 1) (hemit.keeps (·.obs.events) fun _ => rfl))
  · rw [← hx]
    exact Block.mem_emit hup

end Sys2Proof.Machine

namespace Sys2Proof.Proofs

open Sys2Proof Sys2Proof.Machine

theorem atomicOperations : Parts.AtomicOperations := by
  intro old o1 o2 hold ho1
  refine ⟨rfl, rfl, rfl, rfl, rfl, rfl, fun k => ?_⟩
  unfold atomicNew
  split_ifs
  · exact Nat.mod_lt _ (by decide)
  · exact ho1
  · exact ho1
  · exact hold
  · exact max_lt hold ho1
  · exact Nat.and_lt_two_pow _ ho1
  · exact Nat.or_lt_two_pow hold ho1
  · exact hold

theorem linkEvents : Parts.LinkEvents := by
  refine ⟨fun s n tag o hb ho hs hk => ?_, fun s e tag acc hb => ⟨fun he => ?_, fun hlo h40 h60 => ?_⟩, fun s n hp => ?_,
    fun s n p len hp hm hr => ?_, fun s n acc q rest j k b hb hl hj hkey => ?_⟩
  · obtain ⟨h1, h2, h3, h4, h5, h6⟩ := Block.fabricTimeout_fields (b := s.blk.begin) ho hs hk
    have hans : Answers (.fabTimeout n tag) s (s.blk.begin.fabricTimeout n tag.toNat) := by
      change execFabTimeout n tag s = _
      rw [execFabTimeout, behindPort_open _ hb, onBlock_eq]
      rfl
    exact ⟨_, hans, rfl, (congrArg (Tab.get? · tag.toNat) h1).trans (Tab.get?_del_same ..), h2, h3, h4, h5, h6⟩
  · have hans : AnswersWork (.rtagQuarantineExpiry e tag acc) s (s.work.on fun b =>
        b.modMce e fun m => { m with quarantine := m.quarantine.filter fun k => k ≠ tag.toNat }) := by
      change execRtagQuarantineExpiry e tag acc s = _
      rw [execRtagQuarantineExpiry, atEngine_open _ hb]
      exact onMemory_done (if_pos he)
    have hm := s.blk.begin.modMce_mce e fun m => { m with quarantine := m.quarantine.filter fun k => k ≠ tag.toNat }
    refine ⟨_, hans, rfl, fun h => ?_, (congrArg Mce.reads hm :)⟩
    have h' := Eq.mp (congrArg (fun m => tag.toNat ∈ Mce.quarantine m) hm) h
    exact of_decide_eq_true (List.mem_filter.mp h').2 rfl
  · change execRtagQuarantineExpiry e tag acc s = _
    rw [execRtagQuarantineExpiry, atEngine_open _ hb]
    exact onMemory_done ((if_neg hlo.not_gt).trans (if_pos (by simp [h40, h60])))
  · change execLinkTxCredit n s = _
    rw [execLinkTxCredit, atPort_open _ hp.1 hp.2, onBlock_eq]
    dsimp only
    rw [Block.modLpe_lpe]
    rfl
  · change execMalformedPacket n p len s = _
    rw [execMalformedPacket, atPort_open _ hp.1 hp.2, onBlock_eq]
    exact congrArg (fun b => Host.Outcome.next (s.withBlock b)) (if_pos (Bool.and_eq_true_iff.mpr ⟨hm, hr⟩))
  · have hl' : (s.work.blk.lpe n).lane = q :: rest := hl
    change execPairKeyDerivation n acc s = _
    rw [execPairKeyDerivation, behindPort_open _ hb]
    refine onMemory_done ?_
    dsimp only
    rw [hl']
    have hj' : (s.blk.begin.modLpe n fun l => { l with lane := rest }).jobs.get? q.job = some j := hj
    dsimp only [State.work, Work.on]
    rw [hj']
    dsimp only
    rw [hkey]

/-- Settles O54: deadlines, credits and key derivations of a link, and ATOMIC's arithmetic. -/
theorem linkEventsAndAtomics : Obligations.LinkEventsAndAtomics := ⟨linkEvents, atomicOperations⟩

end Sys2Proof.Proofs
end

section
/-! The memory ports: requests that enter, beats without a credit, and what the memory controller returns (R34 to R40, R205,
R207). -/

namespace Sys2Proof.Machine

open Sys2Proof Sys2Proof.Machine.Crypto

theorem exec_mreqRead {s : State} {r : MemReq} (h : PortOpen (.mreq r.mce) s) :
    AnswersWork (.mreqRead r) s (s.work.arrive r false 0 []).retryRx := by
  change execMreqRead r s = _
  rw [execMreqRead, atPort_open _ h.1 h.2]
  exact onMemory_done rfl

theorem exec_mreqWrite {s : State} {r : MemReq} (data : Beat) (sibs : List LineReturn) (h : PortOpen (.mreq r.mce) s) :
    AnswersWork (.mreqWrite r data sibs) s (s.work.arrive r true data sibs).retryRx := by
  change execMreqWrite r data sibs s = _
  rw [execMreqWrite, atPort_open _ h.1 h.2]
  exact onMemory_done rfl

theorem Block.modMce_modMce (b : Block) (e : Nat) (f g : Mce → Mce) :
    (b.modMce e f).modMce e g = b.modMce e fun m => g (f m) := by
  rw [Block.modMce, Block.modMce_mce]
  exact congrArg (fun t => { b with mces := t }) (Tab.put_put ..)

/-! ## Requests that enter (R34, R164) -/

section Arrive

variable {s : State} {r : MemReq} (write : Bool) (data : Beat) (feed : List LineReturn)
  (hsafe : s.blk.pins.blockSafe = false) (hhalt : (s.blk.mce r.mce).halted = false)
include hsafe hhalt

theorem State.arrives : ¬ (s.work.blk.pins.blockSafe || (s.work.blk.mce r.mce).halted) = true := by
  have hsafe' : s.work.blk.pins.blockSafe = false := hsafe
  have hhalt' : (s.work.blk.mce r.mce).halted = false := hhalt
  rw [hsafe', hhalt']
  exact Bool.false_ne_true

/-- A request with credit, of an allowed form and rightly routed, stands in the ingress queue. -/
theorem arrive_enters (hform : r.formOk = true) (hres : Tab.has s.blk.resets r.mce = false)
    (hroute : ((s.blk.build.tierOf (r.addr.toNat * 32)).any fun t => t.mce (r.addr.toNat * 32) = r.mce) = true)
    (ha : 0 < (s.blk.mce r.mce).aCrd) (hw : write = true → 0 < (s.blk.mce r.mce).wCrd) :
    s.work.arrive r write data feed =
      (s.work.on fun b => b.modMce r.mce fun m =>
        { m with
          aCrd := m.aCrd - 1, wCrd := if write then m.wCrd - 1 else m.wCrd
          reqs := m.reqs ++ [{ id := m.nextReq, req := { r with op := if write then 1 else 0 }, data := data, stage := .ingress }]
          nextReq := m.nextReq + 1 }).pump r.mce feed := by
  have hcred : ¬ (decide ((s.work.blk.mce r.mce).aCrd = 0) || (write && decide ((s.work.blk.mce r.mce).wCrd = 0))) = true := by
    simp only [Bool.or_eq_true, decide_eq_true_eq, Bool.and_eq_true, not_or]
    exact ⟨ha.ne', fun ⟨hwr, h0⟩ => (hw hwr).ne' h0⟩
  have hok : ¬ (!r.formOk || !((s.work.blk.build.tierOf (r.addr.toNat * 32)).any fun t => t.mce (r.addr.toNat * 32) = r.mce)) = true := by
    have hroute' : ((s.work.blk.build.tierOf (r.addr.toNat * 32)).any fun t => t.mce (r.addr.toNat * 32) = r.mce) = true := hroute
    rw [hform, hroute']
    exact Bool.false_ne_true
  unfold Work.arrive
  dsimp only
  rw [if_neg (State.arrives hsafe hhalt), if_neg hcred]
  refine (if_neg hok).trans ((if_neg (Bool.eq_false_iff.mp hres)).trans ?_)
  exact congrArg (fun b => ({ s.work with blk := b } : Work).pump r.mce feed) (s.work.blk.modMce_modMce ..)

/-- A beat without a credit takes the whole-block rung. -/
theorem arrive_violates (h : (s.blk.mce r.mce).aCrd = 0 ∨ write = true ∧ (s.blk.mce r.mce).wCrd = 0) :
    s.work.arrive r write data feed = s.work.on fun b => b.mreqViolation r.mce := by
  have hcred : (decide ((s.work.blk.mce r.mce).aCrd = 0) || (write && decide ((s.work.blk.mce r.mce).wCrd = 0))) = true := by
    simp only [Bool.or_eq_true, decide_eq_true_eq, Bool.and_eq_true]
    exact h
  unfold Work.arrive
  dsimp only
  rw [if_neg (State.arrives hsafe hhalt), if_pos hcred]

end Arrive

/-- A shut-down leaves no port with a packet that waits. -/
theorem Work.retryRx_cold {w : Work} (h : w.blk.lpes = []) : w.retryRx = w := by
  rw [Work.retryRx, h]
  rfl

theorem Block.mreqViolation_fields (b : Block) (e : Nat) :
    (b.mreqViolation e).lpes = [] ∧ (b.mreqViolation e).pins.alarmFatal = true ∧ (b.mreqViolation e).pins.blockSafe = true ∧
      ((b.mreqViolation e).mce e).halted = true :=
  ⟨rfl, rfl, rfl, congrArg Mce.halted (Block.modMce_mce ..)⟩

@[simp] theorem typedReq_lpe (r : LinkReq) (ty : Nat) : (typedReq r ty).lpe = r.lpe := by
  unfold typedReq
  split <;> rfl

/-- A request at a fabric port without a credit takes the whole-block rung too. -/
theorem Work.lreq_violates {w : Work} {r : LinkReq} (beats : List Beat) (acc : Access) (hsafe : w.blk.pins.blockSafe = false)
    (hhalt : (w.blk.lpe r.lpe).halted = false)
    (hcred : (w.blk.lpe r.lpe).aCrd = 0 ∨ (w.blk.lpe r.lpe).wCrd < requestBeats r.ty.toNat r.len.toNat) :
    w.lreq r beats acc = w.on fun b => b.lreqViolation r.lpe := by
  have hcred' : (decide ((w.blk.lpe r.lpe).aCrd = 0) ||
      decide ((w.blk.lpe r.lpe).wCrd < requestBeats r.ty.toNat r.len.toNat)) = true := by
    rwa [Bool.or_eq_true, decide_eq_true_eq, decide_eq_true_eq]
  unfold Work.lreq
  dsimp only
  rw [hsafe, hhalt, Bool.or_false, if_neg Bool.false_ne_true, if_pos hcred']

/-- A read's return, as the engine takes it. -/
def Work.readReturn (w : Work) (mce : Nat) (tag : BitVec 12) (err : Bool) (data : Beat) (sibs : List LineReturn) : Work :=
  match (w.blk.mce mce).reads.get? tag.toNat with
  | some r =>
    let w := w.on fun b => b.modMce mce fun m => { m with reads := Tab.del m.reads tag.toNat }
    match r.req with
    | some id => ((w.on fun b => b.readBack mce id r err data).pump mce sibs).retryRx
    | none => (w.pump mce sibs).retryRx
  | none =>
    if List.contains (w.blk.mce mce).quarantine tag.toNat then
      w.on fun b => b.modMce mce fun m =>
        { m with quarantine := m.quarantine.filter fun k => k ≠ tag.toNat, discarded := m.discarded + 1 }
    else w

theorem exec_mctlReadReturn {s : State} {e : Nat} (tag : BitVec 12) (err : Bool) (x : Beat) (sibs : List LineReturn)
    (h : PortOpen (.mctl e) s) : AnswersWork (.mctlReadReturn e tag err x sibs) s (s.work.readReturn e tag err x sibs) := by
  change execMctlReadReturn e tag err x sibs s = _
  rw [execMctlReadReturn, atPort_open _ h.1 h.2]
  exact onMemory_done rfl

theorem Block.lreqViolation_fields (b : Block) (n : Nat) :
    (b.lreqViolation n).pins.alarmFatal = true ∧ ((b.lreqViolation n).lpe n).halted = true :=
  ⟨rfl, congrArg Lpe.halted (Block.modLpe_lpe ..)⟩

/-- An engine one of whose reads is late. -/
def Mce.readLate (m : Mce) (tag : Nat) : Mce := { m with reads := Tab.del m.reads tag, quarantine := m.quarantine ++ [tag] }

/-- What a late read does to its request, by the line that needed it. -/
def Work.late (w : Work) (e : Nat) (q : MceReq) (line : Nat) : Work :=
  let w := w.on fun b => (b.modMce e fun m => { m with timeouts := m.timeouts + 1 }).raise
    { code := 0x24, engine := e, fn := q.entry.ownerFn.toNat, ctx := q.req.ctx.toNat
      data := [(0, q.req.base + 128 * line)] } (ownerAndPf q.entry.ownerFn.toNat)
  (if line = 0 then (w.on fun b => b.refuseReq e q .timeout).pump e []
    else (w.on fun b => b.modReq e q.id fun q => { q with cut := true }).pump e []).retryRx

/-- A tier-1 deadline, as the engine takes it. -/
def Work.t1Timeout (w : Work) (e : Nat) (tag : BitVec 12) : Work :=
  match if w.blk.build.t0 ≤ e then (w.blk.mce e).reads.get? tag.toNat else none with
  | none => w
  | some r =>
    let w := w.on fun b => b.modMce e (·.readLate tag.toNat)
    match r.req.bind fun id => (w.blk.mce e).reqs.find? fun q => q.id = id with
    | none => w
    | some q => w.late e q (q.partLine (w.blk.mce e) w.blk.build.tier1 (e - w.blk.build.t0) r.addr)

theorem exec_t1Timeout {s : State} {e : Nat} (tag : BitVec 12) (hb : s.blk.build.shellBuilt (.mctl e) = true) :
    AnswersWork (.t1Timeout e tag) s (s.work.t1Timeout e tag) := by
  change execT1Timeout e tag s = _
  rw [execT1Timeout, behindPort_open _ hb]
  exact onMemory_done rfl

end Sys2Proof.Machine

namespace Sys2Proof.Proofs

open Sys2Proof Sys2Proof.Machine

/-- Settles O30: a read takes an A credit, a write a W credit as well. -/
theorem memoryRequestsEnter : Obligations.MemoryRequestsEnter := by
  intro s r data sibs hp hsafe hhalt hform hres hroute ha
  refine ⟨?_, fun hw => ?_⟩
  · have h := arrive_enters false 0 [] hsafe hhalt hform hres hroute ha nofun
    exact h ▸ exec_mreqRead hp
  · have h := arrive_enters true data sibs hsafe hhalt hform hres hroute ha fun _ => hw
    exact h ▸ exec_mreqWrite data sibs hp

/-- A violation at a memory port, whatever the beat. -/
theorem memoryPort_stops {s : State} {i : Instr} {w : Work} {e : Nat} (h : AnswersWork i s w.retryRx)
    (hw : w = s.work.on fun b => b.mreqViolation e) :
    ∃ t, exec i s = .next t ∧ t.mem = s.mem ∧ t.blk.pins.alarmFatal = true ∧ t.blk.pins.blockSafe = true ∧
      (t.blk.mce e).halted = true := by
  obtain ⟨hlpes, hfatal, hsafe, hhalt⟩ := s.blk.begin.mreqViolation_fields e
  rw [Work.retryRx_cold (by rw [hw]; exact hlpes), hw] at h
  exact ⟨_, h, rfl, hfatal, hsafe, hhalt⟩

/-- Settles O31: at a memory port the A credit of a read or write or the W credit of a write is missing, at a fabric port the A
credit of a LOAD. -/
theorem creditViolationsStopThePort : Obligations.CreditViolationsStopThePort := by
  refine ⟨fun s r data sibs hp hsafe hhalt => ⟨fun ha => ?_, fun haw => ?_⟩, fun s r acc hp hsafe hhalt ha => ?_⟩
  · exact memoryPort_stops (exec_mreqRead hp) (arrive_violates false 0 [] hsafe hhalt (.inl ha))
  · exact memoryPort_stops (exec_mreqWrite data sibs hp) (arrive_violates true data sibs hsafe hhalt (haw.imp id fun h => ⟨rfl, h⟩))
  · have hans : AnswersWork (.lreqLoad r acc) s (s.work.lreq (typedReq r 0) [] acc) := by
      change execLreqLoad r acc s = _
      rw [execLreqLoad, atLreq, atPort_open _ hp.1 hp.2]
      exact onMemory_done rfl
    rw [← typedReq_lpe r 0] at hhalt ha ⊢
    rw [Work.lreq_violates [] acc hsafe hhalt (.inl ha)] at hans
    obtain ⟨hfatal, hhalted⟩ := s.blk.begin.lreqViolation_fields (typedReq r 0).lpe
    exact ⟨_, hans, rfl, hfatal, hhalted⟩

theorem readReturns : Parts.ReadReturns := by
  intro s e tag err x sibs hp
  refine ⟨fun r id hr hid => ?_, fun hr hq => ?_, fun hr hq => ?_⟩
  · have hr' : (s.work.blk.mce e).reads.get? tag.toNat = some r := hr
    have hans := exec_mctlReadReturn tag err x sibs hp
    rw [Work.readReturn, hr'] at hans
    dsimp only at hans
    rwa [hid] at hans
  · have hr' : (s.work.blk.mce e).reads.get? tag.toNat = none := hr
    have hans := exec_mctlReadReturn tag err x sibs hp
    rw [Work.readReturn, hr'] at hans
    dsimp only at hans
    rw [if_pos (show List.contains (s.work.blk.mce e).quarantine tag.toNat = true from hq)] at hans
    have hm := s.blk.begin.modMce_mce e fun m =>
      { m with quarantine := m.quarantine.filter fun k => k ≠ tag.toNat, discarded := m.discarded + 1 }
    refine ⟨_, hans, rfl, rfl, (congrArg Mce.discarded hm :), fun h => ?_, (congrArg Mce.reqs hm :)⟩
    have h' := Eq.mp (congrArg (fun m => tag.toNat ∈ Mce.quarantine m) hm) h
    exact of_decide_eq_true (List.mem_filter.mp h').2 rfl
  · have hr' : (s.work.blk.mce e).reads.get? tag.toNat = none := hr
    have hans := exec_mctlReadReturn tag err x sibs hp
    rw [Work.readReturn, hr'] at hans
    dsimp only at hans
    rwa [if_neg (show ¬ List.contains (s.work.blk.mce e).quarantine tag.toNat = true from Bool.eq_false_iff.mp hq)] at hans

theorem controllerSignals : Parts.ControllerSignals := by
  intro s e hp
  refine ⟨fun w => ?_, fun occ => ?_⟩
  · change execControllerCredit e w s = _
    rw [execControllerCredit, atPort_open _ hp.1 hp.2]
    exact onMemory_done rfl
  · change execMctlQoccUpdate e occ s = _
    rw [execMctlQoccUpdate, atPort_open _ hp.1 hp.2]
    exact onMemory_done rfl

theorem tierOneTimeouts : Parts.TierOneTimeouts := by
  intro s e tag r q id hb ht0 hr hid hq hline
  have hread : (if s.work.blk.build.t0 ≤ e then (s.work.blk.mce e).reads.get? tag.toNat else none) = some r :=
    (if_pos ht0).trans hr
  have hm : ((s.work.on fun b => b.modMce e (·.readLate tag.toNat)).blk.mce e) = (s.blk.mce e).readLate tag.toNat :=
    Block.modMce_mce ..
  have hq' : (((s.work.on fun b => b.modMce e (·.readLate tag.toNat)).blk.mce e).reqs.find? fun x => x.id = id) = some q :=
    (congrArg (fun m => (Mce.reqs m).find? fun x => decide (x.id = id)) hm).trans hq
  have hline' : q.partLine ((s.work.on fun b => b.modMce e (·.readLate tag.toNat)).blk.mce e)
      (s.work.on fun b => b.modMce e (·.readLate tag.toNat)).blk.build.tier1
      (e - (s.work.on fun b => b.modMce e (·.readLate tag.toNat)).blk.build.t0) r.addr = 0 :=
    (congrArg (fun m => q.partLine m _ _ _) hm).trans hline
  have hans := exec_t1Timeout tag hb
  rw [Work.t1Timeout, hread] at hans
  dsimp only at hans
  rw [hid, Option.bind_some, hq'] at hans
  dsimp only at hans
  rw [hline', Work.late, if_pos rfl] at hans
  have hmod := s.blk.begin.modMce_modMce e (·.readLate tag.toNat) fun m => { m with timeouts := m.timeouts + 1 }
  dsimp only [Work.on, State.work] at hans
  rw [hmod] at hans
  exact hans

/-- Settles O52: returns, credits, occupancy reports and deadlines. -/
theorem controllerAnswers : Obligations.ControllerAnswers := ⟨readReturns, controllerSignals, tierOneTimeouts⟩

end Sys2Proof.Proofs
end

section
/-! Requests at a fabric port that holds a packet back: none is served (R42, R422). -/

namespace Sys2Proof.Machine

open Sys2Proof Sys2Proof.Machine.Crypto

/-- Without requests the arbitration chooses none. -/
theorem Block.arbitrate_nil {α : Type} (b : Block) (t : Turns) (rest : Bool) : b.arbitrate t ([] : List (Bid α)) rest = none := by
  have hdrr : ∀ (w : Nat → Nat) (f c : Nat) (d : Tab Nat), drr w ([] : List (Bid α)) f c d = none := by
    intro w f
    induction f with
    | zero => exact fun _ _ => rfl
    | succ f ih => exact fun c d => ih _ _
  change (if rest then _ else none) = none
  rw [List.map_nil, hdrr, Option.map_none, ite_self]

namespace Lx

variable {x : Lx}

/-- A port that holds a packet back serves no request. -/
theorem chooseReq_held (h : x.lpe.txHeld ≠ []) : x.chooseReq = none := by
  have hserve : ∀ r : LinkReq, x.lpe.canServe r = false := fun r => by
    rw [Lpe.canServe, List.isEmpty_eq_false_iff.mpr h, Bool.false_and]
  unfold chooseReq
  simp only [hserve, List.filter_false, List.map_nil, Block.arbitrate_nil, Option.map_none]

/-- The step of a port that serves none and raises none pays its credits and no more. -/
theorem done_held (hr : x.lpe.raises = []) (h : x.lpe.txHeld ≠ []) : x.done = (x.on fun b => b.payLpe x.n).w := by
  have hraise : ∀ f, drainRaises f x = x := fun f => by
    cases f with
    | zero => unfold drainRaises; rfl
    | succ f => unfold drainRaises; rw [hr]
  have hserve : ∀ f, drainIngress f x = x := fun f => by
    cases f with
    | zero => unfold drainIngress; rfl
    | succ f => unfold drainIngress; rw [chooseReq_held h]
  rw [done, hraise, hserve]

end Lx

/-- A port of a member block that holds a packet back for beat credit, with a context that has joined a job. -/
def heldPort : State :=
  { blk := { pins := { blockSafe := false }
             lpes := [(0, { aCrd := 1, member := true, txHeld := [({ hdr := 0, payload := [], tag := 0 }, none)] })]
             ctxs := [(1, { fn := 1, jobs := [1] })] } }

/-- A LOAD of the pair class that it may make. -/
def heldLoad : LinkReq := { lpe := 0, ty := 0, job := 1, ctx := 1 }

/-- The request stays in the ingress queue, with the beats it came with. -/
theorem heldPort_ingress (beats : List Beat) :
    ((heldPort.lreqEntered heldLoad 0 beats {}).done.blk.lpe 0).ingress = [(typedReq heldLoad 0, beats)] := by
  have hheld : (heldPort.lreqEntered heldLoad 0 beats {}).lpe.txHeld = [({ hdr := 0, payload := [], tag := 0 }, none)] := rfl
  rw [Lx.done_held rfl (by rw [hheld]; exact List.cons_ne_nil _ _)]
  exact (Block.Ships.payLpe _ 0).keepsLpe 0 Lpe.ingress fun _ => rfl

end Sys2Proof.Machine

namespace Sys2Proof.Proofs

open Sys2Proof Sys2Proof.Machine

/-- Refutes O53: the row of a LOAD takes no beats, while its first part has them in the ingress queue, whatever they are: at a port
that holds a packet back the queue shows the difference. -/
theorem not_linkRequests : ¬ Obligations.LinkRequests := by
  intro h
  obtain ⟨⟨hload, -⟩, -⟩ := h
  have hans : ∀ beats : List Beat,
      AnswersWork (.lreqLoad heldLoad {}) heldPort (heldPort.lreqEntered heldLoad 0 beats {}).done := fun beats =>
    hload heldPort heldLoad beats {} ⟨rfl, rfl⟩ rfl rfl (by decide) (by decide) (by decide) rfl rfl
  have hblk := Host.Outcome.next.inj ((hans []).symm.trans (hans [0]))
  have hingress := congrArg (fun s => ((State.blk s).lpe 0).ingress) hblk
  have hbeats := (heldPort_ingress []).symm.trans (hingress.trans (heldPort_ingress [0]))
  exact absurd (congrArg (List.map Prod.snd) hbeats) (by decide)

end Sys2Proof.Proofs
end

section
/-! Keys are made (R95, R96, R327). -/

namespace Sys2Proof.Machine

open Sys2Proof Sys2Proof.Machine.Crypto

/-! ## Slots -/

/-- A block whose random draws have moved on. -/
def Block.redrawn (b : Block) (n : Nat) (boot : Boot) : Block := { b with fresh := n, boot := boot }

/-- What a slot holds once a volatile key has been written into it, but for its MAC. -/
def NewKey.bare (k : NewKey) (b : Block) (n : Nat) : KeySlot :=
  { material := BitVec.ofNat 512 (le k.mat) ^^^ BitVec.ofNat 512 (slotPad b.keys.spk n (b.slot n).gen)
    mask := k.mask, attr := k.attr false, ownerFn := BitVec.ofNat 8 k.fn, ownerCtx := BitVec.ofNat 16 k.ctx
    parentSlot := BitVec.ofNat 16 k.parent, parentGen := (b.slot k.parent).gen, gen := (b.slot n).gen
    persistIdx := 0, created := b.tick }

/-- The same with it. -/
def NewKey.slot (k : NewKey) (b : Block) (n : Nat) : KeySlot := { k.bare b n with mac := slotMac b.keys.spk (k.bare b n) n }

/-- A MAC does not cover itself. -/
theorem slotMac_mac (spk : BitVec 256) (s : KeySlot) (n : Nat) (m : BitVec 64) : slotMac spk { s with mac := m } n = slotMac spk s n :=
  rfl

theorem Block.takeSlot_redrawn {b c : Block} {fn n : Nat} (f : Nat) (boot : Boot) (h : b.takeSlot fn = some (n, c)) :
    (b.begin.redrawn f boot).takeSlot fn = some (n, { b.begin.redrawn f boot with keys := c.keys }) := by
  unfold Block.takeSlot at h
  split at h
  · cases h
  · next hq =>
    cases hf : b.keys.free.take 0x4000 with
    | none => rw [hf] at h; cases h
    | some r =>
      rw [hf] at h
      cases h
      refine (if_neg hq).trans ?_
      rw [show (b.begin.redrawn f boot).keys.free.take 0x4000 = some r from hf]
      rfl

/-- A volatile key goes into the slot free longest. -/
theorem Block.createKey_eq {b c : Block} {id n : Nat} {k : NewKey} (hfixed : k.fixed = none) (h : b.takeSlot k.fn = some (n, c)) :
    ∃ free, b.createKey id k =
      ({ b with keys := { b.keys with free := free, slots := b.keys.slots.put n (k.slot b n) } } : Block).succeed id n 0 := by
  unfold Block.createKey Block.slotFor
  rw [hfixed]
  dsimp only
  rw [h]
  unfold Block.takeSlot at h
  split at h
  · cases h
  · cases hf : b.keys.free.take 0x4000 with
    | none => rw [hf] at h; cases h
    | some r =>
      rw [hf] at h
      cases h
      exact ⟨_, rfl⟩

theorem keyMade {s : State} {id n : Nat} {k : NewKey} {c : Block} (f : Nat) (boot : Boot) (hfixed : k.fixed = none)
    (h : s.blk.takeSlot k.fn = some (n, c)) :
    KeyMade s (s.withBlock ((s.blk.begin.redrawn f boot).createKey id k)) id n k := by
  obtain ⟨free, heq⟩ := Block.createKey_eq (id := id) hfixed (Block.takeSlot_redrawn f boot h)
  have hcore := Block.succeed_core ({ s.blk.begin.redrawn f boot with keys :=
    { s.blk.keys with free := free, slots := s.blk.keys.slots.put n (k.slot s.blk n) } }) id n 0
  have hkeys : ((s.blk.begin.redrawn f boot).createKey id k).keys =
      { s.blk.keys with free := free, slots := s.blk.keys.slots.put n (k.slot s.blk n) } := by
    rw [heq]
    exact (congrArg Block.keys hcore :)
  have hslot : ((s.blk.begin.redrawn f boot).createKey id k).slot n = k.slot s.blk n := by
    rw [Block.slot, hkeys]
    exact Tab.getD_put_same ..
  have hother : ∀ m, m ≠ n → ((s.blk.begin.redrawn f boot).createKey id k).slot m = s.blk.slot m := fun m hm => by
    rw [Block.slot, hkeys]
    exact Tab.getD_put_other _ _ _ hm
  have hcmd : ((s.blk.begin.redrawn f boot).createKey id k).cmd? id = none := by
    rw [heq]
    exact Block.succeed_cmd ..
  have hmat : ((s.blk.begin.redrawn f boot).createKey id k).material64 n = BitVec.ofNat 512 (le k.mat) := by
    rw [Block.material64, hslot, hkeys]
    change (k.bare s.blk n).material ^^^ BitVec.ofNat 512 (slotPad s.blk.keys.spk n (s.blk.slot n).gen) = _
    rw [NewKey.bare, BitVec.xor_assoc, BitVec.xor_self, BitVec.xor_zero]
  have hok : ((s.blk.begin.redrawn f boot).createKey id k).slotOk n = true := by
    rw [Block.slotOk, hslot, hkeys]
    exact Bool.and_eq_true_iff.mpr ⟨rfl, decide_eq_true (slotMac_mac ..).symm⟩
  unfold KeyMade
  rw [State.withBlock_blk, hslot, hmat, hok, hcmd, heq]
  exact ⟨rfl, rfl, rfl, rfl, rfl, rfl, rfl, rfl, rfl, rfl, rfl, rfl, rfl, fun m hm => heq ▸ hother m hm, (congrArg Block.regions hcore :),
    (congrArg Block.ctxs hcore :), (congrArg Block.jobs hcore :), (congrArg Block.store hcore :)⟩

end Sys2Proof.Machine

namespace Sys2Proof.Proofs

open Sys2Proof Sys2Proof.Machine

/-- Settles O25: a drawn, a derived and an unwrapped key are created alike. -/
theorem keysAreMade : Obligations.KeysAreMade := by
  intro s id n c b hvol htake
  refine ⟨fun hc hok => ?_, fun d hc hd hlevel hok => ?_, fun mat hc hlt hok himp => ?_⟩
  · have hok' : s.blk.begin.generateCheck c = .ok := hok
    refine ⟨_, answers_onCommand (by unfold exec execKeyGenerate; rfl) hc ?_, keyMade (s.blk.fresh + 1) s.blk.drew.boot rfl htake⟩
    rw [hok']
    dsimp only
    rw [hvol]
    rfl
  · have hok' : s.blk.begin.deriveCheck c d = .ok := hok
    refine ⟨_, answers_onCommand (by unfold exec execKeyDerive; rfl) hc ?_, keyMade s.blk.fresh s.blk.boot rfl htake⟩
    rw [hd]
    dsimp only
    rw [hok', if_neg (by simp [hlevel]), if_neg hlevel, hvol]
    rfl
  · have hok' : s.blk.begin.importCheck c = .ok := hok
    have himp' : s.blk.begin.imported c = .ok mat := himp
    refine ⟨_, answers_onCommand (by unfold exec execKeyImport; rfl) hc ?_, keyMade s.blk.fresh s.blk.boot rfl htake⟩
    rw [if_neg (by omega), if_neg (by omega), hok']
    dsimp only
    rw [himp']
    dsimp only
    rw [hvol]
    rfl

end Sys2Proof.Proofs
end

section
/-! Keys end, and the orders that erase them are answered (R14, R50, R104 to R106, R109, R280). -/

namespace Sys2Proof.Machine

open Sys2Proof Sys2Proof.Machine.Crypto

/-! ## What an invalidation does to the key store (R105) -/

theorem Block.dropExports_keys (b : Block) (l : Tab ExportEntry) :
    ∃ kxp next, (b.dropExports l).keys = { b.keys with kxp := kxp, nextKxp := next } := by
  induction l generalizing b with
  | nil => exact ⟨_, _, rfl⟩
  | cons e r ih =>
    obtain ⟨kxp, next, h⟩ := ih (b.kxpDrop (e.1 / 256) (e.1 % 256) e.2.chain)
    exact ⟨kxp, next, by rw [Block.dropExports, h, Block.kxpDrop, Block.kxpOrder_keys]⟩

theorem Block.orderDrops_keys (b : Block) (o : DropOrder) (l : List Nat) : (b.orderDrops o l).keys = b.keys := by
  induction l generalizing b with
  | nil => rfl
  | cons e r ih => exact ih _

theorem Block.endRekey_keys (b : Block) (r : Nat) (st : Status) : (b.endRekey r st).keys = b.keys := by
  unfold Block.endRekey
  split
  · rfl
  · split
    · rfl
    · exact (congrArg Block.keys (Block.complete_core ..) :)

theorem Block.endRekeys_keys (b : Block) (st : Status) (l : List Nat) : (b.endRekeys st l).keys = b.keys := by
  induction l generalizing b with
  | nil => rfl
  | cons r l ih => exact (ih _).trans (b.endRekey_keys r st)

/-- An invalidation empties its slot, and waits for the engines with a key cache. -/
theorem Block.invalidateFor_keys (b : Block) (n : Nat) (cmd : Option Nat) (res0 : Nat) :
    (b.invalidateFor n cmd res0).keys.slots = (b.emptySlot n).keys.slots ∧
      ∃ i, (b.invalidateFor n cmd res0).keys.invals = b.keys.invals ++ [i] ∧ i.slot = n ∧ i.cmd = cmd ∧ i.engines = b.build.cacheEngines := by
  obtain ⟨kxp, next, hdrop⟩ := (b.emptySlot n).dropExports_keys (b.keys.exports.filter fun e => Chain.holds e.2.chain n (b.slot n).gen)
  have hbuild := (congrArg Block.build
    ((b.emptySlot n).dropExports_vault (b.keys.exports.filter fun e => Chain.holds e.2.chain n (b.slot n).gen)) :)
  unfold Block.invalidateFor
  dsimp only
  rw [Block.endRekeys_keys, Block.orderDrops_keys]
  have hslots := (congrArg KeyStore.slots hdrop :)
  have hinvals := (congrArg KeyStore.invals hdrop :)
  exact ⟨hslots, _, congrArg (· ++ _) hinvals, rfl, rfl, congrArg Build.cacheEngines hbuild⟩

theorem slotEmptied {s : State} {b : Block} {n : Nat} (h : b.keys.slots = (s.blk.emptySlot n).keys.slots) (hv : b.vault = s.blk.vault) :
    SlotEmptied s (s.withBlock b) n := by
  refine ⟨?_, fun m hm => ?_, rfl, (congrArg Block.ctxs hv :), (congrArg Block.jobs hv :), (congrArg Block.store hv :)⟩
  · rw [State.withBlock_blk, Block.slot, h]
    exact Tab.getD_put_same ..
  · rw [State.withBlock_blk, Block.slot, h]
    exact Tab.getD_put_other _ _ _ hm

/-- A cache that has carried out its oldest drop order and owes the acknowledgement. -/
def KeyCache.ordered (c : KeyCache) (o : DropOrder) (r : List DropOrder) : KeyCache :=
  { c.drop o.slot o.gen with orders := r, lastDrop := o.seq, acks := c.acks ++ [o.seq] }

end Sys2Proof.Machine

namespace Sys2Proof.Proofs

open Sys2Proof Sys2Proof.Machine

/-- Settles O27: the slot of a KEY_INVALIDATE, the slot of the sweep, and the entry of a lease. -/
theorem keysEnd : Obligations.KeysEnd := by
  refine ⟨fun s id c hc hlt hname hdel hplain => ?_, fun s n hlt hsafe hfull huse hchain => ?_, fun s d n e he => ⟨?_, fun hl => ?_, fun hl => ?_⟩⟩
  · have hans : Answers (.keyInvalidate id) s ((s.blk.begin.wait id).invalidate (dfld c.desc 16 2) (some id)) := by
      have hname' : s.blk.begin.mayName c (dfld c.desc 16 2) true = true := hname
      have hdel' : s.blk.begin.deleting (dfld c.desc 16 2) = false := hdel
      refine answers_onCommand (by unfold exec execKeyInvalidate; rfl) hc ?_
      dsimp only
      rw [if_neg hlt.not_ge, hname', hdel', if_neg (show ¬ (!true) = true by decide), if_neg Bool.false_ne_true, if_pos hplain]
    obtain ⟨hslots, i, hi, hslot, hcmd, heng⟩ := (s.blk.begin.wait id).invalidateFor_keys (dfld c.desc 16 2) (some id) 0
    refine ⟨_, hans, slotEmptied hslots ((s.blk.begin.wait id).invalidateFor_vault _ _ _), i, hi, hslot, hcmd, heng⟩
  · have hgo : n < 2 ^ 14 ∧ (!s.blk.pins.blockSafe) = true ∧ (!(s.blk.slot n).isEmpty) = true ∧ (s.blk.slot n).usable = true ∧
        (s.blk.chain n).isNone = true := by
      rw [hsafe, hfull, hchain]
      exact ⟨hlt, rfl, rfl, huse, rfl⟩
    have hans : Answers (.keySweep n) s (s.blk.begin.emptySlot n) :=
      congrArg (fun b => Host.Outcome.next (s.withBlock b)) (if_pos hgo)
    exact ⟨_, hans, slotEmptied rfl rfl, rfl, rfl⟩
  · rw [ExportEntry.lapsed, Bool.and_eq_true, decide_eq_true_eq]
  · have he' : s.blk.begin.keys.exports.get? (256 * d + n) = some e := he
    change execLeaseExpiry d n s = _
    rw [execLeaseExpiry, onBlock_eq, he']
    exact congrArg (fun b => Host.Outcome.next (s.withBlock b)) (if_neg (Bool.eq_false_iff.mp hl))
  · have he' : s.blk.begin.keys.exports.get? (256 * d + n) = some e := he
    have hans : Answers (.leaseExpiry d n) s (({ s.blk.begin with keys := { s.blk.keys with
        exports := Tab.del s.blk.keys.exports (256 * d + n) } } : Block).kxpDrop d n e.chain) := by
      change execLeaseExpiry d n s = _
      rw [execLeaseExpiry, onBlock_eq, he']
      exact congrArg (fun b => Host.Outcome.next (s.withBlock b)) (if_pos hl)
    have hkeys := Block.kxpOrder_keys ({ s.blk.begin with keys := { s.blk.keys with
      exports := Tab.del s.blk.keys.exports (256 * d + n) } } : Block)
      { dest := d, op := 1, slot := n, shareA := 0, shareB := 0, cmd := none, chain := e.chain }
    refine ⟨_, hans, rfl, (congrArg KeyStore.slots hkeys :), ?_, (congrArg KeyStore.kxp hkeys :)⟩
    exact (congrArg (fun k => Tab.get? (KeyStore.exports k) (256 * d + n)) hkeys).trans (Tab.get?_del_same ..)

/-- Settles O28: drop orders, acknowledgements, fills, and `kxp_done`. -/
theorem keyOrdersAreAnswered : Obligations.KeyOrdersAreAnswered := by
  refine ⟨fun s e o r hb ho hq hc => ?_, fun s e n r hb ha hq => ?_, fun s e n f r hb hf sibs => ?_, fun s d o r hp ho => ?_⟩
  · have ho' : (s.blk.begin.cache e).orders = o :: r := ho
    have hgo : ¬ (s.blk.begin.boot.seqReset || s.blk.begin.cipherHolds e o.slot o.gen) = true := by
      have hc' : s.blk.begin.cipherHolds e o.slot o.gen = false := hc
      rw [hc', Block.begin_boot, hq]
      exact Bool.false_ne_true
    have hans : Answers (.dropOrder e) s ((s.blk.begin.dropFrames e o.slot o.gen).modCache e (·.ordered o r)) := by
      change execDropOrder e s = _
      rw [execDropOrder, atEngine_open _ hb, onBlock_eq, ho']
      exact congrArg (fun b => Host.Outcome.next (s.withBlock b)) (if_neg hgo)
    have hframe : (s.blk.begin.dropFrames e o.slot o.gen).cache e = s.blk.cache e ∧
        (s.blk.begin.dropFrames e o.slot o.gen).keys = s.blk.keys := by
      unfold Block.dropFrames
      split <;> exact ⟨rfl, rfl⟩
    have hcache : ((s.blk.begin.dropFrames e o.slot o.gen).modCache e (·.ordered o r)).cache e = (s.blk.cache e).ordered o r :=
      (Tab.getD_put_same ..).trans (congrArg (KeyCache.ordered · o r) hframe.1)
    refine ⟨_, hans, rfl, (congrArg KeyCache.orders hcache :), (congrArg KeyCache.lastDrop hcache :), (congrArg KeyCache.acks hcache :),
      fun k hk => ?_, hframe.2⟩
    have hk' := Eq.mp (congrArg (fun c => k ∈ KeyCache.keys c) hcache) hk
    simpa using (List.mem_filter.mp hk').2
  · have ha' : (s.blk.begin.cache e).acks = n :: r := ha
    change execDropAck e s = _
    rw [execDropAck, atEngine_open _ hb, onBlock_eq, ha']
    exact congrArg (fun b => Host.Outcome.next (s.withBlock b)) (if_neg (Bool.eq_false_iff.mp hq))
  · have hf' : takeFill n (s.work.blk.cache e).fills = some (f, r) := hf
    change execKeyFillArrival e n sibs s = _
    rw [execKeyFillArrival, atEngine_open _ hb]
    refine onMemory_done ?_
    rw [hf']
  · have ho' : takeOrder d s.blk.begin.keys.kxp = some (o, r) := ho
    refine ⟨_, rfl, fun hcmd => ?_, fun id hcmd => ?_⟩
    · change execKxpDone d s = _
      rw [execKxpDone, atPort_open _ hp.1 hp.2, onBlock_eq, ho']
      dsimp only
      rw [hcmd]
      rfl
    · change execKxpDone d s = _
      rw [execKxpDone, atPort_open _ hp.1 hp.2, onBlock_eq, ho']
      dsimp only
      rw [hcmd]
      rfl

end Sys2Proof.Proofs
end

section
/-! REGION_BIND, REGION_UNBIND, REGION_QUERY and REGION_REKEY (R150 to R155). -/

namespace Sys2Proof.Machine

open Sys2Proof Sys2Proof.Machine.Crypto

theorem State.withBlock_mem (s : State) (b : Block) : (s.withBlock b).mem = s.mem := rfl

/-! ## Region entries -/

theorem Block.setRegion_region_same (b : Block) (r : Nat) {e : RegionEntry} (h : ¬ (e.mode = .none ∧ (!e.binding) = true)) :
    (b.setRegion r e).region r = e := by
  unfold Block.region Block.setRegion
  rw [if_neg h]
  exact Tab.getD_put_same ..

theorem Block.setRegion_region_other (b : Block) {r q : Nat} (e : RegionEntry) (h : q ≠ r) :
    (b.setRegion r e).region q = b.region q := by
  unfold Block.region Block.setRegion
  dsimp only
  split
  · unfold Tab.getD
    rw [Tab.get?_del_other _ h]
  · exact Tab.getD_put_other _ _ _ h

theorem Nat.xor_one_ne (r : Nat) : r ^^^ 1 ≠ r := by
  intro h
  have h1 : r ^^^ (r ^^^ 1) = 0 := by rw [h, Nat.xor_self]
  rw [← Nat.xor_assoc, Nat.xor_self, Nat.zero_xor] at h1
  exact absurd h1 (by decide)

/-! ## REGION_BIND (R150) -/

/-- The entry of a region that is being bound. -/
def Cmd.boundEntry (c : Cmd) (m : Mode) : RegionEntry :=
  { mode := m, ownerFn := BitVec.ofNat 8 c.fn, ownerCtx := BitVec.ofNat 16 c.ctx
    threshold := BitVec.ofNat 8 (dfld c.desc 19 1), ctxwide := (dfld c.desc 20 1).testBit 0, keyset := c.keyset
    binding := true }

/-- The entries of a region and its companion once a bind has begun. -/
def Block.bindEntries (b : Block) (c : Cmd) (r : Nat) (t : Tier) (m : Mode) : Block :=
  if needsCompanion t m then
    (b.setRegion r (c.boundEntry m)).setRegion (r ^^^ 1)
      { mode := .companion, ownerFn := BitVec.ofNat 8 c.fn, ownerCtx := BitVec.ofNat 16 c.ctx }
  else b.setRegion r (c.boundEntry m)

section Bind

variable (b : Block) (id : Nat) (c : Cmd) (r : Nat) (t : Tier) (m : Mode)

theorem Block.bindEntries_region : (b.bindEntries c r t m).region r = c.boundEntry m := by
  have hset := b.setRegion_region_same r (e := c.boundEntry m) (fun h => Bool.false_ne_true h.2)
  unfold Block.bindEntries
  split
  · exact (Block.setRegion_region_other _ _ (Nat.xor_one_ne r).symm).trans hset
  · exact hset

theorem Block.bindEntries_companion (h : needsCompanion t m = true) : ((b.bindEntries c r t m).region (r ^^^ 1)).mode = .companion := by
  have hset := Block.setRegion_region_same (b.setRegion r (c.boundEntry m)) (r ^^^ 1)
    (e := { mode := .companion, ownerFn := BitVec.ofNat 8 c.fn, ownerCtx := BitVec.ofNat 16 c.ctx }) fun h => nomatch h.1
  rw [Block.bindEntries, if_pos h, hset]

variable {r} in
theorem Block.bindEntries_other {q : Nat} (h : q ≠ r) (h1 : q ≠ r ^^^ 1) : (b.bindEntries c r t m).region q = b.region q := by
  unfold Block.bindEntries
  split
  · exact (Block.setRegion_region_other _ _ h1).trans (Block.setRegion_region_other _ _ h)
  · exact Block.setRegion_region_other _ _ h

theorem Block.startBind_region (q : Nat) : (b.startBind id c r t m).region q = (b.bindEntries c r t m).region q := rfl

theorem Block.startBind_frame : ((b.startBind id c r t m).regions.binds.get? r).isSome = true ∧
    (b.startBind id c r t m).keys = b.keys ∧ (b.startBind id c r t m).ctxs = b.ctxs := by
  have hframe : (b.bindEntries c r t m).keys = b.keys ∧ (b.bindEntries c r t m).ctxs = b.ctxs := by
    unfold Block.bindEntries
    split <;> exact ⟨rfl, rfl⟩
  exact ⟨congrArg Option.isSome (Tab.get?_put_same ..), hframe⟩

end Bind

/-- The checks of a bind whose region, mode and keys are right. -/
theorem answers_regionBind {s : State} {id : Nat} {c : Cmd} {t : Tier} {m : Mode} (hc : CmdReady s id 0x0201 c)
    (ht : s.blk.build.regionTier c.region = some t) (hm : s.blk.build.bindMode t (dfld c.desc 18 1) = some m)
    (hplace : s.blk.bindPlaceOk c c.region t m = true) (hkey : (c.keyset.map fun h => h.toNat).headD 0 ≠ 0)
    (hkeys : ∀ h ∈ c.keyset, s.blk.bindKeyCheck t c.fn c.ctx h.toNat = .ok)
    (hroom : (m = .replay ∧ t.one = false) → s.blk.replayRegions < 32 ∧ s.blk.boot.entropyDown = false) :
    Answers (.regionBind id) s (s.blk.begin.startBind id c c.region t m) := by
  have hroom' : (m = .replay && !t.one) = true → s.blk.replayRegions < 32 ∧ s.blk.boot.entropyDown = false := fun h => by
    obtain ⟨h1, h2⟩ := Bool.and_eq_true_iff.mp h
    exact hroom ⟨of_decide_eq_true h1, by simpa using h2⟩
  have hchecks : firstBad ([require (s.blk.begin.bindPlaceOk c c.region t m) .badOperand,
        require ((c.keyset.map fun h => h.toNat).headD 0 ≠ 0) .badOperand] ++
      (c.keyset.map fun h => h.toNat).map (s.blk.begin.bindKeyCheck t c.fn c.ctx) ++
      [require (!(m = .replay && !t.one) || s.blk.begin.replayRegions < 32) .retryLater,
       require (!(m = .replay && !t.one) || !s.blk.begin.boot.entropyDown) .notReady]) = .ok := by
    rw [firstBad_eq_ok_iff]
    intro x hx
    rw [List.mem_append, List.mem_append] at hx
    rcases hx with (hx | hx) | hx
    · rcases List.mem_pair.mp hx with rfl | rfl
      · exact (require_eq_ok_iff (by decide)).mpr hplace
      · exact (require_eq_ok_iff (by decide)).mpr (decide_eq_true hkey)
    · obtain ⟨n, hn, rfl⟩ := List.mem_map.mp hx
      obtain ⟨h, hh, rfl⟩ := List.mem_map.mp hn
      exact hkeys h hh
    · have hcase : ∀ p : Bool, ((m = .replay && !t.one) = true → p = true) → (!(m = .replay && !t.one) || p) = true := fun p hp => by
        cases hmt : (decide (m = .replay) && !t.one) with
        | false => rfl
        | true => exact hp hmt
      rcases List.mem_pair.mp hx with rfl | rfl
      · exact (require_eq_ok_iff (by decide)).mpr (hcase _ fun h => decide_eq_true (hroom' h).1)
      · refine (require_eq_ok_iff (by decide)).mpr (hcase _ fun h => ?_)
        rw [Block.begin_boot, (hroom' h).2]
        rfl
  have hform : ((s.blk.begin.build.regionTier c.region).bind fun t =>
      (s.blk.begin.build.bindMode t (dfld c.desc 18 1)).map fun m => (t, m)) = some (t, m) := by
    rw [Block.begin_build, ht, Option.bind_some, hm]
    rfl
  refine answers_onCommand (by unfold exec execRegionBind; rfl) hc ?_
  dsimp only
  rw [hform]
  dsimp only
  rw [hchecks]

/-! ## REGION_REKEY (R152, R153) -/

/-- The entry of a region whose rekey begins. -/
def RegionEntry.rekeyed (e : RegionEntry) (c : Cmd) : RegionEntry :=
  { e with keyset := e.trimmed, old := BitVec.ofNat 3 (dfld c.desc 18 1), new := BitVec.ofNat 3 (dfld c.desc 19 1)
           rekeying := true, redirect := false }

theorem Block.startRekey_region (b : Block) (id : Nat) (c : Cmd) (t : Tier) (q : Nat) :
    (b.startRekey id c t).region q = (b.setRegion c.region ((b.region c.region).rekeyed c)).region q := rfl

theorem Block.startRekey_other (b : Block) (id : Nat) (c : Cmd) (t : Tier) {q : Nat} (h : q ≠ c.region) :
    (b.startRekey id c t).region q = b.region q :=
  (b.startRekey_region id c t q).trans (Block.setRegion_region_other b _ h)

theorem Block.startRekey_frame (b : Block) (id : Nat) (c : Cmd) (t : Tier) :
    (b.startRekey id c t).regions.rekeys = b.regions.rekeys.put c.region
      { cmd := some id, next := t.engines.map fun e => (e, t.lineLo c.region (e - t.first)) } ∧
    (b.startRekey id c t).keys = b.keys ∧ (b.startRekey id c t).ctxs = b.ctxs := ⟨rfl, rfl, rfl⟩

/-- A rekey whose checks pass is of a bound region. -/
theorem Block.rekeyCheck_bound {b : Block} {c : Cmd} (h : b.rekeyCheck c = .ok) : (b.region c.region).mode ≠ .none := by
  have hfirst := (firstBad_eq_ok_iff _).mp h _ (List.mem_cons_self ..)
  have hname := (require_eq_ok_iff (by decide)).mp hfirst
  simp only [Bool.and_eq_true, Block.mayNameRegion, decide_eq_true_eq] at hname
  exact hname.1.1.1.1

theorem Block.startRekey_entry {b : Block} {c : Cmd} (id : Nat) (t : Tier) (h : b.rekeyCheck c = .ok) :
    (b.startRekey id c t).region c.region = (b.region c.region).rekeyed c :=
  (b.startRekey_region id c t c.region).trans <| b.setRegion_region_same c.region fun hn => Block.rekeyCheck_bound h hn.1

end Sys2Proof.Machine

namespace Sys2Proof.Proofs

open Sys2Proof Sys2Proof.Machine

theorem answers_regionRekey {s : State} {id : Nat} {c : Cmd} {t : Tier} (hc : CmdReady s id 0x0203 c)
    (hok : s.blk.rekeyCheck c = .ok) (ht : s.blk.build.regionTier c.region = some t) :
    Answers (.regionRekey id) s (s.blk.begin.startRekey id c t) := by
  have hok' : s.blk.begin.rekeyCheck c = .ok := hok
  have ht' : s.blk.begin.build.regionTier c.region = some t := ht
  refine answers_onCommand (by unfold exec execRegionRekey; rfl) hc ?_
  rw [hok', ht']

/-- Settles O29: the four commands whose checks pass. -/
theorem regionCommands : Obligations.RegionCommands := by
  intro s id c
  refine ⟨fun t m hc ht hm hplace hkey hkeys hroom => ?_, fun hc hname hmode => ?_, fun hc hname => ?_, fun t hc hok ht => ?_⟩
  · have hans := answers_regionBind hc ht hm hplace hkey hkeys hroom
    obtain ⟨hbinds, hkeep, hctxs⟩ := s.blk.begin.startBind_frame id c c.region t m
    exact ⟨_, hans, rfl, s.blk.begin.bindEntries_region c c.region t m, s.blk.begin.bindEntries_companion c c.region t m,
      fun r h h1 => s.blk.begin.bindEntries_other c t m h h1, hbinds, hkeep, hctxs⟩
  · refine answers_onCommand (by unfold exec execRegionUnbind; rfl) hc (if_pos ?_)
    exact Bool.and_eq_true_iff.mpr ⟨hname, decide_eq_true hmode⟩
  · exact answers_onCommand (by unfold exec execRegionQuery; rfl) hc (if_pos hname)
  · have hans := answers_regionRekey hc hok ht
    have hreg := Block.startRekey_entry id t (b := s.blk.begin) hok
    obtain ⟨hrekeys, hkeep, hctxs⟩ := s.blk.begin.startRekey_frame id c t
    have hother : ∀ r, r ≠ c.region → (s.blk.begin.startRekey id c t).region r = s.blk.region r :=
      fun r => s.blk.begin.startRekey_other id c t
    have hjob := (congrArg (fun r => Tab.get? r c.region) hrekeys).trans (Tab.get?_put_same ..)
    refine ⟨s.withBlock (s.blk.begin.startRekey id c t), hans, State.withBlock_mem .., ?_⟩
    rw [State.withBlock_blk, hreg]
    exact ⟨rfl, rfl, rfl, rfl, hother, hjob, hkeep, hctxs⟩

end Sys2Proof.Proofs
end

section
/-! The background passes over regions (R120, R151 to R154, R491) and the traffic generator (R166 to R169). -/

namespace Sys2Proof.Machine

open Sys2Proof Sys2Proof.Machine.Crypto

/-! ## A region entry is dropped from the caches (R151, R152) -/

section Drops

variable (b : Block)

theorem Block.finishDrops_frame (l keep : List RegionDrop) :
    (b.finishDrops l keep).mces = b.mces ∧ (b.finishDrops l keep).regions.table = b.regions.table ∧
      (b.finishDrops l keep).keys = b.keys := by
  induction l generalizing b keep with
  | nil => exact ⟨rfl, rfl, rfl⟩
  | cons d r ih =>
    unfold Block.finishDrops
    split
    · split
      · next id _ =>
        have hcore := b.succeed_core id 0 0
        obtain ⟨hm, ht, hk⟩ := ih (b.succeed id 0 0) keep
        exact ⟨hm.trans (congrArg Block.mces hcore :), ht.trans (congrArg (fun x => (Block.regions x).table) hcore :),
          hk.trans (congrArg Block.keys hcore :)⟩
      · exact ih b keep
    · exact ih b _

theorem Block.endFnReset_core (e : Nat × FnPage) : (b.endFnReset e).core = b.core := by
  unfold Block.endFnReset
  split
  · rfl
  · split
    · rfl
    · exact Block.succeed_core ..

theorem Block.settleResets_core : b.settleResets.core = b.core := by
  have hfold (l : List (Nat × FnPage)) : ∀ b : Block, (l.foldl Block.endFnReset b).core = b.core := by
    induction l with
    | nil => exact fun _ => rfl
    | cons e r ih => exact fun b => (ih _).trans (b.endFnReset_core e)
  exact hfold _ b

theorem Block.ackRegion_frame (e r : Nat) :
    (b.ackRegion e r).mces = (b.modMce e fun m => { m with regions := m.regions.filter fun x => x.1 ≠ r }).mces ∧
      (b.ackRegion e r).regions.table = b.regions.table ∧ (b.ackRegion e r).keys = b.keys := by
  obtain ⟨hm, ht, hk⟩ := (b.modMce e fun m => { m with regions := m.regions.filter fun x => x.1 ≠ r }).finishDrops_frame
    (ackDrop r e b.regions.drops) []
  have hcore := (Block.finishDrops (b.modMce e fun m => { m with regions := m.regions.filter fun x => x.1 ≠ r })
    (ackDrop r e b.regions.drops) []).settleResets_core
  exact ⟨(congrArg Block.mces hcore :).trans hm, (congrArg (fun x => (Block.regions x).table) hcore :).trans ht,
    (congrArg Block.keys hcore :).trans hk⟩

end Drops

/-! ## The tree of a traffic generator's target (R148, R167) -/

theorem Block.mctlIssue_sansMces (b : Block) (e : Nat) (o : MctlOut) : (b.mctlIssue e o).sansMces = b.sansMces := by
  unfold Block.mctlIssue
  dsimp only
  split <;> split <;> simp

theorem Block.mctlWrite_sansMces (b : Block) (e a len data : Nat) : (b.mctlWrite e a len data).sansMces = b.sansMces := by
  unfold Block.mctlWrite Block.mctlPresent
  split
  · exact Block.mctlIssue_sansMces ..
  · rfl

theorem Nx.writeNode_sansMces (x : Nx) (tree : Option Nat) (k i : Nat) (n : Node) (c : Nat) :
    (x.writeNode tree k i n c).b.sansMces = x.b.sansMces := by
  unfold Nx.writeNode
  exact Block.mctlWrite_sansMces ..

theorem Nx.initTree_sansMces (x : Nx) (r : Nat) : (x.initTree r).b.sansMces = x.b.drew.sansMces := by
  have hlevel (n : Node) (k : Nat) (l : List Nat) :
      ∀ x : Nx, (l.foldl (fun x i => x.writeNode (some r) k i n (n.counter 0)) x).b.sansMces = x.b.sansMces := by
    induction l with
    | nil => exact fun _ => rfl
    | cons i l ih => exact fun x => (ih _).trans (x.writeNode_sansMces ..)
  unfold Nx.initTree
  exact (hlevel _ _ _ _).trans (hlevel _ _ _ _)

/-! ## The traffic generator -/

theorem Build.bindMode_ne_none {b : Build} {t : Tier} {code : Nat} {m : Mode} (h : b.bindMode t code = some m) : m ≠ .none := by
  rintro rfl
  grind [Build.bindMode]

theorem Block.genTarget_ne_none {b : Block} {c : Cmd} {t : Tier} {m : Mode} {own : Bool}
    (h : b.genTarget c = some (t, m, own)) : m ≠ .none := by
  unfold Block.genTarget at h
  dsimp only at h
  split at h
  · exact nomatch h
  · split at h
    · exact nomatch h
    · split at h
      · exact nomatch h
      · next hm =>
        split at h
        · obtain ⟨-, rfl, -⟩ : _ ∧ _ ∧ _ := by simpa using h
          exact Build.bindMode_ne_none hm
        · exact nomatch h

/-- The block with the target of a traffic generator bound, unless the caller owns it. -/
def Block.genEntries (b : Block) (c : Cmd) (t : Tier) (m : Mode) (own : Bool) : Block :=
  let r := dfld c.desc 18 2
  let entry : RegionEntry := { mode := m, generator := true }
  if own then b
  else
    let b := b.drew.setRegion r entry
    if needsCompanion t m then b.setRegion (r ^^^ 1) { entry with mode := .companion } else b

/-- The block with the run of a traffic generator in its table besides. -/
def Block.genBound (b : Block) (id : Nat) (c : Cmd) (t : Tier) (m : Mode) (own : Bool) : Block :=
  let run : GenRun := { mce := dfld c.desc 16 1, region := dfld c.desc 18 2, mode := m, own := own, key := b.random 512 }
  let b := b.genEntries c t m own
  { b with regions := { b.regions with gens := b.regions.gens.put id run } }

section Start

variable (w : Work) (id : Nat) (c : Cmd) (t : Tier) (m : Mode) (own : Bool)

theorem Work.genStart_frame :
    (w.genStart id c t m own).stores = w.stores ∧ (w.genStart id c t m own).stuck = w.stuck ∧
      (w.genStart id c t m own).blk.regions = (w.blk.genBound id c t m own).regions ∧
      (w.genStart id c t m own).blk.keys = (w.blk.genBound id c t m own).keys := by
  unfold Work.genStart
  dsimp only
  split
  · have htree := Nx.initTree_sansMces (({ w := w.on fun b => b.genBound id c t m own, feed := [] } : Serving).begin
      (dfld c.desc 16 1) t ((w.blk.genBound id c t m own).region (dfld c.desc 18 2)) []) (dfld c.desc 18 2)
    exact ⟨rfl, rfl, (congrArg Block.regions htree :), (congrArg Block.keys htree :)⟩
  · exact ⟨rfl, rfl, rfl, rfl⟩

variable (b : Block)

theorem Block.genBound_keys : (b.genBound id c t m own).keys = b.keys := by
  change (b.genEntries c t m own).keys = b.keys
  unfold Block.genEntries
  dsimp only
  split
  · rfl
  · split <;> rfl

theorem Block.genBound_run : (b.genBound id c t m own).regions.gens.get? id =
    some { mce := dfld c.desc 16 1, region := dfld c.desc 18 2, mode := m, own := own, key := b.random 512 } :=
  Tab.get?_put_same ..

theorem Block.genBound_region {m : Mode} (hm : m ≠ .none) :
    (b.genBound id c t m false).region (dfld c.desc 18 2) = { mode := m, generator := true } := by
  have hset (b : Block) := b.setRegion_region_same (dfld c.desc 18 2) (e := { mode := m, generator := true }) fun h => hm h.1
  change (b.genEntries c t m false).region _ = _
  unfold Block.genEntries
  dsimp only
  rw [if_neg Bool.false_ne_true]
  split
  · exact (Block.setRegion_region_other _ _ (Nat.xor_one_ne _).symm).trans (hset _)
  · exact hset _

end Start

theorem Block.setRegion_default_same (b : Block) (r : Nat) : (b.setRegion r {}).region r = {} := by
  unfold Block.region Block.setRegion
  rw [if_pos ⟨rfl, rfl⟩]
  unfold Tab.getD
  rw [Tab.get?_del_same]
  rfl

theorem Block.genEnd_region {b : Block} {g : GenRun} (id : Nat) (h : g.own = false) : (b.genEnd id g).region g.region = {} := by
  unfold Block.genEnd
  rw [h, if_neg Bool.false_ne_true]
  exact Block.setRegion_default_same ..

section Request

variable (w : Work) (id : Nat) (c : Cmd) (g : GenRun) (o : GenOutcome) (p : GenPlan) (key : BitVec 512)

theorem Work.serveAll_frame (f : Nat × LineReturn → Block → Block) (l : List (Nat × LineReturn)) :
    (l.foldl (fun w x => w.on (f x)) w).stores = w.stores ∧ (l.foldl (fun w x => w.on (f x)) w).stuck = w.stuck := by
  induction l generalizing w with
  | nil => exact ⟨rfl, rfl⟩
  | cons x l ih => exact ih (w.on (f x))

theorem Work.genRequest_stuck : (w.genRequest id c g o p key).stuck = w.stuck := by
  unfold Work.genRequest
  exact (Work.serveAll_frame _ _ _).2

theorem Work.genRequest_stores (h : g.own = false) : (w.genRequest id c g o p key).stores = w.stores := by
  unfold Work.genRequest
  dsimp only
  rw [h, if_neg Bool.false_ne_true, List.append_nil]
  exact (Work.serveAll_frame _ _ _).1

theorem Work.genRequest_run : ∃ g', (w.genRequest id c g o p key).blk.regions.gens.get? id = some g' ∧
    g'.done = g.done + 1 ∧ g'.writes = g.writes + bit !p.reads := by
  unfold Work.genRequest
  exact ⟨_, Tab.get?_put_same .., rfl, rfl⟩

/-- The next request of a run on a bound target, with what a lookup of KEYSET entry 0 has answered. -/
def Work.genOwn (key : Except Status CachedKey × Block) : Work :=
  match key with
  | (.error st, b) => { w with blk := (b.genEnd id g).fail id st }
  | (.ok k, b) => ({ w with blk := b } : Work).genRequest id c g o (w.blk.genPlan c g) k.key

end Request

end Sys2Proof.Machine

namespace Sys2Proof.Proofs

open Sys2Proof Sys2Proof.Machine

/-! ## The passes -/

theorem exec_bindLineWrite {s : State} {r e n : Nat} {j : BindJob} (feed : List LineReturn) (hp : PortOpen (.mctl e) s)
    (hj : s.blk.regions.binds.get? r = some j) (hn : j.next.get? e = some n)
    (hhi : n < (s.blk.build.tierOfMce e).lineHi r (e - (s.blk.build.tierOfMce e).first))
    (hfree : s.blk.passFree r e [(s.blk.build.tierOfMce e).lineAddr n (e - (s.blk.build.tierOfMce e).first)] = true) :
    AnswersWork (.bindLineWrite r e feed) s (s.work.bindSlot r e n j feed) := by
  have hget : ((s.work.blk.regions.binds.get? r).bind fun j => (j.next.get? e).map fun n => (j, n)) = some (j, n) := by
    rw [show s.work.blk.regions.binds.get? r = some j from hj, Option.bind_some, hn]
    rfl
  change execBindLineWrite r e feed s = _
  rw [execBindLineWrite, atPort_open _ hp.1 hp.2]
  refine onMemory_done ?_
  dsimp only
  rw [hget]
  exact if_pos ⟨hhi, hfree⟩

theorem exec_rekeyLine {s : State} {r e n : Nat} {j : RekeyJob} {lines : List Nat} (x : LineReturn) (feed : List LineReturn)
    (hp : PortOpen (.mctl e) s) (hj : s.blk.regions.rekeys.get? r = some j) (hgo : j.stopped = false)
    (hn : j.next.get? e = some n)
    (hlines : (if (s.blk.region r).mode = .replay then (s.blk.build.tierOfMce e).leafLines r e n else [n]) = lines)
    (hhi : n < (s.blk.build.tierOfMce e).lineHi r (e - (s.blk.build.tierOfMce e).first))
    (hfree : s.blk.passFree r e (lines.map fun k =>
      (s.blk.build.tierOfMce e).lineAddr k (e - (s.blk.build.tierOfMce e).first)) = true) :
    AnswersWork (.rekeyLine r e x feed) s (s.work.rekeySlot r e n x feed) := by
  have hget : ((s.work.blk.regions.rekeys.get? r).bind fun j => if j.stopped then none else j.next.get? e) = some n := by
    rw [show s.work.blk.regions.rekeys.get? r = some j from hj, Option.bind_some, hgo, if_neg Bool.false_ne_true, hn]
  subst hlines
  change execRekeyLine r e x feed s = _
  rw [execRekeyLine, atPort_open _ hp.1 hp.2]
  refine onMemory_done ?_
  dsimp only
  rw [hget]
  exact if_pos ⟨hhi, hfree⟩

theorem regionCacheDropAck {s : State} {e r : Nat} {rest : List Nat} (hb : s.blk.build.shellBuilt (.mreq e) = true)
    (hup : s.blk.boot.seqReset = false) (hd : (s.blk.mce e).regionDrops = r :: rest) :
    ∃ t, exec (.regionCacheDropAck e) s = .next t ∧ t.mem = s.mem ∧ (t.blk.mce e).regionDrops = rest ∧
      (∀ x ∈ (t.blk.mce e).regions, x.1 ≠ r) ∧ t.blk.regions.table = s.blk.regions.table ∧ t.blk.keys = s.blk.keys := by
  have hd' : (s.blk.begin.mce e).regionDrops = r :: rest := hd
  have hrun : exec (.regionCacheDropAck e) s = .next (s.withBlock
      ((s.blk.begin.modMce e fun m => { m with regionDrops := rest }).ackRegion e r)) := by
    change execRegionCacheDropAck e s = _
    rw [execRegionCacheDropAck, behindPort_open _ hb, onBlock_eq, hd']
    exact congrArg (fun b => Host.Outcome.next (s.withBlock b)) (if_neg (Bool.eq_false_iff.mp hup))
  obtain ⟨hm, ht, hk⟩ := (s.blk.begin.modMce e fun m => { m with regionDrops := rest }).ackRegion_frame e r
  have hmce := (congrArg (fun t => Tab.getD t e {}) hm :).trans (Block.modMce_mce _ e _)
  rw [Block.modMce_mce] at hmce
  refine ⟨_, hrun, rfl, congrArg Mce.regionDrops hmce, fun x hx => ?_, ht, hk⟩
  have hx' := Eq.mp (congrArg (fun m => x ∈ Mce.regions m) hmce) hx
  simpa using (List.mem_filter.mp hx').2

theorem regionPasses : Parts.RegionPasses := by
  refine ⟨fun s r e n j feed => exec_bindLineWrite feed, fun s r e n j x feed hp hj hgo hn hmode => ?_,
    fun s r e n j x feed hp hj hgo hn hmode => ?_, fun s e r rest => regionCacheDropAck,
    fun s g y fn a sh feeds hup hy hbusy hnext => ?_⟩
  · exact exec_rekeyLine x feed hp hj hgo hn (if_neg hmode)
  · exact exec_rekeyLine x feed hp hj hgo hn (if_pos hmode)
  · have hy' : s.work.blk.ways.get? g.toNat = some y := hy
    have hnext' : (if y.busy && !s.work.blk.boot.seqReset then y.next else none) = some (fn, a, sh) := by
      rw [hbusy, show s.work.blk.boot.seqReset = false from hup, hnext]
      rfl
    refine ⟨_, (show exec (.ccWayApplied g feeds) s = execCcWayApplied g feeds s from rfl).trans (onMemory_done rfl), ?_⟩
    rw [hy']
    dsimp only
    rw [hnext']
    exact Tab.get?_put_same ..

/-! ## The generator -/

section Generator

variable {s : State} {id : Nat} {c : Cmd} (o : GenOutcome) (hc : CmdReady s id 0x0E01 c)
include hc

theorem exec_trafficGen_start {t : Tier} {m : Mode} {own : Bool} (hnone : s.blk.regions.gens.get? id = none)
    (hend : s.blk.boot.lc ≠ .endOfLife) (hinv : s.blk.boot.lc ≠ .invalid) (hshape : c.genShape = true)
    (htarget : s.blk.genTarget c = some (t, m, own)) (hent : s.blk.boot.entropyDown = false) :
    AnswersWork (.trafficGen id o) s (s.waitWork.genStart id c t m own) := by
  have hnone' : s.waitWork.blk.regions.gens.get? id = none := hnone
  have htarget' : s.waitWork.blk.genTarget c = some (t, m, own) := htarget
  change execTrafficGen id o s = _
  rw [execTrafficGen, onCommandMem_ready _ hc]
  refine onMemoryWait_done ?_ (Work.genStart_frame ..).2.1
  rw [hnone', if_neg (show ¬ (decide (s.waitWork.blk.boot.lc = .endOfLife) || decide (s.waitWork.blk.boot.lc = .invalid)) = true
    by simp [State.waitWork, hend, hinv]), hshape, if_neg (show ¬ (!true) = true by decide), htarget']
  exact if_neg (Bool.eq_false_iff.mp hent)

theorem exec_trafficGen_go {g : GenRun} {w : Work} (hg : s.blk.regions.gens.get? id = some g)
    (hw : s.waitWork.genGo id c g o = w) (hs : w.stuck = false) : AnswersWork (.trafficGen id o) s w := by
  have hg' : s.waitWork.blk.regions.gens.get? id = some g := hg
  change execTrafficGen id o s = _
  rw [execTrafficGen, onCommandMem_ready _ hc]
  refine onMemoryWait_done ?_ hs
  rw [hg']
  exact hw

end Generator

section Going

variable {w : Work} {id : Nat} {c : Cmd} {g : GenRun} (o : GenOutcome)

theorem genGo_free (hmore : g.done ≠ c.genCount) (hup : Tab.has w.blk.resets g.mce = false)
    (hwait : ∀ l ∈ genLines (w.blk.genPlan c g).addr c.genLen [], w.blk.mustWait l.1 = false) (hown : g.own = false) :
    w.genGo id c g o = w.genRequest id c g o (w.blk.genPlan c g) g.key := by
  have hany : ((genLines (w.blk.genPlan c g).addr c.genLen []).any fun l => w.blk.mustWait l.1) = false := by
    simpa using hwait
  have hown' : ¬ g.own = true := by simp [hown]
  unfold Work.genGo
  dsimp only
  rw [if_neg hmore, if_neg (Bool.eq_false_iff.mp hup), if_neg fun h => hown' h.1, if_neg (Bool.eq_false_iff.mp hany), if_neg hown']

theorem genGo_own (hmore : g.done ≠ c.genCount) (hup : Tab.has w.blk.resets g.mce = false)
    (hwait : ∀ l ∈ genLines (w.blk.genPlan c g).addr c.genLen [], w.blk.mustWait l.1 = false) (hown : g.own = true)
    (hbound : (w.blk.region g.region).bound = true) (hmode : (w.blk.region g.region).mode = g.mode)
    {r : Except Status CachedKey} {b : Block}
    (hkey : w.blk.useKey g.mce ((w.blk.region g.region).key 0) (w.blk.region g.region).ownerFn.toNat
      (w.blk.region g.region).ownerCtx.toNat (if (w.blk.genPlan c g).reads then useD else useE) = (r, b)) :
    w.genGo id c g o = w.genOwn id c g o (r, b) := by
  have hany : ((genLines (w.blk.genPlan c g).addr c.genLen []).any fun l => w.blk.mustWait l.1) = false := by
    simpa using hwait
  have hhas : ¬ (g.own = true ∧ (!(decide ((w.blk.region g.region).bound = true ∧ (w.blk.region g.region).mode = g.mode))) = true) := by
    simp [hbound, hmode]
  unfold Work.genGo
  dsimp only
  rw [if_neg hmore, if_neg (Bool.eq_false_iff.mp hup)]
  rw [if_neg hhas, if_neg (Bool.eq_false_iff.mp hany), if_pos hown, hkey]
  cases r <;> rfl

end Going

theorem generatorStarts {s : State} {id : Nat} {c : Cmd} (o : GenOutcome) {t : Tier} {m : Mode} {own : Bool}
    (htarget : s.blk.genTarget c = some (t, m, own))
    (hans : AnswersWork (.trafficGen id o) s (s.waitWork.genStart id c t m own)) :
    ∃ u, exec (.trafficGen id o) s = .next u ∧ u.mem = s.mem ∧
      u.blk.regions.gens.get? id =
        some { mce := dfld c.desc 16 1, region := dfld c.desc 18 2, mode := m, own := own, key := s.blk.random 512 } ∧
      (own = false → (u.blk.region (dfld c.desc 18 2)).mode = m ∧ (u.blk.region (dfld c.desc 18 2)).generator = true) ∧
      u.blk.keys = s.blk.keys := by
  obtain ⟨hstores, -, hregions, hkeys⟩ := s.waitWork.genStart_frame id c t m own
  refine ⟨_, hans, ?_, ?_, fun hown => ?_, hkeys.trans (Block.genBound_keys ..)⟩
  · rw [hstores]
    rfl
  · exact (congrArg (fun r => Tab.get? (Regions.gens r) id) hregions).trans (Block.genBound_run ..)
  · subst hown
    have hentry := (congrArg (fun r => Tab.getD (Regions.table r) (dfld c.desc 18 2) {}) hregions).trans
      (Block.genBound_region id c t s.waitWork.blk (Block.genTarget_ne_none htarget))
    exact ⟨congrArg RegionEntry.mode hentry, congrArg RegionEntry.generator hentry⟩

theorem trafficGeneratorRuns : Parts.TrafficGeneratorRuns := by
  intro s id c o hc
  refine ⟨fun t m own hnone hend hinv hshape htarget hent => ?_, fun g hg hmore hup hwait => ⟨fun hown => ?_,
    fun hown hbound hmode r b hkey => ?_⟩, fun g hg hdone => ⟨?_, fun hown => Block.genEnd_region id hown⟩⟩
  · exact generatorStarts o htarget (exec_trafficGen_start o hc hnone hend hinv hshape htarget hent)
  · have hgo := genGo_free (w := s.waitWork) (id := id) o hmore hup hwait hown
    have hans := exec_trafficGen_go o hc hg hgo (Work.genRequest_stuck ..)
    exact ⟨_, hans, congrArg (applyStores s.mem) (Work.genRequest_stores _ _ _ _ _ _ _ hown), Work.genRequest_run ..⟩
  · have hgo := genGo_own (w := s.waitWork) (id := id) o hmore hup hwait hown hbound hmode hkey
    refine ⟨fun k hk => ?_, fun st hst => ?_⟩
    · subst hk
      exact exec_trafficGen_go o hc hg hgo (Work.genRequest_stuck ..)
    · subst hst
      exact exec_trafficGen_go o hc hg hgo rfl
  · refine exec_trafficGen_go o hc hg (w := s.waitWork.on fun b =>
      (b.genEnd id g).output id (dfld c.desc 48 8) (c.genBlock g) .ok g.done g.mismatches) ?_ rfl
    unfold Work.genGo
    exact if_pos hdone

/-- Settles O51: the background passes over regions, and the traffic generator. -/
theorem regionPassesRun : Obligations.RegionPassesRun := ⟨regionPasses, trafficGeneratorRuns⟩

end Sys2Proof.Proofs
end

section
/-! Link admission and membership (R395 to R410, R431): sessions, messages, the domain key, and manifests. -/

namespace Sys2Proof.Machine

open Sys2Proof Sys2Proof.Machine.Crypto

/-! ## An admission message has its row's effect (R395 to R397) -/

theorem AdmissionPasses.row {msg : Nat} {s : State} {p : RxPacket} {h : Hdr} {body : Bytes} (hp : AdmissionPasses msg s p h body)
    {act : Adm → Bytes → Hdr → Block → Block} {b : Block} (ha : act (Adm.read body) body h (s.linkAfter p) = b) :
    atAdmit s p msg act = .next (s.withBlock (b.payLpe p.lpe)) := by
  obtain ⟨hlink, hok, hepoch, hmsg⟩ := hp
  refine hlink.arrives ?_
  simp only [hok, hepoch, hmsg, decide_true, Bool.and_self, if_true, ha]

section Passed

variable {msg : Nat} {s : State} {p : RxPacket} {h : Hdr} {body : Bytes} (hp : AdmissionPasses msg s p h body)
include hp

theorem AdmissionPasses.adm : ((s.linkAfter p).lpe p.lpe).adm = (s.blk.lpe p.lpe).adm :=
  hp.1.keepsLpe p.lpe Lpe.adm fun _ => rfl

theorem AdmissionPasses.keys : (s.linkAfter p).keys = s.blk.keys := hp.1.keeps Block.keys fun _ => rfl

theorem AdmissionPasses.domain : (s.linkAfter p).domain = s.blk.domain := hp.1.keeps Block.domain fun _ => rfl

theorem AdmissionPasses.boot : (s.linkAfter p).boot = s.blk.boot := hp.1.keeps Block.boot fun _ => rfl

theorem AdmissionPasses.fresh : (s.linkAfter p).fresh = s.blk.fresh := hp.1.keeps Block.fresh fun _ => rfl

end Passed

/-- The body of a well-formed message has its length, padded (R396). -/
theorem Adm.ok_length {a : Adm} {p : Bytes} (h : a.ok p = true) : a.body.length = 64 * ceilDiv a.bodyLen 64 := by
  simp only [Adm.ok, Bool.and_eq_true, decide_eq_true_eq] at h
  obtain ⟨⟨⟨⟨⟨-, hlen⟩, -⟩, -⟩, -⟩, -⟩ := h
  exact hlen

/-! ## Sessions begin and end (R399, R402) -/

section Sessions

variable (b : Block) (n : Nat)

@[simp] theorem Block.abandon_lpe : (b.abandon n).lpe n =
    { b.lpe n with adm := { rejects := (b.lpe n).adm.rejects }, member := false, partnerHops := 0xFF, offsets := [] } := by
  rw [Block.abandon, Block.retime_lpe, Block.modLpe_lpe]

theorem Block.abandon_lpe_other {m : Nat} (hm : m ≠ n) : (b.abandon n).lpe m = b.lpe m := by
  rw [Block.abandon, Block.retime_lpe, Block.modLpe_lpe_other _ _ hm]

@[simp] theorem Block.abandon_keys : (b.abandon n).keys = b.keys := rfl

variable (reason : Nat)

theorem Block.rejectPort_frame : (((b.abandon n).modLpe n fun l =>
    { l with adm := { l.adm with rejected := true, rejects := l.adm.rejects + 1 } })).Notifies (b.rejectPort n reason) :=
  Block.notifies_raisePf _ _ _ _

@[simp] theorem Block.rejectPort_keys : (b.rejectPort n reason).keys = b.keys :=
  (congrArg Block.keys (b.rejectPort_frame n reason).core :)

@[simp] theorem Block.rejectPort_lpe : (b.rejectPort n reason).lpe n =
    { b.lpe n with adm := { rejects := (b.lpe n).adm.rejects + 1, rejected := true }, member := false, partnerHops := 0xFF
                   offsets := [] } := by
  have h := (congrArg (fun c => Block.lpe c n) (b.rejectPort_frame n reason).core :)
  refine h.trans ?_
  dsimp only
  rw [show ∀ c : Block, c.core.lpe n = c.lpe n from fun _ => rfl, Block.modLpe_lpe, Block.abandon_lpe]

theorem Block.rejectPort_events :
    (b.rejectPort n reason).obs.events.getD 0x25 0 = satAdd64 (b.obs.events.getD 0x25 0) 1 :=
  Block.raisePf_events ((b.abandon n).modLpe n fun l =>
    { l with adm := { l.adm with rejected := true, rejects := l.adm.rejects + 1 } }) 0x25 (lpeId n) [(0, n), (1, reason)] (by decide)

theorem Block.rejectPeer_fields : (b.rejectPeer n reason).keys = b.keys ∧
    ((b.rejectPeer n reason).lpe n).adm = { rejects := (b.lpe n).adm.rejects + 1, rejected := true } := by
  have hsend := b.talks_sendAdm n { msg := msgReject, hint := reason }
  unfold Block.rejectPeer
  rw [Block.rejectPort_keys, Block.rejectPort_lpe, hsend.keepsLpe n (fun l => l.adm.rejects) fun _ => rfl]
  exact ⟨hsend.keeps Block.keys fun _ => rfl, rfl⟩

theorem Block.talks_sendEvidence (total : Nat) (l : List (Bytes × Nat)) : b.Talks (b.sendEvidence n total l) := by
  induction l generalizing b with
  | nil => exact .refl b
  | cons p r ih => exact (b.talks_sendAdm n _).trans (ih _)

/-- A session once both HELLOs are known: the sides are set (R397, R399). -/
def Admission.facing (d : Admission) (a : Adm) (payload : Bytes) : Admission :=
  { d with
    stage := .evidence, peerRandom := BitVec.ofNat 256 a.random, peerHello := payload
    low := d.myRandom.toNat < (BitVec.ofNat 256 a.random).toNat }

theorem Block.beginEvidence_fields (a : Adm) (payload : Bytes) : (b.beginEvidence n a payload).keys = b.keys ∧
    ∃ r, ((b.beginEvidence n a payload).lpe n).adm = { (b.lpe n).adm.facing a payload with myReport := r } := by
  have htalk (r : Bytes) := ((b.modLpe n fun l => { l with adm := l.adm.facing a payload }).freshen.modLpe n fun l =>
    { l with adm := { l.adm with myReport := r } }).talks_sendEvidence n r.length (split 4032 r).zipIdx
  have hadm (r : Bytes) : (((b.modLpe n fun l => { l with adm := l.adm.facing a payload }).freshen.modLpe n fun l =>
      { l with adm := { l.adm with myReport := r } }).lpe n).adm = { (b.lpe n).adm.facing a payload with myReport := r } := by
    rw [Block.modLpe_lpe]
    exact congrArg (fun l : Lpe => { l.adm with myReport := r }) (b.modLpe_lpe n fun l => { l with adm := l.adm.facing a payload })
  exact ⟨(htalk _).keeps Block.keys fun _ => rfl, _, ((htalk _).keepsLpe n Lpe.adm fun _ => rfl).trans (hadm _)⟩

/-- A HELLO that answers this side's starts the exchange of reports. -/
theorem Block.takeHello_sent {a : Adm} {payload : Bytes} (hst : (b.lpe n).adm.stage = .helloSent)
    (hr : (b.lpe n).adm.myRandom.toNat ≠ a.random) : b.takeHello n a payload = b.beginEvidence n a payload := by
  unfold Block.takeHello
  dsimp only
  rw [hst, if_neg (by simp), if_pos rfl, hst, if_neg (not_not_intro rfl), if_neg hr]

theorem Block.sendKem_fields (v : PeerReport) (hent : b.boot.entropyDown = false) :
    (b.sendKem n v).keys = b.keys ∧ ((b.sendKem n v).lpe n).adm.stage = .kem ∧ ((b.sendKem n v).lpe n).adm.partner = some v ∧
      (b.sendKem n v).fresh = b.fresh + 1 := by
  have htalk := fun c : Block => c.talks_sendAdm n
  unfold Block.sendKem
  rw [hent, if_neg Bool.false_ne_true]
  dsimp only
  have hmod := fun f : Lpe → Lpe => (b.drew.modLpe_lpe n f)
  refine ⟨(htalk _ _).keeps Block.keys fun _ => rfl, ((htalk _ _).keepsLpe n (fun l => l.adm.stage) fun _ => rfl).trans ?_,
    ((htalk _ _).keepsLpe n (fun l => l.adm.partner) fun _ => rfl).trans ?_, (htalk _ _).keeps Block.fresh fun _ => rfl⟩
  · exact congrArg (fun l : Lpe => l.adm.stage) (hmod _)
  · exact congrArg (fun l : Lpe => l.adm.partner) (hmod _)

end Sessions

/-! ## What membership leaves (R406, R408) -/

/-- The keys, and how the block stands in its domain. -/
def Block.standing (b : Block) : KeyStore × DomState × Bool × Bool := (b.keys, b.domain.state, b.domain.credSeen, b.time.joined)

section Standing

variable (b : Block) (n : Nat)

theorem Block.retime_joined : b.retime.time.joined = b.time.joined := by
  unfold Block.retime
  dsimp only
  repeat' split
  all_goals rfl

@[simp] theorem Block.setMember_standing (v : Bool) : (b.setMember n v).standing = b.standing := by
  unfold Block.standing
  rw [show (b.setMember n v).time.joined = b.time.joined from Block.retime_joined _]
  rfl

theorem Block.Talks.standing {a b : Block} (h : a.Talks b) : b.standing = a.standing := h.keeps Block.standing fun _ => rfl

theorem Block.splitPort_standing : (b.splitPort n).standing = b.standing := by
  unfold Block.splitPort
  have hn := Block.notifies_raisePf
    (({ b with domain := { b.domain with split := true, splits := b.domain.splits + 1 } } : Block).setMember n false) 0x26 (lpeId n)
    [(0, n)]
  exact (Block.keeps_of_core hn.core Block.standing fun _ => rfl).trans (Block.setMember_standing _ n false)

theorem Block.judgeReady_standing : (b.judgeReady n).standing = b.standing := by
  unfold Block.judgeReady
  dsimp only
  split
  · rfl
  · split
    · exact b.setMember_standing n false
    · split
      · rfl
      · split
        · split
          · exact (Block.talks_sendAdm _ n _).standing.trans (b.setMember_standing n false)
          · exact b.setMember_standing n false
        · split
          · exact b.setMember_standing n true
          · exact b.splitPort_standing n

theorem Block.judgeReadys_standing (l : List Nat) : (b.judgeReadys l).standing = b.standing := by
  induction l generalizing b with
  | nil => rfl
  | cons n r ih => exact (ih _).trans (b.judgeReady_standing n)

theorem Block.talks_sendReadys (l : List Nat) : b.Talks (b.sendReadys l) := by
  induction l generalizing b with
  | nil => exact .refl b
  | cons n r ih => exact (b.talks_sendAdm n _).trans (ih _)

/-- The domain key is in slot 16 and the block a MEMBER. -/
theorem Block.joinDomain_standing (key : Bytes) (drawn : Bool) (h : (b.slot 16).reusable = true) :
    (b.joinDomain key drawn).standing =
      ((b.writeSlot 16 key 0x80 (makeAttr (useW + useV) 2 1 false false false) 0 0 6 (b.slot 6).gen 0 true).keys, .member,
        b.domain.credSeen, true) := by
  have hno : ¬ (!(b.slot 16).reusable) = true := by simp [h]
  unfold Block.joinDomain
  rw [if_neg hno]
  dsimp only
  refine (Block.judgeReadys_standing _ _).trans ((Block.talks_sendReadys _ _).standing.trans ?_)
  unfold Block.standing
  rw [Block.retime_joined]
  rfl

/-- READY of the same manifest and domain key makes the port a member. -/
theorem Block.judgeReady_member {b : Block} {n : Nat} {m : Manifest} (hm : b.domain.manifest = some m)
    (hadm : (b.lpe n).admitted = true) (hlen : (b.lpe n).adm.ready.length = 64) (hhead : slice (b.lpe n).adm.ready 0 56 = m.head)
    (hst : b.domain.state = .member) (hkcv : slice (b.lpe n).adm.ready 56 8 = b.kcv) (hnz : allZero b.kcv = false) :
    b.judgeReady n = b.setMember n true := by
  unfold Block.judgeReady
  simp [hm, hadm, hlen, hhead, hst, hkcv, hnz]

end Standing

/-! ## Leaving a domain (R410) -/

section Leaving

/-- No port is a member. -/
def Block.Memberless (b : Block) : Prop := ∀ e ∈ b.lpes, e.2.member = false

theorem Tab.mem_put {α : Type} {t : Tab α} {k : Nat} {a : α} {e : Nat × α} (h : e ∈ Tab.put t k a) : e ∈ t ∨ e = (k, a) := by
  induction t with
  | nil => exact .inr (List.mem_singleton.mp h)
  | cons x t ih =>
    unfold Tab.put at h
    split at h
    · rcases List.mem_cons.mp h with h | h
      · exact .inr h
      · exact .inl h
    · split at h
      · rcases List.mem_cons.mp h with h | h
        · exact .inr h
        · exact .inl (List.mem_cons_of_mem _ h)
      · rcases List.mem_cons.mp h with h | h
        · exact .inl (h ▸ List.mem_cons_self)
        · exact (ih h).imp (List.mem_cons_of_mem _) id

theorem Tab.mem_of_get? {α : Type} {t : Tab α} {k : Nat} {a : α} (h : Tab.get? t k = some a) : (k, a) ∈ t := by
  induction t with
  | nil => exact nomatch h
  | cons x t ih =>
    unfold Tab.get? at h
    split at h
    · next hk =>
      cases h
      exact hk ▸ List.mem_cons_self
    · exact List.mem_cons_of_mem _ (ih h)

variable {b : Block} (n : Nat)

theorem Block.Memberless.lpe (h : b.Memberless) : (b.lpe n).member = false := by
  unfold Block.lpe Tab.getD
  cases hf : b.lpes.get? n with
  | none => rfl
  | some l => exact h _ (Tab.mem_of_get? hf)

theorem Block.Memberless.modLpe (h : b.Memberless) {f : Lpe → Lpe} (hf : (f (b.lpe n)).member = (b.lpe n).member) :
    (b.modLpe n f).Memberless := by
  intro e he
  rcases Tab.mem_put he with he | he
  · exact h e he
  · rw [he]
    exact hf.trans (h.lpe n)

theorem Block.Memberless.emits (h : b.Memberless) (l : List Cross) : (b.emits l).Memberless := by
  have hl : (b.emits l).lpes = b.lpes := (congrArg Block.lpes (b.emits_frame l).1 :)
  unfold Block.Memberless
  rwa [hl]

theorem Block.Memberless.sendAdm (h : b.Memberless) (a : Adm) : (b.sendAdm n a).Memberless := by
  unfold Block.sendAdm Block.linkSend
  split
  · exact h
  · have hseq := h.modLpe n (f := fun _ => ((b.lpe n).takeSeq (msgEpoch a.msg)).2)
      (Lpe.keeps_of_session (Lpe.takeSeq_session _ _) Lpe.member fun _ => rfl)
    dsimp only
    unfold Block.transmit
    split
    · refine Block.Memberless.emits (Block.Memberless.modLpe (b := (b.modLpe n fun _ => ((b.lpe n).takeSeq (msgEpoch a.msg)).2).count _ _ _) n
        hseq ?_) _
      rfl
    · exact hseq.modLpe n rfl

theorem Block.Memberless.sendLeaves (h : b.Memberless) (l : List Nat) : (b.sendLeaves l).Memberless := by
  induction l generalizing b with
  | nil => exact h
  | cons n r ih => exact ih (h.sendAdm n _)

theorem Block.talks_sendLeaves (b : Block) (l : List Nat) : b.Talks (b.sendLeaves l) := by
  induction l generalizing b with
  | nil => exact .refl b
  | cons n r ih => exact (b.talks_sendAdm n _).trans (ih _)

/-- The block out of its domain, under its provisional id, before LEAVE goes out. -/
def Block.outOfDomain (b : Block) (id : BitVec 12) : Block :=
  { b with
    domain := { b.domain with state := .none, seed := false, manifest := none, credSeen := false }
    boot := { b.boot with blockId := id, assigned := false }
    time := { b.time with locked := false }
    lpes := b.lpes.map fun e : Nat × Lpe => (e.1, { e.2 with member := false }) }

theorem Block.outOfDomain_memberless (b : Block) (id : BitVec 12) : (b.outOfDomain id).Memberless := by
  intro e he
  obtain ⟨x, -, rfl⟩ := List.mem_map.mp he
  rfl

/-- The block once slot 16 is empty. -/
def Block.keyless (b : Block) : Block := if (b.slot 16).isEmpty then b else b.invalidate 16 none

theorem Block.keyless_slot (b : Block) : (b.keyless.slot 16).isEmpty = true := by
  unfold Block.keyless
  split
  · next h => exact h
  · have hslot : (b.emptySlot 16).slot 16 = { gen := (b.slot 16).gen + 1 } := Tab.getD_put_same ..
    rw [Block.slot, Block.invalidate, (b.invalidateFor_keys 16 none 0).1, ← Block.slot, hslot]
    simp [KeySlot.isEmpty, KeySlot.typ, fld]

theorem Block.dropDomain_eq (b : Block) : ∃ id, b.dropDomain =
    (b.keyless.outOfDomain id).retime.sendLeaves (b.keyless.outOfDomain id).admittedPorts := by
  unfold Block.dropDomain Block.keyless
  exact ⟨_, rfl⟩

theorem Block.dropDomain_fields (b : Block) :
    b.dropDomain.domain.state = .none ∧ b.dropDomain.domain.manifest = none ∧ b.dropDomain.boot.assigned = false ∧
      (b.dropDomain.slot 16).isEmpty = true ∧ b.dropDomain.Memberless := by
  obtain ⟨id, heq⟩ := b.dropDomain_eq
  have hempty := b.keyless_slot
  rw [heq]
  generalize b.keyless = c at hempty
  have htalk := (c.outOfDomain id).retime.talks_sendLeaves (c.outOfDomain id).admittedPorts
  refine ⟨htalk.keeps (fun b => b.domain.state) fun _ => rfl, htalk.keeps (fun b => b.domain.manifest) fun _ => rfl,
    htalk.keeps (fun b => b.boot.assigned) fun _ => rfl, ?_, ?_⟩
  · exact (htalk.keeps (fun b => (b.slot 16).isEmpty) fun _ => rfl).trans hempty
  · exact Block.Memberless.sendLeaves (show (c.outOfDomain id).retime.Memberless from c.outOfDomain_memberless id) _

end Leaving

/-- A write to a register of the domain reaches it. -/
theorem atRegister_passes {s : State} {fn off : Nat} (h : PortOpen .hcp s) (hr : s.blk.reach fn off true = true)
    (act : Block → Block) : atRegister s fn off act = .next (s.withBlock ((act s.blk.begin).emit (.hcpT 0 false))) := by
  have hr' : s.blk.begin.reach fn off true = true := hr
  rw [atRegister, atPort_open _ h.1 h.2, onBlock_eq, Block.regAccess, if_pos hr']
  rfl

/-- LOAD of a manifest that meets its rules, in a block without one (R405). -/
theorem Block.loadManifest_holds {b : Block} {len : Nat} {x : Bytes} {m : Manifest} (hst : b.domain.state = .none)
    (hlc : b.boot.lc.serves = true) (hdbg : b.boot.debugOpen = false) (hm : readManifest x len b.devid = some m) :
    b.loadManifest len (.data x) = (b.hostFetch 0 b.domain.src.toNat len).holdManifest m := by
  have hdev : (b.hostFetch 0 b.domain.src.toNat len).devid = b.devid :=
    Block.keeps_of_core (Block.emits_frame b _).1 Block.devid fun _ => rfl
  unfold Block.loadManifest
  dsimp only
  rw [if_neg (not_not_intro hst), if_neg (by simp [hlc]), if_neg (by simp [hdbg]), hdev, hm]

theorem Block.holdManifest_fields (b : Block) (m : Manifest) :
    (b.holdManifest m).domain =
      { b.domain with
        state := .waiting, seed := m.idOf b.devid = m.seed, manifest := some m, credSeen := false, err := .ok } ∧
    (b.holdManifest m).boot = { b.boot with blockId := m.idOf b.devid, assigned := true } ∧ (b.holdManifest m).keys = b.keys := by
  have htalk := fun c : Block => c.talks_sendReadys
  unfold Block.holdManifest
  exact ⟨(htalk _ _).keeps Block.domain fun _ => rfl, (htalk _ _).keeps Block.boot fun _ => rfl,
    (htalk _ _).keeps Block.keys fun _ => rfl⟩

end Sys2Proof.Machine

namespace Sys2Proof.Proofs

open Sys2Proof Sys2Proof.Machine

/-! ## The messages of an admission -/

theorem admissionMessages : Parts.AdmissionMessages := by
  refine ⟨fun s p h body hp hc => ?_, fun s p h body hp hc => ?_, fun v s p h body hp hc => ?_, fun v s p h body hp hc => ?_,
    fun s p h body hp hc => ?_, fun s p h body hp hc => ?_⟩
  · change execHello p s = _
    refine hp.row (b := (s.linkAfter p).takeHello p.lpe (Adm.read body) body) ?_
    rw [hc]
  · change execDeferred p s = _
    exact hp.row (if_pos hc)
  · obtain ⟨hst, hoff, htot, hmore⟩ := hc
    change execEvidence p v s = _
    refine hp.row ?_
    dsimp only
    rw [if_neg (not_not_intro hst), if_neg (by simp [hoff, htot]), if_pos hmore]
    rfl
  · obtain ⟨hst, hoff, htot, hall⟩ := hc
    change execEvidence p v s = _
    refine hp.row ?_
    dsimp only
    rw [if_neg (not_not_intro hst), if_neg (by simp [hoff, htot]), if_neg (by omega)]
    rfl
  · change execKem p s = _
    exact hp.row (if_neg (not_not_intro hc))
  · obtain ⟨hst, hbody, hzero⟩ := hc
    change execFinish p s = _
    exact hp.row (if_pos (by simp [hst, hbody, hzero]))

theorem membershipMessages : Parts.MembershipMessages := by
  refine ⟨fun s p h body hp hc => ?_, fun m s p h body hp hc => ?_, fun s p h body hp hc => ?_, fun s p h body hp _ => ?_⟩
  · change execReady p s = _
    exact hp.row (if_pos hc)
  · obtain ⟨hm, hst, hadm, hhead, hacc⟩ := hc
    change execCred p s = _
    refine hp.row ?_
    dsimp only
    rw [hm]
    dsimp only
    rw [if_neg (by simp [hst, hadm])]
    exact if_pos (by rw [Bool.and_eq_true, decide_eq_true_eq]; exact ⟨hhead, hacc⟩)
  · change execReject p s = _
    exact hp.row (if_pos hc)
  · change execLeave p s = _
    exact hp.row rfl

end Sys2Proof.Proofs
end

section
/-! Where the admission messages complete, links and their deadlines, and domains joined and left (R396 to R410). -/

namespace Sys2Proof.Machine

open Sys2Proof Sys2Proof.Machine.Crypto

/-! ## What the credits paid after a row leave -/

section Paid

variable (b : Block) (n : Nat)

theorem Block.payLpe_adm : ((b.payLpe n).lpe n).adm = (b.lpe n).adm := (Block.Ships.payLpe b n).keepsLpe n Lpe.adm fun _ => rfl
theorem Block.payLpe_member : ((b.payLpe n).lpe n).member = (b.lpe n).member :=
  (Block.Ships.payLpe b n).keepsLpe n Lpe.member fun _ => rfl
theorem Block.payLpe_keys : (b.payLpe n).keys = b.keys := (Block.Ships.payLpe b n).keeps Block.keys fun _ => rfl
theorem Block.payLpe_domain : (b.payLpe n).domain = b.domain := (Block.Ships.payLpe b n).keeps Block.domain fun _ => rfl
theorem Block.payLpe_fresh : (b.payLpe n).fresh = b.fresh := (Block.Ships.payLpe b n).keeps Block.fresh fun _ => rfl
theorem Block.payLpe_events : (b.payLpe n).obs.events = b.obs.events :=
  (Block.Ships.payLpe b n).keeps (fun b => b.obs.events) fun _ => rfl

end Paid

/-! ## The peer's report judged (R399, R400) -/

section Report

variable {b : Block} {n : Nat} {v : PeerVerdict}

/-- The rejection of a peer's report. -/
def Block.PeerRejected (a b : Block) (n : Nat) : Prop :=
  b.keys = a.keys ∧ (b.lpe n).adm = { rejects := (a.lpe n).adm.rejects + 1, rejected := true }

theorem Block.judgeReport_malformed (h : readReport b.akoirno (b.lpe n).adm.peerReport = none) :
    b.PeerRejected (b.judgeReport n v) n := by
  unfold Block.judgeReport
  rw [h]
  exact b.rejectPeer_fields n 5

theorem Block.judgeReport_refused {r : PeerReport} (h : readReport b.akoirno (b.lpe n).adm.peerReport = some r)
    (hbad : (b.peerRefusal (b.lpe n).adm r v.pathOk).isSome = true) : b.PeerRejected (b.judgeReport n v) n := by
  obtain ⟨reason, hbad⟩ := Option.isSome_iff_exists.mp hbad
  unfold Block.judgeReport
  rw [h]
  dsimp only
  rw [hbad]
  exact b.rejectPeer_fields n reason

theorem Block.judgeReport_accepted {r : PeerReport} (h : readReport b.akoirno (b.lpe n).adm.peerReport = some r)
    (hok : (b.peerRefusal (b.lpe n).adm r v.pathOk).isSome = false) : b.judgeReport n v = b.sendKem n r := by
  have hnone := Option.isNone_iff_eq_none.mp (Option.not_isSome_iff_eq_none.mp (Bool.eq_false_iff.mp hok) ▸ rfl :
    (b.peerRefusal (b.lpe n).adm r v.pathOk).isNone = true)
  unfold Block.judgeReport
  rw [h]
  dsimp only
  rw [hnone]

/-- The block with the last piece of the peer's report. -/
def Block.evidenced (b : Block) (n : Nat) (x : Bytes) : Block :=
  b.modLpe n fun l => { l with adm := { l.adm with peerReport := l.adm.peerReport ++ x } }

theorem Block.evidenced_adm (b : Block) (n : Nat) (x : Bytes) :
    ((b.evidenced n x).lpe n).adm = { (b.lpe n).adm with peerReport := (b.lpe n).adm.peerReport ++ x } :=
  congrArg Lpe.adm (b.modLpe_lpe n _)

/-- A session takes its link key, and FINISH goes out. -/
def Block.finishSent (b : Block) (n : Nat) (d : Admission) : Block :=
  (b.modLpe n fun l =>
    { l with adm := { d with linkKey := some (d.key d.hash), transcript := d.hash, finishSent := true }
             linkSeq1 := 1, linkHigh := 0, linkMap := 0 }).sendAdm n { msg := msgFinish, body := d.hash }

theorem Block.finishSent_fields (b : Block) (n : Nat) (d : Admission) :
    ((b.finishSent n d).lpe n).adm = { d with linkKey := some (d.key d.hash), transcript := d.hash, finishSent := true } ∧
      (b.finishSent n d).keys = b.keys := by
  have htalk := Block.talks_sendAdm (b.modLpe n fun l =>
    { l with adm := { d with linkKey := some (d.key d.hash), transcript := d.hash, finishSent := true }
             linkSeq1 := 1, linkHigh := 0, linkMap := 0 }) n { msg := msgFinish, body := d.hash }
  exact ⟨(htalk.keepsLpe n Lpe.adm fun _ => rfl).trans (congrArg Lpe.adm (b.modLpe_lpe n _)), htalk.keeps Block.keys fun _ => rfl⟩

/-- FINISH has come with the same transcript: the port is admitted, and READY goes out. -/
def Block.admitNow (b : Block) (n : Nat) : Block :=
  (b.modLpe n fun l => { l with adm := { l.adm with stage := .admitted } }).sendReady n

theorem Block.admitNow_fields (b : Block) (n : Nat) :
    ((b.admitNow n).lpe n).adm = { (b.lpe n).adm with stage := .admitted } ∧ (b.admitNow n).keys = b.keys := by
  have htalk (x : Bytes) := Block.talks_sendAdm (b.modLpe n fun l => { l with adm := { l.adm with stage := .admitted } }) n
    { msg := msgReady, body := x }
  exact ⟨((htalk _).keepsLpe n Lpe.adm fun _ => rfl).trans (congrArg Lpe.adm (b.modLpe_lpe n _)),
    (htalk _).keeps Block.keys fun _ => rfl⟩

/-- CRED has come: the block joins under its key. -/
def Block.credited (b : Block) (key : Bytes) : Block :=
  ({ b with domain := { b.domain with credSeen := true } } : Block).joinDomain key false

theorem Block.credited_standing (b : Block) (key : Bytes) (h : (b.slot 16).reusable = true) :
    (b.credited key).standing =
      ((b.writeSlot 16 key 0x80 (makeAttr (useW + useV) 2 1 false false false) 0 0 6 (b.slot 6).gen 0 true).keys, .member, true, true) :=
  Block.joinDomain_standing ({ b with domain := { b.domain with credSeen := true } } : Block) key false h

theorem Block.setMember_lpe (b : Block) (n : Nat) (v : Bool) : (b.setMember n v).lpe n = { b.lpe n with member := v } := by
  rw [Block.setMember, Block.retime_lpe, Block.modLpe_lpe]

theorem Block.setMember_keys (b : Block) (n : Nat) (v : Bool) : (b.setMember n v).keys = b.keys := rfl
theorem Block.setMember_domain (b : Block) (n : Nat) (v : Bool) : (b.setMember n v).domain = b.domain := rfl

theorem Block.writeSlot_slot (b : Block) (n : Nat) (mat : Bytes) (mask attr : BitVec 16) (fn ctx parent : Nat)
    (gen : BitVec 16) (idx : Nat) (usable : Bool) :
    ((b.writeSlot n mat mask attr fn ctx parent gen idx usable).slot n).attr = attr ∧
      ((b.writeSlot n mat mask attr fn ctx parent gen idx usable).slot n).gen = (b.slot n).gen ∧
      ∀ m, m ≠ n → (b.writeSlot n mat mask attr fn ctx parent gen idx usable).slot m = b.slot m := by
  unfold Block.writeSlot Block.slot
  dsimp only
  rw [Tab.getD_put_same]
  exact ⟨rfl, rfl, fun m hm => Tab.getD_put_other _ _ _ hm⟩

theorem KeySlot.isEmpty_of_attr {k : KeySlot} (h : k.attr = makeAttr (useW + useV) 2 1 false false false) : k.isEmpty = false := by
  rw [KeySlot.isEmpty, KeySlot.typ, h]
  decide

end Report

end Sys2Proof.Machine

namespace Sys2Proof.Proofs

open Sys2Proof Sys2Proof.Machine Sys2Proof.Machine.Crypto

/-! ## The admission completes -/

section Rows

variable {s : State} {p : RxPacket} {h : Hdr} {body : Bytes}

theorem helloCompletes (hp : AdmissionPasses msgHello s p h body) (hno : (s.linkAfter p).helloRefusal h.src = none)
    (hst : (s.blk.lpe p.lpe).adm.stage = .helloSent) (hr : (s.blk.lpe p.lpe).adm.myRandom.toNat ≠ (Adm.read body).random) :
    ∃ t, exec (.hello p) s = .next t ∧ t.mem = s.mem ∧ (t.blk.lpe p.lpe).adm.stage = .evidence ∧
      (t.blk.lpe p.lpe).adm.peerRandom.toNat = (Adm.read body).random ∧ (t.blk.lpe p.lpe).adm.peerHello = body ∧
      (t.blk.lpe p.lpe).adm.low = decide ((s.blk.lpe p.lpe).adm.myRandom.toNat < (Adm.read body).random) ∧
      (t.blk.lpe p.lpe).adm.rejects = (s.blk.lpe p.lpe).adm.rejects ∧ t.blk.keys = s.blk.keys := by
  have hans := admissionMessages.1 s p h body hp hno
  dsimp only at hans
  rw [Block.takeHello_sent _ _ (by rw [hp.adm]; exact hst) (by rw [hp.adm]; exact hr)] at hans
  obtain ⟨hkeys, r, hadm⟩ := (s.linkAfter p).beginEvidence_fields p.lpe (Adm.read body) body
  rw [hp.adm] at hadm
  rw [hp.keys] at hkeys
  have hrandom : (BitVec.ofNat 256 (Adm.read body).random).toNat = (Adm.read body).random :=
    (BitVec.toNat_ofNat _ _).trans (Nat.mod_eq_of_lt (bfld_lt body 8 32))
  refine ⟨_, hans, State.withBlock_mem .., ?_⟩
  rw [State.withBlock_blk, Block.payLpe_adm, Block.payLpe_keys, hadm]
  refine ⟨rfl, hrandom, rfl, ?_, rfl, hkeys⟩
  dsimp only [Admission.facing]
  rw [hrandom]

theorem deferredCompletes (hp : AdmissionPasses msgDeferred s p h body) (hst : (s.blk.lpe p.lpe).adm.stage = .helloSent) :
    ∃ t, exec (.deferred p) s = .next t ∧ t.mem = s.mem ∧
      (t.blk.lpe p.lpe).adm = { rejects := (s.blk.lpe p.lpe).adm.rejects, deferred := true } ∧ t.blk.keys = s.blk.keys := by
  have hans := admissionMessages.2.1 s p h body hp (by dsimp only; rw [hp.adm]; exact hst)
  refine ⟨_, hans, State.withBlock_mem .., ?_⟩
  rw [State.withBlock_blk, Block.payLpe_adm, Block.payLpe_keys, Block.modLpe_lpe, hp.adm]
  exact ⟨rfl, hp.keys⟩

theorem evidencePieceCompletes (v : PeerVerdict) (hp : AdmissionPasses msgEvidence s p h body)
    (hst : (s.blk.lpe p.lpe).adm.stage = .evidence) (hoff : (Adm.read body).offset = (s.blk.lpe p.lpe).adm.peerReport.length)
    (htot : (Adm.read body).total ≤ maxReport) (hmore : (Adm.read body).offset + (Adm.read body).bodyLen < (Adm.read body).total) :
    ∃ t, exec (.evidence p v) s = .next t ∧ t.mem = s.mem ∧
      (t.blk.lpe p.lpe).adm =
        { (s.blk.lpe p.lpe).adm with
          peerReport := (s.blk.lpe p.lpe).adm.peerReport ++ (Adm.read body).body.take (Adm.read body).bodyLen } ∧
      t.blk.keys = s.blk.keys := by
  have hans := admissionMessages.2.2.1 v s p h body hp (by dsimp only; rw [hp.adm]; exact ⟨hst, hoff, htot, hmore⟩)
  refine ⟨_, hans, State.withBlock_mem .., ?_⟩
  rw [State.withBlock_blk, Block.payLpe_adm, Block.payLpe_keys, Block.modLpe_lpe, hp.adm]
  exact ⟨rfl, hp.keys⟩

/-- The last piece of EVIDENCE has the report judged. -/
theorem evidenceJudged (v : PeerVerdict) (hp : AdmissionPasses msgEvidence s p h body)
    (hst : (s.blk.lpe p.lpe).adm.stage = .evidence) (hoff : (Adm.read body).offset = (s.blk.lpe p.lpe).adm.peerReport.length)
    (htot : (Adm.read body).total ≤ maxReport) (hall : (Adm.read body).total ≤ (Adm.read body).offset + (Adm.read body).bodyLen) :
    Answers (.evidence p v) s ((((s.linkAfter p).evidenced p.lpe ((Adm.read body).body.take (Adm.read body).bodyLen)).judgeReport
      p.lpe v).payLpe p.lpe) :=
  admissionMessages.2.2.2.1 v s p h body hp (by dsimp only; rw [hp.adm]; exact ⟨hst, hoff, htot, hall⟩)

theorem evidenceCompletes (v : PeerVerdict) (hp : AdmissionPasses msgEvidence s p h body)
    (hst : (s.blk.lpe p.lpe).adm.stage = .evidence) (hoff : (Adm.read body).offset = (s.blk.lpe p.lpe).adm.peerReport.length)
    (htot : (Adm.read body).total ≤ maxReport) (hall : (Adm.read body).total ≤ (Adm.read body).offset + (Adm.read body).bodyLen)
    (hent : s.blk.boot.entropyDown = false) :
    ∃ t, exec (.evidence p v) s = .next t ∧ t.mem = s.mem ∧ t.blk.keys = s.blk.keys ∧
      match readReport s.blk.akoirno
          ((s.blk.lpe p.lpe).adm.peerReport ++ (Adm.read body).body.take (Adm.read body).bodyLen) with
      | none => (t.blk.lpe p.lpe).adm = { rejects := (s.blk.lpe p.lpe).adm.rejects + 1, rejected := true }
      | some r =>
        if (s.blk.peerRefusal (s.blk.lpe p.lpe).adm r v.pathOk).isSome then
          (t.blk.lpe p.lpe).adm = { rejects := (s.blk.lpe p.lpe).adm.rejects + 1, rejected := true }
        else
          (t.blk.lpe p.lpe).adm.stage = .kem ∧ (t.blk.lpe p.lpe).adm.partner = some r ∧ t.blk.fresh = s.blk.fresh + 1 := by
  have hans := evidenceJudged v hp hst hoff htot hall
  generalize hx : (Adm.read body).body.take (Adm.read body).bodyLen = x at hans ⊢
  have hadm := (s.linkAfter p).evidenced_adm p.lpe x
  rw [hp.adm] at hadm
  have hkeys : ((s.linkAfter p).evidenced p.lpe x).keys = s.blk.keys := hp.keys
  have hroots : ((s.linkAfter p).evidenced p.lpe x).akoirno = s.blk.akoirno :=
    congrArg (fun t => ({ s.blk with boot := t } : Block).akoirno) hp.boot
  have hread : readReport ((s.linkAfter p).evidenced p.lpe x).akoirno (((s.linkAfter p).evidenced p.lpe x).lpe p.lpe).adm.peerReport =
      readReport s.blk.akoirno ((s.blk.lpe p.lpe).adm.peerReport ++ x) := by rw [hroots, hadm]
  have hcheck (r : PeerReport) : ((s.linkAfter p).evidenced p.lpe x).peerRefusal (((s.linkAfter p).evidenced p.lpe x).lpe p.lpe).adm r
      v.pathOk = s.blk.peerRefusal (s.blk.lpe p.lpe).adm r v.pathOk := by
    rw [hadm]
    exact congrArg (fun t => ({ s.blk with boot := t } : Block).peerRefusal (s.blk.lpe p.lpe).adm r v.pathOk) hp.boot
  refine ⟨_, hans, State.withBlock_mem .., ?_⟩
  rw [State.withBlock_blk, Block.payLpe_adm, Block.payLpe_keys, Block.payLpe_fresh]
  split
  · next hr =>
    obtain ⟨hk, ha⟩ := Block.judgeReport_malformed (v := v) (hread.trans hr)
    rw [hadm] at ha
    exact ⟨hk.trans hkeys, ha⟩
  · next r hr =>
    split
    · next hbad =>
      obtain ⟨hk, ha⟩ := Block.judgeReport_refused (v := v) (hread.trans hr) (by rw [hcheck]; exact hbad)
      rw [hadm] at ha
      exact ⟨hk.trans hkeys, ha⟩
    · next hok =>
      have hent' : ((s.linkAfter p).evidenced p.lpe x).boot.entropyDown = false := (congrArg Boot.entropyDown hp.boot).trans hent
      rw [Block.judgeReport_accepted (hread.trans hr) (by rw [hcheck]; exact Bool.eq_false_iff.mpr hok)]
      obtain ⟨hk, hstage, hpartner, hfresh⟩ := Block.sendKem_fields _ p.lpe r hent'
      exact ⟨hk.trans hkeys, hstage, hpartner, hfresh.trans (congrArg (· + 1) hp.fresh)⟩

theorem kemCompletes {d : Admission} (hp : AdmissionPasses msgKem s p h body) (hst : (s.blk.lpe p.lpe).adm.stage = .kem)
    (hd : d = { (s.blk.lpe p.lpe).adm with
      stage := .finish, peerKem := body, peerSecret := mlkemDecap (s.blk.material 5) ((Adm.read body).body.take 1568) }) :
    ∃ t, exec (.kem p) s = .next t ∧ t.mem = s.mem ∧
      (t.blk.lpe p.lpe).adm = { d with linkKey := some (d.key d.hash), transcript := d.hash, finishSent := true } ∧
      t.blk.keys = s.blk.keys := by
  have hans := admissionMessages.2.2.2.2.1 s p h body hp (by dsimp only; rw [hp.adm]; exact hst)
  have hmat : (s.linkAfter p).material 5 = s.blk.material 5 :=
    congrArg (fun k => ({ s.blk with keys := k } : Block).material 5) hp.keys
  dsimp only at hans
  rw [hp.adm, hmat] at hans
  have hans' : Answers (.kem p) s (((s.linkAfter p).finishSent p.lpe d).payLpe p.lpe) := by
    rw [hd]
    exact hans
  obtain ⟨hadm, hkeys⟩ := (s.linkAfter p).finishSent_fields p.lpe d
  refine ⟨_, hans', State.withBlock_mem .., ?_⟩
  rw [State.withBlock_blk, Block.payLpe_adm, Block.payLpe_keys, hadm, hkeys]
  exact ⟨rfl, hp.keys⟩

theorem finishCompletes (hp : AdmissionPasses msgFinish s p h body) (hst : (s.blk.lpe p.lpe).adm.stage = .finish)
    (hbody : (Adm.read body).body.take 48 = (s.blk.lpe p.lpe).adm.transcript) (hzero : allZero ((Adm.read body).body.drop 48) = true) :
    ∃ t, exec (.finish p) s = .next t ∧ t.mem = s.mem ∧ (t.blk.lpe p.lpe).admitted = true ∧
      (t.blk.lpe p.lpe).adm.linkKey = (s.blk.lpe p.lpe).adm.linkKey ∧ t.blk.keys = s.blk.keys := by
  have hans := admissionMessages.2.2.2.2.2 s p h body hp (by dsimp only; rw [hp.adm]; exact ⟨hst, hbody, hzero⟩)
  have hans' : Answers (.finish p) s (((s.linkAfter p).admitNow p.lpe).payLpe p.lpe) := hans
  obtain ⟨hadm, hkeys⟩ := (s.linkAfter p).admitNow_fields p.lpe
  refine ⟨_, hans', State.withBlock_mem .., ?_⟩
  rw [State.withBlock_blk, Lpe.admitted, Block.payLpe_adm, Block.payLpe_keys, hadm, hkeys, hp.adm]
  exact ⟨rfl, rfl, hp.keys⟩

theorem admissionCompletes : Parts.AdmissionCompletes := by
  intro s p h body
  exact ⟨helloCompletes, deferredCompletes, fun v hp hst hoff htot =>
      ⟨evidencePieceCompletes v hp hst hoff htot, evidenceCompletes v hp hst hoff htot⟩,
    fun d => kemCompletes, finishCompletes⟩

/-! ## Membership completes -/

theorem readyCompletes {m : Manifest} (hp : AdmissionPasses msgReady s p h body) (hadm : (s.blk.lpe p.lpe).admitted = true)
    (hm : s.blk.domain.manifest = some m) (hst : s.blk.domain.state = .member)
    (hhead : slice (Adm.read body).body 0 56 = m.head) (hkcv : slice (Adm.read body).body 56 8 = s.blk.kcv)
    (hnz : allZero s.blk.kcv = false) :
    ∃ t, exec (.ready p) s = .next t ∧ t.mem = s.mem ∧ (t.blk.lpe p.lpe).member = true ∧
      (t.blk.lpe p.lpe).adm.ready = (Adm.read body).body ∧ t.blk.keys = s.blk.keys ∧ t.blk.domain = s.blk.domain := by
  have hadm' : ((s.linkAfter p).lpe p.lpe).admitted = true := (hp.1.keepsLpe p.lpe Lpe.admitted fun _ => rfl).trans hadm
  have hans := membershipMessages.1 s p h body hp hadm'
  have hlpe := (s.linkAfter p).modLpe_lpe p.lpe fun l => { l with adm := { l.adm with ready := (Adm.read body).body } }
  have hlen : (Adm.read body).body.length = 64 := by
    have hbody : (Adm.read body).bodyLen = 64 := by
      rw [Adm.bodyLen, hp.2.2.2]
      rfl
    rw [Adm.ok_length hp.2.1, hbody]
    rfl
  have hkcv' : (s.linkAfter p).kcv = s.blk.kcv := congrArg (fun k => ({ s.blk with keys := k } : Block).kcv) hp.keys
  have hjudge := Block.judgeReady_member
    (b := (s.linkAfter p).modLpe p.lpe fun l => { l with adm := { l.adm with ready := (Adm.read body).body } }) (n := p.lpe)
    ((congrArg Domain.manifest hp.domain).trans hm) (by rw [hlpe]; exact hadm') (by rw [hlpe]; exact hlen) (by rw [hlpe]; exact hhead)
    ((congrArg Domain.state hp.domain).trans hst) (by rw [hlpe]; exact hkcv.trans hkcv'.symm)
    ((congrArg allZero hkcv').trans hnz)
  dsimp only at hans
  rw [hjudge] at hans
  refine ⟨_, hans, State.withBlock_mem .., ?_⟩
  rw [State.withBlock_blk, Block.payLpe_adm, Block.payLpe_member, Block.payLpe_keys, Block.payLpe_domain,
    Block.setMember_lpe, Block.setMember_keys, Block.setMember_domain, hlpe]
  exact ⟨rfl, rfl, hp.keys, hp.domain⟩

theorem credCompletes {m : Manifest} (hp : AdmissionPasses msgCred s p h body) (hm : s.blk.domain.manifest = some m)
    (hst : s.blk.domain.state = .waiting) (hadm : (s.blk.lpe p.lpe).admitted = true)
    (hhead : slice (Adm.read body).body 0 56 = m.head) (hacc : (s.blk.lpe p.lpe).adm.partner.any m.accepts = true)
    (hslot : (s.blk.slot 16).reusable = true) :
    ∃ t, exec (.cred p) s = .next t ∧ t.mem = s.mem ∧ t.blk.domain.state = .member ∧ t.blk.domain.credSeen = true ∧
      t.blk.time.joined = true ∧ (t.blk.slot 16).isEmpty = false ∧ (t.blk.slot 16).gen = (s.blk.slot 16).gen ∧
      ∀ n, n ≠ 16 → t.blk.slot n = s.blk.slot n := by
  have hadm' : ((s.linkAfter p).lpe p.lpe).admitted = true := (hp.1.keepsLpe p.lpe Lpe.admitted fun _ => rfl).trans hadm
  have hans := membershipMessages.2.1 m s p h body hp
    ⟨(congrArg Domain.manifest hp.domain).trans hm, (congrArg Domain.state hp.domain).trans hst, hadm', hhead, by rw [hp.adm]; exact hacc⟩
  have hslots (n : Nat) : (s.linkAfter p).slot n = s.blk.slot n := congrArg (fun k => Tab.getD (KeyStore.slots k) n {}) hp.keys
  have hans' : Answers (.cred p) s (((s.linkAfter p).credited (slice (Adm.read body).body 56 32)).payLpe p.lpe) := hans
  have hstand := (s.linkAfter p).credited_standing (slice (Adm.read body).body 56 32)
    ((congrArg KeySlot.reusable (hslots 16)).trans hslot)
  generalize (s.linkAfter p).credited (slice (Adm.read body).body 56 32) = b at hans' hstand
  have hpay := (Block.Ships.payLpe b p.lpe).keeps Block.standing fun _ => rfl
  simp only [Block.standing, Prod.mk.injEq] at hpay hstand
  obtain ⟨hpk, hps, hpc, hpj⟩ := hpay
  obtain ⟨hk, hs, hc, hj⟩ := hstand
  have hread (n : Nat) := congrArg (fun k => Tab.getD (KeyStore.slots k) n {}) (hpk.trans hk)
  obtain ⟨hattr, hgen, hother⟩ := (s.linkAfter p).writeSlot_slot 16 (slice (Adm.read body).body 56 32) 0x80
    (makeAttr (useW + useV) 2 1 false false false) 0 0 6 ((s.linkAfter p).slot 6).gen 0 true
  refine ⟨_, hans', State.withBlock_mem .., hps.trans hs, hpc.trans hc, hpj.trans hj, ?_, ?_, fun n hn => ?_⟩
  · exact KeySlot.isEmpty_of_attr ((congrArg KeySlot.attr (hread 16)).trans hattr)
  · exact (congrArg KeySlot.gen (hread 16)).trans (hgen.trans (congrArg KeySlot.gen (hslots 16)))
  · exact (hread n).trans ((hother n hn).trans (hslots n))

theorem membershipCompletes : Parts.MembershipCompletes := by
  intro s p h body
  refine ⟨fun m => readyCompletes, fun m => credCompletes, fun hp hmay => ?_, fun hp => ?_⟩
  · have hmay' : (s.linkAfter p).mayAdmit = true := (hp.1.keeps Block.mayAdmit fun _ => rfl).trans hmay
    have hans := membershipMessages.2.2.1 s p h body hp hmay'
    refine ⟨_, hans, State.withBlock_mem .., ?_⟩
    rw [State.withBlock_blk, Block.payLpe_adm, Block.payLpe_member, Block.payLpe_keys, Block.payLpe_events,
      Block.rejectPort_events, Block.rejectPort_lpe, Block.rejectPort_keys, hp.adm, hp.keys,
      hp.1.keeps (fun b => b.obs.events) fun _ => rfl]
    exact ⟨rfl, rfl, rfl, rfl⟩
  · have hans := membershipMessages.2.2.2 s p h body hp trivial
    refine ⟨_, hans, State.withBlock_mem .., ?_⟩
    rw [State.withBlock_blk, Block.payLpe_adm, Block.payLpe_member, Block.payLpe_keys, Block.payLpe_domain,
      Block.setMember_lpe, Block.setMember_keys, Block.setMember_domain, Block.modLpe_lpe, hp.adm]
    exact ⟨rfl, rfl, hp.keys, hp.domain⟩

/-- Settles O55: the nine messages, each by its row's effect and what the credits paid after it leave. -/
theorem admissionRows : Obligations.AdmissionRows :=
  ⟨admissionMessages, admissionCompletes, membershipMessages, membershipCompletes⟩

end Rows

/-! ## Links, retries and domains -/

theorem linksAndRetries : Parts.LinksAndRetries := by
  intro s n
  refine ⟨fun hp hup => ?_, fun hp => ?_, fun hb => ⟨fun hst hadm => ?_, fun hd => ?_, fun hr => ?_⟩, fun hst hseed hcred hports hent => ?_⟩
  · have hup' : ¬ (s.blk.begin.lpe n).up = true := Bool.eq_false_iff.mp hup
    change execLphyUpRise n s = _
    rw [execLphyUpRise, atPort_open _ hp.1 hp.2, onBlock_eq, if_neg hup']
    rfl
  · have hans : Answers (.lphyUpFall n) s ((s.blk.begin.modLpe n fun l => { l with up := false }).abandon n) := by
      change execLphyUpFall n s = _
      rw [execLphyUpFall, atPort_open _ hp.1 hp.2, onBlock_eq]
      rfl
    have hlpe := ((s.blk.begin.modLpe n fun l => { l with up := false }).abandon_lpe n).trans
      (congrArg (fun l : Lpe => { l with adm := { rejects := l.adm.rejects }, member := false, partnerHops := 0xFF, offsets := [] })
        (s.blk.begin.modLpe_lpe n fun l => { l with up := false }))
    refine ⟨_, hans, State.withBlock_mem .., ?_⟩
    rw [State.withBlock_blk, hlpe]
    exact ⟨rfl, rfl, rfl, rfl, rfl, fun m hm => (Block.abandon_lpe_other _ n hm).trans (Block.modLpe_lpe_other _ _ hm), rfl⟩
  · have hgo : ¬ (decide ((s.blk.begin.lpe n).adm.stage = .idle) || (s.blk.begin.lpe n).admitted) = true := by
      rw [show (s.blk.begin.lpe n).admitted = false from hadm, Bool.or_false, decide_eq_true_eq]
      exact hst
    have hans : Answers (.admissionTimeout n) s (s.blk.begin.abandon n) := by
      change execAdmissionTimeout n s = _
      rw [execAdmissionTimeout, behindPort_open _ hb, onBlock_eq, if_neg hgo]
      rfl
    refine ⟨_, hans, State.withBlock_mem .., ?_⟩
    rw [State.withBlock_blk, Block.abandon_lpe]
    exact ⟨rfl, rfl, rfl⟩
  · change execDeferredRetry n s = _
    rw [execDeferredRetry, behindPort_open _ hb, onBlock_eq]
    exact congrArg (fun b => Host.Outcome.next (s.withBlock b)) (if_pos hd)
  · change execRejectRetry n s = _
    rw [execRejectRetry, behindPort_open _ hb, onBlock_eq]
    exact congrArg (fun b => Host.Outcome.next (s.withBlock b)) (if_pos hr)
  · have hgo : (decide (s.blk.begin.domain.state = .waiting) && s.blk.begin.domain.seed && !s.blk.begin.domain.credSeen &&
        s.blk.begin.portsSettled && !s.blk.begin.boot.entropyDown) = true := by
      rw [show s.blk.begin.domain = s.blk.domain from rfl, show s.blk.begin.portsSettled = s.blk.portsSettled from rfl,
        show s.blk.begin.boot = s.blk.boot from rfl, hst, hseed, hcred, hports, hent]
      rfl
    exact congrArg (fun b => Host.Outcome.next (s.withBlock b)) (if_pos hgo)

theorem domainLoads {s : State} {fn : Nat} {len : BitVec 19} {x : Bytes} {m : Manifest} (hp : PortOpen .hcp s)
    (hup : s.blk.boot.seqReset = false) (hreach : s.blk.reach fn 0x1008 true = true) (hst : s.blk.domain.state = .none)
    (hlc : s.blk.boot.lc.serves = true) (hdbg : s.blk.boot.debugOpen = false) (hm : readManifest x len.toNat s.blk.devid = some m) :
    Answers (.domainLoad fn len (.data x)) s
      (((({ s.blk.begin with domain := { s.blk.domain with len := len } } : Block).hostFetch 0 s.blk.domain.src.toNat
        len.toNat).holdManifest m).emit (.hcpT 0 false)) := by
  have hload := Block.loadManifest_holds (b := ({ s.blk.begin with domain := { s.blk.domain with len := len } } : Block))
    (len := len.toNat) (x := x) hst hlc hdbg hm
  have hopen : ¬ (s.blk.boot.seqReset && !s.blk.pins.blockSafe) = true := by simp [hup]
  change execDomainLoad fn len (.data x) s = _
  rw [execDomainLoad, atDomain, if_neg hopen, atRegister_passes hp hreach]
  exact congrArg (fun b => Host.Outcome.next (s.withBlock (b.emit (.hcpT 0 false)))) hload

theorem domainsAreJoinedAndLeft : Parts.DomainsAreJoinedAndLeft := by
  refine ⟨fun s fn len x m hp hup hreach hst hlc hdbg hm => ?_, fun s fn acc hp hup hreach hst => ?_⟩
  · have hans := domainLoads hp hup hreach hst hlc hdbg hm
    have hfetch := Block.emits_frame ({ s.blk.begin with domain := { s.blk.domain with len := len } } : Block)
      ((List.range (ceilDiv len.toNat hcpMax)).map fun i =>
        .hcpRead 0 (BitVec.ofNat 64 (s.blk.domain.src.toNat + hcpMax * i)) (min hcpMax (len.toNat - hcpMax * i))
          ((s.blk.seq.reads.lowest hcpTags).getD (hcpTags - 1)))
    have hhold := Block.holdManifest_fields (({ s.blk.begin with domain := { s.blk.domain with len := len } } : Block).hostFetch 0
      s.blk.domain.src.toNat len.toNat) m
    generalize hb : (({ s.blk.begin with domain := { s.blk.domain with len := len } } : Block).hostFetch 0
      s.blk.domain.src.toNat len.toNat) = b at hans hhold
    have hcore : b.core = ({ s.blk.begin with domain := { s.blk.domain with len := len } } : Block).core := by
      rw [← hb]
      exact hfetch.1
    have hdev : b.devid = s.blk.devid := Block.keeps_of_core hcore Block.devid fun _ => rfl
    obtain ⟨hdom, hboot, hkeys⟩ := hhold
    rw [hdev] at hdom hboot
    refine ⟨_, hans, State.withBlock_mem .., ?_⟩
    rw [State.withBlock_blk, show ∀ (c : Block) (x : Cross), (c.emit x).domain = c.domain from fun c x => (congrArg Block.domain (c.emit_core x) :),
      show ∀ (c : Block) (x : Cross), (c.emit x).boot = c.boot from fun c x => (congrArg Block.boot (c.emit_core x) :),
      show ∀ (c : Block) (x : Cross), (c.emit x).keys = c.keys from fun c x => (congrArg Block.keys (c.emit_core x) :), hdom, hboot, hkeys]
    exact ⟨rfl, rfl, rfl, rfl, rfl, rfl, rfl, (congrArg Block.keys hcore :)⟩
  · have hopen : ¬ (s.blk.boot.seqReset && !s.blk.pins.blockSafe) = true := by simp [hup]
    have hreach' : s.work.blk.reach fn 0x1008 true = true := hreach
    have hst' : ¬ s.work.blk.domain.state = .none := hst
    have hans : AnswersWork (.domainLeave fn acc) s
        (((s.work.tearJobs acc openDead (Tab.keys s.work.blk.jobs)).on Block.dropDomain).on fun b => b.emit (.hcpT 0 false)) := by
      change execDomainLeave fn acc s = _
      rw [execDomainLeave, atDomain, if_neg hopen, atRegisterMem, atPort_open _ hp.1 hp.2]
      refine onMemory_done ?_
      rw [if_pos hreach', Work.leaveDomain, if_neg hst']
    obtain ⟨hdom, hman, hass, hslot, hmem⟩ := (s.work.tearJobs acc openDead (Tab.keys s.work.blk.jobs)).blk.dropDomain_fields
    generalize hb : (s.work.tearJobs acc openDead (Tab.keys s.work.blk.jobs)).blk.dropDomain = b at hdom hman hass hslot hmem
    have hcore : ((((s.work.tearJobs acc openDead (Tab.keys s.work.blk.jobs)).on Block.dropDomain).on fun b =>
        b.emit (.hcpT 0 false)).blk).core = b.core := by
      rw [← hb]
      exact Block.emit_core _ _
    refine ⟨_, hans, (congrArg (fun c => (Block.domain c).state) hcore :).trans hdom,
      (congrArg (fun c => (Block.domain c).manifest) hcore :).trans hman,
      (congrArg (fun c => (Block.boot c).assigned) hcore :).trans hass,
      (congrArg (fun c => (Block.slot c 16).isEmpty) hcore :).trans hslot, ?_⟩
    exact Eq.mp (congrArg (fun l : Tab Lpe => ∀ e ∈ l, e.2.member = false) (congrArg Block.lpes hcore :).symm) hmem

/-- Settles O56. -/
theorem linksAndDomains : Obligations.LinksAndDomains := ⟨linksAndRetries, domainsAreJoinedAndLeft⟩

end Sys2Proof.Proofs
end

section
/-! Loss and warning of power, kindling, and the last rung of the ladder (R61 to R63, R73, R443 to R449, R475). -/

namespace Sys2Proof.Machine

open Sys2Proof Sys2Proof.Machine.Crypto

/-! ## A cut root (R112) -/

/-- What passes no check is kept, and what would pass it is not taken. -/
theorem keptUnlessOk {α β : Type} {p : α → β → Bool} {r r' : α} {c c' : β} (h : p r c = false) :
    p (if p r' c' then (r, c) else (r', c')).1 (if p r' c' then (r, c) else (r', c')).2 = false := by
  cases hp : p r' c' <;> simp [hp, h]

/-- A bank that a loss of power cut short does not hold a root. -/
theorem cutBank_bad {root : BitVec 512} {check : BitVec 64} (bank n : Nat) (h : bankOk root check bank = false) :
    bankOk (cutBank root check bank n).1 (cutBank root check bank n).2 bank = false := by
  unfold cutBank
  exact keptUnlessOk (p := fun r c => bankOk r c bank) h

theorem Otp.root_isNone_iff (o : Otp) : o.root = none ↔ bankOk o.rootA o.checkA 0 = false ∧ bankOk o.rootB o.checkB 1 = false := by
  unfold Otp.root
  cases bankOk o.rootA o.checkA 0 <;> cases bankOk o.rootB o.checkB 1 <;> simp

theorem Otp.emptyA_iff (o : Otp) : o.emptyA = true ↔ o.rootA = 0 ∧ o.checkA = 0 := by simp [Otp.emptyA]
theorem Otp.emptyB_iff (o : Otp) : o.emptyB = true ↔ o.rootB = 0 ∧ o.checkB = 0 := by simp [Otp.emptyB]

section Cuts

variable {o : Otp} {x : BitVec 512 × BitVec 64}

/-- OTP with other contents in bank A. -/
def Otp.setA (o : Otp) (x : BitVec 512 × BitVec 64) : Otp := { o with rootA := x.1, checkA := x.2 }

/-- OTP with other contents in bank B. -/
def Otp.setB (o : Otp) (x : BitVec 512 × BitVec 64) : Otp := { o with rootB := x.1, checkB := x.2 }

theorem Otp.setA_root (hA : bankOk x.1 x.2 0 = false) (hB : bankOk o.rootB o.checkB 1 = false) : (o.setA x).root = none :=
  (o.setA x).root_isNone_iff.mpr ⟨hA, hB⟩

theorem Otp.setB_root (hA : bankOk o.rootA o.checkA 0 = false) (hB : bankOk x.1 x.2 1 = false) : (o.setB x).root = none :=
  (o.setB x).root_isNone_iff.mpr ⟨hA, hB⟩

end Cuts

section Shut

variable (b : Block)

/-- A loss of power can leave the root banks changed and draws a value, and leaves no root where one was due. -/
theorem Block.cutRoot_cases : ∃ o f, b.cutRoot = { b with otp := o, fresh := f } ∧ (b.rootDue = false → o = b.otp) ∧
    (b.rootDue = true → o.root = none) := by
  unfold Block.cutRoot
  cases hdue : b.rootDue with
  | false => exact ⟨b.otp, b.fresh, rfl, fun _ => rfl, nofun⟩
  | true =>
    have hnone : b.otp.root = none := by
      unfold Block.rootDue at hdue
      exact Option.isNone_iff_eq_none.mp (Bool.and_eq_true_iff.mp hdue).2
    obtain ⟨hA, hB⟩ := b.otp.root_isNone_iff.mp hnone
    rw [if_neg (show ¬ (!true) = true by decide)]
    split
    · next hempty =>
      obtain ⟨hr, hc⟩ := b.otp.emptyA_iff.mp hempty
      rw [hr, hc] at hA
      exact ⟨b.otp.setA (cutBank 0 0 0 b.fresh), b.fresh + 1, rfl, nofun, fun _ => Otp.setA_root (cutBank_bad 0 b.fresh hA) hB⟩
    · split
      · next hempty =>
        obtain ⟨hr, hc⟩ := b.otp.emptyB_iff.mp hempty
        rw [hr, hc] at hB
        exact ⟨b.otp.setB (cutBank 0 0 1 b.fresh), b.fresh + 1, rfl, nofun, fun _ => Otp.setB_root hA (cutBank_bad 1 b.fresh hB)⟩
      · exact ⟨b.otp, b.fresh, rfl, nofun, fun _ => hnone⟩

/-! ## The records of a shut-down (R447) -/

/-- Relayed operations leave what a shut-down keeps but for the relay: OTP, the store, the pins and the tick. -/
theorem Block.relay_kept (w : RelayFor) : (b.relay w).otp = b.otp ∧ (b.relay w).store = b.store ∧ (b.relay w).pins = b.pins := by
  have h := b.relay_vault w
  exact ⟨(congrArg Block.otp h :), (congrArg Block.store h :), (congrArg Block.pins h :)⟩

theorem Block.flushMeters_kept (l : List Nat) :
    (b.flushMeters l).otp = b.otp ∧ (b.flushMeters l).store = b.store ∧ (b.flushMeters l).pins = b.pins := by
  induction l generalizing b with
  | nil => exact ⟨rfl, rfl, rfl⟩
  | cons k r ih =>
    obtain ⟨ho, hs, hp⟩ := ih (b.relay (.meter k (b.exactRecord k)))
    obtain ⟨ko, ks, kp⟩ := b.relay_kept (.meter k (b.exactRecord k))
    exact ⟨ho.trans ko, hs.trans ks, hp.trans kp⟩

/-- A relayed operation joins the relay at its end. -/
theorem Block.relay_last (w : RelayFor) : ∃ r, (b.relay w).seq.relays.getLast? = some r ∧ r.what = w := by
  unfold Block.relay
  exact ⟨_, List.getLast?_concat .., rfl⟩

/-- The block with the records of a shut-down on their way. -/
def Block.recorded (b : Block) : Block :=
  if b.boot.storeOk then
    (b.flushMeters b.slackest).relay (.boot { running := false, meterEpoch := b.boot.meterEpoch, tick := b.tick })
  else b

theorem Block.recorded_kept : b.recorded.otp = b.otp ∧ b.recorded.store = b.store ∧ b.recorded.pins = b.pins := by
  unfold Block.recorded
  split
  · obtain ⟨ho, hs, hp⟩ := (b.flushMeters b.slackest).relay_kept
      (.boot { running := false, meterEpoch := b.boot.meterEpoch, tick := b.tick })
    obtain ⟨ko, ks, kp⟩ := b.flushMeters_kept b.slackest
    exact ⟨ho.trans ko, hs.trans ks, hp.trans kp⟩
  · exact ⟨rfl, rfl, rfl⟩

theorem Block.kxpClear_kept : b.kxpClear.core = b.core ∧ b.kxpClear.seq = b.seq := by
  obtain ⟨hcore, hseq, -⟩ := b.emits_frame ((List.range 4).map fun d => .kxp d 2 0 0 0)
  exact ⟨hcore, hseq⟩

/-- A cold block with other pins. -/
def Block.coldUnder (b : Block) (p : Pins) : Block := { b.cold with pins := p }

/-- What is volatile is gone. -/
theorem Block.coldUnder_fields (p : Pins) : (b.coldUnder p).keys = {} ∧ (b.coldUnder p).ctxs = [] ∧ (b.coldUnder p).regions = {} ∧
    (b.coldUnder p).mces = [] ∧ (b.coldUnder p).lpes = [] ∧ (b.coldUnder p).seq.cmds = [] ∧ (b.coldUnder p).boot = {} :=
  ⟨rfl, rfl, rfl, rfl, rfl, rfl, rfl⟩

theorem Block.startKindling_fields : b.startKindling.otp = b.otp ∧ b.startKindling.store = b.store ∧ b.startKindling.keys = {} ∧
    b.startKindling.ctxs = [] ∧ b.startKindling.boot = { running := true } ∧ b.startKindling.pins.blockSafe = false ∧
    b.startKindling.time = {} ∧ b.startKindling.seq.cmds = [] := ⟨rfl, rfl, rfl, rfl, rfl, rfl, rfl, rfl⟩

theorem Block.shutDown_cold : ∃ c p, b.shutDown = Block.coldUnder c p := ⟨_, _, rfl⟩

/-- A block that has lost everything volatile without a shut-down. -/
def Block.lost (b : Block) (p : Pins) : Block :=
  { b.cold with time := {}, held := b.held.filter Cross.auxiliary, seq := { b.cold.seq with writes := [], reads := [] }, pins := p }

theorem Block.lost_held (p : Pins) : ∀ c ∈ (b.lost p).held, c.shell = .mgmt := fun _ hc => of_decide_eq_true (List.mem_filter.mp hc).2

theorem Block.lost_fields (p : Pins) : (b.lost p).otp = b.otp ∧ (b.lost p).seq.writes = [] ∧ (b.lost p).seq.reads = [] ∧
    (b.lost p).store = b.store ∧ (b.lost p).build = b.build ∧ (b.lost p).keys = {} ∧ (b.lost p).ctxs = [] ∧
    (b.lost p).regions = {} ∧ (b.lost p).mces = [] ∧ (b.lost p).lpes = [] ∧ (b.lost p).jobs = [] ∧ (b.lost p).programs = [] ∧
    (b.lost p).seq.cmds = [] ∧ (b.lost p).time = {} ∧ (b.lost p).boot = {} ∧ (b.lost p).pins = p :=
  ⟨rfl, rfl, rfl, rfl, rfl, rfl, rfl, rfl, rfl, rfl, rfl, rfl, rfl, rfl, rfl, rfl⟩

theorem Block.lose_lost (p : Pins) : ({ b.lose with pins := p } : Block) = b.cutRoot.lost p := rfl

/-- A relayed operation that nothing waits for any more. -/
def Relay.dead (r : Relay) : Relay := { r with live := false }

/-- The last step of a shut-down: every destination drops all, and everything volatile is zeroised. -/
def Block.zeroised (b : Block) : Block := { b.kxpClear.cold with pins := { b.kxpClear.cold.pins with blockSafe := true } }

theorem Block.zeroised_fields : b.zeroised.otp = b.otp ∧ b.zeroised.store = b.store ∧
    b.zeroised.pins = { b.pins with blockSafe := true } ∧
    b.zeroised.seq.relays = b.seq.relays.map Relay.dead := by
  obtain ⟨hcore, hseq⟩ := b.kxpClear_kept
  exact ⟨(congrArg Block.otp hcore :), (congrArg Block.store hcore :),
    congrArg (fun p : Pins => { p with blockSafe := true }) (congrArg Block.pins hcore :),
    congrArg (fun q : Sequencer => q.relays.map Relay.dead) hseq⟩

theorem Block.shutDown_eq : b.shutDown = b.cutRoot.recorded.zeroised := rfl

/-- The records of a shut-down end with CLEAN. -/
theorem Block.recorded_last (h : b.boot.storeOk = true) : ∃ r, b.recorded.seq.relays.getLast? = some r ∧
    r.what = .boot { running := false, meterEpoch := b.boot.meterEpoch, tick := b.tick } := by
  unfold Block.recorded
  rw [h, if_pos rfl]
  exact Block.relay_last _ _

/-- What a shut-down leaves: OTP but for a cut root, the store, the pins, and the relay with CLEAN last. -/
theorem Block.shutDown_fields :
    (b.rootDue = false → b.shutDown.otp = b.otp) ∧ b.shutDown.store = b.store ∧
      b.shutDown.pins = { b.pins with blockSafe := true } ∧ (∀ r ∈ b.shutDown.seq.relays, r.live = false) ∧
      (b.boot.storeOk = true → ∃ r, b.shutDown.seq.relays.getLast? = some r ∧
        r.what = .boot { running := false, meterEpoch := b.boot.meterEpoch, tick := b.tick }) := by
  obtain ⟨o, f, hcut, hotp, -⟩ := b.cutRoot_cases
  have hlast := ({ b with otp := o, fresh := f } : Block).recorded_last
  obtain ⟨ho, hs, hp⟩ := ({ b with otp := o, fresh := f } : Block).recorded_kept
  rw [Block.shutDown_eq, hcut]
  generalize ({ b with otp := o, fresh := f } : Block).recorded = x at hlast ho hs hp
  obtain ⟨zo, zs, zp, zr⟩ := x.zeroised_fields
  rw [zo, zs, zp, zr, ho, hs, hp]
  refine ⟨hotp, rfl, rfl, fun r hr => ?_, fun hst => ?_⟩
  · obtain ⟨y, -, rfl⟩ := List.mem_map.mp hr
    rfl
  · obtain ⟨r, hr, hwhat⟩ := hlast hst
    refine ⟨r.dead, ?_, hwhat⟩
    rw [List.getLast?_map, hr]
    rfl

end Shut

/-! ## Steps of kindling (R443, R444) -/

/-- The patch slots as a report shows them. -/
def flashSlots (r : StepReport) : SlotName → FlashRead
  | .a => r.slotA
  | .b => r.slotB

section Steps

variable (b : Block)

theorem Block.relay_boot (w : RelayFor) : ∃ n, (b.relay w).boot = { b.boot with drbgRequests := n } := by
  have hemit (b : Block) (c : Cross) : (b.emit c).boot = b.boot := (congrArg Block.boot (b.emit_core c) :)
  unfold Block.relay
  dsimp only
  split
  · exact ⟨b.boot.drbgRequests, hemit _ _⟩
  · exact ⟨_, hemit _ _⟩

theorem Block.grantMce_boot (e : Nat) : (b.grantMce e).boot = b.boot := by
  unfold Block.grantMce
  exact ((Block.Ships.emitTimes _ _ _).keeps Block.boot fun _ => rfl).trans
    ((Block.Ships.emitTimes _ _ _).keeps Block.boot fun _ => rfl)

theorem Block.grantLpe_boot (n : Nat) : (b.grantLpe n).boot = b.boot := by
  unfold Block.grantLpe
  exact ((Block.Ships.emit _ _).keeps Block.boot fun _ => rfl).trans
    (((Block.Ships.emitTimes _ _ _).keeps Block.boot fun _ => rfl).trans
      ((Block.Ships.emitTimes _ _ _).keeps Block.boot fun _ => rfl))

/-- A field that every step of a fold leaves. -/
theorem Block.foldl_keeps {α : Type} (g : Block → α) {f : Block → Nat → Block} (hf : ∀ b n, g (f b n) = g b) (l : List Nat) :
    g (l.foldl f b) = g b := by
  induction l generalizing b with
  | nil => rfl
  | cons n r ih => exact (ih _).trans (hf b n)

/-- Step 7 sets READY. -/
theorem Block.becomeReady_boot :
    b.becomeReady.boot.step = 7 ∧ b.becomeReady.boot.ready = true ∧ b.becomeReady.boot.running = false := by
  have hgrant := ({ b with boot := { b.boot with step := 7, ready := true, running := false } } : Block).foldl_keeps Block.boot
    Block.grantMce_boot (List.range b.build.mces)
  unfold Block.becomeReady
  dsimp only
  split
  · obtain ⟨n, hn⟩ := Block.relay_boot ((List.range b.build.mces).foldl Block.grantMce
      { b with boot := { b.boot with step := 7, ready := true, running := false } }) .readMeters
    rw [hn, hgrant]
    exact ⟨rfl, rfl, rfl⟩
  · rw [hgrant]
    exact ⟨rfl, rfl, rfl⟩

/-- A message that goes out, or not. -/
theorem Block.unlessEmit_leaves (p : Prop) [Decidable p] (c : Cross) :
    (if p then b else b.emit c).boot = b.boot ∧ (if p then b else b.emit c).otp = b.otp := by
  split
  · exact ⟨rfl, rfl⟩
  · exact ⟨(congrArg Block.boot (b.emit_core c) :), (congrArg Block.otp (b.emit_core c) :)⟩

theorem Block.drawMce_eq (e : Nat) : ∃ f c, b.drawMce e =
    if e < b.build.t0 then b.drewReseeded.drewReseeded.drewReseeded.drew.modMce e f
    else (b.drewReseeded.drewReseeded.drewReseeded.drew.modMce e f).emit c := ⟨_, _, rfl⟩

theorem Block.drawMce_leaves (e : Nat) : (b.drawMce e).boot.lc = b.boot.lc ∧ (b.drawMce e).otp = b.otp := by
  obtain ⟨f, c, heq⟩ := b.drawMce_eq e
  obtain ⟨hboot, hotp⟩ := (b.drewReseeded.drewReseeded.drewReseeded.drew.modMce e f).unlessEmit_leaves (e < b.build.t0) c
  rw [heq]
  have hdrew (c : Block) : c.drew.boot.lc = c.boot.lc := rfl
  have hres (c : Block) : c.drewReseeded.boot.lc = c.boot.lc := rfl
  have hlc : (b.drewReseeded.drewReseeded.drewReseeded.drew.modMce e f).boot.lc = b.boot.lc := by
    rw [show ∀ c : Block, (c.modMce e f).boot.lc = c.boot.lc from fun _ => rfl, hdrew, hres, hres, hres]
  have ho : (b.drewReseeded.drewReseeded.drewReseeded.drew.modMce e f).otp = b.otp := by
    rw [show ∀ c : Block, (c.modMce e f).otp = c.otp from fun _ => rfl, show ∀ c : Block, c.drew.otp = c.otp from fun _ => rfl]
    rfl
  exact ⟨(congrArg Boot.lc hboot).trans hlc, hotp.trans ho⟩

theorem Block.makeRoot_leaves : b.makeRoot.boot.lc = b.boot.lc ∧ (b.otp.root.isSome = true → b.makeRoot.otp = b.otp) := by
  unfold Block.makeRoot
  dsimp only
  split
  · exact ⟨rfl, fun _ => rfl⟩
  · next h =>
    have hno : ¬ b.otp.root.isSome = true := fun hs => h (by rw [hs, Bool.or_true])
    split
    · exact ⟨rfl, fun hs => absurd hs hno⟩
    · split
      · exact ⟨rfl, fun hs => absurd hs hno⟩
      · exact ⟨rfl, fun _ => rfl⟩

theorem Block.drawKeys_leaves : b.drawKeys.boot.lc = b.boot.lc ∧ (b.otp.root.isSome = true → b.drawKeys.otp = b.otp) := by
  obtain ⟨hlc, hotp⟩ := b.makeRoot_leaves
  have hk (b : Block) := b.foldl_keeps (fun b => (b.boot.lc, b.otp)) (f := Block.drawMce)
    fun b e => Prod.ext (b.drawMce_leaves e).1 (b.drawMce_leaves e).2
  unfold Block.drawKeys
  exact ⟨(congrArg Prod.fst (hk _ _)).trans hlc, fun hs => (congrArg Prod.snd (hk _ _)).trans (hotp hs)⟩

theorem Block.wakeUp_fields : b.wakeUp.boot.step = 1 ∧ b.wakeUp.boot.lc = b.otp.lifeCycle ∧ b.wakeUp.time.valid = true ∧
    b.wakeUp.time.tick = 0 ∧ b.wakeUp.otp = b.otp := by
  unfold Block.wakeUp Block.requestRail
  split
  · exact ⟨rfl, rfl, rfl, rfl, rfl⟩
  · have hcore := Block.emit_core (Block.modGov (Block.stepped
      { b with boot := { b.boot with lc := b.otp.lifeCycle }, time := { b.time with valid := true, tick := 0 } } 1) fun g =>
        { g with railReq := some 800 }) (.railReq 800)
    exact ⟨(congrArg (fun b => (Block.boot b).step) hcore :), (congrArg (fun b => (Block.boot b).lc) hcore :),
      (congrArg (fun b => (Block.time b).valid) hcore :), (congrArg (fun b => (Block.time b).tick) hcore :),
      (congrArg Block.otp hcore :)⟩

variable (r : StepReport)

/-- What the report of a step does. -/
def Block.kindled : Block :=
  match b.boot.step with
  | 0 => if r.pass then b.wakeUp else b.stopKindling
  | 1 =>
    if !r.pass then b.entropyRetry
    else ({ b.drawKeys with boot := { b.drawKeys.boot with entropyFails := 0 } } : Block).stepped 2
  | 2 =>
    if !b.boot.lc.serves then
      (if r.pass then ((List.range b.build.lpes).foldl Block.grantLpe b).becomeReady else b.stopKindling)
    else if !r.pass then b.stopKindling
    else
      let b := b.openStore r.store
      b.stepped (if b.boot.storeOk then 3 else 4)
  | 3 => if r.pass then (b.startupCert r.startupCert).stepped 4 else b.stopKindling
  | 4 =>
    if !r.pass then b.stopKindling
    else
      let b := if b.boot.storeOk then b.chooseSlot (flashSlots r) else b.enterRecovery
      ({ b with boot := { b.boot with otpSvn := BitVec.ofNat 16 b.otp.svn } }).stepped 5
  | 5 => if r.pass then b.bringUpLinks r.certs r.rootsOk else b.stopKindling
  | 6 => if r.pass then b.becomeReady else b.stopKindling
  | _ => b

/-- What step n does when it passes. -/
def Block.passed (n : Nat) : Block :=
  match n with
  | 0 => b.wakeUp
  | 1 => ({ b.drawKeys with boot := { b.drawKeys.boot with entropyFails := 0 } } : Block).stepped 2
  | 2 =>
    if b.boot.lc.serves then (b.openStore r.store).stepped (if (b.openStore r.store).boot.storeOk then 3 else 4)
    else ((List.range b.build.lpes).foldl Block.grantLpe b).becomeReady
  | 3 => (b.startupCert r.startupCert).stepped 4
  | 4 =>
    let b := if b.boot.storeOk then b.chooseSlot (flashSlots r) else b.enterRecovery
    ({ b with boot := { b.boot with otpSvn := BitVec.ofNat 16 b.otp.svn } }).stepped 5
  | 5 => b.bringUpLinks r.certs r.rootsOk
  | 6 => b.becomeReady
  | _ => b

theorem Block.kindled_pass {r : StepReport} (h : r.pass = true) : b.kindled r = b.passed r b.boot.step := by
  unfold Block.kindled Block.passed
  simp only [h, Bool.not_true, Bool.false_eq_true, if_false, if_true]
  split
  case h_3 => cases b.boot.lc.serves <;> simp
  all_goals rfl

/-- A step that fails stops kindling, but for step 2, which an entropy failure has tried again. -/
theorem Block.kindled_fail {r : StepReport} (h : r.pass = false) (hn : b.boot.step = 0 ∨ (2 ≤ b.boot.step ∧ b.boot.step ≤ 6)) :
    b.kindled r = b.stopKindling := by
  have hsteps : b.boot.step = 0 ∨ b.boot.step = 2 ∨ b.boot.step = 3 ∨ b.boot.step = 4 ∨ b.boot.step = 5 ∨ b.boot.step = 6 := by omega
  unfold Block.kindled
  rw [h]
  rcases hsteps with hs | hs | hs | hs | hs | hs <;> rw [hs]
  case inr.inl => cases b.boot.lc.serves <;> simp
  all_goals rfl

end Steps

end Sys2Proof.Machine

namespace Sys2Proof.Proofs

open Sys2Proof Sys2Proof.Machine

/-! ## Power -/

theorem powerLossKeepsOnlyWhatLasts : Parts.PowerLossKeepsOnlyWhatLasts := by
  intro s
  obtain ⟨o, f, hcut, hotp, hroot⟩ := s.blk.begin.cutRoot_cases
  have hpor : Answers .porAssert s
      (s.blk.begin.cutRoot.lost { s.blk.pins with porN := false, alarmFatal := false, blockSafe := true }) := rfl
  have hpwr : Answers .pwrGoodFall s (s.blk.begin.cutRoot.lost { s.blk.pins with pwrGood := false, blockSafe := true }) := rfl
  have hfields := ({ s.blk.begin with otp := o, fresh := f } : Block).lost_fields
  have hheld := ({ s.blk.begin with otp := o, fresh := f } : Block).lost_held
  rw [hcut] at hpor hpwr
  refine ⟨⟨_, hpor, State.withBlock_mem .., ?_⟩, ⟨_, hpwr, State.withBlock_mem .., ?_⟩⟩
  · rw [State.withBlock_blk]
    obtain ⟨ho, hw, hr, hs, hb, hk, hc, hrg, hm, hl, hj, hp, hcm, ht, hbt, hpins⟩ :=
      hfields { s.blk.pins with porN := false, alarmFatal := false, blockSafe := true }
    rw [ho, hw, hr, hs, hb, hk, hc, hrg, hm, hl, hj, hp, hcm, ht, hbt, hpins]
    exact ⟨hotp, hroot, hheld _, rfl, rfl, rfl, rfl, rfl, rfl, rfl, rfl, rfl, rfl, rfl, rfl, rfl, rfl, rfl, rfl, rfl, rfl⟩
  · rw [State.withBlock_blk]
    obtain ⟨ho, hw, hr, hs, hb, hk, hc, hrg, hm, hl, hj, hp, hcm, ht, hbt, hpins⟩ :=
      hfields { s.blk.pins with pwrGood := false, blockSafe := true }
    rw [ho, hw, hr, hs, hb, hk, hc, hrg, hm, hl, hj, hp, hcm, ht, hbt, hpins]
    exact ⟨hotp, hroot, hheld _, rfl, rfl, rfl, rfl, rfl, rfl, rfl, rfl, rfl, rfl, rfl, rfl, rfl, rfl, rfl, rfl, rfl, rfl⟩

theorem warningShutsTheBlockDown : Parts.WarningShutsTheBlockDown := by
  intro s hsafe
  have hsafe' : ¬ s.blk.begin.pins.blockSafe = true := Bool.eq_false_iff.mp hsafe
  have hrun (back : Bool) : Answers (.pwrFailWarn back) s
      (if back then s.blk.begin.shutDown.startKindling
        else { s.blk.begin.shutDown with pins := { s.blk.begin.shutDown.pins with warn := true } }) :=
    congrArg (fun b => Host.Outcome.next (s.withBlock b)) (if_neg hsafe')
  have hdown := s.blk.begin.shutDown_fields
  obtain ⟨c, p, hcold⟩ := s.blk.begin.shutDown_cold
  have hgone := c.coldUnder_fields p
  rw [← hcold] at hgone
  generalize s.blk.begin.shutDown = d at hrun hdown hgone
  obtain ⟨hotp, hstore, hpins, hlive, hlast⟩ := hdown
  obtain ⟨hkeys, hctxs, hregions, hmces, hlpes, hcmds, hboot⟩ := hgone
  refine ⟨⟨_, hrun false, State.withBlock_mem .., ?_⟩, ⟨_, hrun true, State.withBlock_mem .., ?_⟩, fun u back hu => ?_⟩
  · rw [State.withBlock_blk, if_neg Bool.false_ne_true]
    exact ⟨hotp, hstore, hkeys, hctxs, hregions, hmces, hlpes, hcmds, hboot, congrArg Pins.blockSafe hpins, rfl, hlive, hlast⟩
  · rw [State.withBlock_blk, if_pos rfl]
    obtain ⟨ho, hs, hrest⟩ := d.startKindling_fields
    rw [ho, hs]
    exact ⟨hotp, hstore, hrest⟩
  · exact congrArg (fun b => Host.Outcome.next (u.withBlock b)) (if_pos hu)

theorem powerCycleRequests : Parts.PowerCycleRequests := by
  intro s
  refine ⟨fun ha hp => ?_, fun hp => ?_, fun b hb => ?_, fun hm => ?_, fun hp => ?_⟩
  · have hgo : (s.blk.begin.pins.alarmFatal && !s.blk.begin.boot.powerCycling) = true := by
      rw [show s.blk.begin.pins.alarmFatal = true from ha, show s.blk.begin.boot.powerCycling = false from hp]
      rfl
    exact congrArg (fun b => Host.Outcome.next (s.withBlock b)) (if_pos hgo)
  · exact congrArg (fun b => Host.Outcome.next (s.withBlock b)) (if_pos hp)
  · unfold Block.message
    rw [Block.emit_running _ _ hb]
    rfl
  · change execPowerCycleAck s = _
    rw [execPowerCycleAck, atPort_open _ rfl hm]
    rfl
  · exact congrArg (fun b => Host.Outcome.next (s.withBlock b)) (if_neg (Bool.eq_false_iff.mp hp))

/-- Settles O49. -/
theorem powerEvents : Obligations.PowerEvents := ⟨powerLossKeepsOnlyWhatLasts, warningShutsTheBlockDown, powerCycleRequests⟩

/-! ## Kindling -/

theorem kindlingStartsCold : Parts.KindlingStartsCold := by
  intro s hpins
  have hgo : ¬ (s.blk.begin.pins.porN && s.blk.begin.pins.pwrGood && !s.blk.begin.pins.warn) = true := by
    simpa using hpins
  have hrun : Answers .kindling s
      (({ s.blk.begin with pins := { s.blk.begin.pins with porN := true, pwrGood := true, warn := false } } : Block).startKindling) :=
    congrArg (fun b => Host.Outcome.next (s.withBlock b)) (if_neg hgo)
  exact ⟨_, hrun, rfl, rfl, rfl, rfl, rfl, rfl, rfl, rfl, rfl, rfl, rfl, rfl, rfl, rfl, rfl, rfl⟩

/-- What a report of a step does while kindling runs. -/
theorem exec_kindlingStepDone {s : State} (r : StepReport) (hrun : s.blk.boot.running = true) (hsafe : s.blk.pins.blockSafe = false) :
    Answers (.kindlingStepDone r) s (s.blk.begin.kindled r) := by
  have hgo : ¬ (!s.blk.begin.boot.running || s.blk.begin.pins.blockSafe) = true := by
    rw [show s.blk.begin.boot.running = true from hrun, show s.blk.begin.pins.blockSafe = false from hsafe]
    decide
  change execKindlingStepDone r s = _
  rw [execKindlingStepDone, onBlock_eq, if_neg hgo]
  rfl

theorem kindlingStepsComplete : Parts.KindlingStepsComplete := by
  intro s r hrun hsafe hpass
  have hans := exec_kindlingStepDone r hrun hsafe
  have hkindled (n : Nat) (hn : s.blk.boot.step = n) : s.blk.begin.kindled r = s.blk.begin.passed r n :=
    hn ▸ s.blk.begin.kindled_pass hpass
  refine ⟨fun hn => ?_, fun hn => ?_, fun hn hlc => ?_, fun hn hlc => ?_, fun hn => ?_, fun hn hst => ?_, fun hn hst => ?_, fun hn => ?_,
    fun hn => ?_⟩
  all_goals rw [hkindled _ hn] at hans
  · exact ⟨_, hans, State.withBlock_mem .., s.blk.begin.wakeUp_fields⟩
  · obtain ⟨hlc, hotp⟩ := s.blk.begin.drawKeys_leaves
    exact ⟨_, hans, State.withBlock_mem .., rfl, rfl, hlc, hotp⟩
  · have hno : ¬ s.blk.begin.boot.lc.serves = true := Bool.eq_false_iff.mp hlc
    dsimp only [Block.passed] at hans
    rw [if_neg hno] at hans
    exact ⟨_, hans, State.withBlock_mem .., Block.becomeReady_boot _⟩
  · have hyes : s.blk.begin.boot.lc.serves = true := hlc
    dsimp only [Block.passed] at hans
    rwa [if_pos hyes] at hans
  · exact hans
  · have hno : ¬ s.blk.begin.boot.storeOk = true := Bool.eq_false_iff.mp hst
    dsimp only [Block.passed] at hans
    rw [if_neg hno] at hans
    exact ⟨_, hans, State.withBlock_mem .., rfl, rfl⟩
  · exact ⟨_, hans, State.withBlock_mem .., rfl⟩
  · exact hans
  · exact ⟨_, hans, State.withBlock_mem .., Block.becomeReady_boot _⟩

theorem failedKindlingStepStops : Parts.FailedKindlingStepStops := by
  intro s r hrun hsafe hfail hstep
  have hans := exec_kindlingStepDone r hrun hsafe
  rw [s.blk.begin.kindled_fail hfail hstep] at hans
  exact ⟨_, hans, rfl, rfl, rfl, rfl, rfl, rfl, rfl, rfl⟩

/-- Settles O50: the start, each step that passes, and a step that fails. -/
theorem kindlingRuns : Obligations.KindlingRuns := ⟨kindlingStartsCold, kindlingStepsComplete, failedKindlingStepStops⟩

end Sys2Proof.Proofs
end

section
/-! SPDM at `mgmt_*`: the connection, its answers, and sessions (R67, R393). -/

namespace Sys2Proof.Machine

open Sys2Proof Sys2Proof.Machine.Crypto

/-- A request reaches the responder. -/
theorem Responds.answers {s : State} (h : Responds s) (f : Block → Block) : onSpdm s f = .next (s.withBlock (f s.blk.begin)) := by
  obtain ⟨hp, hsafe, hup⟩ := h
  have hgo : ¬ (s.blk.begin.pins.blockSafe || s.blk.begin.boot.seqReset) = true := by
    rw [show s.blk.begin.pins.blockSafe = false from hsafe, show s.blk.begin.boot.seqReset = false from hup]
    decide
  rw [onSpdm, atPort_open _ hp.1 hp.2, onBlock_eq, if_neg hgo]
  rfl

section Answers

variable {b : Block} (h : b.stopped.contains .mgmt = false)
include h

theorem Block.spdmAnswer_running (code : Nat) (body : Bytes) : b.spdmAnswer code body = { b with out := b.out ++ [.spdm code body] } :=
  Block.emit_running _ _ h

/-- A response whose body SPDM fixes crosses, and draws a value. -/
theorem Block.spdmPlain_running (code : Nat) : b.spdmPlain code =
    { b with out := b.out ++ [.spdm code (Config.spdmBody code b.fresh)], fresh := b.fresh + 1 } := by
  rw [Block.spdmPlain, Block.spdmAnswer_running h]
  rfl

theorem Block.spdmError_running (code : Nat) : b.spdmError code =
    { b with out := b.out ++ [.spdm spdmErrorCode [BitVec.ofNat 8 code]] } := Block.spdmAnswer_running h _ _

/-- A response of a session crosses as a secured message with the session's id and sequence number. -/
theorem Block.spdmInSession_running (code : Nat) : ∃ x, b.spdmInSession code =
    { b with
      out := b.out ++ [.secured b.spdm.id (BitVec.ofNat 16 b.spdm.sent) x], fresh := b.fresh + 1
      spdm := { b.spdm with sent := b.spdm.sent + 1 } } := by
  unfold Block.spdmInSession Block.spdmSealed
  dsimp only
  rw [Block.emit_running _ _ h]
  exact ⟨_, rfl⟩

end Answers

end Sys2Proof.Machine

namespace Sys2Proof.Proofs

open Sys2Proof Sys2Proof.Machine Sys2Proof.Machine.Crypto

theorem spdmNegotiation : Parts.SpdmNegotiation := by
  intro s h
  have hm : s.blk.begin.stopped.contains .mgmt = false := h.1.2
  have hset (f : Spdm → Spdm) : (s.blk.begin.setSpdm f).stopped.contains .mgmt = false := hm
  refine ⟨?_, fun flags hv => ?_, fun a hc ho => ?_, fun flags hv => ?_⟩
  · refine ⟨_, h.answers _, State.withBlock_mem .., ?_⟩
    rw [State.withBlock_blk, Block.spdmPlain_running (hset _)]
    exact ⟨rfl, _, rfl⟩
  · have hv' : s.blk.begin.spdm.versioned = true := hv
    refine ⟨_, h.answers _, State.withBlock_mem .., ?_⟩
    rw [State.withBlock_blk, if_pos hv', Block.spdmPlain_running (hset _)]
    exact ⟨rfl, _, rfl⟩
  · have hc' : ¬ (!s.blk.begin.spdm.capable) = true := by
      rw [show s.blk.begin.spdm.capable = true from hc]
      decide
    refine ⟨_, h.answers _, State.withBlock_mem .., ?_⟩
    rw [State.withBlock_blk, if_neg hc', if_pos ho, Block.spdmPlain_running (hset _)]
    exact ⟨rfl, _, rfl⟩
  · have hv' : ¬ s.blk.begin.spdm.versioned = true := Bool.eq_false_iff.mp hv
    refine (h.answers _).trans ?_
    rw [if_neg hv', Block.spdmError_running hm]
    rfl

section Negotiated

variable {s : State} (h : Responds s) (hn : s.blk.spdm.negotiated = true)
include h hn

/-- A request that SPDM admits once algorithms have been negotiated. -/
theorem spdmNegotiated (f : Block → Block) : onSpdm s (afterNegotiation f) = .next (s.withBlock (f s.blk.begin)) := by
  have hn' : s.blk.begin.spdm.negotiated = true := hn
  rw [h.answers, afterNegotiation, if_pos hn']

/-- One that needs DRBG output, while the source serves. -/
theorem spdmWithEntropy (hent : s.blk.boot.entropyDown = false) (f : Block → Block) :
    onSpdm s (afterNegotiation (needsEntropy f)) = .next (s.withBlock (f s.blk.begin)) := by
  have hent' : ¬ s.blk.begin.boot.entropyDown = true := Bool.eq_false_iff.mp hent
  rw [spdmNegotiated h hn, needsEntropy, if_neg hent']

end Negotiated

theorem spdmAnswers : Parts.SpdmAnswers := by
  intro s h hn
  have hm : s.blk.begin.stopped.contains .mgmt = false := h.1.2
  refine ⟨?_, fun offset len hlt => ?_, fun hent => ⟨fun nonce => ?_, fun nonce => ?_⟩, fun g k hk => ?_⟩
  · refine (spdmNegotiated h hn _).trans ?_
    rw [Block.spdmAnswer_running hm]
    rfl
  · have hgo : ¬ ((0 : BitVec 8) ≠ 0 ∨ s.blk.begin.spdmChain.length ≤ offset) := by
      rintro (h0 | hle)
      · exact h0 rfl
      · exact absurd hle hlt.not_ge
    have hans : exec (.spdmGetCertificate 0 offset len) s = _ := spdmNegotiated h hn _
    dsimp only at hans
    rw [if_neg hgo, Block.spdmAnswer_running hm] at hans
    exact ⟨_, _, hans, State.withBlock_mem .., rfl, rfl⟩
  · have hans : exec (.spdmChallenge 0 nonce) s = _ := spdmWithEntropy h hn hent _
    dsimp only at hans
    rw [if_neg (not_not_intro rfl), Block.spdmAnswer_running hm] at hans
    exact ⟨_, _, hans, State.withBlock_mem .., rfl, rfl, rfl⟩
  · have hset (f : Spdm → Spdm) : (s.blk.begin.setSpdm f).stopped.contains .mgmt = false := hm
    have hans : exec (.spdmGetMeasurements 0xFD nonce) s = _ := spdmWithEntropy h hn hent _
    dsimp only at hans
    rw [if_neg (by decide), if_neg (by decide), Block.spdmAnswer_running (hset _)] at hans
    exact ⟨_, _, hans, State.withBlock_mem .., rfl, rfl, rfl⟩
  · have hgo : ¬ s.blk.begin.spdm.large.length ≤ k * spdmChunkSize := hk.not_ge
    refine (spdmNegotiated h hn _).trans ?_
    rw [if_neg hgo, Block.spdmAnswer_running hm]
    rfl

theorem spdmSessions : Parts.SpdmSessions := by
  intro s h
  have hm : s.blk.begin.stopped.contains .mgmt = false := h.1.2
  refine ⟨fun point hn hent hno => ?_, fun hs he => ?_, fun he => ?_, fun hs => ?_⟩
  · have hno' : ¬ s.blk.begin.spdm.session = true := Bool.eq_false_iff.mp hno
    refine ⟨_, spdmWithEntropy h hn hent _, State.withBlock_mem .., fun z hz => ?_, fun hz => ?_⟩
    · have hz' : p384Secret (p384Reduce (toLe 56 (s.blk.begin.random 448).toNat)) point = some z := hz
      have hset (f : Spdm → Spdm) : (s.blk.begin.setSpdm f).drew.stopped.contains .mgmt = false := hm
      rw [State.withBlock_blk, if_neg hno', hz']
      dsimp only
      rw [Block.spdmPlain_running (hset _)]
      exact ⟨rfl, rfl, rfl, rfl, _, rfl⟩
    · have hz' : p384Secret (p384Reduce (toLe 56 (s.blk.begin.random 448).toNat)) point = none := hz
      rw [State.withBlock_blk, if_neg hno', hz']
      dsimp only
      rw [Block.spdmError_running hm]
      rfl
  · have hgo : ¬ (!s.blk.begin.spdm.session || s.blk.begin.spdm.established) = true := by
      rw [show s.blk.begin.spdm.session = true from hs, show s.blk.begin.spdm.established = false from he]
      decide
    obtain ⟨x, hx⟩ := Block.spdmInSession_running hm spdmFinishRsp
    refine ⟨_, x, h.answers _, State.withBlock_mem .., ?_⟩
    rw [State.withBlock_blk, if_neg hgo, if_pos rfl, hx]
    exact ⟨rfl, rfl⟩
  · have he' : s.blk.begin.spdm.established = true := he
    obtain ⟨x, hx⟩ := Block.spdmInSession_running hm spdmHeartbeatAck
    refine ⟨_, x, h.answers _, State.withBlock_mem .., ?_⟩
    rw [State.withBlock_blk, if_pos he', hx]
    exact ⟨rfl, rfl⟩
  · have hs' : s.blk.begin.spdm.session = true := hs
    obtain ⟨x, hx⟩ := Block.spdmInSession_running hm spdmEndSessionAck
    refine ⟨_, x, h.answers _, State.withBlock_mem .., ?_⟩
    rw [State.withBlock_blk, if_pos hs', hx]
    exact ⟨rfl, rfl⟩

/-- Settles O47. -/
theorem spdmRequests : Obligations.SpdmRequests := ⟨spdmNegotiation, spdmAnswers, spdmSessions⟩

end Sys2Proof.Proofs
end

section
/-! Reports, licences, the wall-time anchor, and billing periods (R271 to R276, R284 to R291, R342 to R344). -/

namespace Sys2Proof.Machine

open Sys2Proof Sys2Proof.Machine.Crypto

/-! ## The relay's table -/

section Relays

variable (b : Block)

theorem Block.emit_relays (c : Cross) : (b.emit c).seq.relays = b.seq.relays :=
  (congrArg Sequencer.relays (b.accesses_emit c).seqCore :)

theorem Block.complete_relays (id : Nat) (st : Status) (x y : BitVec 64) (r : Bool) :
    (b.complete id st x y r).seq.relays = b.seq.relays :=
  (congrArg Sequencer.relays (b.complete_frame id st x y r).2.1 :)

/-- A relayed write joins the table at its end. -/
theorem Block.relay_relays (w : RelayFor) : ∃ r, (b.relay w).seq.relays = b.seq.relays ++ [r] ∧ r.live = true ∧ r.what = w := by
  unfold Block.relay Block.message
  dsimp only
  split
  · exact ⟨_, rfl, rfl, rfl⟩
  · exact ⟨_, rfl, rfl, rfl⟩

theorem Block.kxpOrder_relays (o : KxpOrder) : (b.kxpOrder o).seq.relays = b.seq.relays := by
  unfold Block.kxpOrder
  dsimp only
  split
  · rfl
  · exact Block.emit_relays _ _

theorem Block.dropExports_relays (l : Tab ExportEntry) : (b.dropExports l).seq.relays = b.seq.relays := by
  induction l generalizing b with
  | nil => rfl
  | cons e r ih => exact (ih _).trans (b.kxpOrder_relays _)

theorem Block.orderDrops_relays (o : DropOrder) (l : List Nat) : (b.orderDrops o l).seq.relays = b.seq.relays := by
  induction l generalizing b with
  | nil => rfl
  | cons e r ih => exact (ih _).trans rfl

theorem Block.endRekeys_relays (st : Status) (l : List Nat) : (b.endRekeys st l).seq.relays = b.seq.relays := by
  induction l generalizing b with
  | nil => rfl
  | cons r l ih =>
    refine (ih _).trans ?_
    unfold Block.endRekey
    split
    · rfl
    · split
      · rfl
      · exact Block.complete_relays _ _ _ _ _ _

theorem Block.invalidateFor_relays (n : Nat) (cmd : Option Nat) (res0 : Nat) :
    (b.invalidateFor n cmd res0).seq.relays = b.seq.relays := by
  unfold Block.invalidateFor
  dsimp only
  rw [Block.endRekeys_relays, Block.orderDrops_relays]
  exact (b.emptySlot n).dropExports_relays _

end Relays

/-! ## Checks do not ask what has crossed -/

theorem Block.begin_keyCheck (b : Block) (h fn ctx : Nat) (cls : Option Nat) (use : Nat) :
    b.begin.keyCheck h fn ctx cls use = b.keyCheck h fn ctx cls use := by
  unfold Block.keyCheck Block.soundCheck
  rw [b.begin_chain]
  rfl

theorem Block.begin_takeSlot (b : Block) (fn : Nat) : (b.begin.takeSlot fn).isSome = (b.takeSlot fn).isSome := by
  have hfn : b.begin.fn fn = b.fn fn := rfl
  have howned : b.begin.ownedSlots fn = b.ownedSlots fn := rfl
  have hfree : b.begin.keys = b.keys := rfl
  unfold Block.takeSlot
  rw [hfn, howned, hfree]
  split
  · rfl
  · rw [Option.isSome_map, Option.isSome_map]

theorem Block.begin_installCheck (b : Block) (c : Cmd) (x : Bytes) : b.begin.installCheck c x = b.installCheck c x := by
  unfold Block.installCheck
  dsimp only
  rw [b.begin_keyCheck, b.begin_takeSlot]
  rfl

/-! ## Periods (R284) -/

section Periods

variable (b : Block) (k : Nat)

theorem Block.endLicence_frame : (b.endLicence k).meters = b.meters ∧ (b.endLicence k).store = b.store ∧
    (b.endLicence k).seq.relays = b.seq.relays := by
  unfold Block.endLicence
  split
  · exact ⟨rfl, rfl, rfl⟩
  · next i _ =>
    dsimp only
    split
    · have hv := ({ b with installs := Tab.del b.installs k } : Block).invalidateFor_vault i.slot none 0
      exact ⟨(congrArg Block.meters hv :), (congrArg Block.store hv :), Block.invalidateFor_relays _ _ _ _⟩
    · exact ⟨rfl, rfl, rfl⟩

/-- The record of a turned period, as it is written. -/
def Block.turnedRecord (closeTick closeWall openTick openWall : Nat) : MeterRecord :=
  (b.raisedRecord k).turn (b.meters.getD k {}).period closeTick closeWall openTick openWall b.boot.meterEpoch b.tick.toNat

theorem Block.turnPeriod_frame (closeTick closeWall openTick openWall : Nat) :
    (b.turnPeriod k closeTick closeWall openTick openWall).meters = b.meters.mod k {} (fun m => { m with period := {} }) ∧
      (b.turnPeriod k closeTick closeWall openTick openWall).store = b.store ∧
      ∃ x, (b.turnPeriod k closeTick closeWall openTick openWall).seq.relays = b.seq.relays ++ [x] ∧
        x.what = .meter k (b.turnedRecord k closeTick closeWall openTick openWall) := by
  have hv := ({ b with meters := b.meters.mod k {} fun m => { m with period := {} } } : Block).relay_vault
    (.meter k (b.turnedRecord k closeTick closeWall openTick openWall))
  obtain ⟨x, hx, -, hwhat⟩ := ({ b with meters := b.meters.mod k {} fun m => { m with period := {} } } : Block).relay_relays
    (.meter k (b.turnedRecord k closeTick closeWall openTick openWall))
  have hend := (({ b with meters := b.meters.mod k {} fun m => { m with period := {} } } : Block).relay
    (.meter k (b.turnedRecord k closeTick closeWall openTick openWall))).endLicence_frame k
  unfold Block.turnPeriod
  dsimp only
  split
  · obtain ⟨hm, hs, hr⟩ := hend
    exact ⟨hm.trans (congrArg Block.meters hv :), hs.trans (congrArg Block.store hv :), x, hr.trans hx, hwhat⟩
  · exact ⟨(congrArg Block.meters hv :), (congrArg Block.store hv :), x, hx, hwhat⟩

end Periods

/-! ## The anchor (R285, R286) -/

theorem Block.noteRegression_vault (b : Block) (tick old new : Nat) (l : List Nat) :
    (b.noteRegression tick old new l).vault = b.vault := by
  induction l generalizing b with
  | nil => rfl
  | cons k r ih => exact (ih _).trans (b.relay_vault _)

/-- What follows an anchor that sets wall time back leaves the anchor, the meters and the time. -/
def Block.regressed (b : Block) (tick old wall : Nat) : Block :=
  let b := b.raise { code := 0x32, blockwide := true, data := [(0, tick), (8, old - wall)] } (0 :: b.licensees)
  if b.boot.storeOk then b.noteRegression tick old wall (Tab.keys b.meters) else b

theorem Block.regressed_frame (b : Block) (tick old wall : Nat) :
    (b.regressed tick old wall).anchor = b.anchor ∧ (b.regressed tick old wall).meters = b.meters ∧
      (b.regressed tick old wall).time = b.time := by
  have hraise := b.notifies_raise { code := 0x32, blockwide := true, data := [(0, tick), (8, old - wall)] } (0 :: b.licensees)
  have hanchor : _ = b.anchor := (congrArg Block.anchor hraise.core :)
  have hmeters : _ = b.meters := (congrArg Block.meters hraise.core :)
  have htime : _ = b.time := (congrArg Block.time hraise.core :)
  unfold Block.regressed
  dsimp only
  split
  · have hv := (b.raise { code := 0x32, blockwide := true, data := [(0, tick), (8, old - wall)] } (0 :: b.licensees)).noteRegression_vault
      tick old wall (Tab.keys (b.raise { code := 0x32, blockwide := true, data := [(0, tick), (8, old - wall)] } (0 :: b.licensees)).meters)
    exact ⟨(congrArg Block.anchor hv :).trans hanchor, (congrArg Block.meters hv :).trans hmeters, (congrArg Block.time hv :).trans htime⟩
  · exact ⟨hanchor, hmeters, htime⟩

end Sys2Proof.Machine

namespace Sys2Proof.Proofs

open Sys2Proof Sys2Proof.Machine Sys2Proof.Machine.Crypto

section Commands

variable {s : State} {id : Nat} {c : Cmd}

theorem attestReports {k : ReportKind} (hc : CmdReady s id 0x0801 c) (hent : s.blk.boot.entropyDown = false)
    (hk : k = if c.ctx = 0 then ReportKind.block else ReportKind.context c.fn c.ctx)
    (hfit : (s.blk.begin.report k (dbytes c.desc 32 32)).length ≤ dfld c.desc 24 4) :
    Answers (.attestReport id) s
      (s.blk.begin.freshen.output id (dfld c.desc 16 8) (s.blk.begin.report k (dbytes c.desc 32 32)) .ok
        (s.blk.begin.report k (dbytes c.desc 32 32)).length 0) := by
  have hent' : ¬ s.blk.begin.boot.entropyDown = true := Bool.eq_false_iff.mp hent
  subst hk
  refine answers_onCommand (by unfold exec execAttestReport; rfl) hc ?_
  rw [if_neg hent']
  exact if_neg hfit.not_gt

theorem answers_licenseInstall {k : Nat} (hc : CmdReady s id 0x0901 c) (hbusy : s.blk.licenceBusy (bfld c.buf 4 4) = false)
    (hok : s.blk.installCheck c c.buf = .ok) (hk : s.blk.recordFor (bfld c.buf 4 4) = some k) :
    Answers (.licenseInstall id) s ((s.blk.begin.wait id).relay
      (.install id k (s.blk.begin.installRecord c.buf c.fn k)
        { licence := BitVec.ofNat 32 (bfld c.buf 4 4), fn := c.fn, slot := 0, gen := 0
          uses := BitVec.ofNat 8 (bfld c.buf 10 1), destMask := BitVec.ofNat 8 (bfld c.buf 11 1)
          allowBytes := bfld c.buf 16 8, allowPushes := bfld c.buf 24 8, samples := bfld c.buf 48 8 }
        (BitVec.ofNat 256 (le (s.blk.begin.contentKey c.buf))) (dfld c.desc 28 2) (licenceMask c.buf))) := by
  have hbusy' : ¬ s.blk.begin.licenceBusy (bfld c.buf 4 4) = true := Bool.eq_false_iff.mp hbusy
  have hok' : s.blk.begin.installCheck c c.buf = .ok := (Block.begin_installCheck ..).trans hok
  have hk' : s.blk.begin.recordFor (bfld c.buf 4 4) = some k := hk
  refine answers_onCommand (by unfold exec execLicenseInstall; rfl) hc ?_
  dsimp only
  rw [if_neg hbusy', hok', hk']

theorem licenceInstalls {k : Nat} (hc : CmdReady s id 0x0901 c) (hbusy : s.blk.licenceBusy (bfld c.buf 4 4) = false)
    (hok : s.blk.installCheck c c.buf = .ok) (hk : s.blk.recordFor (bfld c.buf 4 4) = some k) :
    ∃ t, exec (.licenseInstall id) s = .next t ∧ t.mem = s.mem ∧ t.blk.store = s.blk.store ∧ t.blk.keys = s.blk.keys ∧
      ∃ r, t.blk.seq.relays = s.blk.seq.relays ++ [r] ∧ r.live = true ∧
        r.what = .install id k (s.blk.installRecord c.buf c.fn k)
          { licence := BitVec.ofNat 32 (bfld c.buf 4 4), fn := c.fn, slot := 0, gen := 0
            uses := BitVec.ofNat 8 (bfld c.buf 10 1), destMask := BitVec.ofNat 8 (bfld c.buf 11 1)
            allowBytes := bfld c.buf 16 8, allowPushes := bfld c.buf 24 8, samples := bfld c.buf 48 8 }
          (BitVec.ofNat 256 (le (s.blk.contentKey c.buf))) (dfld c.desc 28 2) (licenceMask c.buf) := by
  have hrecord : s.blk.begin.installRecord c.buf c.fn k = s.blk.installRecord c.buf c.fn k := rfl
  have hcontent : s.blk.begin.contentKey c.buf = s.blk.contentKey c.buf := rfl
  have hans := answers_licenseInstall hc hbusy hok hk
  rw [hrecord, hcontent] at hans
  generalize RelayFor.install id k _ _ _ _ _ = w at hans ⊢
  obtain ⟨hkeys, hstore, -⟩ := (s.blk.begin.wait id).relay_leaves w
  obtain ⟨r, hr, hlive, hwhat⟩ := (s.blk.begin.wait id).relay_relays w
  exact ⟨_, hans, State.withBlock_mem .., hstore, hkeys, r, hr, hlive, hwhat⟩

theorem recordRevoked {k : Nat} {r : MeterRecord} {rest : List (Nat × MeterRecord)} (hc : CmdReady s id 0x0902 c)
    (hbusy : s.blk.licenceBusy (bfld c.buf 4 4) = false) (hok : s.blk.revokeCheck c c.buf = .ok)
    (hrec : s.blk.recordsOf (bfld c.buf 4 4) = (k, r) :: rest) (hst : r.state ≠ .revoked) :
    ∃ t, exec (.licenseRevoke id) s = .next t ∧ t.mem = s.mem ∧ t.blk.store = s.blk.store ∧
      ∃ x, t.blk.seq.relays = s.blk.seq.relays ++ [x] ∧
        x.what = .revokeRecord id k { r with state := .revoked, lastWrite := s.blk.tick.toNat } := by
  have hbusy' : ¬ s.blk.begin.licenceBusy (bfld c.buf 4 4) = true := Bool.eq_false_iff.mp hbusy
  have hok' : s.blk.begin.revokeCheck c c.buf = .ok := hok
  have hrec' : s.blk.begin.recordsOf (bfld c.buf 4 4) = (k, r) :: rest := hrec
  have hans : Answers (.licenseRevoke id) s ((s.blk.begin.wait id).relay
      (.revokeRecord id k { r with state := .revoked, lastWrite := s.blk.tick.toNat })) := by
    refine answers_onCommand (by unfold exec execLicenseRevoke; rfl) hc ?_
    dsimp only
    rw [if_neg hbusy', hok', hrec']
    exact if_neg hst
  generalize RelayFor.revokeRecord id k _ = w at hans ⊢
  obtain ⟨x, hx, -, hwhat⟩ := (s.blk.begin.wait id).relay_relays w
  exact ⟨_, hans, State.withBlock_mem .., ((s.blk.begin.wait id).relay_leaves w).2.1, x, hx, hwhat⟩

theorem licenceListed (hc : CmdReady s id 0x0902 c) (hbusy : s.blk.licenceBusy (bfld c.buf 4 4) = false)
    (hok : s.blk.revokeCheck c c.buf = .ok) (hrec : s.blk.recordsOf (bfld c.buf 4 4) = []) :
    (s.blk.listed (bfld c.buf 4 4) (issuerOfKey (slice c.buf 64 2592)) = true →
      Answers (.licenseRevoke id) s (s.blk.begin.succeed id 0 0)) ∧
    (s.blk.listed (bfld c.buf 4 4) (issuerOfKey (slice c.buf 64 2592)) = false → s.blk.listBusy = false →
      s.blk.store.revoked.length < listEntries →
      Answers (.licenseRevoke id) s
        ((s.blk.begin.wait id).relayList (some id) (BitVec.ofNat 32 (bfld c.buf 4 4)) (issuerOfKey (slice c.buf 64 2592)) none)) := by
  have hbusy' : ¬ s.blk.begin.licenceBusy (bfld c.buf 4 4) = true := Bool.eq_false_iff.mp hbusy
  have hok' : s.blk.begin.revokeCheck c c.buf = .ok := hok
  have hrec' : s.blk.begin.recordsOf (bfld c.buf 4 4) = [] := hrec
  refine ⟨fun hl => ?_, fun hl hfree hroom => ?_⟩
  · have hl' : s.blk.begin.listed (bfld c.buf 4 4) (issuerOfKey (slice c.buf 64 2592)) = true := hl
    refine answers_onCommand (by unfold exec execLicenseRevoke; rfl) hc ?_
    dsimp only
    rw [if_neg hbusy', hok', hrec']
    exact if_pos hl'
  · have hl' : ¬ s.blk.begin.listed (bfld c.buf 4 4) (issuerOfKey (slice c.buf 64 2592)) = true := Bool.eq_false_iff.mp hl
    have hfree' : ¬ s.blk.begin.listBusy = true := Bool.eq_false_iff.mp hfree
    have hroom' : ¬ listEntries ≤ s.blk.begin.store.revoked.length := hroom.not_ge
    refine answers_onCommand (by unfold exec execLicenseRevoke; rfl) hc ?_
    dsimp only
    rw [if_neg hbusy', hok', hrec']
    dsimp only
    rw [if_neg hl', if_neg hfree', if_neg hroom']

theorem metersReported {k : Nat} {r : MeterRecord} {closed : Bool} {x : Bytes} (hc : CmdReady s id 0x0903 c)
    (hbusy : s.blk.licenceBusy (dfld c.desc 16 4) = false) (hrec : s.blk.reportable c = some (k, r))
    (hclosed : dfld c.desc 20 1 = bit closed) (hopen : closed = false → r.state ≠ .ended) (hnum : closed = true → r.openNumber ≠ 0)
    (hent : s.blk.boot.entropyDown = false)
    (hx : x = s.blk.begin.usageReport (s.blk.begin.usageHead r (s.blk.begin.meters.getD k {}) closed (dbytes c.desc 32 32))) :
    Answers (.meterReport id) s
      ((s.blk.begin.freshen.wait id).hostWrite c.fn (dfld c.desc 24 8) x (.meter id k r (BitVec.ofNat 64 x.length))) := by
  have hbusy' : ¬ s.blk.begin.licenceBusy (dfld c.desc 16 4) = true := Bool.eq_false_iff.mp hbusy
  have hrec' : s.blk.begin.reportable c = some (k, r) := hrec
  have hent' : ¬ s.blk.begin.boot.entropyDown = true := Bool.eq_false_iff.mp hent
  have hone : decide (bit closed = 1) = closed := by cases closed <;> rfl
  have hgo : ¬ (decide (1 < bit closed) || (closed && decide (r.openNumber = 0)) || (!closed && decide (r.state = .ended))) = true := by
    cases closed with
    | false => simpa [bit] using hopen rfl
    | true => simpa [bit] using hnum rfl
  refine answers_onCommand (by unfold exec execMeterReport; rfl) hc ?_
  dsimp only
  rw [if_neg hbusy', hrec', hclosed]
  dsimp only
  rw [hone, if_neg hgo, if_neg hent', hx]

theorem anchorSet (hc : CmdReady s id 0x0905 c)
    (hback : s.blk.boot.storeOk = true → s.blk.boot.metersRead = false → s.blk.anchor.isSome = true →
      s.blk.wallAt (dfld c.desc 16 8) ≤ dfld c.desc 24 8 + 1000) :
    ∃ t, exec (.timeAnchor id) s = .next t ∧ t.mem = s.mem ∧ t.blk.cmd? id = none ∧
      t.blk.anchor = some { tick := dfld c.desc 16 8, wall := dfld c.desc 24 8 } ∧ t.blk.meters = s.blk.meters ∧
      t.blk.time = s.blk.time := by
  have hgo : ¬ ((s.blk.begin.anchor.isSome && decide (dfld c.desc 24 8 + 1000 < s.blk.begin.wallAt (dfld c.desc 16 8))) &&
      s.blk.begin.boot.storeOk && !s.blk.begin.boot.metersRead) = true := by
    intro h
    simp only [Bool.and_eq_true, decide_eq_true_eq, Bool.not_eq_true'] at h
    obtain ⟨⟨⟨hsome, hlt⟩, hst⟩, hread⟩ := h
    exact absurd (hback hst hread hsome) hlt.not_ge
  have hans : Answers (.timeAnchor id) s (Block.succeed
      (if s.blk.begin.anchor.isSome && decide (dfld c.desc 24 8 + 1000 < s.blk.begin.wallAt (dfld c.desc 16 8)) then
        ({ s.blk.begin with anchor := some { tick := dfld c.desc 16 8, wall := dfld c.desc 24 8 } } : Block).regressed
          (dfld c.desc 16 8) (s.blk.begin.wallAt (dfld c.desc 16 8)) (dfld c.desc 24 8)
      else { s.blk.begin with anchor := some { tick := dfld c.desc 16 8, wall := dfld c.desc 24 8 } }) id 0 0) :=
    answers_onCommand (by unfold exec execTimeAnchor; rfl) hc (if_neg hgo)
  have hframe := ({ s.blk.begin with anchor := some { tick := dfld c.desc 16 8, wall := dfld c.desc 24 8 } } : Block).regressed_frame
    (dfld c.desc 16 8) (s.blk.begin.wallAt (dfld c.desc 16 8)) (dfld c.desc 24 8)
  generalize hb : (if s.blk.begin.anchor.isSome && decide (dfld c.desc 24 8 + 1000 < s.blk.begin.wallAt (dfld c.desc 16 8)) then
      ({ s.blk.begin with anchor := some { tick := dfld c.desc 16 8, wall := dfld c.desc 24 8 } } : Block).regressed
        (dfld c.desc 16 8) (s.blk.begin.wallAt (dfld c.desc 16 8)) (dfld c.desc 24 8)
    else { s.blk.begin with anchor := some { tick := dfld c.desc 16 8, wall := dfld c.desc 24 8 } }) = b at hans
  have hfields : b.anchor = some { tick := dfld c.desc 16 8, wall := dfld c.desc 24 8 } ∧ b.meters = s.blk.meters ∧
      b.time = s.blk.time := by
    rw [← hb]
    split
    · exact hframe
    · exact ⟨rfl, rfl, rfl⟩
  obtain ⟨hanchor, hmeters, htime⟩ := hfields
  have hcore := b.succeed_core id 0 0
  exact ⟨_, hans, State.withBlock_mem .., Block.succeed_cmd .., (congrArg Block.anchor hcore :).trans hanchor,
    (congrArg Block.meters hcore :).trans hmeters, (congrArg Block.time hcore :).trans htime⟩

end Commands

theorem reportsAndLicences : Parts.ReportsAndLicences := by
  intro s id c
  exact ⟨fun k => attestReports, fun k => licenceInstalls, fun k r rest => recordRevoked, licenceListed,
    fun k r closed x => metersReported, anchorSet⟩

theorem periodsTurn : Parts.PeriodsTurn := by
  intro s k m hst hok hm ht
  have hopen : (s.blk.begin.latestRecord k).hasOpen = true := by
    rw [MeterRecord.hasOpen, Bool.or_eq_true, decide_eq_true_eq, decide_eq_true_eq]
    exact hst
  have hhas : Tab.has s.blk.begin.meters k = true := by
    unfold Tab.has
    rw [show Tab.get? s.blk.begin.meters k = some m from hm]
    rfl
  have hgo : ((s.blk.begin.latestRecord k).hasOpen && s.blk.begin.boot.storeOk && Tab.has s.blk.begin.meters k &&
      decide ((s.blk.begin.latestRecord k).openTick + (s.blk.begin.latestRecord k).periodTicks ≤ s.blk.begin.tick.toNat)) = true := by
    rw [hopen, show s.blk.begin.boot.storeOk = true from hok, hhas]
    exact decide_eq_true ht
  have hans : Answers (.periodBoundary k) s (s.blk.begin.turnPeriod k _ _ _ _) :=
    congrArg (fun b => Host.Outcome.next (s.withBlock b)) (if_pos hgo)
  obtain ⟨hmeters, hstore, x, hx, hwhat⟩ := s.blk.begin.turnPeriod_frame k _ _ _ _
  have hm' : Tab.getD s.blk.begin.meters k {} = m := by
    unfold Tab.getD
    rw [show Tab.get? s.blk.begin.meters k = some m from hm]
    rfl
  refine ⟨_, hans, State.withBlock_mem .., ?_, hstore, x, hx, _, hwhat, rfl, congrArg Meter.period hm', rfl⟩
  rw [State.withBlock_blk, hmeters]
  exact (Tab.get?_put_same ..).trans (congrArg (fun m : Meter => some { m with period := {} }) hm')

/-- Settles O59: the six commands, and the turn of a period. -/
theorem licencesAndMeters : Obligations.LicencesAndMeters := ⟨reportsAndLicences, periodsTurn⟩

end Sys2Proof.Proofs
end

section
/-! Engine resets, the bounds of the ladder, the ember and the watchdog, and the rake (R347, R464 to R479). -/

namespace Sys2Proof.Machine

open Sys2Proof Sys2Proof.Machine.Crypto

/-! ## The start of an engine reset (R478) -/

section BeginReset

variable (b : Block) (e : Nat)

theorem Block.giveA_sansMces : (b.giveA e).sansMces = b.sansMces := by
  unfold Block.giveA
  split
  · rfl
  · exact Block.emit_sansMces _ _

theorem Block.giveW_sansMces : (b.giveW e).sansMces = b.sansMces := by
  unfold Block.giveW
  split
  · rfl
  · exact Block.emit_sansMces _ _

theorem Block.refuseReq_sansMces (q : MceReq) (st : Status) : (b.refuseReq e q st).sansMces = b.sansMces := by
  refine (Block.emit_sansMces _ _).trans ?_
  unfold Block.dropReq
  dsimp only
  split
  · exact Block.giveW_sansMces _ _
  · rfl

theorem Block.failIdle_sansMces (l : List MceReq) : (b.failIdle e l).sansMces = b.sansMces := by
  induction l generalizing b with
  | nil => rfl
  | cons q r ih =>
    refine (ih _).trans ?_
    split
    · rfl
    · refine (Block.refuseReq_sansMces _ _ _ _).trans ?_
      split
      · exact Block.giveA_sansMces _ _
      · rfl

theorem Block.failIngress_port (n : Nat) : (b.failIngress n).port = b.port := by
  unfold Block.failIngress
  have hfold (l : List (LinkReq × List Beat)) (c : Block) :
      (l.foldl (fun b r => b.answerLreq n r.1.tag .engineReset []) c).port = c.port := by
    induction l generalizing c with
    | nil => rfl
    | cons r l ih => exact (ih _).trans (Block.Ships.answerLreq c n r.1.tag .engineReset []).port
  exact (hfold _ (b.modLpe n fun l => l.evict fun _ => true)).trans rfl

/-- The start of a reset enters it among the resets, and leaves keys, contexts and jobs. -/
theorem Block.beginReset_frame (cause : Nat) (cmds : List Nat) :
    (b.beginReset e cause cmds).resets = b.resets.put e { cause := cause, cmds := cmds } ∧
      (b.beginReset e cause cmds).keys = b.keys ∧ (b.beginReset e cause cmds).ctxs = b.ctxs ∧
      (b.beginReset e cause cmds).jobs = b.jobs := by
  unfold Block.beginReset
  dsimp only
  split
  · have h := Block.failIdle_sansMces { b with resets := b.resets.put e { cause := cause, cmds := cmds } } e (b.mce e).reqs
    exact ⟨(congrArg Block.resets h :), (congrArg Block.keys h :), (congrArg Block.ctxs h :), (congrArg Block.jobs h :)⟩
  · split
    · have h := Block.failIngress_port { b with resets := b.resets.put e { cause := cause, cmds := cmds } } (e - 0x40)
      exact ⟨(congrArg Block.resets h :), (congrArg Block.keys h :), (congrArg Block.ctxs h :), (congrArg Block.jobs h :)⟩
    · split
      · exact ⟨rfl, rfl, rfl, rfl⟩
      · split
        · exact ⟨rfl, rfl, rfl, rfl⟩
        · exact ⟨rfl, rfl, rfl, rfl⟩

end BeginReset

/-! ## The end of an engine reset (R478) -/

section EndReset

variable (b : Block)

theorem Block.succeedAll_core (l : List Nat) : (b.succeedAll l).core = b.core := by
  induction l generalizing b with
  | nil => rfl
  | cons id r ih => exact (ih _).trans (b.succeed_core id 0 0)

theorem Block.succeedAll_obs (l : List Nat) : (b.succeedAll l).obs = b.obs := by
  induction l generalizing b with
  | nil => rfl
  | cons id r ih => exact (ih _).trans (b.succeed_obs id 0 0)

theorem Block.complete_cmd_gone {i : Nat} (id : Nat) (st : Status) (x y : BitVec 64) (r : Bool) (h : b.cmd? i = none) :
    (b.complete id st x y r).cmd? i = none := by
  by_cases hi : i = id
  · rw [hi]
    exact Block.complete_cmd_same ..
  · exact (b.complete_cmd_other id st x y r hi).trans h

theorem Block.succeedAll_cmd_gone {i : Nat} (l : List Nat) (h : b.cmd? i = none) : (b.succeedAll l).cmd? i = none := by
  induction l generalizing b with
  | nil => exact h
  | cons id r ih => exact ih _ (b.complete_cmd_gone id .ok 0 0 false h)

/-- The commands that waited for a reset have completed. -/
theorem Block.succeedAll_cmds {i : Nat} (l : List Nat) (h : i ∈ l) : (b.succeedAll l).cmd? i = none := by
  induction l generalizing b with
  | nil => cases h
  | cons id r ih =>
    rcases List.mem_cons.mp h with rfl | hr
    · exact Block.succeedAll_cmd_gone _ r (b.succeed_cmd i 0 0)
    · exact ih _ hr

/-- The end of a reset of the governor, the time unit or the ash streamer. -/
theorem Block.endReset_frame {e : Nat} (r : EngineReset) (hm : b.build.mces ≤ 0x40) (he : 0x60 ≤ e) :
    (b.endReset e r).resets = Tab.del b.resets e ∧ (b.endReset e r).keys = b.keys ∧ (b.endReset e r).ctxs = b.ctxs ∧
      (b.endReset e r).obs.events.getD 0x03 0 = satAdd64 (b.obs.events.getD 0x03 0) 1 ∧
      ∀ id ∈ r.cmds, (b.endReset e r).cmd? id = none := by
  have hraise := ({ b with resets := Tab.del b.resets e } : Block).notifies_raisePf 0x03 e [(0, r.cause)]
  have hcount := ({ b with resets := Tab.del b.resets e } : Block).raisePf_events 0x03 e [(0, r.cause)] (by decide)
  unfold Block.endReset
  dsimp only
  generalize ({ b with resets := Tab.del b.resets e } : Block).raisePf 0x03 e [(0, r.cause)] = c at hraise hcount
  have hcore := c.succeedAll_core r.cmds
  have hbuild : (c.succeedAll r.cmds).build = b.build :=
    (congrArg Block.build hcore :).trans (hraise.keeps Block.build fun _ => rfl)
  rw [hbuild, if_neg (show ¬ e < b.build.mces by omega), if_neg (show ¬ (0x40 ≤ e ∧ e < 0x60) by omega)]
  exact ⟨(congrArg Block.resets hcore :).trans (hraise.keeps Block.resets fun _ => rfl),
    (congrArg Block.keys hcore :).trans (hraise.keeps Block.keys fun _ => rfl),
    (congrArg Block.ctxs hcore :).trans (hraise.keeps Block.ctxs fun _ => rfl),
    (congrArg (fun o : Observe => o.events.getD 0x03 0) (c.succeedAll_obs r.cmds)).trans hcount,
    fun id hid => c.succeedAll_cmds r.cmds hid⟩

/-- What the end of a reset does to the governor, the time unit and the ash streamer. -/
theorem Block.resetUnit_frame {e : Nat} (he : e = 0x75 ∨ e = 0x76 ∨ e = 0x77) :
    (b.resetUnit e).build = b.build ∧ (b.resetUnit e).resets = b.resets ∧ (b.resetUnit e).keys = b.keys ∧
      (b.resetUnit e).ctxs = b.ctxs ∧ (b.resetUnit e).obs = b.obs ∧ (b.resetUnit e).pins = b.pins := by
  rcases he with rfl | rfl | rfl <;> exact ⟨rfl, rfl, rfl, rfl, rfl, rfl⟩

end EndReset

/-! ## Whole-block resets (R475) -/

/-- A whole-block reset sets the alarm and `block_safe` and leaves no key. -/
theorem Block.blockReset_frame (b : Block) (why : Rung4) (engine : Nat) :
    (b.blockReset why engine).pins.alarmFatal = true ∧ (b.blockReset why engine).pins.blockSafe = true ∧
      (b.blockReset why engine).keys = {} := by
  unfold Block.blockReset
  dsimp only
  generalize b.raisePf 0x04 0x74 [(0, openByte 4 why.index), (1, engine)] = c
  obtain ⟨-, -, hpins, -, -⟩ := c.shutDown_fields
  obtain ⟨d, p, hcold⟩ := c.shutDown_cold
  refine ⟨rfl, ?_, ?_⟩
  · exact (congrArg Pins.blockSafe hpins :)
  · exact (congrArg Block.keys hcold :)

/-! ## The restart of the sequencer (R474) -/

section Restart

variable (b : Block)

/-- What the removal of uncommitted commands leaves. -/
theorem Block.foldl_fail_core (l : List Nat) : (l.foldl (fun b id => b.fail id .engineReset) b).core = b.core := by
  induction l generalizing b with
  | nil => rfl
  | cons id r ih => exact (ih _).trans (b.fail_core id .engineReset)

theorem Block.foldl_fail_seqCore (l : List Nat) :
    ((l.foldl (fun b id => b.fail id .engineReset) b).seq.core) =
      { b.seq.core with cmds := (l.foldl (fun b id => b.fail id .engineReset) b).seq.cmds } := by
  induction l generalizing b with
  | nil => rfl
  | cons id r ih =>
    refine (ih _).trans ?_
    rw [show (b.fail id .engineReset).seq.core = { b.seq.core with cmds := b.seq.cmds.del id } from
      (b.complete_frame id .engineReset 0 0 false).2.1]
    rfl

theorem Block.foldl_fail_cmds (l : List Nat) :
    (l.foldl (fun b id => b.fail id .engineReset) b).seq.cmds = b.seq.cmds.filter fun e => !List.contains l e.1 := by
  induction l generalizing b with
  | nil => exact (List.filter_eq_self.mpr fun _ _ => rfl).symm
  | cons id r ih =>
    refine (ih _).trans ?_
    rw [show (b.fail id .engineReset).seq.cmds = b.seq.cmds.del id from b.complete_cmds id .engineReset 0 0 false]
    unfold Tab.del
    rw [List.filter_filter]
    refine List.filter_congr fun e _ => ?_
    simp [Bool.and_comm]

/-- A command that is left when the uncommitted ones are gone has committed, or carries an LC_TRANSITION. -/
theorem Block.dropUncommitted_frame :
    b.dropUncommitted.keys = b.keys ∧ b.dropUncommitted.ctxs = b.ctxs ∧ b.dropUncommitted.resets = b.resets ∧
      b.dropUncommitted.boot = b.boot ∧ b.dropUncommitted.seq.kills = b.seq.kills ∧
      b.dropUncommitted.seq.heldWrites = b.seq.heldWrites ∧
      ∀ e ∈ b.dropUncommitted.seq.cmds, e.2.uncommitted = false ∨ b.boot.lcJob = some e.1 := by
  unfold Block.dropUncommitted
  dsimp only
  generalize hids : Tab.keys (α := Cmd) (b.seq.cmds.filter fun c => c.2.uncommitted && decide (b.boot.lcJob ≠ some c.1)) = ids
  generalize hc : ({ b with
    reductions := b.reductions.map fun k => (k.1, k.2.ungive ids)
    seq := { b.seq with waits := b.seq.waits.filter fun w => !List.contains ids w.cmd }
    pkhLattice := b.pkhLattice.filter fun (r : Nat × Nat) => !List.contains ids r.1
    pkhCurve := b.pkhCurve.filter fun (r : Nat × Nat) => !List.contains ids r.1
    pkhIssuers := b.pkhIssuers.filter fun (r : Nat × Nat) => !List.contains ids r.1 } : Block) = c
  have hcore := c.foldl_fail_core ids
  have hseq := c.foldl_fail_seqCore ids
  have hcmds := c.foldl_fail_cmds ids
  subst hc
  refine ⟨(congrArg Block.keys hcore :), (congrArg Block.ctxs hcore :), (congrArg Block.resets hcore :),
    (congrArg Block.boot hcore :), (congrArg Sequencer.kills hseq :), (congrArg Sequencer.heldWrites hseq :), fun e he => ?_⟩
  rw [hcmds] at he
  obtain ⟨hmem, hout⟩ := List.mem_filter.mp he
  by_contra hno
  have hbad : e.2.uncommitted = true ∧ b.boot.lcJob ≠ some e.1 := by
    rw [not_or] at hno
    exact ⟨by simpa using hno.1, hno.2⟩
  have hin : e.1 ∈ ids := by
    rw [← hids]
    exact List.mem_map.mpr ⟨e, List.mem_filter.mpr ⟨hmem, by simp [hbad.1, hbad.2]⟩, rfl⟩
  simp [hin] at hout

end Restart

/-- Where a pass goes on does not depend on what has crossed. -/
theorem Block.begin_rakeSkip (b : Block) (f : Nat) (k : Rake) : b.begin.rakeSkip f k = b.rakeSkip f k := by
  induction f generalizing k with
  | zero => rfl
  | succ f ih =>
    unfold Block.rakeSkip
    rw [ih, show b.begin.rakes k (regionOf k.next) = b.rakes k (regionOf k.next) from rfl]

end Sys2Proof.Machine

namespace Sys2Proof.Proofs

open Sys2Proof Sys2Proof.Machine

/-! ## Engine resets -/

section Resets

variable {s : State} {id : Nat} {c : Cmd}

theorem engineResetStarts (h : CmdReady s id 0x0C02 c) (hb : s.blk.build.engineBuilt (dfld c.desc 16 1) = true)
    (hne : dfld c.desc 16 1 ≠ 0x73) (hno : s.blk.resets.get? (dfld c.desc 16 1) = none) :
    ∃ t, exec (.engineReset id) s = .next t ∧ t.mem = s.mem ∧
      t.blk.resets.get? (dfld c.desc 16 1) = some { cause := 1, cmds := [id] } ∧
      (∀ e, e ≠ dfld c.desc 16 1 → t.blk.resets.get? e = s.blk.resets.get? e) ∧ t.blk.keys = s.blk.keys ∧
      t.blk.ctxs = s.blk.ctxs ∧ t.blk.jobs = s.blk.jobs := by
  have hrow : (if !s.blk.begin.build.engineBuilt (dfld c.desc 16 1) || decide (dfld c.desc 16 1 = 0x73) then
        s.blk.begin.fail id .badOperand
      else
        match s.blk.begin.resets.get? (dfld c.desc 16 1) with
        | some r => { s.blk.begin.wait id with resets := s.blk.begin.resets.put (dfld c.desc 16 1) { r with cmds := r.cmds ++ [id] } }
        | none => (s.blk.begin.wait id).beginReset (dfld c.desc 16 1) 1 [id]) =
      (s.blk.begin.wait id).beginReset (dfld c.desc 16 1) 1 [id] := by
    rw [show s.blk.begin.build.engineBuilt (dfld c.desc 16 1) = true from hb, decide_eq_false hne,
      show s.blk.begin.resets.get? (dfld c.desc 16 1) = none from hno]
    rfl
  have hans : Answers (.engineReset id) s ((s.blk.begin.wait id).beginReset (dfld c.desc 16 1) 1 [id]) :=
    answers_onCommand (by unfold exec execEngineReset; rfl) h hrow
  obtain ⟨hresets, hkeys, hctxs, hjobs⟩ := (s.blk.begin.wait id).beginReset_frame (dfld c.desc 16 1) 1 [id]
  refine ⟨_, hans, State.withBlock_mem .., ?_, fun e he => ?_, hkeys, hctxs, hjobs⟩
  · rw [State.withBlock_blk, hresets]
    exact Tab.get?_put_same ..
  · rw [State.withBlock_blk, hresets]
    exact Tab.get?_put_other _ _ he

theorem engineResetJoins (h : CmdReady s id 0x0C02 c) (hb : s.blk.build.engineBuilt (dfld c.desc 16 1) = true)
    (hne : dfld c.desc 16 1 ≠ 0x73) {r : EngineReset} (hr : s.blk.resets.get? (dfld c.desc 16 1) = some r) :
    Answers (.engineReset id) s
      { s.blk.begin.wait id with resets := s.blk.resets.put (dfld c.desc 16 1) { r with cmds := r.cmds ++ [id] } } := by
  refine answers_onCommand (by unfold exec execEngineReset; rfl) h ?_
  dsimp only
  rw [show s.blk.begin.build.engineBuilt (dfld c.desc 16 1) = true from hb, decide_eq_false hne,
    show s.blk.begin.resets.get? (dfld c.desc 16 1) = some r from hr]
  rfl

theorem engineResetEnds {e : Nat} {r : EngineReset} (feed : List LineReturn) (hb : s.blk.build.engineBuilt e = true)
    (hsafe : s.blk.pins.blockSafe = false) (hm : s.blk.build.mces ≤ 0x40) (hr : s.blk.resets.get? e = some r)
    (he : e = 0x75 ∨ e = 0x76 ∨ e = 0x77) (hheld : (s.blk.mce e).held = []) :
    ∃ t, exec (.engineResetComplete e feed) s = .next t ∧ t.mem = s.mem ∧ t.blk.resets.get? e = none ∧
      t.blk.obs.events.getD 0x03 0 = satAdd64 (s.blk.obs.events.getD 0x03 0) 1 ∧ (∀ id ∈ r.cmds, t.blk.cmd? id = none) ∧
      t.blk.keys = s.blk.keys ∧ t.blk.ctxs = s.blk.ctxs := by
  obtain ⟨hbuild, hresets, hkeys, hctxs, hobs, hpins⟩ := s.blk.begin.resetUnit_frame he
  have hsafe' : (s.blk.begin.resetUnit e).pins.blockSafe = false := (congrArg Pins.blockSafe hpins).trans hsafe
  have hgo : (decide (e = 0x74) || s.work.blk.pins.blockSafe || (s.work.blk.mce e).held.any fun o => o.write) = false := by
    rw [decide_eq_false (by omega), show s.work.blk.pins.blockSafe = false from hsafe, show (s.work.blk.mce e).held = [] from hheld]
    rfl
  have hmce : ¬ e < s.work.blk.build.mces := not_lt.mpr (le_trans hm (by omega))
  have hx : exec (.engineResetComplete e feed) s = .next (s.withBlock ((s.blk.begin.resetUnit e).endReset e r)) := by
    refine (if_pos hb).trans ((onMemory_done (w := s.work.on fun b => (b.resetUnit e).endReset e r) ?_).trans rfl)
    dsimp only
    rw [show s.work.blk.resets.get? e = some r from hr]
    dsimp only
    rw [if_neg (by rw [hgo]; decide), if_neg hmce, if_neg (show ¬ (0x40 ≤ e ∧ e < 0x60) by omega)]
    exact congrArg (fun b : Block => ({ s.work with blk := b } : Work)) (if_neg (Bool.eq_false_iff.mp hsafe'))
  obtain ⟨hr', hk', hc', hev, hcmds⟩ := (s.blk.begin.resetUnit e).endReset_frame r (e := e)
    (by rw [hbuild]; exact hm) (by omega)
  refine ⟨_, hx, State.withBlock_mem .., ?_, ?_, hcmds, hk'.trans hkeys, hc'.trans hctxs⟩
  · rw [State.withBlock_blk, hr']
    exact Tab.get?_del_same ..
  · rw [State.withBlock_blk, hev, hobs]
    rfl

theorem engineResets : Parts.EngineResets :=
  ⟨fun _ _ _ h hb hne => ⟨engineResetStarts h hb hne, fun _ hr => engineResetJoins h hb hne hr⟩,
    fun _ _ _ feed hb hsafe hm hr he hheld => engineResetEnds feed hb hsafe hm hr he hheld⟩

theorem missedBoundsEscalate : Parts.MissedBoundsEscalate := by
  intro s e hsafe
  refine ⟨fun hb howes hseq hno => ?_, fun hb hin hwrites => ?_, fun ctx hkill => ?_⟩
  · have hgo : (s.blk.begin.owesAck e && !s.blk.begin.boot.seqReset && !s.blk.begin.pins.blockSafe) = true := by
      rw [show s.blk.begin.owesAck e = true from howes, show s.blk.begin.boot.seqReset = false from hseq,
        show s.blk.begin.pins.blockSafe = false from hsafe]
      rfl
    have hout : Tab.has s.blk.begin.resets e = false := by
      unfold Tab.has
      rw [show Tab.get? s.blk.begin.resets e = none from hno]
      rfl
    have hans : Answers (.engineAckTimeout e) s (s.blk.begin.beginReset e 2 []) :=
      (if_pos hb).trans (congrArg (fun b => Host.Outcome.next (s.withBlock b))
        ((if_pos hgo).trans (if_neg (Bool.eq_false_iff.mp hout))))
    obtain ⟨hresets, hkeys, hctxs, -⟩ := s.blk.begin.beginReset_frame e 2 []
    refine ⟨_, hans, State.withBlock_mem .., ?_, hkeys, hctxs⟩
    rw [State.withBlock_blk, hresets]
    exact Tab.get?_put_same ..
  · have hgo : (Tab.has s.blk.begin.resets e && ((s.blk.begin.mce e).held.any fun o => o.write) && !s.blk.begin.pins.blockSafe) =
        true := by
      rw [show Tab.has s.blk.begin.resets e = true from hin,
        show ((s.blk.begin.mce e).held.any fun o => o.write) = true from hwrites,
        show s.blk.begin.pins.blockSafe = false from hsafe]
      rfl
    have hans : Answers (.engineDrainTimeout e) s (s.blk.begin.blockReset .missedBound e) :=
      (if_pos hb).trans (congrArg (fun b => Host.Outcome.next (s.withBlock b)) (if_pos hgo))
    obtain ⟨halarm, hsafe', hkeys⟩ := s.blk.begin.blockReset_frame .missedBound e
    exact ⟨_, hans, State.withBlock_mem .., halarm, hsafe', hkeys⟩
  · have hgo : (List.contains s.blk.begin.seq.killing ctx.toNat && !s.blk.begin.pins.blockSafe) = true := by
      rw [show List.contains s.blk.begin.seq.killing ctx.toNat = true from hkill,
        show s.blk.begin.pins.blockSafe = false from hsafe]
      rfl
    exact congrArg (fun b => Host.Outcome.next (s.withBlock b)) (if_pos hgo)

end Resets

/-! ## The ember, the watchdog and the restart -/

section Ember

variable {s : State}

theorem heartbeatChosen {id : Nat} {c : Cmd} (h : CmdReady s id 0x0C05 c) :
    ∃ t, exec (.heartbeatConfig id) s = .next t ∧ t.mem = s.mem ∧ t.blk.cmd? id = none ∧
      t.blk.obs.hbAsh = (dfld c.desc 16 1).testBit 0 ∧ t.blk.obs.hbIrq = (dfld c.desc 16 1).testBit 1 ∧
      t.blk.obs.hbVector = BitVec.ofNat 11 (dfld c.desc 18 2) ∧ t.blk.obs.events = s.blk.obs.events := by
  refine ⟨_, answers_onCommand (by unfold exec execHeartbeatConfig; rfl) h rfl, State.withBlock_mem .., ?_, ?_, ?_, ?_, ?_⟩
  · exact Block.succeed_cmd ..
  · exact congrArg Observe.hbAsh (Block.succeed_obs ..)
  · exact congrArg Observe.hbIrq (Block.succeed_obs ..)
  · exact congrArg Observe.hbVector (Block.succeed_obs ..)
  · exact (congrArg Observe.events (Block.succeed_obs ..)).trans rfl

/-- The block that a beat leaves, before what it calls for. -/
def beaten (b : Block) : Block := { b with obs := { b.obs with beats := b.obs.beats + 1 } }

theorem exec_ember (hf : s.blk.firmware = true) :
    exec .ember s = .next (s.withBlock (if (beaten s.blk.begin).obs.hbAsh then
      (beaten s.blk.begin).raise { code := 0x01, blockwide := true, data := [(0, (beaten s.blk.begin).obs.beats.toNat)] } []
      else beaten s.blk.begin)) := by
  have hgo : ¬ (!s.blk.begin.firmware) = true := by rw [show s.blk.begin.firmware = true from hf]; decide
  exact congrArg (fun b => Host.Outcome.next (s.withBlock b)) (if_neg hgo)

theorem emberBeats (hf : s.blk.firmware = true) :
    ∃ t, exec .ember s = .next t ∧ t.mem = s.mem ∧ t.blk.obs.beats = s.blk.obs.beats + 1 ∧
      t.blk.obs.events.getD 0x01 0 =
        (if s.blk.obs.hbAsh then satAdd64 (s.blk.obs.events.getD 0x01 0) 1 else s.blk.obs.events.getD 0x01 0) ∧
      t.blk.seq.cmds = s.blk.seq.cmds := by
  refine ⟨_, exec_ember hf, State.withBlock_mem .., ?_⟩
  rw [State.withBlock_blk, show (beaten s.blk.begin).obs.hbAsh = s.blk.obs.hbAsh from rfl]
  split
  · have hraise := (beaten s.blk.begin).notifies_raise
      { code := 0x01, blockwide := true, data := [(0, (beaten s.blk.begin).obs.beats.toNat)] } []
    have hcount := (beaten s.blk.begin).raise_events
      { code := 0x01, blockwide := true, data := [(0, (beaten s.blk.begin).obs.beats.toNat)] } [] (show 0x01 < 65536 by decide)
    refine ⟨?_, hcount, hraise.cmds⟩
    rw [Block.raise_obs]
    rfl
  · exact ⟨rfl, rfl, rfl⟩

/-- The block that a bark leaves, before what it calls for. -/
def barked (b : Block) : Block :=
  let b' : Block := { b with
    obs := { b.obs with watchdogs := b.obs.watchdogs + 1, recentDogs := b.tick :: withinSecond b.tick b.obs.recentDogs } }
  if b'.obs.hbIrq then b'.irq 0 b'.obs.hbVector else b'

theorem barked_frame (b : Block) : (barked b).obs.watchdogs = b.obs.watchdogs + 1 ∧ (barked b).seq = b.seq ∧
    (barked b).keys = b.keys := by
  unfold barked
  dsimp only
  split
  · have hs := Block.Ships.emit ({ b with
      obs := { b.obs with watchdogs := b.obs.watchdogs + 1, recentDogs := b.tick :: withinSecond b.tick b.obs.recentDogs } } : Block)
      (.irq 0 b.obs.hbVector)
    exact ⟨hs.keeps (fun b => b.obs.watchdogs) fun _ => rfl, hs.keeps Block.seq fun _ => rfl, hs.keeps Block.keys fun _ => rfl⟩
  · exact ⟨rfl, rfl, rfl⟩

theorem exec_watchdog (hf : s.blk.firmware = true) :
    exec .watchdog s = .next (s.withBlock (if 3 ≤ (s.blk.tick :: withinSecond s.blk.tick s.blk.obs.recentDogs).length then
      (barked s.blk.begin).blockReset .thirdWatchdog 0x74
      else { barked s.blk.begin with boot := { (barked s.blk.begin).boot with seqReset := true } })) := by
  have hgo : ¬ (!s.blk.begin.firmware) = true := by rw [show s.blk.begin.firmware = true from hf]; decide
  exact congrArg (fun b => Host.Outcome.next (s.withBlock b)) (if_neg hgo)

theorem watchdogBarks (hf : s.blk.firmware = true) (hn : (withinSecond s.blk.tick s.blk.obs.recentDogs).length < 2) :
    ∃ t, exec .watchdog s = .next t ∧ t.mem = s.mem ∧ t.blk.boot.seqReset = true ∧
      t.blk.obs.watchdogs = s.blk.obs.watchdogs + 1 ∧ t.blk.seq = s.blk.seq ∧ t.blk.keys = s.blk.keys := by
  obtain ⟨hdogs, hseq, hkeys⟩ := barked_frame s.blk.begin
  refine ⟨_, exec_watchdog hf, State.withBlock_mem .., ?_⟩
  rw [State.withBlock_blk, if_neg (by rw [List.length_cons]; omega)]
  exact ⟨rfl, hdogs, hseq, hkeys⟩

theorem watchdogEscalates (hf : s.blk.firmware = true) (hn : 2 ≤ (withinSecond s.blk.tick s.blk.obs.recentDogs).length) :
    ∃ t, exec .watchdog s = .next t ∧ t.mem = s.mem ∧ t.blk.pins.alarmFatal = true ∧ t.blk.pins.blockSafe = true := by
  obtain ⟨halarm, hsafe, -⟩ := (barked s.blk.begin).blockReset_frame .thirdWatchdog 0x74
  refine ⟨_, exec_watchdog hf, State.withBlock_mem .., ?_⟩
  rw [State.withBlock_blk, if_pos (by rw [List.length_cons]; omega)]
  exact ⟨halarm, hsafe⟩

end Ember

section Restarts

variable {s : State}

/-- A block whose uncommitted commands are gone, as its sequencer restarts. -/
def restarted (d : Block) : Block :=
  { d with boot := { d.boot with seqReset := false }, seq := { d.seq with heldWrites := [] } }

/-- What a restart does once the uncommitted commands are gone and held register writes are carried out. -/
def restartEnds (b : Block) : Block :=
  let b := match b.resets.get? 0x74 with
    | some r => b.endReset 0x74 r
    | none => b.raisePf 0x02 0x74 [(0, b.obs.watchdogs.toNat)]
  ({ b with seq := { b.seq with kills := [] } } : Block).takeKills b.seq.kills

theorem restartEnds_quiet {b : Block} (hno : b.resets.get? 0x74 = none) (hkills : b.seq.kills = []) :
    restartEnds b = { b.raisePf 0x02 0x74 [(0, b.obs.watchdogs.toNat)] with
      seq := { (b.raisePf 0x02 0x74 [(0, b.obs.watchdogs.toNat)]).seq with kills := [] } } := by
  have hk : (b.raisePf 0x02 0x74 [(0, b.obs.watchdogs.toNat)]).seq.kills = [] :=
    (congrArg Sequencer.kills (b.notifies_raisePf 0x02 0x74 [(0, b.obs.watchdogs.toNat)]).seqCore :).trans hkills
  unfold restartEnds
  rw [hno]
  dsimp only
  rw [hk]
  rfl

theorem restartEnds_frame {d : Block} (hno : d.resets.get? 0x74 = none) (hkills : d.seq.kills = []) :
    (restartEnds (restarted d)).boot.seqReset = false ∧ (restartEnds (restarted d)).keys = d.keys ∧
      (restartEnds (restarted d)).ctxs = d.ctxs ∧ (restartEnds (restarted d)).seq.kills = [] ∧
      (restartEnds (restarted d)).seq.cmds = d.seq.cmds := by
  have hraise := (restarted d).notifies_raisePf 0x02 0x74 [(0, (restarted d).obs.watchdogs.toNat)]
  rw [restartEnds_quiet (b := restarted d) hno hkills]
  generalize (restarted d).raisePf 0x02 0x74 [(0, (restarted d).obs.watchdogs.toNat)] = c at hraise
  exact ⟨hraise.keeps (fun b => b.boot.seqReset) fun _ => rfl, hraise.keeps Block.keys fun _ => rfl,
    hraise.keeps Block.ctxs fun _ => rfl, rfl, hraise.cmds⟩

theorem exec_sequencerRestart (hseq : s.blk.boot.seqReset = true) (hsafe : s.blk.pins.blockSafe = false) :
    exec (.sequencerRestart true) s = .next (s.withBlock (restartEnds
      ((restarted s.blk.begin.dropUncommitted).applyWrites s.mem s.blk.begin.dropUncommitted.seq.heldWrites))) := by
  have hgo : ¬ (!s.blk.begin.boot.seqReset || s.blk.begin.pins.blockSafe) = true := by
    rw [show s.blk.begin.boot.seqReset = true from hseq, show s.blk.begin.pins.blockSafe = false from hsafe]
    decide
  exact congrArg (fun b => Host.Outcome.next (s.withBlock b)) ((if_neg hgo).trans (if_neg (by decide)))

theorem sequencerRestarts (hseq : s.blk.boot.seqReset = true) (hsafe : s.blk.pins.blockSafe = false)
    (hno : s.blk.resets.get? 0x74 = none) (hkills : s.blk.seq.kills = []) (hheld : s.blk.seq.heldWrites = []) :
    ∃ t, exec (.sequencerRestart true) s = .next t ∧ t.mem = s.mem ∧ t.blk.boot.seqReset = false ∧
      t.blk.keys.slots = s.blk.keys.slots ∧ t.blk.ctxs = s.blk.ctxs ∧ t.blk.seq.kills = [] ∧
      (∀ e ∈ t.blk.seq.cmds, e.2.uncommitted = false ∨ s.blk.boot.lcJob = some e.1) := by
  obtain ⟨hkeys, hctxs, hresets, hboot, hkills', hheld', hcmds⟩ := s.blk.begin.dropUncommitted_frame
  have hx := exec_sequencerRestart hseq hsafe
  rw [hheld', show s.blk.begin.seq.heldWrites = [] from hheld, Block.applyWrites] at hx
  generalize s.blk.begin.dropUncommitted = d at hx hkeys hctxs hresets hkills' hcmds
  obtain ⟨hrun, hk, hc, hkl, hcm⟩ := restartEnds_frame (d := d) ((congrArg (fun r => Tab.get? r 0x74) hresets).trans hno)
    (hkills'.trans hkills)
  refine ⟨_, hx, State.withBlock_mem .., hrun, congrArg KeyStore.slots (hk.trans hkeys), hc.trans hctxs, hkl, fun e he => ?_⟩
  rw [State.withBlock_blk, hcm] at he
  exact hcmds e he

theorem reloadMismatches (hseq : s.blk.boot.seqReset = true) (hsafe : s.blk.pins.blockSafe = false) :
    ∃ t, exec (.sequencerRestart false) s = .next t ∧ t.mem = s.mem ∧ t.blk.pins.alarmFatal = true ∧
      t.blk.pins.blockSafe = true := by
  have hgo : ¬ (!s.blk.begin.boot.seqReset || s.blk.begin.pins.blockSafe) = true := by
    rw [show s.blk.begin.boot.seqReset = true from hseq, show s.blk.begin.pins.blockSafe = false from hsafe]
    decide
  obtain ⟨halarm, hsafe', -⟩ := s.blk.begin.blockReset_frame .reloadMismatch 0x74
  exact ⟨_, congrArg (fun b => Host.Outcome.next (s.withBlock b)) ((if_neg (α := Block) hgo).trans (if_pos rfl)),
    State.withBlock_mem .., halarm, hsafe'⟩

end Restarts

theorem emberAndWatchdog : Parts.EmberAndWatchdog :=
  ⟨fun _ _ _ h => heartbeatChosen h, fun _ hf => ⟨emberBeats hf, watchdogBarks hf, watchdogEscalates hf⟩,
    fun _ hseq hsafe => ⟨sequencerRestarts hseq hsafe, reloadMismatches hseq hsafe⟩, fun _ => rfl⟩

/-! ## The rake -/

section Rake

variable {s : State} {id : Nat} {c : Cmd}

theorem scrubStarts (h : CmdReady s id 0x0C01 c) (hkind : dfld c.desc 40 1 = 0) (ha : dfld c.desc 16 8 % 128 = 0)
    (hn : dfld c.desc 24 8 % 128 = 0) (hlen : 128 ≤ dfld c.desc 24 8)
    (hdata : s.blk.rangeData (dfld c.desc 16 8) (dfld c.desc 24 8) = true)
    (hfn : c.fn = 0 ∨ s.blk.ownsRegions c.fn (dfld c.desc 16 8) (dfld c.desc 24 8) = true) :
    Answers (.scrubRange id) s
      ((s.blk.begin.wait id).rakeGoes
        { cmd := id, next := dfld c.desc 16 8, stop := dfld c.desc 16 8 + dfld c.desc 24 8, fn := c.fn, vf := c.fn ≠ 0 }) := by
  have howns : (decide (c.fn ≠ 0) && !s.blk.begin.ownsRegions c.fn (dfld c.desc 16 8) (dfld c.desc 24 8)) = false := by
    rcases hfn with hpf | howns
    · rw [hpf]
      rfl
    · rw [show s.blk.begin.ownsRegions c.fn (dfld c.desc 16 8) (dfld c.desc 24 8) = true from howns]
      exact Bool.and_false _
  refine answers_onCommand (by unfold exec execScrubRange; rfl) h ?_
  dsimp only
  refine (if_neg (by rw [hkind]; decide)).trans (if_neg ?_)
  rw [howns, show s.blk.begin.rangeData (dfld c.desc 16 8) (dfld c.desc 24 8) = true from hdata, hkind, ha, hn,
    decide_eq_false hlen.not_gt]
  decide

theorem rakeLineRead {k : Rake} {t : Tier} (ret : LineReturn)
    (hk : (s.blk.seq.rakes.find? fun x => x.cmd = id).map (s.blk.rakeSkip (regionCount + 1)) = some k) (hlt : k.next < k.stop)
    (ht : s.blk.build.dataTier k.next = some t) (hfree : s.blk.passFree (regionOf k.next) (t.mce k.next) [k.next] = true) :
    AnswersWork (.rakeLine id ret) s (s.work.rakeAt k (t.mce k.next) t ret) := by
  change execRakeLine id ret s = _
  unfold execRakeLine
  refine onMemory_done (w := s.work.rakeAt k (t.mce k.next) t ret) ?_
  have hk' : (s.work.blk.seq.rakes.find? fun x => x.cmd = id).map (s.work.blk.rakeSkip (regionCount + 1)) = some k :=
    (congrArg (fun f : Rake → Rake => (s.blk.seq.rakes.find? fun x => x.cmd = id).map f) (funext (s.blk.begin_rakeSkip (regionCount + 1)))).trans hk
  rw [hk']
  dsimp only
  rw [if_neg hlt.not_ge, show s.work.blk.build.dataTier k.next = some t from ht]
  exact if_pos hfree

theorem sramScrubbed (h : CmdReady s id 0x0C01 c) (hkind : dfld c.desc 40 1 = 1) (hpf : c.fn = 0) (ha : dfld c.desc 16 8 = 0)
    (hn : dfld c.desc 24 8 = 0) (hforged : s.blk.forgedSlots = []) :
    Answers (.scrubSram id []) s
      (((s.blk.begin.wait id).rakeEnds id (Config.open64 18 s.blk.fresh).toNat 0 0 0).freshen) := by
  change execScrubSram id [] s = _
  unfold execScrubSram
  rw [onCommandMem_ready _ h]
  refine (onMemoryWait_done (w := s.waitWork.on fun b =>
    ((b.wait id).rakeEnds id (Config.open64 18 s.blk.fresh).toNat 0 0 0).freshen) ?_ rfl).trans rfl
  dsimp only
  rw [if_neg (by rw [hkind]; decide), if_neg (by rw [hpf, ha, hn]; decide),
    show s.waitWork.blk.forgedSlots = [] from hforged]
  rfl

end Rake

theorem rakePasses : Parts.RakePasses :=
  ⟨fun _ _ _ h hkind ha hn hlen hdata hfn => scrubStarts h hkind ha hn hlen hdata hfn,
    fun _ _ _ _ ret hk hlt ht hfree => rakeLineRead ret hk hlt ht hfree,
    fun _ _ _ h hkind hpf ha hn hforged => sramScrubbed h hkind hpf ha hn hforged⟩

/-- Settles O60: engine resets, the bounds of the ladder, the ember and the watchdog, and the rake. -/
theorem recovery : Obligations.Recovery := ⟨engineResets, missedBoundsEscalate, emberAndWatchdog, rakePasses⟩

end Sys2Proof.Proofs
end

section
/-! Descriptors that are fetched, record responses, notices, and the public-key engine's answers (R300 to R303, R319 to R323,
R381, R382). -/

namespace Sys2Proof.Machine

open Sys2Proof Sys2Proof.Machine.Crypto

/-! ## Crossings stay in order -/

section Order

variable (b : Block)

theorem Block.emit_prefix (c : Cross) : b.out <+: (b.emit c).out := by
  rcases b.emit_cases c with h | h
  · rw [h]
    exact List.prefix_append _ _
  · rw [h]

theorem Block.issue_prefix (a : HostAccess) : b.out <+: (b.issue a).out := by
  unfold Block.issue
  split <;> split
  · exact b.emit_prefix _
  · exact List.prefix_rfl
  · exact b.emit_prefix _
  · exact List.prefix_rfl

theorem Block.issues_prefix (l : List HostAccess) : b.out <+: (b.issues l).out := by
  induction l generalizing b with
  | nil => exact List.prefix_rfl
  | cons a r ih => exact (b.issue_prefix a).trans (ih _)

theorem Block.issueGroup_prefix (g : HostGroup) (piece : Nat → Nat → HostAccess) : b.out <+: (b.issueGroup g piece).out :=
  Block.issues_prefix { b with seq := { b.seq with groups := b.seq.groups.put b.seq.nextGroup g, nextGroup := b.seq.nextGroup + 1 } } _

theorem Block.hostRead_prefix (fn addr len : Nat) (why : ReadFor) : b.out <+: (b.hostRead fn addr len why).out := by
  unfold Block.hostRead
  split
  · exact b.issue_prefix _
  · exact b.issueGroup_prefix _ _

theorem Block.hostWrite_prefix (fn addr : Nat) (data : Bytes) (why : WriteFor) :
    b.out <+: (b.hostWrite fn addr data why).out := by
  unfold Block.hostWrite
  split
  · exact b.issue_prefix _
  · exact b.issueGroup_prefix _ _

theorem Block.writeRecord_prefix (q : Nat) : b.out <+: (b.writeRecord q).out := by
  unfold Block.writeRecord
  split
  · exact List.prefix_rfl
  · exact b.hostWrite_prefix _ _ _ _

end Order

/-! ## What the start of fetched commands leaves (R301, R323) -/

/-- A block without what reports and without the public-key engine's requests. -/
def Block.staged (b : Block) : Block := { b.core with pkhLattice := [], pkhCurve := [], pkhIssuers := [] }

/-- A sequencer without its accesses and its commands. -/
def Sequencer.staged (q : Sequencer) : Sequencer := { q.core with cmds := [] }

/-- A queue pair without its records. -/
def QueuePair.bare (p : QueuePair) : QueuePair := { p with done := [] }

/-- What the start of commands leaves: all but the commands, their requests, records and accesses; crossings stay in order. -/
def Block.Starts (a b : Block) : Prop :=
  b.staged = a.staged ∧ b.seq.staged = a.seq.staged ∧ (∀ q, (b.qp q).bare = (a.qp q).bare) ∧ a.out <+: b.out

namespace Block.Starts

theorem refl (b : Block) : b.Starts b := ⟨rfl, rfl, fun _ => rfl, List.prefix_rfl⟩

theorem trans {a b c : Block} (h : a.Starts b) (k : b.Starts c) : a.Starts c := by
  obtain ⟨h1, h2, h3, h4⟩ := h
  obtain ⟨k1, k2, k3, k4⟩ := k
  exact ⟨k1.trans h1, k2.trans h2, fun q => (k3 q).trans (h3 q), h4.trans k4⟩

/-- Accesses at `hcp_*` that take no crossing back. -/
theorem ofAccesses {a b : Block} (h : a.Accesses b) (hp : a.out <+: b.out) : a.Starts b :=
  ⟨congrArg (fun b : Block => ({ b with pkhLattice := [], pkhCurve := [], pkhIssuers := [] } : Block)) h.core,
    congrArg (fun q : Sequencer => ({ q with cmds := [] } : Sequencer)) h.seqCore, fun q => congrArg QueuePair.bare (h.qp q), hp⟩

/-- Another table of commands. -/
theorem setCmds (b : Block) (t : Tab Cmd) : b.Starts { b with seq := { b.seq with cmds := t } } :=
  ⟨rfl, rfl, fun _ => rfl, List.prefix_rfl⟩

/-- Other records of a queue pair. -/
theorem modQp (b : Block) (q : Nat) {g : QueuePair → QueuePair} (hg : ∀ p, (g p).bare = p.bare) : b.Starts (b.modQp q g) := by
  refine ⟨rfl, rfl, fun p => ?_, List.prefix_rfl⟩
  by_cases hp : p = q
  · rw [hp, Block.modQp_qp, hg]
  · rw [Block.modQp_qp_other _ _ hp]

theorem queueRecord (b : Block) (q : Nat) (r : Rec) : b.Starts (b.queueRecord q r) := by
  unfold Block.queueRecord
  split_ifs
  · exact refl b
  · have hmod := modQp b q (g := fun p => { p with done := p.done ++ [r] }) fun _ => rfl
    exact hmod.trans (ofAccesses (Block.accesses_writeRecord _ q) (Block.writeRecord_prefix _ q))
  · exact modQp b q fun _ => rfl

theorem complete (b : Block) (id : Nat) (st : Status) (x y : BitVec 64) (r : Bool) : b.Starts (b.complete id st x y r) := by
  unfold Block.complete
  split
  · exact refl b
  · exact (setCmds b _).trans (queueRecord _ _ _)

theorem hostRead (b : Block) (fn addr len : Nat) (why : ReadFor) : b.Starts (b.hostRead fn addr len why) :=
  ofAccesses (b.accesses_hostRead fn addr len why) (b.hostRead_prefix fn addr len why)

theorem pkhEnter (b : Block) (r : Nat × Nat) : b.Starts (b.pkhEnter r) := by
  unfold Block.pkhEnter
  split
  · exact ⟨rfl, rfl, fun _ => rfl, List.prefix_rfl⟩
  · exact ⟨rfl, rfl, fun _ => rfl, List.prefix_rfl⟩

theorem pkhAsk (b : Block) (id : Nat) (l : List Nat) : b.Starts (b.pkhAsk id l) := by
  induction l generalizing b with
  | nil => exact refl b
  | cons row r ih =>
    refine trans ?_ (ih _)
    split
    · exact pkhEnter b _
    · exact ⟨rfl, rfl, fun _ => rfl, List.prefix_rfl⟩

theorem startCmd (b : Block) (id : Nat) (c : Cmd) : b.Starts (b.startCmd id c) := by
  unfold Block.startCmd
  split
  · split
    · exact (setCmds b _).trans (hostRead _ _ _ _ _)
    · exact (setCmds b _).trans (pkhAsk _ _ _)
  · exact complete b id _ 0 0 false

theorem kickList (b : Block) (l : List (Nat × Cmd)) : b.Starts (b.kickList l) := by
  induction l generalizing b with
  | nil => exact refl b
  | cons e r ih =>
    unfold Block.kickList
    split_ifs
    · exact ih b
    · exact (startCmd b e.1 e.2).trans (ih _)
    · exact refl b

theorem kick (b : Block) (q : Nat) : b.Starts (b.kick q) := kickList b _

end Block.Starts

/-! ## A descriptor that enters the command table (R300 to R302) -/

/-- The command that a fetched descriptor makes. -/
def Block.fetched (b : Block) (q : Nat) (d : Descriptor) : Cmd :=
  { qp := q, fn := (b.qp q).fn, sqIdx := (b.qp q).sqHead, desc := d, stage := .fetched }

/-- The block whose command table holds a fetched descriptor. -/
def Block.entered (b : Block) (q : Nat) (d : Descriptor) : Block :=
  { b.fetchEntry q with
    seq := { (b.fetchEntry q).seq with
             cmds := (b.fetchEntry q).seq.cmds.put (b.fetchEntry q).seq.nextCmd (b.fetched q d)
             nextCmd := (b.fetchEntry q).seq.nextCmd + 1 } }

theorem Block.takeDescriptor_eq (b : Block) (q : Nat) (d : Descriptor) : b.takeDescriptor q d = (b.entered q d).kick q := rfl

theorem Block.takeTurn_turnQp (b : Block) (q : Nat) : (b.takeTurn q).seq.turnQp = q := by
  unfold Block.takeTurn
  split
  · next h =>
    rw [Bool.and_eq_true, decide_eq_true_eq, decide_eq_true_eq] at h
    exact h.2
  · rfl

theorem Block.fetchEntry_turnQp (b : Block) (q : Nat) : (b.fetchEntry q).seq.turnQp = q :=
  (congrArg Sequencer.turnQp (Block.emits_frame (b.takeTurn q) _).2.1).trans (b.takeTurn_turnQp q)

/-- What holds once a descriptor has entered. -/
theorem Block.entered_frame {b : Block} (q : Nat) (d : Descriptor) (hrun : b.stopped.contains .hcp = false) :
    (b.entered q d).staged = b.staged ∧ (b.entered q d).qp q = (b.qp q).advanceSq ∧
      (b.entered q d).seq.cmds = b.seq.cmds.put b.seq.nextCmd (b.fetched q d) ∧
      (b.entered q d).seq.nextCmd = b.seq.nextCmd + 1 ∧ (b.entered q d).seq.turnQp = q ∧
      (b.entered q d).out = b.out ++ [b.entryFetch q] := by
  have hturn := b.fetchEntry_turnQp q
  obtain ⟨lastFn, turnQp, turnLeft, t, hfetch, -⟩ := Block.fetchEntry_running q hrun
  unfold Block.entered
  rw [hfetch] at hturn ⊢
  exact ⟨rfl, Tab.getD_put_same .., rfl, rfl, hturn, rfl⟩

theorem Block.firstChecks_congr {a b : Block} (hboot : b.boot = a.boot) (hctxs : b.ctxs = a.ctxs) (fn : Nat) (d : Descriptor) :
    b.firstChecks fn d = a.firstChecks fn d := by
  unfold Block.firstChecks Block.tagOk Block.ctxFn
  rw [hboot, hctxs]

/-- A command behind all others of a table is the last. -/
theorem Tab.put_last {α : Type} {t : Tab α} {k : Nat} (a : α) (h : ∀ e ∈ t, e.1 < k) : Tab.put t k a = t ++ [(k, a)] := by
  induction t with
  | nil => rfl
  | cons e r ih =>
    have he := h e List.mem_cons_self
    unfold Tab.put
    rw [if_neg he.not_gt, if_neg he.ne', ih fun x hx => h x (List.mem_cons_of_mem _ hx)]
    rfl

theorem Tab.mem_put_other {α : Type} {t : Tab α} {k : Nat} {a : α} {e : Nat × α} (h : e ∈ t) (hk : e.1 ≠ k) : e ∈ Tab.put t k a := by
  induction t with
  | nil => cases h
  | cons x r ih =>
    unfold Tab.put
    rcases List.mem_cons.mp h with rfl | hr
    · split_ifs with h1 h2
      · exact List.mem_cons_of_mem _ List.mem_cons_self
      · exact absurd h2.symm hk
      · exact List.mem_cons_self
    · split_ifs
      · exact List.mem_cons_of_mem _ (List.mem_cons_of_mem _ hr)
      · exact List.mem_cons_of_mem _ hr
      · exact List.mem_cons_of_mem _ (ih hr)

/-! ## The start of the only command of a queue pair (R301, R323) -/

section Alone

variable {b : Block} {q id : Nat} {c : Cmd}

theorem Block.mayStart_alone (hf : b.seq.cmds.filter (fun e => decide (e.2.qp = c.qp)) = [(id, c)]) (hd : (b.qp c.qp).done = []) :
    b.mayStart id c = true := by
  have hnone (e : Nat × Cmd) (he : e ∈ b.seq.cmds) (hq : e.2.qp = c.qp) : ¬ e.1 < id := by
    have hin : e ∈ b.seq.cmds.filter (fun e => decide (e.2.qp = c.qp)) := List.mem_filter.mpr ⟨he, decide_eq_true hq⟩
    rw [hf, List.mem_singleton] at hin
    rw [hin]
    exact lt_irrefl _
  have hwait : b.heldByWait id c = false := by
    unfold Block.heldByWait
    rw [hd, List.any_nil, Bool.or_false, List.any_eq_false]
    intro e he h
    simp only [Bool.and_eq_true, decide_eq_true_eq] at h
    exact hnone e he h.1.2 h.1.1
  have hfirst : b.firstOfSq id c = true := by
    unfold Block.firstOfSq
    rw [hd, List.isEmpty_nil, Bool.true_and, Bool.not_eq_true', List.any_eq_false]
    intro e he h
    simp only [Bool.and_eq_true, decide_eq_true_eq] at h
    exact hnone e he h.2 h.1
  rw [Block.mayStart, hwait, hfirst]
  exact Bool.or_true _

theorem Block.kick_alone (hf : b.seq.cmds.filter (fun e => decide (e.2.qp = c.qp)) = [(id, c)]) (hd : (b.qp c.qp).done = [])
    (hs : c.stage = .fetched) : b.kick c.qp = b.startCmd id c := by
  rw [Block.kick, hf, Block.kickList, if_neg (not_not.mpr hs), if_pos (b.mayStart_alone hf hd), Block.kickList]

theorem Block.pkhAsk_cmds (b : Block) (id : Nat) (l : List Nat) : (b.pkhAsk id l).seq.cmds = b.seq.cmds ∧ (b.pkhAsk id l).qps = b.qps := by
  induction l generalizing b with
  | nil => exact ⟨rfl, rfl⟩
  | cons row r ih =>
    unfold Block.pkhAsk Block.pkhEnter
    obtain ⟨h1, h2⟩ := ih (if b.pkhHeld < 128 then
      if row < 3 then { b with pkhLattice := pkhPut b.signsUsage b.pkhLattice (id, row) }
      else { b with pkhCurve := pkhPut b.signsUsage b.pkhCurve (id, row) }
      else { b with pkhIssuers := b.pkhIssuers ++ [(id, row)] })
    refine ⟨h1.trans ?_, h2.trans ?_⟩ <;> split_ifs <;> rfl

/-- A command that passes checks 1 to 6 reads its host buffer, or is ready. -/
theorem Block.startCmd_ok (hc : b.cmd? id = some c) (hok : b.firstChecks c.fn c.desc = .ok) :
    ∃ c', (b.startCmd id c).cmd? id = some c' ∧ c'.qp = c.qp ∧ c'.fn = c.fn ∧ c'.sqIdx = c.sqIdx ∧ c'.desc = c.desc ∧
      c'.stage = (if (hostBuffer c.desc).isSome then .reading else .ready) ∧ (b.startCmd id c).qps = b.qps := by
  unfold Block.startCmd
  rw [hok]
  dsimp only
  cases hb : hostBuffer c.desc with
  | some x =>
    have hread := Block.accesses_hostRead (b.modCmd id fun c => { c with stage := .reading }) c.fn x.1 x.2 (.buffer id)
    refine ⟨{ c with stage := .reading }, ?_, rfl, rfl, rfl, rfl, rfl, hread.qps⟩
    refine (hread.cmd id).trans ?_
    rw [Block.modCmd_cmd, hc]
    rfl
  | none =>
    obtain ⟨hcmds, hqps⟩ := Block.pkhAsk_cmds
      (b.modCmd id fun c => { c with stage := .ready, buf := [], pkhLeft := (pkhRows c.desc).length }) id (pkhRows c.desc)
    refine ⟨{ c with stage := .ready, buf := [], pkhLeft := (pkhRows c.desc).length }, ?_, rfl, rfl, rfl, rfl, rfl, hqps⟩
    refine (congrArg (Tab.get? · id) hcmds).trans ?_
    refine (Block.modCmd_cmd b id _).trans ?_
    rw [hc]
    rfl

/-- A command that fails one of checks 1 to 6 ends with its status. -/
theorem Block.startCmd_bad {st : Status} (hst : b.firstChecks c.fn c.desc = st) (hne : st ≠ .ok) :
    b.startCmd id c = b.fail id st := by
  unfold Block.startCmd
  rw [hst]
  split
  · next h => exact absurd rfl hne
  · rfl

end Alone

/-- Behind an earlier FENCE_WAIT nothing of a queue pair starts (R301). -/
theorem Block.kickList_held {b : Block} {e : Nat × Cmd} (he : e ∈ b.seq.cmds) (hop : e.2.opcode = 0x0A02)
    (l : List (Nat × Cmd)) (hl : ∀ x ∈ l, x.2.qp = e.2.qp ∧ (x.2.stage = .fetched → e.1 < x.1)) : b.kickList l = b := by
  induction l with
  | nil => rfl
  | cons x r ih =>
    obtain ⟨hq, hlt⟩ := hl x List.mem_cons_self
    unfold Block.kickList
    split_ifs with hs hm
    · exact ih fun y hy => hl y (List.mem_cons_of_mem _ hy)
    · have hheld : b.heldByWait x.1 x.2 = true := by
        unfold Block.heldByWait
        refine Bool.or_eq_true_iff.mpr (.inl (List.any_eq_true.mpr ⟨e, he, ?_⟩))
        rw [decide_eq_true (hlt (not_not.mp hs)), decide_eq_true hq.symm, decide_eq_true hop]
        rfl
      rw [Block.mayStart, hheld] at hm
      simp at hm
    · rfl

/-! ## Events without an alarm raise no interrupt (R309, R490) -/

section NoInterrupt

variable (b : Block)

theorem Block.Accessed.irq_mem {a b : Block} (h : a.Accessed b) {f : Nat} {vec : BitVec 11} (hi : Cross.irq f vec ∈ b.out) :
    Cross.irq f vec ∈ a.out := by
  obtain ⟨_, _, _, rfl, -, hirq, -⟩ := h
  exact hirq f vec hi

theorem Block.faultRecord_irq (g : Nat) (e : Event) {f : Nat} {vec : BitVec 11} (hi : Cross.irq f vec ∈ (b.faultRecord g e false).out) :
    Cross.irq f vec ∈ b.out := by
  unfold Block.faultRecord at hi
  split at hi
  · dsimp only at hi
    split at hi
    · have h := Block.Accessed.irq_mem (Block.Accessed.writeFault _ g) hi
      exact h
    · exact hi
  · exact hi

theorem Block.sendTo_irq (e : Event) (l : List Nat) {f : Nat} {vec : BitVec 11} (hi : Cross.irq f vec ∈ (b.sendTo e false l).out) :
    Cross.irq f vec ∈ b.out := by
  induction l generalizing b with
  | nil => exact hi
  | cons g r ih =>
    have hno : (decide (false = true ∧ g = 0)) = false := decide_eq_false fun h => Bool.false_ne_true h.1
    unfold Block.sendTo at hi
    rw [hno] at hi
    exact b.faultRecord_irq g _ (ih _ hi)

theorem Block.raise_irq (v : Ev) (qs : List Nat) {f : Nat} {vec : BitVec 11} (hi : Cross.irq f vec ∈ (b.raise v qs).out) :
    Cross.irq f vec ∈ b.out := by
  have hs := Block.sendTo_irq _ _ qs hi
  obtain ⟨t, ht⟩ := ({ b with obs := b.obs.note (b.record v false) } : Block).streams_noted (b.record v false)
  rw [ht] at hs
  exact hs

end NoInterrupt

/-! ## A record whose write has been answered, with no command in flight (R300, R303) -/

section Answered

variable {b : Block} {q : Nat} {r : Rec}

/-- The interrupt of a record touches the queue pair's coalescing alone. -/
theorem Block.recordIrq_frame (b : Block) (q : Nat) (r : Rec) :
    (∃ u, (b.recordIrq q r).qp q = { b.qp q with uncovered := u }) ∧ (b.recordIrq q r).seq = b.seq := by
  unfold Block.recordIrq Block.irq
  split_ifs
  · exact ⟨⟨0, by rw [Block.qp, Block.emit_qps, ← Block.qp, Block.modQp_qp]⟩, Block.emit_seq ..⟩
  · exact ⟨⟨(b.qp q).uncovered, rfl⟩, rfl⟩
  · exact ⟨⟨0, by rw [Block.qp, Block.emit_qps, ← Block.qp, Block.modQp_qp]⟩, Block.emit_seq ..⟩
  · exact ⟨⟨_, Block.modQp_qp ..⟩, rfl⟩

/-- A record that asks for its interrupt at once. -/
theorem Block.recordIrq_force (hf : r.force = true) (hrun : b.stopped.contains .hcp = false) :
    (b.recordIrq q r).out = b.out ++ [.irq (b.qp q).fn (b.qp q).vector] := by
  unfold Block.recordIrq
  rw [if_pos hf]
  have h := Block.emit_running (b.modQp q fun p => { p with uncovered := 0 }) (.irq (b.qp q).fn (b.qp q).vector) hrun
  exact congrArg Block.out h

/-- With no command in flight the tail moves on, and nothing starts. -/
theorem Block.recordAnswered_idle {err : Bool} {x : Block} (hd : (b.qp q).done = [r]) (hr : r.restart = false)
    (hx : (if err then b.raise (recordFault q (b.qp q).fn r) [(b.qp q).fn] else b.recordIrq q r) = x)
    (hdone : (x.qp q).done = [r]) (hc : x.seq.cmds = []) : b.recordAnswered q err = x.modQp q QueuePair.recordTaken := by
  have hidle := Block.kick_idle (b := x.modQp q QueuePair.recordTaken) q hc
  rw [Block.recordAnswered, hd]
  dsimp only
  rw [if_neg (by rw [hr]; exact Bool.false_ne_true)]
  change Block.kick (Block.advanceCq (if err then b.raise (recordFault q (b.qp q).fn r) [(b.qp q).fn] else b.recordIrq q r) q) q = _
  rw [hx, Block.advanceCq_last hdone]
  exact hidle

end Answered

/-! ## The public-key engine's queues (R381, R382) -/

section PublicKey

theorem pkhPut_length (usage : Nat × Nat → Bool) (l : List (Nat × Nat)) (r : Nat × Nat) : (pkhPut usage l r).length = l.length + 1 := by
  unfold pkhPut
  split
  · rfl
  · next x t =>
    split
    · have h := congrArg List.length (List.takeWhile_append_dropWhile (p := usage) (l := t))
      rw [List.length_append] at h
      rw [List.length_cons, List.length_append, List.length_cons, List.length_cons]
      omega
    · exact List.length_append

variable (b : Block)

theorem Block.pkhEnter_held (r : Nat × Nat) : (b.pkhEnter r).pkhHeld = b.pkhHeld + 1 := by
  unfold Block.pkhEnter Block.pkhHeld
  split
  · dsimp only
    rw [pkhPut_length]
    omega
  · dsimp only
    rw [pkhPut_length]
    omega

theorem Block.pkhEnter_leaves (r : Nat × Nat) :
    (b.pkhEnter r).pkhIssuers = b.pkhIssuers ∧ (b.pkhEnter r).seq = b.seq ∧ (b.pkhEnter r).obs = b.obs := by
  unfold Block.pkhEnter
  split
  · exact ⟨rfl, rfl, rfl⟩
  · exact ⟨rfl, rfl, rfl⟩

theorem Block.pkhRefill_leaves (n : Nat) : (b.pkhRefill n).seq = b.seq ∧ (b.pkhRefill n).obs = b.obs := by
  induction n generalizing b with
  | zero => exact ⟨rfl, rfl⟩
  | succ n ih =>
    unfold Block.pkhRefill
    split
    · exact ⟨rfl, rfl⟩
    · split
      · exact ⟨rfl, rfl⟩
      · next r _ =>
        obtain ⟨-, hseq, hobs⟩ := ({ b with pkhIssuers := b.pkhIssuers.erase r } : Block).pkhEnter_leaves r
        exact ⟨(ih _).1.trans hseq, (ih _).2.trans hobs⟩

/-- The request that goes next is one that waits; there is one as long as any waits. -/
theorem Block.nextIssuer_mem {r : Nat × Nat} (h : (b.pkhIssuers.find? b.signsUsage).or b.pkhIssuers.head? = some r) :
    r ∈ b.pkhIssuers := by
  rcases Option.or_eq_some_iff.mp h with hf | ⟨-, hh⟩
  · exact List.mem_of_find?_eq_some hf
  · exact List.mem_of_head? hh

/-- Requests that waited fill the room. -/
theorem Block.pkhRefill_held (n : Nat) (hn : b.pkhIssuers.length = n) (hheld : b.pkhHeld ≤ 128) :
    (b.pkhRefill n).pkhHeld = min 128 (b.pkhHeld + n) := by
  induction n generalizing b with
  | zero => exact (min_eq_right hheld).symm
  | succ n ih =>
    unfold Block.pkhRefill
    split
    · omega
    · split
      · next hnone =>
        have hhead := (Option.or_eq_none_iff.mp hnone).2
        rw [List.head?_eq_none_iff] at hhead
        rw [hhead] at hn
        cases hn
      · next r hr =>
        obtain ⟨hiss, -, -⟩ := ({ b with pkhIssuers := b.pkhIssuers.erase r } : Block).pkhEnter_leaves r
        have hone := ({ b with pkhIssuers := b.pkhIssuers.erase r } : Block).pkhEnter_held r
        have hb : ({ b with pkhIssuers := b.pkhIssuers.erase r } : Block).pkhHeld = b.pkhHeld := rfl
        rw [ih _ ?_ ?_, hone, hb]
        · omega
        · rw [hiss]
          exact (List.length_erase_of_mem (b.nextIssuer_mem hr)).trans (by omega)
        · rw [hone, hb]
          omega

/-- The datapath's oldest request has been answered. -/
def Block.pkhTook (lattice : Bool) (rest : List (Nat × Nat)) : Block :=
  if lattice then { b with pkhLattice := rest } else { b with pkhCurve := rest }

theorem Block.pkhTook_frame (lattice : Bool) (rest : List (Nat × Nat)) :
    (b.pkhTook lattice rest).pkhIssuers = b.pkhIssuers ∧ (b.pkhTook lattice rest).seq = b.seq ∧
      (b.pkhTook lattice rest).obs = b.obs := by
  cases lattice <;> exact ⟨rfl, rfl, rfl⟩

theorem Block.pkhTook_held {lattice : Bool} {x : Nat × Nat} {rest : List (Nat × Nat)}
    (h : (if lattice then b.pkhLattice else b.pkhCurve) = x :: rest) : (b.pkhTook lattice rest).pkhHeld + 1 = b.pkhHeld := by
  unfold Block.pkhTook Block.pkhHeld
  cases lattice with
  | true =>
    rw [if_pos rfl] at h
    rw [if_pos rfl, h, List.length_cons]
    dsimp only
    omega
  | false =>
    rw [if_neg Bool.false_ne_true] at h
    rw [if_neg Bool.false_ne_true, h, List.length_cons]
    dsimp only
    omega

/-- The answer counts for its command. -/
def Block.pkhAnswered (id row : Nat) (r : PkhResult) : Block :=
  (b.count 11 row 1).modCmd id fun c => { c with pkhLeft := c.pkhLeft - 1, pkh := c.pkh ++ [c.pkhAnswer row r] }

/-- The queues that a request has left. -/
theorem Block.pkhTook_lists (lattice : Bool) (rest : List (Nat × Nat)) :
    (if lattice then (b.pkhTook lattice rest).pkhLattice else (b.pkhTook lattice rest).pkhCurve) = rest ∧
      (if lattice then (b.pkhTook lattice rest).pkhCurve else (b.pkhTook lattice rest).pkhLattice) =
        (if lattice then b.pkhCurve else b.pkhLattice) := by
  cases lattice <;> exact ⟨rfl, rfl⟩

theorem Block.pkhAnswered_frame (id row : Nat) (r : PkhResult) :
    (b.pkhAnswered id row r).pkhLattice = b.pkhLattice ∧ (b.pkhAnswered id row r).pkhCurve = b.pkhCurve ∧
      (b.pkhAnswered id row r).pkhIssuers = b.pkhIssuers ∧
      (b.pkhAnswered id row r).cmd? id =
        (b.cmd? id).map (fun c => { c with pkhLeft := c.pkhLeft - 1, pkh := c.pkh ++ [c.pkhAnswer row r] }) ∧
      (b.pkhAnswered id row r).obs.ops.getD (16 * 11 + row) 0 = satAdd64 (b.obs.ops.getD (16 * 11 + row) 0) 1 :=
  ⟨rfl, rfl, rfl, Block.modCmd_cmd _ id _, Tab.getD_put_same ..⟩

end PublicKey

end Sys2Proof.Machine

namespace Sys2Proof.Proofs

open Sys2Proof Sys2Proof.Machine

/-! ## Descriptors -/

section Fetch

variable {s : State} {q : Nat} {d : Descriptor}

theorem exec_descriptorFetch (hp : PortOpen .hcp s) (hm : s.blk.mayFetch q = true) :
    exec (.descriptorFetch q d) s = .next (s.withBlock ((s.blk.begin.entered q d).kick q)) := by
  have hm' : s.blk.begin.mayFetch q = true := hm
  change execDescriptorFetch q d s = _
  rw [execDescriptorFetch, atPort_open _ hp.1 hp.2, onBlock_eq, if_pos hm', Block.takeDescriptor_eq]
  rfl

/-- The entry is read, the head moves on, a slot is reserved, and the turn is taken. -/
theorem descriptorEnters (hp : PortOpen .hcp s) (hm : s.blk.mayFetch q = true) :
    ∃ t, exec (.descriptorFetch q d) s = .next t ∧ t.mem = s.mem ∧
      (t.blk.qp q).sqHead = ((s.blk.qp q).sqHead + 1) % 2 ^ (s.blk.qp q).sqLog2 ∧
      (t.blk.qp q).reserved = (s.blk.qp q).reserved + 1 ∧ t.blk.keys = s.blk.keys ∧ t.blk.regions = s.blk.regions ∧
      t.blk.seq.nextCmd = s.blk.seq.nextCmd + 1 ∧ t.blk.seq.turnQp = q ∧
      t.blk.out.head? =
        some (.hcpRead (s.blk.qp q).fn (BitVec.ofNat 64 ((s.blk.qp q).sqBase.toNat + 64 * (s.blk.qp q).sqHead)) 64
          ((s.blk.seq.reads.lowest hcpTags).getD 255)) := by
  obtain ⟨hstaged, hqp, -, hnext, hturn, hout⟩ := Block.entered_frame (b := s.blk.begin) q d hp.2
  have hx := exec_descriptorFetch (d := d) hp hm
  have hkick := Block.Starts.kick (s.blk.begin.entered q d) q
  generalize s.blk.begin.entered q d = e at hstaged hqp hnext hturn hout hx hkick
  generalize e.kick q = k at hx hkick
  obtain ⟨kstaged, kseq, kqp, x, kout⟩ := hkick
  have hstay : k.staged = s.blk.begin.staged := kstaged.trans hstaged
  have hbare : (k.qp q).bare = (s.blk.qp q).advanceSq.bare := (kqp q).trans (congrArg QueuePair.bare hqp)
  have hhead : k.out = s.blk.begin.entryFetch q :: x := by rw [← kout, hout]; rfl
  refine ⟨_, hx, State.withBlock_mem .., (congrArg QueuePair.sqHead hbare :), (congrArg QueuePair.reserved hbare :),
    (congrArg Block.keys hstay :), (congrArg Block.regions hstay :), (congrArg Sequencer.nextCmd kseq :).trans hnext,
    (congrArg Sequencer.turnQp kseq :).trans hturn, congrArg List.head? hhead⟩

theorem entered_checks (hrun : s.blk.stopped.contains .hcp = false) (fn : Nat) :
    (s.blk.begin.entered q d).firstChecks fn d = s.blk.firstChecks fn d := by
  obtain ⟨hstaged, -⟩ := Block.entered_frame (b := s.blk.begin) q d hrun
  exact Block.firstChecks_congr (congrArg Block.boot hstaged :) (congrArg Block.ctxs hstaged :) fn d

theorem entered_cmd (hrun : s.blk.stopped.contains .hcp = false) :
    (s.blk.begin.entered q d).cmd? s.blk.seq.nextCmd = some (s.blk.fetched q d) := by
  obtain ⟨-, -, hcmds, -⟩ := Block.entered_frame (b := s.blk.begin) q d hrun
  exact (congrArg (Tab.get? · s.blk.seq.nextCmd) hcmds).trans (Tab.get?_put_same ..)

variable (hfresh : ∀ e ∈ s.blk.seq.cmds, e.2.qp ≠ q ∧ e.1 < s.blk.seq.nextCmd)
include hfresh

/-- A descriptor with no other command of its queue pair is the only one there. -/
theorem entered_alone (hrun : s.blk.stopped.contains .hcp = false) :
    (s.blk.begin.entered q d).seq.cmds = s.blk.seq.cmds ++ [(s.blk.seq.nextCmd, s.blk.fetched q d)] ∧
      (s.blk.begin.entered q d).seq.cmds.filter (fun e => decide (e.2.qp = q)) = [(s.blk.seq.nextCmd, s.blk.fetched q d)] := by
  obtain ⟨-, -, hcmds, -⟩ := Block.entered_frame (b := s.blk.begin) q d hrun
  have happ : (s.blk.begin.entered q d).seq.cmds = s.blk.seq.cmds ++ [(s.blk.seq.nextCmd, s.blk.fetched q d)] :=
    hcmds.trans (Tab.put_last _ fun e he => (hfresh e he).2)
  refine ⟨happ, ?_⟩
  rw [happ, List.filter_append, List.filter_eq_nil_iff.mpr fun e he => by simpa using (hfresh e he).1, List.nil_append]
  exact List.filter_eq_self.mpr fun e he => by rw [List.mem_singleton.mp he]; exact decide_eq_true rfl

theorem kick_entered (hrun : s.blk.stopped.contains .hcp = false) (hd : (s.blk.qp q).done = []) :
    (s.blk.begin.entered q d).kick q = (s.blk.begin.entered q d).startCmd s.blk.seq.nextCmd (s.blk.fetched q d) := by
  obtain ⟨-, hqp, -⟩ := Block.entered_frame (b := s.blk.begin) q d hrun
  exact Block.kick_alone (c := s.blk.fetched q d) (entered_alone hfresh hrun).2 ((congrArg QueuePair.done hqp).trans hd) rfl

theorem descriptorStarts (hp : PortOpen .hcp s) (hm : s.blk.mayFetch q = true) (hd : (s.blk.qp q).done = [])
    (hok : s.blk.firstChecks (s.blk.qp q).fn d = .ok) :
    ∃ t, exec (.descriptorFetch q d) s = .next t ∧
      (t.blk.cmd? s.blk.seq.nextCmd).map (fun c => (c.qp, c.fn, c.sqIdx, c.desc)) =
        some (q, (s.blk.qp q).fn, (s.blk.qp q).sqHead, d) ∧
      (t.blk.cmd? s.blk.seq.nextCmd).map (fun c => c.stage) =
        some (if (hostBuffer d).isSome then .reading else .ready) ∧
      (t.blk.qp q).done = [] := by
  obtain ⟨-, hqp, -⟩ := Block.entered_frame (b := s.blk.begin) q d hp.2
  obtain ⟨c, hc, hcq, hcf, hci, hcd, hstage, hqps⟩ := Block.startCmd_ok (entered_cmd hp.2)
    ((entered_checks hp.2 _).trans hok)
  refine ⟨_, exec_descriptorFetch hp hm, ?_⟩
  rw [State.withBlock_blk, kick_entered hfresh hp.2 hd, hc]
  refine ⟨?_, congrArg some hstage, ?_⟩
  · rw [Option.map_some, hcq, hcf, hci, hcd]
    rfl
  · rw [Block.qp, hqps]
    exact (congrArg QueuePair.done hqp).trans hd

theorem descriptorFails {st : Status} (hp : PortOpen .hcp s) (hm : s.blk.mayFetch q = true) (hd : (s.blk.qp q).done = [])
    (hne : st ≠ .ok) (hst : s.blk.firstChecks (s.blk.qp q).fn d = st) :
    ∃ t, exec (.descriptorFetch q d) s = .next t ∧ t.blk.seq.cmds = s.blk.seq.cmds ∧
      (t.blk.qp q).done =
        [{ cookie := BitVec.ofNat 64 (dfld d 8 8), status := st, sqIdx := (s.blk.qp q).sqHead
           opcode := BitVec.ofNat 16 (dfld d 0 2), irq := (dfld d 2 2).testBit 0, force := dfld d 0 2 = 0x0A03 }] := by
  obtain ⟨-, hqp, -⟩ := Block.entered_frame (b := s.blk.begin) q d hp.2
  have hbad := Block.startCmd_bad (b := s.blk.begin.entered q d) (id := s.blk.seq.nextCmd) (c := s.blk.fetched q d)
    ((entered_checks hp.2 (s.blk.qp q).fn).trans hst) hne
  have hen : ((s.blk.begin.entered q d).qp q).enabled = true :=
    (congrArg QueuePair.enabled hqp).trans (Block.enabled_of_mayFetch hm)
  refine ⟨_, exec_descriptorFetch hp hm, ?_⟩
  rw [State.withBlock_blk, kick_entered hfresh hp.2 hd, hbad, Block.fail]
  refine ⟨?_, ?_⟩
  · rw [Block.complete_cmds, (entered_alone hfresh hp.2).1, Tab.del, List.filter_append,
      List.filter_eq_self.mpr fun e he => by simpa using (hfresh e he).2.ne]
    simp
  · rw [Block.complete_qp _ _ _ _ _ _ (entered_cmd hp.2), if_pos ⟨rfl, hen⟩]
    exact congrArg (· ++ _) ((congrArg QueuePair.done hqp).trans hd)

end Fetch

theorem descriptorsEnterOrFail : Parts.DescriptorsEnterOrFail := by
  intro s q d hp hm
  refine ⟨descriptorEnters hp hm, fun hfresh hd hok => descriptorStarts hfresh hp hm hd hok,
    fun st hfresh hd hne hst => descriptorFails hfresh hp hm hd hne hst, fun ⟨e, he, hq, hop, hlt, hfirst⟩ => ?_⟩
  obtain ⟨-, -, hcmds, -⟩ := Block.entered_frame (b := s.blk.begin) q d hp.2
  have hheld : (s.blk.begin.entered q d).kick q = s.blk.begin.entered q d := by
    refine Block.kickList_held (e := e) ?_ hop _ fun x hx => ?_
    · rw [hcmds]
      exact Tab.mem_put_other he hlt.ne
    · obtain ⟨hx, hxq⟩ := List.mem_filter.mp hx
      refine ⟨(of_decide_eq_true hxq).trans hq.symm, fun hs => ?_⟩
      rw [hcmds] at hx
      rcases Tab.mem_put hx with hx | rfl
      · exact hfirst x hx (of_decide_eq_true hxq) hs
      · exact hlt
  refine ⟨_, exec_descriptorFetch hp hm, ?_⟩
  rw [State.withBlock_blk, hheld]
  exact (congrArg (Tab.get? · s.blk.seq.nextCmd) hcmds).trans (Tab.get?_put_same ..)

/-! ## Record responses -/

theorem recordResponsesAdvanceTheQueue : Parts.RecordResponsesAdvanceTheQueue := by
  intro s tag q r err hp hw hd hr hc
  have hfreed := s.blk.begin.writeTagFreed_accessed tag
  have hans := exec_hcpWriteResponse_record err hp hw
  have hout : s.blk.seq.hostWait = [] → (s.blk.begin.writeTagFreed tag).out = [] := by
    intro hwait
    rw [Block.writeTagFreed, Block.hostNext, show ({ s.blk.begin with seq := { s.blk.begin.seq with
      writes := Tab.del s.blk.begin.seq.writes tag } } : Block).seq.hostWait = [] from hwait]
    rfl
  have hobs : (s.blk.begin.writeTagFreed tag).obs = s.blk.obs := by
    obtain ⟨_, _, _, h, -⟩ := hfreed
    exact (congrArg Block.obs h :)
  have hrun : (s.blk.begin.writeTagFreed tag).stopped.contains .hcp = false := by
    obtain ⟨_, _, _, h, -⟩ := hfreed
    exact (congrArg (fun b : Block => b.stopped.contains .hcp) h).trans hp.2
  have hquiet : ∀ f vec, .irq f vec ∉ (s.blk.begin.writeTagFreed tag).out := hfreed.no_irq nofun
  have hqp : (s.blk.begin.writeTagFreed tag).qp q = s.blk.qp q := hfreed.qp q
  have hcmds : (s.blk.begin.writeTagFreed tag).seq.cmds = [] := hfreed.cmds.trans hc
  generalize s.blk.begin.writeTagFreed tag = b at hans hout hobs hrun hquiet hqp hcmds
  have hd' : (b.qp q).done = [r] := by rw [hqp, hd]
  cases err with
  | true =>
    have hraise := b.notifies_raise (recordFault q (b.qp q).fn r) [(b.qp q).fn]
    have hcount := b.raise_events (recordFault q (b.qp q).fn r) [(b.qp q).fn] (show 0x08 < 65536 by decide)
    have hquiet' : ∀ f vec, .irq f vec ∉ (b.raise (recordFault q (b.qp q).fn r) [(b.qp q).fn]).out :=
      fun f vec hi => hquiet f vec (b.raise_irq _ _ hi)
    have hidle := Block.recordAnswered_idle (err := true) hd' hr rfl
      ((congrArg QueuePair.done (hraise.qp q)).trans hd') (hraise.cmds.trans hcmds)
    rw [if_pos rfl] at hidle
    have hqp' : (b.raise (recordFault q (b.qp q).fn r) [(b.qp q).fn]).qp q = s.blk.qp q := (hraise.qp q).trans hqp
    rw [hobs] at hcount
    generalize b.raise (recordFault q (b.qp q).fn r) [(b.qp q).fn] = x at hcount hquiet' hidle hqp'
    have htaken : ((x.modQp q QueuePair.recordTaken).qp q) = (s.blk.qp q).recordTaken := by rw [Block.modQp_qp, hqp']
    refine ⟨_, hans, State.withBlock_mem .., ?_⟩
    rw [State.withBlock_blk, hidle, htaken]
    exact ⟨congrArg List.tail hd, rfl, rfl, rfl, nofun, fun _ => ⟨hquiet' _ _, hcount⟩⟩
  | false =>
    obtain ⟨⟨u, hu⟩, hseq⟩ := b.recordIrq_frame q r
    have hidle := Block.recordAnswered_idle (err := false) hd' hr rfl
      ((congrArg QueuePair.done hu).trans hd') ((congrArg Sequencer.cmds hseq).trans hcmds)
    rw [if_neg Bool.false_ne_true] at hidle
    have htaken : ((b.recordIrq q r).modQp q QueuePair.recordTaken).qp q = { (s.blk.qp q).recordTaken with uncovered := u } := by
      rw [Block.modQp_qp, hu, hqp]
      rfl
    refine ⟨_, hans, State.withBlock_mem .., ?_⟩
    rw [State.withBlock_blk, hidle, htaken]
    refine ⟨congrArg List.tail hd, rfl, rfl, rfl, fun _ hf hwait => ?_, nofun⟩
    refine (Block.recordIrq_force hf hrun).trans ?_
    rw [hout hwait, hqp]
    rfl

/-! ## Notices and the public-key engine -/

theorem coalescingEnds {s : State} {q : Nat} (hu : 0 < (s.blk.qp q).uncovered) (hrun : s.blk.stopped.contains .hcp = false) :
    Answers (.coalesceTimeout q) s
      { s.blk with
        out := [.irq (s.blk.qp q).fn (s.blk.qp q).vector]
        qps := Tab.put s.blk.qps q { s.blk.qp q with uncovered := 0 } } := by
  refine congrArg (fun b => Host.Outcome.next (s.withBlock b)) ((if_pos hu).trans ?_)
  exact Block.emit_running _ (.irq (s.blk.qp q).fn (s.blk.qp q).vector) hrun

theorem eventNotified {s : State} {id : Nat} {c : Cmd} (h : CmdReady s id 0x0A03 c) (hen : (s.blk.qp c.qp).enabled = true)
    (hd : (s.blk.qp c.qp).done = []) (hfirst : ∀ e ∈ s.blk.seq.cmds, e.1 < id → e.2.qp ≠ c.qp) :
    ∃ t, exec (.eventNotify id) s = .next t ∧ t.mem = s.mem ∧ t.blk.cmd? id = none ∧
      (t.blk.qp c.qp).done =
        [{ cookie := c.cookie, status := .ok, sqIdx := c.sqIdx, opcode := 0x0A03, irq := c.flags.testBit 0, force := true }] := by
  obtain ⟨hcmd, hop⟩ := h.found
  have hgo : s.blk.begin.firstOfSq id c = true := by
    unfold Block.firstOfSq
    rw [show (s.blk.begin.qp c.qp).done = [] from hd, List.isEmpty_nil, Bool.true_and, Bool.not_eq_true', List.any_eq_false]
    intro e he hno
    simp only [Bool.and_eq_true, decide_eq_true_eq] at hno
    exact hfirst e he hno.1 hno.2
  refine ⟨_, answers_onCommand (by unfold exec execEventNotify; rfl) h (if_pos hgo), State.withBlock_mem .., ?_, ?_⟩
  · exact Block.succeed_cmd ..
  · rw [State.withBlock_blk, Block.succeed, Block.complete_qp _ _ _ _ _ _ hcmd, if_pos ⟨rfl, hen⟩, hop]
    exact congrArg (· ++ _) hd

theorem requestAnswered {s : State} {lattice : Bool} (r : PkhResult) {id row : Nat} {rest : List (Nat × Nat)} {c : Cmd}
    (hno : Tab.has s.blk.resets 0x71 = false) (hq : (if lattice then s.blk.pkhLattice else s.blk.pkhCurve) = (id, row) :: rest)
    (hc : s.blk.cmd? id = some c) :
    ∃ t, exec (.pkhRequestDone lattice r) s = .next t ∧ t.mem = s.mem ∧
      (s.blk.pkhIssuers = [] →
        (if lattice then t.blk.pkhLattice else t.blk.pkhCurve) = rest ∧
        (if lattice then t.blk.pkhCurve else t.blk.pkhLattice) = (if lattice then s.blk.pkhCurve else s.blk.pkhLattice)) ∧
      (s.blk.pkhHeld ≤ 128 → t.blk.pkhHeld = min 128 (s.blk.pkhHeld + s.blk.pkhIssuers.length - 1)) ∧
      t.blk.cmd? id =
        some { c with pkhLeft := c.pkhLeft - 1
                      pkh := c.pkh ++ [if row = 1 then .verdict c.verify else r] } ∧
      t.blk.obs.ops.getD (16 * 11 + row) 0 = satAdd64 (s.blk.obs.ops.getD (16 * 11 + row) 0) 1 := by
  have hx : exec (.pkhRequestDone lattice r) s =
      .next (s.withBlock (((s.blk.begin.pkhTook lattice rest).pkhAnswered id row r).pkhRefill
        (s.blk.begin.pkhTook lattice rest).pkhIssuers.length)) := by
    change execPkhRequestDone lattice r s = _
    rw [execPkhRequestDone, onBlock_eq, show Tab.has s.blk.begin.resets 0x71 = false from hno, if_neg Bool.false_ne_true,
      show (if lattice then s.blk.begin.pkhLattice else s.blk.begin.pkhCurve) = (id, row) :: rest from hq]
    rfl
  obtain ⟨hiss, hseq, hobs⟩ := s.blk.begin.pkhTook_frame lattice rest
  obtain ⟨hmine, hother⟩ := s.blk.begin.pkhTook_lists lattice rest
  have hheld : (s.blk.begin.pkhTook lattice rest).pkhHeld + 1 = s.blk.pkhHeld := s.blk.begin.pkhTook_held hq
  have hcmd : (s.blk.begin.pkhTook lattice rest).cmd? id = some c :=
    (congrArg (fun q : Sequencer => Tab.get? q.cmds id) hseq).trans hc
  generalize s.blk.begin.pkhTook lattice rest = k at hx hiss hobs hmine hother hheld hcmd
  obtain ⟨alattice, acurve, aiss, acmd, aops⟩ := k.pkhAnswered_frame id row r
  have aheld : (k.pkhAnswered id row r).pkhHeld = k.pkhHeld := by rw [Block.pkhHeld, alattice, acurve, Block.pkhHeld]
  rw [hcmd] at acmd
  rw [hobs] at aops
  generalize k.pkhAnswered id row r = a at hx alattice acurve aiss acmd aops aheld
  obtain ⟨rseq, robs⟩ := a.pkhRefill_leaves k.pkhIssuers.length
  refine ⟨_, hx, State.withBlock_mem .., fun hidle => ?_, fun hle => ?_,
    (congrArg (fun q : Sequencer => Tab.get? q.cmds id) rseq).trans acmd,
    (congrArg (fun o : Observe => o.ops.getD (16 * 11 + row) 0) robs).trans aops⟩
  · rw [State.withBlock_blk, show k.pkhIssuers = [] from hiss.trans hidle, List.length_nil, Block.pkhRefill, alattice, acurve]
    exact ⟨hmine, hother⟩
  · have hlen : k.pkhIssuers.length = s.blk.pkhIssuers.length := congrArg List.length hiss
    rw [State.withBlock_blk, a.pkhRefill_held _ (congrArg List.length aiss) (by omega)]
    omega

theorem notificationsAndEngineAnswers : Parts.NotificationsAndEngineAnswers :=
  ⟨fun _ _ hu hrun => coalescingEnds hu hrun, fun _ _ _ h hen hd hfirst => eventNotified h hen hd hfirst,
    fun _ _ r _ _ _ _ hno hq hc => requestAnswered r hno hq hc⟩

/-- Settles O40: descriptors, record responses, notices and the public-key engine. -/
theorem queuesMove : Obligations.QueuesMove :=
  ⟨descriptorsEnterOrFail, recordResponsesAdvanceTheQueue, notificationsAndEngineAnswers⟩

end Sys2Proof.Proofs
end

section
/-! KILN_SETUP beside a table of LPEs whose indices do not rise: the anchor bank's zeroing moves the port that go counters are
raised at, and a raise that waits there ends the reduction (R222, R229). -/

namespace Sys2Proof.Machine

open Sys2Proof Sys2Proof.Machine.Crypto

/-- KILN_SETUP of 32 elements of job 1 in windows of 16,384, by context 1. -/
def setupCmd : Cmd :=
  { qp := 0, fn := 0, sqIdx := 0, stage := .ready
    desc := BitVec.ofNat 512 (0x0601 + 2 ^ 32 + 2 ^ 128 + 2 ^ 160 + 32 * 2 ^ 192 + 16384 * 2 ^ 256) }

/-- Its job, of two blocks. -/
def setupJob : Job := { fn := 0, slot := 0, gen := 0, epoch := 0, members := [(0, 0), (1, 0)] }

/-- Its program. -/
def setupProgram : Program :=
  { fn := 0, target := 0, rate := 0, inl := 0, outl := 0, inFmt := 0, inScaled := false, outFmt := 0, outScaled := false
    consts := [], text := [], digest := 0, worst := 0 }

/-- A state in which the command is ready: LPE 4 stands before LPE 0 in the table, and a raise for a job that is gone waits at
LPE 0. -/
def setupState : State :=
  { blk :=
      { pins := { blockSafe := false }
        regions := { table := [(0, { mode := .sealed, keyset := [1] })] }
        lpes := [(4, { member := true }),
          (0, { member := true, raises := [{ slot := 0, job := 7, dst := 0, addr := 0, value := 0 }] })]
        programs := [(0, setupProgram)]
        ctxs := [(1, { fn := 0, jobs := [1], progs := [0] })]
        jobs := [(1, setupJob)]
        seq := { cmds := [(0, setupCmd)] } } }

theorem setupCmd_ready : CmdReady setupState 0 0x0601 setupCmd :=
  show setupState.blk.begin.runnable 0 0x0601 = some setupCmd by decide +kernel

/-- Whether the reduction in slot 0 has ended, after KILN_SETUP. -/
def setupEnds : Host.Outcome State Fault Refusal → Option Bool
  | .next t => (t.blk.reductions.get? 0).map Reduction.ended
  | _ => none

/-- The raise that waited ends the reduction that has just opened. -/
theorem setupState_ends : setupEnds (exec (.kilnSetup 0 {}) setupState) = some true := by decide +kernel

end Sys2Proof.Machine

namespace Sys2Proof.Proofs

open Sys2Proof Sys2Proof.Machine

/-- Refutes O57: that no raise waits is asked of the port that is lowest before KILN_SETUP. In a table that lists LPE 4 before
LPE 0 the zeroing of the bank at LPE 0 lists it anew, before LPE 4; the raises that wait there are sent, and one that fails ends the
reduction. -/
theorem not_kilnRuns : ¬ Obligations.KilnRuns := by
  intro h
  obtain ⟨⟨hsetup, -⟩, -⟩ := h
  obtain ⟨-, hopens⟩ := hsetup setupState 0 0 setupCmd setupJob {} setupCmd_ready (by decide +kernel) (by decide +kernel)
    (by decide +kernel)
  obtain ⟨t, hexec, -, hslot, -⟩ := hopens (by decide +kernel) (by decide +kernel) (by decide +kernel)
  have hends := setupState_ends
  rw [hexec, setupEnds, hslot] at hends
  exact absurd hends (by decide +kernel)

end Sys2Proof.Proofs
end

section
/-! Sealed DMA and translation: descriptors enter, walk and move, and the table's commands (R351 to R367). -/

namespace Sys2Proof.Machine

/-- The host runs of a function once a range is mapped (R361). -/
def Block.mapRecorded (b : Block) (c : Cmd) : Block :=
  b.modFn c.fn fun p =>
    { p with
      runs := if c.mapArgs.host then
          p.runs ++ [({ va := c.mapArgs.va, target := c.mapArgs.target, count := c.mapArgs.count, big := c.mapArgs.big } : HostRun)]
        else p.runs }

/-- The host runs of a function once a range is unmapped (R361). -/
def Block.runsLeft (b : Block) (fn : Nat) (l : List HostRun) : Block := b.modFn fn fun p => { p with runs := l }

/-- What an unmap does once its entries are written: it completes, or waits for the descriptors that hold a page (R357). -/
def Block.unmapEnds (b : Block) (c : Cmd) (l : List HostRun) (id : Nat) : Block :=
  let b := b.runsLeft c.fn l
  let hs := b.holdersOf c.fn c.mapArgs.va c.mapArgs.bytes
  if hs.isEmpty then b.succeed id 0 0
  else { b.wait id with seq := { (b.wait id).seq with unmaps := (b.wait id).seq.unmaps ++ [(id, hs)] } }

theorem Block.unmapEnds_free {b : Block} {c : Cmd} (l : List HostRun) (id : Nat)
    (h : b.holdersOf c.fn c.mapArgs.va c.mapArgs.bytes = []) : b.unmapEnds c l id = (b.runsLeft c.fn l).succeed id 0 0 := by
  have h' : (b.runsLeft c.fn l).holdersOf c.fn c.mapArgs.va c.mapArgs.bytes = [] := h
  unfold Block.unmapEnds
  dsimp only
  rw [h', List.isEmpty_nil, if_pos rfl]

/-- Entries that are all written stay (R356). -/
theorem Work.tableDone_ok {w : Work} {id : Nat} {p : Status × List LineReturn × Work} {act : Work → Work} (h : p.1 = .ok) :
    w.tableDone id p act = act p.2.2 := if_pos h

/-- Work that ends with an act on the block alone. -/
theorem onMemoryWait_on {s : State} {f : Work → Work} {w : Work} (g : Block → Block) (hw : f s.waitWork = w.on g)
    (hs : w.stuck = false) : onMemoryWait s f = .next { s with blk := g w.blk, mem := applyStores s.mem w.stores } :=
  onMemoryWait_done hw hs

theorem Mover.keep_ok {m : Mover} {n : Nat} (h : m.st = .ok) : m.keep n = m.moved n := by
  unfold Mover.keep Mover.moved
  exact congrArg (fun f => m.p.w.on f) (funext fun b => if_neg (not_not.mpr h))

/-- Pages that may be what they are queue their descriptor (R359, R362). -/
theorem Block.walked_ok {b : Block} {n : Nat} {d : DmaDesc} {ps : List Page}
    (h : b.dmaPagesOk { d with pages := ps, stage := .queued, read := if d.kind = .ingest then 64 else 0 } = true) :
    b.walked n d ps = b.queueDma n d ps := if_pos h

/-- A mover of an ingest with the plaintext of its next chunk, which is counted against the licence (R279). -/
def chunkMover (w : Work) (b : Block) (n : Nat) (d : DmaDesc) (pt : Bytes) (acc : Access) : Mover :=
  { p :=
      { w := { w with
          blk := (({ b with seq := { b.seq with
            dma := b.seq.dma.upd n fun _ => { d with read := d.read + d.chunkLen + 16 } } } : Block).consume d.record
            { bytes := d.chunkLen, shards := if d.chunk + 1 = shardChunks d.header then 1 else 0 }).count 9 0xF d.chunkLen }
        feed := acc.rets }
    d := { d with read := d.read + d.chunkLen + 16, chunk := d.chunk + 1, buf := d.buf ++ pt } }

/-- What an invocation does with the source lines and scale bytes that were read (R250, R258). -/
def laneRuns (n h : Nat) (p : Program) (d : DmaDesc) (data scales : Mover × Bytes) : Work :=
  let m := scales.1
  if m.st ≠ .ok then m.keep n
  else
    let m := m.count 7 p.inFmt p.inl
    match invoke p.code p.worst { pos := d.read, ctx := d.ctx.toNat } (invocationLines p data.2 scales.2) with
    | .error (code, pc, k) => m.progFault n h { code := code, pc := pc, k := k, pos := d.read }
    | .ok out =>
      let m := ({ m with d := { m.d with read := m.d.read + p.invBytes } } : Mover).release p out
      (m.flushAll n (m.d.read = m.d.len) 40).keep n

theorem laneRuns_ok {n h : Nat} {p : Program} {d : DmaDesc} {data scales : Mover × Bytes} {out : List LineReg} {m y : Mover}
    (hsok : scales.1.st = .ok)
    (hinvoke : invoke p.code p.worst { pos := d.read, ctx := d.ctx.toNat } (invocationLines p data.2 scales.2) = .ok out)
    (hm : m = ({ scales.1.count 7 p.inFmt p.inl with
      d := { (scales.1.count 7 p.inFmt p.inl).d with read := (scales.1.count 7 p.inFmt p.inl).d.read + p.invBytes } } :
        Mover).release p out)
    (hy : y = m.flushAll n (m.d.read = m.d.len) 40) (hok : y.st = .ok) : laneRuns n h p d data scales = y.moved n := by
  unfold laneRuns
  dsimp only
  rw [if_neg (not_not.mpr hsok), hinvoke]
  dsimp only
  rw [← hm, ← hy]
  exact Mover.keep_ok hok

theorem Block.mapRecorded_fn (b : Block) (c : Cmd) (id : Nat) : ((b.mapRecorded c).succeed id 0 0).fn c.fn =
    { b.fn c.fn with
      runs := (b.fn c.fn).runs ++ (if c.mapArgs.host then
        [{ va := c.mapArgs.va, target := c.mapArgs.target, count := c.mapArgs.count, big := c.mapArgs.big }] else []) } := by
  rw [Block.succeed, Block.complete_fn, Block.mapRecorded, Block.modFn_fn]
  split
  · rfl
  · rw [List.append_nil]

theorem Block.runsLeft_fn (b : Block) (fn : Nat) (l : List HostRun) (id : Nat) :
    ((b.runsLeft fn l).succeed id 0 0).fn fn = { b.fn fn with runs := l } := by
  rw [Block.succeed, Block.complete_fn, Block.runsLeft, Block.modFn_fn]

end Sys2Proof.Machine

namespace Sys2Proof.Proofs

open Sys2Proof Sys2Proof.Machine Sys2Proof.Machine.Crypto

/-! ## Descriptors enter (R341, R344, R351, R362) -/

section Enter

variable {s : State} {id : Nat} {c : Cmd}

theorem copyEnters (hc : CmdReady s id 0x0701 c)
    (hdva : dvaOk [(copyDesc id c).src, (copyDesc id c).dst, (copyDesc id c).sscale, (copyDesc id c).dscale] = true)
    (hsrc : (copyDesc id c).src % 32 = 0) (hdst : (copyDesc id c).dst % 32 = 0) (hss : (copyDesc id c).sscale % 32 = 0)
    (hds : (copyDesc id c).dscale % 32 = 0) (hsscaled : (copyDesc id c).sscale ≠ 0 ↔ (copyDesc id c).sscaled = true)
    (hdscaled : (copyDesc id c).dscale ≠ 0 ↔ (copyDesc id c).dscaled = true) (hskey : (copyDesc id c).skey < 2 ^ 14)
    (hdkey : (copyDesc id c).dkey < 2 ^ 14)
    (hfmt : s.blk.dmaFormats c.fn c.ctx (dfld c.desc 57 1) (dfld c.desc 62 2) (dfld c.desc 55 1) (dfld c.desc 56 1)
      (copyDesc id c).len = true) :
    Answers (.dmaCopy id) s (s.blk.begin.submitDma id (copyDesc id c)) := by
  refine answers_onCommand (by unfold exec execDmaCopy; rfl) hc (if_pos ?_)
  simp only [Bool.and_eq_true, decide_eq_true_eq]
  exact ⟨⟨⟨⟨⟨⟨⟨⟨⟨hdva, hsrc⟩, hdst⟩, hss⟩, hds⟩, propext (hsscaled.trans decide_eq_true_iff)⟩, propext (hdscaled.trans decide_eq_true_iff)⟩, hskey⟩, hdkey⟩, hfmt⟩

theorem ingestEnters (hc : CmdReady s id 0x0702 c) (hdva : dvaOk [(ingestDesc id c).src, (ingestDesc id c).dst] = true)
    (hdst : (ingestDesc id c).dst % 32 = 0)
    (hprog : s.blk.ingestProgram c.fn c.ctx (dfld c.desc 46 1) (dfld c.desc 44 2) (ingestDesc id c).sfmt (ingestDesc id c).dfmt = true)
    (hsfmt : (ingestDesc id c).sfmt < 16) (hdfmt : (ingestDesc id c).dfmt < 16) (hskey : (ingestDesc id c).skey < 2 ^ 14)
    (hdkey : (ingestDesc id c).dkey < 2 ^ 14) (hkey : (ingestDesc id c).dkey ≠ 0) :
    Answers (.dmaIngest id) s (s.blk.begin.submitDma id (ingestDesc id c)) := by
  refine answers_onCommand (by unfold exec execDmaIngest; rfl) hc (if_pos ?_)
  simp only [Bool.and_eq_true, decide_eq_true_eq]
  exact ⟨⟨⟨⟨⟨⟨⟨hdva, hdst⟩, hprog⟩, hsfmt⟩, hdfmt⟩, hskey⟩, hdkey⟩, hkey⟩

theorem measureEnters (x : Ctx) (hc : CmdReady s id 0x0802 c) (hdva : dvaOk [(measureDesc id c).src, (measureDesc id c).dst] = true)
    (hdst : (measureDesc id c).dst % 32 = 0) (hlen : (measureDesc id c).len ≠ 0) (hmax : (measureDesc id c).len < 2 ^ 56)
    (hdkey : (measureDesc id c).dkey < 2 ^ 14) (hkey : (measureDesc id c).dkey ≠ 0) (hx : s.blk.ctxs.get? c.ctx = some x)
    (hroom : x.measureRoom (dfld c.desc 40 4) = true) :
    Answers (.measureLoad id) s (s.blk.begin.submitDma id (measureDesc id c)) := by
  refine answers_onCommand (by unfold exec execMeasureLoad; rfl) hc ((if_pos ?_).trans (if_pos ?_))
  · simp only [Bool.and_eq_true, decide_eq_true_eq]
    exact ⟨⟨⟨⟨⟨hdva, hdst⟩, hlen⟩, hmax⟩, hdkey⟩, hkey⟩
  · rw [show s.blk.begin.ctxs.get? c.ctx = some x from hx]
    exact hroom

theorem shuffleEnters (k : Nat) (i : Install) (hc : CmdReady s id 0x0904 c) (hi : s.blk.installOf (dfld c.desc 16 2) = some (k, i))
    (hfn : i.fn = c.fn) (huse : i.uses.toNat.testBit 2 = true) (htwo : 2 ≤ dfld c.desc 24 8) (hmax : dfld c.desc 24 8 ≤ i.samples)
    (hone : 1 ≤ dfld c.desc 40 8) (hend : dfld c.desc 32 8 + dfld c.desc 40 8 ≤ dfld c.desc 24 8)
    (hdva : dvaOk [dfld c.desc 48 8] = true) (hdst : dfld c.desc 48 8 % 128 = 0)
    (hlast : dfld c.desc 48 8 + 8 * dfld c.desc 40 8 ≤ 2 ^ 56) (hdkey : dfld c.desc 56 2 < 2 ^ 14) (hkey : dfld c.desc 56 2 ≠ 0)
    (hcheck : s.blk.keyCheck (dfld c.desc 18 2) c.fn c.ctx (some 4) useV = .ok)
    (hjob : s.blk.seedJob (dfld c.desc 18 2) c.ctx = true) :
    Answers (.shuffleEpoch id) s (s.blk.begin.submitDma id (shuffleDesc id k i.licence c)) := by
  refine answers_onCommand (by unfold exec execShuffleEpoch; rfl) hc ?_
  have hfound : (s.blk.begin.installOf (dfld c.desc 16 2)).filter (fun i => decide (i.2.fn = c.fn)) = some (k, i) := by
    rw [show s.blk.begin.installOf (dfld c.desc 16 2) = some (k, i) from hi]
    exact Option.filter_some_pos (decide_eq_true hfn)
  dsimp only
  rw [hfound]
  dsimp only
  rw [if_pos, s.blk.begin_keyCheck, hcheck, if_neg (not_not.mpr rfl),
    show s.blk.begin.seedJob (dfld c.desc 18 2) c.ctx = true from hjob]
  · rfl
  · simp only [Bool.and_eq_true, decide_eq_true_eq]
    exact ⟨⟨⟨⟨⟨⟨⟨⟨⟨huse, htwo⟩, hmax⟩, hone⟩, hend⟩, hdva⟩, hdst⟩, hlast⟩, hdkey⟩, hkey⟩

theorem submitted (d : DmaDesc) (h : s.blk.begin.dmaTurn id d.stream = true) :
    (s.blk.begin.submitDma id d).seq.dma.get? s.blk.seq.nextDma = some d ∧
      (∀ n, n ≠ s.blk.seq.nextDma → (s.blk.begin.submitDma id d).seq.dma.get? n = s.blk.seq.dma.get? n) ∧
      (s.blk.begin.submitDma id d).cmd? id = (s.blk.cmd? id).map fun c => { c with stage := .waiting } := by
  unfold Block.submitDma
  rw [h, if_neg (by decide)]
  exact ⟨Tab.get?_put_same .., fun n hn => Tab.get?_put_other _ _ hn, s.blk.begin.modCmd_cmd id fun c => { c with stage := .waiting }⟩

theorem notSubmitted (d : DmaDesc) (h : s.blk.begin.dmaTurn id d.stream = false) : s.blk.begin.submitDma id d = s.blk.begin := by
  unfold Block.submitDma
  rw [h]
  rfl

end Enter

theorem dmaDescriptorsEnter : Parts.DmaDescriptorsEnter := by
  intro s id c
  exact ⟨copyEnters, ingestEnters, measureEnters, shuffleEnters, submitted, notSubmitted⟩

/-! ## The translation table (R354 to R361) -/

section Table

variable {s : State} {id r : Nat} {c : Cmd} {acc : Access}

theorem mapped (hc : CmdReady s id 0x0703 c) (hflag : dfld c.desc 36 1 ≤ 1) (hr : s.blk.begin.fencesOf c.fn = some r)
    (hargs : s.blk.mapArgsOk c.fn c.mapArgs = true) (hread : (s.tableRead c acc r).1 = .ok)
    (hfree : (s.tableWork c acc r).mapFree r c.mapArgs = true)
    (hroom : (s.tableWork c acc r).leavesNeeded r c.mapArgs ≤ ((s.tableWork c acc r).blk.fn c.fn).leaves.room 4096)
    (hruns : c.mapArgs.host = true → ((s.tableWork c acc r).blk.fn c.fn).runs.length < 256)
    (hok : (s.mapWrite c acc r).1 = .ok) (hstuck : (s.mapWrite c acc r).2.2.stuck = false) :
    ∃ t, exec (.dmaMap id acc) s = .next t ∧ t.blk.cmd? id = none ∧
      t.mem = applyStores s.mem (s.mapWrite c acc r).2.2.stores ∧
      (t.blk.fn c.fn).runs =
        ((s.mapWrite c acc r).2.2.blk.fn c.fn).runs ++
          (if c.mapArgs.host then
            [{ va := c.mapArgs.va, target := c.mapArgs.target, count := c.mapArgs.count, big := c.mapArgs.big }] else []) ∧
      (t.blk.fn c.fn).leaves = ((s.mapWrite c acc r).2.2.blk.fn c.fn).leaves := by
  have hcond : ¬ (((s.tableWork c acc r).blk.fn c.fn).leaves.room 4096 < (s.tableWork c acc r).leavesNeeded r c.mapArgs ∨
      (c.mapArgs.host = true ∧ 256 ≤ ((s.tableWork c acc r).blk.fn c.fn).runs.length)) := by
    rintro (hless | ⟨hhost, hmany⟩)
    · exact hroom.not_gt hless
    · exact hmany.not_gt (hruns hhost)
  have hx : exec (.dmaMap id acc) s = .next { s with
      blk := ((s.mapWrite c acc r).2.2.blk.mapRecorded c).succeed id 0 0
      mem := applyStores s.mem (s.mapWrite c acc r).2.2.stores } := by
    change execDmaMap id acc s = _
    unfold execDmaMap
    rw [onCommandMem_ready _ hc]
    refine onMemoryWait_on (fun b => (b.mapRecorded c).succeed id 0 0) ?_ hstuck
    dsimp only
    rw [if_neg hflag.not_gt, show s.waitWork.blk.fencesOf c.fn = some r from hr]
    dsimp only
    rw [show s.waitWork.blk.mapArgsOk c.fn c.mapArgs = true from hargs, if_neg (by decide),
      show s.waitWork.readRecord (s.waitWork.blk.tableAsker c.fn c.ctx r) acc (level1At r c.mapArgs.va) 8 =
        (.ok, (s.tableRead c acc r).2.1, s.tableWork c acc r) from Prod.ext hread rfl]
    dsimp only
    rw [hfree, if_neg (by decide), if_neg hcond]
    exact if_pos hok
  refine ⟨_, hx, Block.succeed_cmd .., rfl, ?_, ?_⟩
  · exact (congrArg FnPage.runs (Block.mapRecorded_fn _ c id) :)
  · exact (congrArg FnPage.leaves (Block.mapRecorded_fn _ c id) :)

theorem unmapped (hc : CmdReady s id 0x0704 c) (hflag : dfld c.desc 36 1 ≤ 1) (hcount : c.mapArgs.count ≠ 0)
    (hva : c.mapArgs.va % pageBytes c.mapArgs.big = 0) (hend : c.mapArgs.va + c.mapArgs.bytes ≤ 2 ^ 56)
    (hr : s.blk.begin.fencesOf c.fn = some r) (hread : (s.tableRead c acc r).1 = .ok)
    (hall : c.mapArgs.pages.all ((s.tableWork c acc r).mappedAt r c.mapArgs.big) = true)
    (hruns : ((((s.tableWork c acc r).blk.fn c.fn).runs.map fun h => h.trim c.mapArgs.va c.mapArgs.bytes).flatten).length ≤ 256)
    (hok : (s.unmapWrite c acc r).1 = .ok) (hstuck : (s.unmapWrite c acc r).2.2.stuck = false)
    (hfree : (s.unmapWrite c acc r).2.2.blk.holdersOf c.fn c.mapArgs.va c.mapArgs.bytes = []) :
    ∃ t, exec (.dmaUnmap id acc) s = .next t ∧ t.blk.cmd? id = none ∧
      t.mem = applyStores s.mem (s.unmapWrite c acc r).2.2.stores ∧
      (t.blk.fn c.fn).runs =
        (((s.tableWork c acc r).blk.fn c.fn).runs.map fun h => h.trim c.mapArgs.va c.mapArgs.bytes).flatten ∧
      (t.blk.fn c.fn).leaves = ((s.unmapWrite c acc r).2.2.blk.fn c.fn).leaves := by
  have hcond : ¬ (1 < dfld c.desc 36 1 ∨ c.mapArgs.count = 0 ∨ c.mapArgs.va % pageBytes c.mapArgs.big ≠ 0 ∨
      2 ^ 56 < c.mapArgs.va + c.mapArgs.bytes) := by
    rintro (h | h | h | h)
    · exact hflag.not_gt h
    · exact hcount h
    · exact h hva
    · exact hend.not_gt h
  have hx : exec (.dmaUnmap id acc) s = .next { s with
      blk := ((s.unmapWrite c acc r).2.2.blk.runsLeft c.fn (((s.tableWork c acc r).blk.fn c.fn).runs.map
        fun h => h.trim c.mapArgs.va c.mapArgs.bytes).flatten).succeed id 0 0
      mem := applyStores s.mem (s.unmapWrite c acc r).2.2.stores } := by
    change execDmaUnmap id acc s = _
    unfold execDmaUnmap
    rw [onCommandMem_ready _ hc]
    refine onMemoryWait_on (fun b => (b.runsLeft c.fn
      (((s.tableWork c acc r).blk.fn c.fn).runs.map fun h => h.trim c.mapArgs.va c.mapArgs.bytes).flatten).succeed id 0 0) ?_ hstuck
    dsimp only
    rw [if_neg hcond, show s.waitWork.blk.fencesOf c.fn = some r from hr]
    dsimp only
    rw [show s.waitWork.readRecord (s.waitWork.blk.tableAsker c.fn c.ctx r) acc (level1At r c.mapArgs.va) 8 =
        (.ok, (s.tableRead c acc r).2.1, s.tableWork c acc r) from Prod.ext hread rfl]
    dsimp only
    rw [hall, if_neg (by decide), if_neg hruns.not_gt]
    refine (Work.tableDone_ok (p := s.unmapWrite c acc r) hok).trans ?_
    exact congrArg (fun b : Block => ({ (s.unmapWrite c acc r).2.2 with blk := b } : Work)) (Block.unmapEnds_free (c := c) _ id hfree)
  refine ⟨_, hx, Block.succeed_cmd .., rfl, ?_, ?_⟩
  · exact (congrArg FnPage.runs (Block.runsLeft_fn _ c.fn _ id) :)
  · exact (congrArg FnPage.leaves (Block.runsLeft_fn _ c.fn _ id) :)

theorem converted {va : Nat} {h : HostRun} (hc : CmdReady s id 0x0705 c)
    (hrun : lowestRun (dfld c.desc 16 8) (s.blk.fn c.fn).runs = some h) (hva : h.convert (dfld c.desc 16 8) = some va) :
    Answers (.addrConvert id) s (s.blk.begin.succeed id va 0) := by
  refine answers_onCommand (by unfold exec execAddrConvert; rfl) hc ?_
  rw [show lowestRun (dfld c.desc 16 8) (s.blk.begin.fn c.fn).runs = some h from hrun, Option.bind_some, hva]


end Table

theorem translationCommands : Parts.TranslationCommands := by
  refine ⟨fun s id r c acc => mapped, fun s id r c acc => unmapped, fun s id va h c => converted, fun s f hf => ?_⟩
  exact congrArg (fun b => Host.Outcome.next (s.withBlock b)) (if_neg (by
    rw [show (s.blk.begin.fn f).faults = (s.blk.fn f).faults from rfl, List.isEmpty_iff]
    exact hf))

/-! ## Descriptors move (R358, R359, R362 to R367) -/

section Move

variable {s : State} {n : Nat} {d : DmaDesc} {acc : Access}

theorem walking_found (hd : s.blk.seq.dma.get? n = some d) (hstage : d.stage = .walking) :
    (s.waitWork.blk.seq.dma.get? n).filter (fun d => decide (d.stage = .walking)) = some d := by
  rw [show s.waitWork.blk.seq.dma.get? n = some d from hd]
  exact Option.filter_some_pos (decide_eq_true hstage)

theorem walkEnds (header : HostRead) {ps : List Page} (hd : s.blk.seq.dma.get? n = some d) (hstage : d.stage = .walking)
    (hkind : d.kind ≠ .ingest) (hwalk : (s.walk d acc s.waitWork [] (s.blk.dmaRanges d)).1 = .ok ps)
    (hpages : (s.walk d acc s.waitWork [] (s.blk.dmaRanges d)).2.blk.dmaPagesOk { d with pages := ps, stage := .queued, read := 0 } =
      true) :
    AnswersOnce (.translationWalkDone n header acc) s
      ((s.walk d acc s.waitWork [] (s.blk.dmaRanges d)).2.on fun b => b.queueDma n d ps) := by
  intro hstuck
  change execTranslationWalkDone n header acc s = _
  unfold execTranslationWalkDone
  refine onMemoryWait_done ?_ hstuck
  dsimp only
  rw [walking_found hd hstage]
  dsimp only
  rw [if_neg hkind, show s.waitWork.walkAll (s.waitWork.blk.fencesOf d.fn)
    (s.waitWork.blk.tableAsker d.fn d.ctx.toNat ((s.waitWork.blk.fencesOf d.fn).getD 0)) acc [] (s.waitWork.blk.dmaRanges d) =
      (.ok ps, (s.walk d acc s.waitWork [] (s.blk.dmaRanges d)).2) from Prod.ext hwalk rfl]
  exact congrArg (fun b : Block => ({ (s.walk d acc s.waitWork [] (s.blk.dmaRanges d)).2 with blk := b } : Work))
    (Block.walked_ok (by rw [if_neg hkind]; exact hpages))

theorem ingestWalkEnds {e : DmaDesc} (header : Bytes) {ps qs : List Page} {k : Nat} {w : Work} (hd : s.blk.seq.dma.get? n = some d)
    (hstage : d.stage = .walking) (hkind : d.kind = .ingest) (hfirst : (s.walk d acc s.waitWork [] [(d.src, d.len, false)]).1 = .ok ps)
    (hw : (s.walk d acc s.waitWork [] [(d.src, d.len, false)]).2 = w) (hheader : w.blk.ingestHeader d (slice header 0 64) = some k)
    (he : e = { d with header := slice header 0 64, record := k })
    (hrest : (s.walk d acc w ps ((w.blk.dmaRanges e).drop 1)).1 = .ok qs)
    (hpages : (s.walk d acc w ps ((w.blk.dmaRanges e).drop 1)).2.blk.dmaPagesOk { e with pages := qs, stage := .queued, read := 64 } =
      true) :
    AnswersOnce (.translationWalkDone n (.data header) acc) s
      ((s.walk d acc w ps ((w.blk.dmaRanges e).drop 1)).2.on fun b => b.queueDma n e qs) := by
  intro hstuck
  have hkind' : e.kind = .ingest := by rw [he]; exact hkind
  change execTranslationWalkDone n (.data header) acc s = _
  unfold execTranslationWalkDone
  refine onMemoryWait_done ?_ hstuck
  dsimp only
  rw [walking_found hd hstage]
  dsimp only
  rw [if_pos hkind, show s.waitWork.walkAll (s.waitWork.blk.fencesOf d.fn)
    (s.waitWork.blk.tableAsker d.fn d.ctx.toNat ((s.waitWork.blk.fencesOf d.fn).getD 0)) acc [] [(d.src, d.len, false)] =
      (.ok ps, w) from Prod.ext hfirst hw]
  dsimp only
  rw [hheader]
  dsimp only
  rw [← he, show w.walkAll (s.waitWork.blk.fencesOf d.fn)
    (s.waitWork.blk.tableAsker d.fn d.ctx.toNat ((s.waitWork.blk.fencesOf d.fn).getD 0)) acc ps ((w.blk.dmaRanges e).drop 1) =
      (.ok qs, (s.walk d acc w ps ((w.blk.dmaRanges e).drop 1)).2) from Prod.ext hrest rfl]
  exact congrArg (fun b : Block => ({ (s.walk d acc w ps ((w.blk.dmaRanges e).drop 1)).2 with blk := b } : Work))
    (Block.walked_ok (by rw [if_pos hkind']; exact hpages))

variable {src : SourceLine} {m : Mover} (hrun : s.blk.running n = some d)
include hrun

theorem lineCopied (hm : m = { p := { w := s.waitWork, feed := src.lines acc }, d := d }) (hkind : d.kind = .copy)
    (hprog : d.prog = none) (hok : (m.copy n src).st = .ok) : AnswersOnce (.dmaLine n src acc) s ((m.copy n src).moved n) := by
  intro hstuck
  change execDmaLine n src acc s = _
  unfold execDmaLine
  refine onMemoryWait_done ?_ hstuck
  dsimp only
  rw [show s.waitWork.blk.running n = some d from hrun]
  dsimp only
  rw [hkind]
  dsimp only
  rw [hprog, ← hm, if_neg (by decide)]
  exact Mover.keep_ok hok

theorem lineMeasured (hm : m = { p := { w := s.waitWork, feed := src.lines acc }, d := d }) (hkind : d.kind = .measure)
    (hok : (m.copy n src).st = .ok) : AnswersOnce (.dmaLine n src acc) s ((m.copy n src).moved n) := by
  intro hstuck
  change execDmaLine n src acc s = _
  unfold execDmaLine
  refine onMemoryWait_done ?_ hstuck
  dsimp only
  rw [show s.waitWork.blk.running n = some d from hrun]
  dsimp only
  rw [hkind]
  dsimp only
  rw [← hm]
  exact Mover.keep_ok hok

theorem lineShuffled (hm : m = { p := { w := s.waitWork, feed := src.lines acc }, d := d }) (hkind : d.kind = .shuffle)
    (hwaits : s.blk.epochWaits d = false) (hok : (m.shuffle n).st = .ok) :
    AnswersOnce (.dmaLine n src acc) s ((m.shuffle n).moved n) := by
  intro hstuck
  change execDmaLine n src acc s = _
  unfold execDmaLine
  refine onMemoryWait_done ?_ hstuck
  dsimp only
  rw [show s.waitWork.blk.running n = some d from hrun]
  dsimp only
  rw [hkind]
  dsimp only
  rw [show s.waitWork.blk.epochWaits d = false from hwaits, ← hm, if_neg (by decide)]
  exact Mover.keep_ok hok

theorem chunkIngested (chunk : Bytes) {i : Install} {k : CachedKey} {pt : Bytes} (hkind : d.kind = .ingest) (hprog : d.prog = none)
    (hi : s.blk.installs.get? d.record = some i)
    (hallow : (s.blk.meters.getD d.record {}).life.bytes + d.chunkLen ≤ i.allowBytes)
    (hcan : s.blk.canConsume d.record { bytes := d.chunkLen, shards := if d.chunk + 1 = shardChunks d.header then 1 else 0 } = true)
    (hkey : (s.blk.begin.useKey d.engine d.skey d.fn d.ctx.toNat useD).1 = .ok k)
    (hopen : gcmOpen (k.key.toNat % 2 ^ 256) (slice d.header 8 4 ++ toLe 8 d.chunk) d.header (slice chunk 0 d.chunkLen)
      (slice chunk d.chunkLen 16) = some pt)
    (hm : m = (chunkMover s.waitWork (s.blk.begin.useKey d.engine d.skey d.fn d.ctx.toNat useD).2 n d pt acc).flush n
      (d.chunk + 1 = shardChunks d.header) (2 ^ 18))
    (hok : m.st = .ok) : AnswersOnce (.ingestChunk n (.data chunk) acc) s (m.moved n) := by
  intro hstuck
  have hrun' : (s.waitWork.blk.running n).filter (fun d => decide (d.kind = .ingest)) = some d := by
    rw [show s.waitWork.blk.running n = some d from hrun]
    exact Option.filter_some_pos (decide_eq_true hkind)
  have hnone : (d.prog.bind fun h => (s.waitWork.blk.programs.get? h).map fun p => (h, p)) = none := by
    rw [hprog]
    rfl
  change execIngestChunk n (.data chunk) acc s = _
  unfold execIngestChunk
  refine onMemoryWait_done ?_ hstuck
  dsimp only
  rw [hrun']
  dsimp only
  rw [show s.waitWork.blk.installs.get? d.record = some i from hi]
  dsimp only
  rw [if_neg (show ¬ i.allowBytes < (s.waitWork.blk.meters.getD d.record {}).life.bytes + d.chunkLen from not_lt.mpr hallow), show s.waitWork.blk.canConsume d.record
    { bytes := d.chunkLen, shards := if d.chunk + 1 = shardChunks d.header then 1 else 0 } = true from hcan, if_neg (by decide),
    hnone, Option.isSome_none, if_neg Bool.false_ne_true]
  dsimp only
  rw [show s.waitWork.blk.useKey d.engine d.skey d.fn d.ctx.toNat useD =
    (.ok k, (s.blk.begin.useKey d.engine d.skey d.fn d.ctx.toNat useD).2) from Prod.ext hkey rfl]
  dsimp only
  rw [hopen]
  dsimp only
  exact (congrArg (fun m : Mover => m.keep n) hm.symm).trans (Mover.keep_ok hok)

end Move

theorem dmaDescriptorsMove : Parts.DmaDescriptorsMove := by
  refine ⟨fun s n d header acc ps => walkEnds header, fun s n d e header acc ps qs k w => ingestWalkEnds header, ?_, ?_⟩
  · intro s n d src acc m hrun hm
    exact ⟨lineCopied hrun hm, lineMeasured hrun hm, lineShuffled hrun hm⟩
  · intro s n d chunk acc i k pt m hrun hkind hprog hi hallow hcan hkey hopen hm hok
    exact chunkIngested hrun chunk hkind hprog hi hallow hcan hkey hopen hm hok

/-! ## Lane programs (R250, R251) -/

theorem laneInvocationsRun : Parts.LaneInvocationsRun := by
  intro s n h d p b src acc data scales out m y hrun hkind hprog hp hframe hhost hdata hscales hsok hinvoke hm hy hok hstuck
  have hrun' : (s.waitWork.blk.running n).filter (fun d => decide (d.kind = .copy)) = some d := by
    rw [show s.waitWork.blk.running n = some d from hrun]
    exact Option.filter_some_pos (decide_eq_true hkind)
  have hbind : (d.prog.bind fun h => (s.waitWork.blk.programs.get? h).map fun p => (h, p)) = some (h, p) := by
    rw [hprog, Option.bind_some, show s.waitWork.blk.programs.get? h = some p from hp]
    rfl
  change execLaneInvocation n src acc s = _
  unfold execLaneInvocation
  refine onMemoryWait_done ?_ hstuck
  dsimp only
  rw [hrun']
  dsimp only
  rw [hbind]
  dsimp only
  rw [show s.waitWork.blk.takeFrame n d h = some b from hframe]
  dsimp only
  rw [hhost, if_neg Bool.false_ne_true]
  have hlane := laneRuns_ok (n := n) (h := h) hsok hinvoke hm hy hok
  subst hscales hdata
  exact hlane

/-- Settles O58: descriptors enter, walk and move; invocations run; the table's commands. -/
theorem dmaMoves : Obligations.DmaMoves :=
  ⟨dmaDescriptorsEnter, dmaDescriptorsMove, laneInvocationsRun, translationCommands⟩

end Sys2Proof.Proofs
end

section
/-! Packets at a fabric port: every row's effect, and the packets that complete (R181 to R209). -/

namespace Sys2Proof.Machine

open Sys2Proof Sys2Proof.Machine.Crypto

/-! ## An LPE's changes -/

/-- A change of an LPE depends on what it makes of the LPE as it stands. -/
theorem Lx.mod_congr {x : Lx} {f g : Lpe → Lpe} (h : f x.lpe = g x.lpe) : x.mod f = x.mod g :=
  congrArg (fun l => x.on fun b => { b with lpes := b.lpes.put x.n l }) h

@[simp] theorem Lx.lpe_mod (x : Lx) (f : Lpe → Lpe) : (x.mod f).lpe = f x.lpe := x.w.blk.modLpe_lpe x.n f

theorem Lx.mod_mod (x : Lx) (f g : Lpe → Lpe) : (x.mod f).mod g = x.mod fun l => g (f l) := by
  have h := x.lpe_mod f
  change (x.mod f).on (fun b => { b with lpes := b.lpes.put x.n (g (x.mod f).lpe) }) = _
  rw [h]
  exact congrArg (fun t : Tab Lpe => x.on fun b => { b with lpes := t }) (Tab.put_put x.w.blk.lpes x.n (f x.lpe) (g (f x.lpe)))

/-- Writing a record of a state region touches no invalidation. -/
theorem Lx.writeState_invals (x : Lx) (id r off : Nat) (data : Bytes) :
    (x.writeState id r off data).lpe.invals = x.lpe.invals := by
  have hmod : ∀ (f : Lpe → Lpe) (a : Nat), ({ x.mod f with w := (x.mod f).w.write a data } : Lx).lpe = f x.lpe :=
    fun f _ => x.lpe_mod f
  unfold Lx.writeState
  dsimp only
  rw [hmod]

theorem Lx.writeDir_invals (x : Lx) (job : Nat) (j : Job) (line : Nat) (b : Bytes) :
    (x.writeDir job j line b).lpe.invals = x.lpe.invals := by
  unfold Lx.writeDir
  split
  · rfl
  · exact x.writeState_invals ..

/-! ## Receiving (R181, R213) -/

/-- What the receive checks pass carries the packet's own header. -/
theorem Lx.openRx_hdr {x : Lx} {hdr : BitVec 256} {payload tag : Bytes} {r : Rx} (h : (x.openRx hdr payload tag).1 = .ok r) :
    r.h = Hdr.read hdr := by
  unfold Lx.openRx at h
  dsimp only at h
  repeat' split at h
  all_goals cases h
  rfl

/-- A packet that no other holds up, and none of whose accesses must wait, is taken. -/
theorem Lx.receive_take {x y : Lx} {e : RxPacket × Access} (hm : x.mustHold e.1 = false) (hy : (x.patient true).take e = y)
    (hs : y.w.stuck = false) : x.receive e = y.patient x.w.patient := by
  unfold Lx.receive
  rw [hm, if_neg Bool.false_ne_true, hy]
  dsimp only
  rw [hs, if_neg Bool.false_ne_true]

/-- A row answers with what taking its packet leaves. -/
theorem servesPacket_of_take {s : State} {p : RxPacket} {acc : Access} {ty : Nat} {c : Instr} {y : Lx}
    (hc : exec c s = atLphy s ty p acc) (ho : PortOpen (.lphy p.lpe) s) (ht : (Hdr.read p.hdr).ty = ty)
    (hr : s.blk.mayReceive p = true) (hm : (s.rxStart p acc).mustHold p = false)
    (hy : (s.rxStart p acc).take (p, acc) = y) : ServesPacket c s y := by
  intro hs
  have hgo : ((Hdr.read p.hdr).ty = ty && s.work.blk.mayReceive p) = true := Bool.and_eq_true_iff.mpr ⟨decide_eq_true ht, hr⟩
  unfold AnswersWork
  rw [hc, atLphy, atPort_open _ ho.1 ho.2]
  refine onMemory_done ((if_pos hgo).trans ?_)
  exact congrArg Lx.done (Lx.receive_take (x := (s.work.lx p.lpe acc).on fun b => b.takeBeats p.lpe (rxBeats p)) hm hy hs)

/-- A packet that opens is served. -/
theorem take_passes {ty : Nat} {s : State} {p : RxPacket} {acc : Access} {r : Rx} (h : Passes ty s p acc r) (hty : ty ≠ 0x31) :
    (s.rxStart p acc).take (p, acc) = (s.rxAfter p acc).serve r := by
  obtain ⟨-, ht, -, hf, -, hok⟩ := h
  have hform : (!s.blk.rxFormOk p) = false := by rw [hf]; rfl
  have hopen : (s.rxStart p acc).openRx p.hdr (unitBytes p.payload) (toLe 16 p.tag.toNat) = (.ok r, s.rxAfter p acc) :=
    Prod.ext hok rfl
  unfold Lx.take
  dsimp only
  rw [if_neg (ht.trans_ne hty)]
  refine (if_neg (ne_true_of_eq_false hform)).trans ?_
  change (match (s.rxStart p acc).openRx p.hdr (unitBytes p.payload) (toLe 16 p.tag.toNat) with
    | (.ok r, x) => x.serve r
    | (.wait, x) => x.hold (p, acc)
    | (.dropped, x) => x) = _
  rw [hopen]

theorem Passes.ty {ty : Nat} {s : State} {p : RxPacket} {acc : Access} {r : Rx} (h : Passes ty s p acc r) : r.h.ty = ty := by
  obtain ⟨-, ht, -, -, -, hok⟩ := h
  rw [Lx.openRx_hdr hok, ht]

/-- The row of a TYPE other than AGG serves what opened. -/
theorem servesPacket_of_serve {row : RxPacket → Access → Instr} {ty : Nat} {s : State} {p : RxPacket} {acc : Access} {r : Rx}
    {y : Lx} (hc : exec (row p acc) s = atLphy s ty p acc) (h : Passes ty s p acc r) (hty : ty ≠ 0x31)
    (hy : (s.rxAfter p acc).serve r = y) : ServesPacket (row p acc) s y := by
  have htake := (take_passes h hty).trans hy
  obtain ⟨ho, ht, hr, -, hm, -⟩ := h
  exact servesPacket_of_take hc ho ht hr hm htake

/-- A completion of any of the three TYPEs meets its request. -/
theorem Lx.serve_cpl {x : Lx} {r : Rx} (h : r.h.ty = 0x10 ∨ r.h.ty = 0x11 ∨ r.h.ty = 0x12) : x.serve r = x.serveCpl r :=
  if_pos (by rcases h with h | h | h <;> rw [h] <;> rfl)

end Sys2Proof.Machine

namespace Sys2Proof.Proofs

open Sys2Proof Sys2Proof.Machine

/-- Each row serves what opened by its TYPE. -/
theorem packetsMeetTheirRows : Parts.PacketsMeetTheirRows := by
  refine ⟨?_, ?_, ?_, ?_, ?_, ?_, ?_, ?_, ?_, ?_, ?_, ?_, ?_, ?_, ?_⟩
  case refine_15 =>
    intro s p acc ho ht hr hm
    refine servesPacket_of_take rfl ho ht hr hm ?_
    unfold Lx.take
    exact if_pos ht
  case refine_8 | refine_9 | refine_10 =>
    intro s p acc r h
    exact servesPacket_of_serve rfl h (by decide) (Lx.serve_cpl (by rw [h.ty]; decide))
  all_goals
    intro s p acc r h
    refine servesPacket_of_serve rfl h (by decide) ?_
    unfold Lx.serve
    rw [h.ty]
    rfl

end Sys2Proof.Proofs
end

section
/-! The home's operations and the directory's packets complete (R186 to R200). -/

namespace Sys2Proof.Machine

open Sys2Proof Sys2Proof.Machine.Crypto

/-! ## The home's operations (R189 to R192, R196) -/

/-- A LOAD whose range reads well answers with the data; in the group class by one MULTI packet. -/
theorem Lx.serveLoad_ok {x : Lx} {r : Rx} {o : OpBlock} {n : Nat} {k : Asker} (hh : x.home r = some (o, n, k))
    (hok : (x.loads o n k).1 = .ok) :
    x.serveLoad r =
      if r.h.pclass = 1 then
        (x.after (x.loads o n k).2.2).send
          { ty := 0x11, pclass := 1, multi := true, dst := r.h.src, job := r.h.job
            dport := (x.after (x.loads o n k).2.2).w.blk.self % 4, opd := r.h.opd, payload := (x.loads o n k).2.1 }
      else (x.after (x.loads o n k).2.2).reply r.h 0x11 (x.loads o n k).2.1 := by
  unfold Lx.serveLoad
  rw [hh]
  exact if_neg (not_not_intro hok)

/-- A LOAD_CACHE whose line reads well, and whose directory entry does, answers by what the entry says. -/
theorem Lx.serveLoadCache_ok {x : Lx} {r : Rx} {o : OpBlock} {n : Nat} {k : Asker} {d : Status × Bytes × Serving}
    {e : Status × DirEntry × Lx} (hh : x.home r = some (o, n, k))
    (hd : d = Serving.readPieces k [(128 * (o.addr / 128), 0, 128)] x.serving) (hdok : d.1 = .ok)
    (he : e = (x.after d.2.2).readDir r.h.job r.job (o.addr / 128)) (heok : e.1 = .ok) :
    x.serveLoadCache r =
      if ((e.2.1.valid && decide (e.2.1.line ≠ o.addr / 128)) || e.2.2.invalidating r.h.job (o.addr / 128)) = true then
        e.2.2.reply r.h 0x12 d.2.1
      else
        (e.2.2.writeDir r.h.job r.job (o.addr / 128) (e.2.1.share (o.addr / 128) r.h.src r.h.sender).bytes).reply r.h 0x11
          d.2.1 := by
  subst hd
  unfold Lx.serveLoadCache
  rw [hh]
  dsimp only
  rw [if_neg (not_not_intro hdok), ← he, show e = (.ok, e.2.1, e.2.2) from Prod.ext heok rfl]

/-- A STORE answers with how its writes ended. -/
theorem Lx.serveStore_home {x : Lx} {r : Rx} {o : OpBlock} {n : Nat} {k : Asker} (hh : x.home r = some (o, n, k)) :
    x.serveStore r = (x.after (x.saves r o n k).2).replyCpl r.h (x.saves r o n k).1 0 := by
  unfold Lx.serveStore
  rw [hh]
  rfl

/-- An ATOMIC that changes its 8 bytes answers with the old value. -/
theorem Lx.serveAtomic_ok {x : Lx} {r : Rx} {o : OpBlock} {n : Nat} {k : Asker} {y : Status × Nat × Serving}
    (hh : x.home r = some (o, n, k)) (hy : y = x.changes k o.addr (fun old => atomicNew o.aop old o.o1 o.o2))
    (hok : y.1 = .ok) : x.serveAtomic r = (x.after y.2.2).replyCpl r.h .ok y.2.1 := by
  unfold Lx.serveAtomic
  rw [hh]
  change (x.after (x.changes k o.addr _).2.2).replyCpl r.h (x.changes k o.addr _).1
    (if (x.changes k o.addr _).1 = .ok then (x.changes k o.addr _).2.1 else 0) = _
  rw [← hy, hok, if_pos rfl]

/-- A COPY whose data and counter write well answers nothing and leaves the counter raised. -/
theorem Lx.serveCopy_ok {x : Lx} {r : Rx} {o : OpBlock} {n : Nat} {k : Asker} (hh : x.home r = some (o, n, k))
    (hok : (x.saves r o n k).1 = .ok) : x.serveCopy r = (x.after (x.saves r o n k).2).raiseCount r o.cnt (n / 64) := by
  unfold Lx.serveCopy
  rw [hh]
  exact if_pos hok

theorem Lx.raiseCount_ok {x : Lx} {r : Rx} {cnt units : Nat} {q : Asker} {y : Status × Nat × Serving} (hal : cnt % 8 = 0)
    (hlt : cnt < 2 ^ 42) (hq : x.w.blk.homeAsker r.h.job r.job cnt 8 = some q)
    (hy : y = x.changes q cnt (fun old => atomicNew 1 old units 0)) (hok : y.1 = .ok) :
    x.raiseCount r cnt units = x.after y.2.2 := by
  have hc : (decide (cnt % 8 = 0) && decide (cnt < 2 ^ 42)) = true :=
    Bool.and_eq_true_iff.mpr ⟨decide_eq_true hal, decide_eq_true hlt⟩
  unfold Lx.raiseCount
  rw [if_pos hc, hq]
  change (if (x.changes q cnt _).1 = .ok then x.after (x.changes q cnt _).2.2 else _) = _
  rw [← hy, if_pos hok]

/-! ## The directory (R194 to R200) -/

theorem Hdr.read_job (x : BitVec 256) : (Hdr.read x).job < 2 ^ 16 := fld_lt _ 48 16

/-- The one invalidation of a line, not begun, that finds no valid entry completes at once. -/
theorem Lx.startInval_free {x : Lx} {job line : Nat} {j : Job} {i : HomeInval} {e : Status × DirEntry × Lx}
    (hx : x.lpe.invals = [i]) (hj : i.job.toNat = job) (hl : i.line = line) (hb : i.begun = false)
    (he : e = x.readDir job j line) (heok : e.1 = .ok) (hi : e.2.2.lpe.invals = [i])
    (hnone : e.2.1.valid = false ∨ e.2.1.line ≠ line) :
    Lx.startInval job j line 1 x = (e.2.2.mod fun l => { l with invals := [] }).replyCpl (Hdr.read i.hdr) .ok 0 := by
  have hfind : x.lpe.invals.find? (fun k => k.job.toNat = job && k.line = line) = some i := by
    rw [hx, List.find?_cons_of_pos (by simp [hj, hl])]
  have hgo : (!e.2.1.valid || decide (e.2.1.line ≠ line)) = true := by simpa using hnone
  have herase : e.2.2.mod (fun l => { l with invals := l.invals.erase i }) = e.2.2.mod fun l => { l with invals := [] } :=
    Lx.mod_congr (by rw [hi, List.erase_cons_head])
  unfold Lx.startInval
  rw [hfind]
  dsimp only
  rw [hb, if_neg Bool.false_ne_true, ← he, show e = (.ok, e.2.1, e.2.2) from Prod.ext heok rfl]
  dsimp only
  rw [if_pos hgo, herase]
  rfl

/-- The one invalidation of a line, not begun, that finds readers sends each an INVAL and waits. -/
theorem Lx.startInval_read {x : Lx} {job line : Nat} {j : Job} {i : HomeInval} {e : Status × DirEntry × Lx}
    (hx : x.lpe.invals = [i]) (hj : i.job.toNat = job) (hl : i.line = line) (hb : i.begun = false)
    (he : e = x.readDir job j line) (heok : e.1 = .ok) (hi : e.2.2.lpe.invals = [i]) (hv : e.2.1.valid = true)
    (hline : e.2.1.line = line) (hto : e.2.2.w.blk.invalTargets j e.2.1 ≠ []) :
    Lx.startInval job j line 1 x =
      (e.2.2.mod fun l => { l with invals := [{ i with begun := true, readers := e.2.2.w.blk.invalTargets j e.2.1 }] }).sendInvals
        job line (e.2.2.w.blk.invalTargets j e.2.1) := by
  have hfind : x.lpe.invals.find? (fun k => k.job.toNat = job && k.line = line) = some i := by
    rw [hx, List.find?_cons_of_pos (by simp [hj, hl])]
  have hgo : ¬(!e.2.1.valid || decide (e.2.1.line ≠ line)) = true := by simp [hv, hline]
  have hsome : ¬(e.2.2.w.blk.invalTargets j e.2.1).isEmpty = true := by simpa using hto
  unfold Lx.startInval
  rw [hfind]
  dsimp only
  rw [hb, if_neg Bool.false_ne_true, ← he, show e = (.ok, e.2.1, e.2.2) from Prod.ext heok rfl]
  dsimp only
  rw [if_neg hgo, if_neg hsome]
  refine congrArg (fun y => Lx.sendInvals y job line (e.2.2.w.blk.invalTargets j e.2.1)) (Lx.mod_congr ?_)
  rw [hi, List.map_cons, if_pos rfl, List.map_nil]

/-- An INVALIDATE of a range inside one line joins the invalidations, and the first of its line starts. -/
theorem Lx.serveInvalidate_alone {x : Lx} {r : Rx} (hok : (OpBlock.read r.body).ok 0x07 r.body = true)
    (hin : (OpBlock.read r.body).addr % 128 + 64 * ((OpBlock.read r.body).rlen + 1) ≤ 128) (hx : x.lpe.invals = []) :
    x.serveInvalidate r =
      Lx.startInval r.h.job r.job ((OpBlock.read r.body).addr / 128) 1
        (x.mod fun l =>
          { l with
            invals :=
              [{ line := (OpBlock.read r.body).addr / 128, job := BitVec.ofNat 16 r.h.job, hdr := r.h.bits }] }) := by
  have hgo : ¬(!(OpBlock.read r.body).ok 0x07 r.body ||
      decide (128 < (OpBlock.read r.body).addr % 128 + 64 * ((OpBlock.read r.body).rlen + 1))) = true := by
    simp [hok, hin]
  unfold Lx.serveInvalidate
  rw [if_neg hgo, hx]
  refine congrArg _ (Lx.mod_congr ?_)
  rw [hx, List.nil_append]

/-- With nothing invalidated here, an acknowledgement answers none. -/
theorem Lx.takeAck_none {x : Lx} (r : Rx) (line : Nat) (hx : x.lpe.invals = []) : x.takeAck r line = (false, x) := by
  unfold Lx.takeAck
  rw [hx]
  rfl

/-- The one invalidation that awaits a reader is the one its acknowledgement meets. -/
theorem Lx.takeAck_find {x : Lx} {r : Rx} {line : Nat} {i : HomeInval} (hx : x.lpe.invals = [i]) (hb : i.begun = true)
    (hj : i.job.toNat = r.h.job) (hl : i.line = line) (hw : (r.h.src, r.h.sender) ∈ i.readers) :
    x.lpe.invals.find? (fun i => i.begun && i.job.toNat = r.h.job && i.line = line &&
      List.contains i.readers (r.h.src, r.h.sender)) = some i := by
  rw [hx, List.find?_cons_of_pos (by simp [hb, hj, hl, hw])]

/-- The last reader's acknowledgement completes the INVALIDATE and zeroes the entry. -/
theorem Lx.takeAck_last {x y : Lx} {r : Rx} {line : Nat} {i : HomeInval} {e : Status × DirEntry × Lx} (hx : x.lpe.invals = [i])
    (hb : i.begun = true) (hj : i.job.toNat = r.h.job) (hl : i.line = line) (hw : i.readers = [(r.h.src, r.h.sender)])
    (hy : y = (x.mod fun l => { l with invals := [] }).replyCpl (Hdr.read i.hdr) .ok 0)
    (he : e = y.readDir r.h.job r.job line) (heok : e.1 = .ok) (hi : e.2.2.lpe.invals = []) :
    x.takeAck r line = (true, e.2.2.writeDir r.h.job r.job line (toLe 32 0)) := by
  have hfind := Lx.takeAck_find hx hb hj hl (r := r) (by rw [hw]; exact List.mem_singleton_self _)
  have hleft : (i.readers.erase (r.h.src, r.h.sender)).isEmpty = true := by rw [hw, List.erase_cons_head]; rfl
  have herase : x.mod (fun l => { l with invals := l.invals.erase i }) = x.mod fun l => { l with invals := [] } :=
    Lx.mod_congr (by rw [hx, List.erase_cons_head])
  have hend := (e.2.2.writeDir_invals r.h.job r.job line (toLe 32 0)).trans hi
  unfold Lx.takeAck
  dsimp only
  rw [hfind]
  dsimp only
  rw [if_pos hleft, herase, ← hy, ← he, show e = (.ok, e.2.1, e.2.2) from Prod.ext heok rfl]
  dsimp only
  rw [hend]
  rfl

/-- Another reader's acknowledgement strikes it off. -/
theorem Lx.takeAck_more {x : Lx} {r : Rx} {line : Nat} {i : HomeInval} (hx : x.lpe.invals = [i]) (hb : i.begun = true)
    (hj : i.job.toNat = r.h.job) (hl : i.line = line) (hw : (r.h.src, r.h.sender) ∈ i.readers)
    (hleft : i.readers.erase (r.h.src, r.h.sender) ≠ []) :
    x.takeAck r line =
      (true, x.mod fun l => { l with invals := [{ i with readers := i.readers.erase (r.h.src, r.h.sender) }] }) := by
  have hfind := Lx.takeAck_find hx hb hj hl hw
  have hsome : ¬(i.readers.erase (r.h.src, r.h.sender)).isEmpty = true := by simpa using hleft
  unfold Lx.takeAck
  dsimp only
  rw [hfind]
  dsimp only
  rw [if_neg hsome]
  refine congrArg (Prod.mk true) (Lx.mod_congr ?_)
  rw [hx, List.map_cons, if_pos rfl, List.map_nil]

/-- An acknowledgement that is awaited leaves what taking it leaves. -/
theorem Lx.serveInvalAck_taken {x y : Lx} {r : Rx} (h : x.takeAck r ((OpBlock.read r.body).addr / 128) = (true, y)) :
    x.serveInvalAck r = y := by
  unfold Lx.serveInvalAck
  rw [h]
  rfl

/-- An EVICT from a sharer, with nothing invalidated here, clears its slot. -/
theorem Lx.serveEvict_sharer {x : Lx} {r : Rx} {e : Status × DirEntry × Lx}
    (he : e = x.readDir r.h.job r.job ((OpBlock.read r.body).addr / 128)) (heok : e.1 = .ok) (hv : e.2.1.valid = true)
    (hline : e.2.1.line = (OpBlock.read r.body).addr / 128) (hbc : e.2.1.bcast = false)
    (hs : sharerWord r.h.src r.h.sender ∈ e.2.1.sharers) (hi : e.2.2.lpe.invals = []) :
    x.serveEvict r = e.2.2.writeDir r.h.job r.job e.2.1.line (e.2.1.unshare r.h.src r.h.sender).bytes := by
  have hknown : (e.2.1.valid && decide (e.2.1.line = (OpBlock.read r.body).addr / 128)) = true := by simp [hv, hline]
  have hslot : List.contains e.2.1.sharers (sharerWord r.h.src r.h.sender) = true := by simpa using hs
  have hack (b : Bytes) := Lx.takeAck_none r ((OpBlock.read r.body).addr / 128)
    ((e.2.2.writeDir_invals r.h.job r.job ((OpBlock.read r.body).addr / 128) b).trans hi)
  unfold Lx.serveEvict
  dsimp only
  rw [← he, show e = (.ok, e.2.1, e.2.2) from Prod.ext heok rfl]
  dsimp only
  rw [hknown, hbc, hslot, if_pos (show (true && !false && true) = true from rfl), hack, hline]
  rfl

end Sys2Proof.Machine

namespace Sys2Proof.Proofs

open Sys2Proof Sys2Proof.Machine

/-- The home's operations answer as their accesses ended. -/
theorem homePacketsComplete : Parts.HomePacketsComplete := by
  obtain ⟨hload, hcache, hstore, hatomic, hcopy, -⟩ := packetsMeetTheirRows
  intro s p acc r o n k
  refine ⟨fun h hh hok => ⟨fun hp => ?_, fun hp => ?_⟩,
    fun h hh d hd hdok e he heok => ⟨fun hfree hinv => ?_, fun hheld => ?_⟩,
    fun h hh hok => ?_, fun h hh y hy hok => ?_, fun h hh hok hal hlt x q y hx hq hy hyok => ?_⟩
  · have heq := Lx.serveLoad_ok hh hok
    rw [hp, if_neg (by decide)] at heq
    exact heq ▸ hload s p acc r h
  · have heq := (Lx.serveLoad_ok hh hok).trans (if_pos hp)
    exact heq ▸ hload s p acc r h
  · have heq := (Lx.serveLoadCache_ok hh hd hdok he heok).trans (if_neg (by rcases hfree with hf | hf <;> simp [hf, hinv]))
    exact heq ▸ hcache s p acc r h
  · have heq := (Lx.serveLoadCache_ok hh hd hdok he heok).trans (if_pos (by simpa using hheld))
    exact heq ▸ hcache s p acc r h
  · have heq := Lx.serveStore_home hh
    rw [hok] at heq
    exact heq ▸ hstore s p acc r h
  · exact Lx.serveAtomic_ok hh hy hok ▸ hatomic s p acc r h
  · subst hx
    have heq := (Lx.serveCopy_ok hh hok).trans (Lx.raiseCount_ok hal hlt hq hy hyok)
    exact heq ▸ hcopy s p acc r h

/-- The directory's packets do what its entry and the invalidations here say. -/
theorem directoryPacketsComplete : Parts.DirectoryPacketsComplete := by
  obtain ⟨-, -, -, -, -, -, hinvalidate, -, -, -, hinval, hack, hevict, htear, -⟩ := packetsMeetTheirRows
  intro s p acc r
  refine ⟨fun i x e h hok hin hx hi hxe he heok hei => ?_, fun h => ?_,
    fun i h hx hb hj hl => ⟨fun x e hw hy he heok hi => ?_, fun hw hleft => ?_⟩, fun e h he heok hv hline hbc hs hi => ?_, fun h => htear s p acc r h⟩
  · have hxi : x.lpe.invals = [i] := by rw [hxe, Lx.lpe_mod]
    have hjob : i.job.toNat = r.h.job := by
      rw [hi, BitVec.toNat_ofNat, Lx.openRx_hdr h.2.2.2.2.2]
      exact Nat.mod_eq_of_lt (Hdr.read_job _)
    have hline : (OpBlock.read r.body).addr / 128 = i.line := by rw [hi]
    have hstart := Lx.serveInvalidate_alone hok hin hx
    rw [← hi, ← hxe, hline] at hstart
    have hb : i.begun = false := by rw [hi]
    refine ⟨fun hnone => ?_, fun hv hl hto => ?_⟩
    · exact (hstart.trans (Lx.startInval_free hxi hjob rfl hb he heok hei hnone)) ▸ hinvalidate s p acc r h
    · exact (hstart.trans (Lx.startInval_read hxi hjob rfl hb he heok hei hv hl hto)) ▸ hinvalidate s p acc r h
  · refine Eq.mp (congrArg (ServesPacket (.rxInval p acc) s) ?_) (hinval s p acc r h)
    unfold Lx.serveInval
    simp only [Bool.and_eq_true, decide_eq_true_eq, and_assoc]
    rfl
  · have heq := Lx.takeAck_last hx hb hj hl hw hy (hl ▸ he) heok hi
    rw [hl]
    exact Lx.serveInvalAck_taken heq ▸ hack s p acc r h
  · exact Lx.serveInvalAck_taken (Lx.takeAck_more hx hb hj hl hw hleft) ▸ hack s p acc r h
  · exact Lx.serveEvict_sharer he heok hv hline hbc hs hi ▸ hevict s p acc r h

end Sys2Proof.Proofs
end

section
/-! Reductions, completions and aggregates at a fabric port; the packets are served (R191, R202 to R206, R226 to R230). -/

namespace Sys2Proof.Machine

open Sys2Proof Sys2Proof.Machine.Crypto

/-! ## REDUCE payloads (R228 to R230) -/

/-- A payload that passes the checks of R228 is combined or accumulated. -/
theorem Lx.takeReduce_ok {x : Lx} {h : Hdr} {fn : Nat} {p : Bytes} {k : Reduction}
    (hk : x.w.blk.reduction? (RedBlock.read p).slot = some k) (hlive : k.ended = false) (hj : k.job.toNat = h.job)
    (hc : k.call.toNat = (RedBlock.read p).call)
    (hs : (RedBlock.read p).shapeOk k x.w.blk.build.kilns (x.n / 4) p.length = true)
    (hp : x.w.blk.phaseOk (RedBlock.read p) k (x.n / 4) = true) (ha : (RedBlock.read p).anchorsOk p = true) :
    x.takeReduce h fn p = x.applyReduce (RedBlock.read p) k p := by
  have hmine : (x.w.blk.reduction? (RedBlock.read p).slot).filter (fun k => !k.ended && decide (k.job.toNat = h.job) &&
      decide (k.call.toNat = (RedBlock.read p).call)) = some k := by
    rw [hk, Option.filter_some_pos (by simp [hlive, hj, hc])]
  unfold Lx.takeReduce
  dsimp only
  rw [hmine]
  exact if_pos (by simp [hs, hp, ha])

/-! ## Completions (R191, R202, R206) -/

/-- What changes a listed value and then deletes it deletes it. -/
theorem Tab.del_upd {α : Type} (t : Tab α) (k : Nat) (f : α → α) : Tab.del (Tab.upd t k f) k = Tab.del t k := by
  induction t with
  | nil => rfl
  | cons e t ih =>
    unfold Tab.del Tab.upd at ih ⊢
    by_cases he : e.1 = k
    · simpa [he] using ih
    · simpa [he] using ih

/-- A completion that meets its request changes it, installs its line and ends it. -/
theorem Lx.serveCpl_met {x : Lx} {r : Rx} {o : Outstanding} {st : Status} (h : Completes x r o st) :
    x.serveCpl r =
      ((((x.countOpened r.h).modReq r.h.rtag fun o =>
        { o.worsen st with seqs := o.seqs.erase r.h.opd, data := if st = .ok then r.brought o else o.data }).install r o).endReq
          r.h.rtag) := by
  obtain ⟨hmulti, hget, hseqs, -, -, -, hst⟩ := h
  have hmeet : (x.lpe.rtags.get? r.h.rtag).filter (fun o => List.contains o.seqs r.h.opd) = some o := by
    rw [hget, Option.filter_some_pos (by simp [hseqs])]
  unfold Lx.serveCpl
  rw [hmulti, if_neg Bool.false_ne_true, hmeet, hst]

/-- The request that its one completion has answered ends with the completion's status. -/
theorem Lx.endReq_settle {y z : Lx} {r : Rx} {o : Outstanding} {st : Status}
    (hnow : y.lpe.rtags.get? r.h.rtag = some (o.completed r st)) (hseqs : o.seqs = [r.h.opd]) (hun : o.unsent = 0)
    (hk : o.kiln = none)
    (hdel : (y.mod fun l => { l with rtags := Tab.del l.rtags r.h.rtag }) = z.mod fun l =>
      { l with rtags := Tab.del l.rtags r.h.rtag }) : y.endReq r.h.rtag = z.settle r (o.completed r st) st := by
  have hdone : (decide ((o.completed r st).unsent = 0) && (o.completed r st).seqs.isEmpty) = true := by
    simp [Outstanding.completed, hun, hseqs]
  have hn : y.n = z.n := (congrArg Lx.n hdel :)
  unfold Lx.endReq
  rw [hnow]
  dsimp only
  rw [if_pos hdone, hdel, hn]
  unfold Lx.settle Block.answerOut
  rw [show (o.completed r st).kiln = none from hk]
  rfl

/-- What a completion with a status makes of a request. -/
def Outstanding.met (r : Rx) (st : Status) (o : Outstanding) : Outstanding :=
  { o.worsen st with seqs := o.seqs.erase r.h.opd, data := if st = .ok then r.brought o else o.data }

theorem Outstanding.met_eq {o : Outstanding} (r : Rx) (st : Status) (h : o.status = .ok) : o.met r st = o.completed r st := by
  unfold Outstanding.met Outstanding.worsen
  rw [if_pos h]
  rfl

theorem Lx.modReq_get {x : Lx} {k : Nat} {o : Outstanding} (f : Outstanding → Outstanding) (h : x.lpe.rtags.get? k = some o) :
    (x.modReq k f).lpe.rtags.get? k = some (f o) := by
  unfold Lx.modReq
  rw [Lx.lpe_mod]
  exact (Tab.get?_upd_same _ _ _).trans (congrArg (Option.map f) h)

/-- A completion of a request that needs no line of the cache settles it. -/
theorem Lx.serveCpl_settles {x : Lx} {r : Rx} {o : Outstanding} {st : Status} (h : Completes x r o st)
    (hno : ¬(decide (r.h.ty = 0x11) && decide (o.req.ty = 1) && !o.marked) = true) :
    x.serveCpl r = (x.countOpened r.h).settle r (o.completed r st) st := by
  rw [Lx.serveCpl_met h]
  obtain ⟨-, hget, hseqs, hun, hk, hst, -⟩ := h
  unfold Lx.install
  rw [if_neg hno]
  refine Lx.endReq_settle (y := (x.countOpened r.h).modReq r.h.rtag (Outstanding.met r st)) ?_ hseqs hun hk ?_
  · exact (Lx.modReq_get (x := x.countOpened r.h) _ hget).trans (congrArg some (Outstanding.met_eq r st hst))
  · unfold Lx.modReq
    rw [Lx.mod_mod]
    exact Lx.mod_congr (by dsimp only; rw [Tab.del_upd])

/-- A frame joins a cache with room. -/
theorem Lx.putFrame_room {x : Lx} (f : RemoteLine) (h : x.lpe.remote.length < remoteFrames) :
    x.putFrame f = x.mod fun l => { l with remote := f :: l.remote } := by
  have hle : x.lpe.remote.length ≤ remoteFrames - 1 := Nat.le_sub_one_of_lt h
  unfold Lx.putFrame
  rw [List.drop_eq_nil_of_le hle]
  exact Lx.mod_congr (by rw [List.take_of_length_le hle])

/-- The frame that a LOAD_CACHE's line fills. -/
def Lx.frameOf (x : Lx) (r : Rx) (o : Outstanding) : RemoteLine :=
  { home := o.req.dst, job := o.req.job, line := o.req.addr.toNat / 128, data := BitVec.ofNat 1024 (le r.body)
    chain := (x.w.blk.chain r.job.slot).getD [] }

/-- A line for a LOAD_CACHE that no INVAL has met is installed, and its request settled. -/
theorem Lx.serveCpl_installs {x : Lx} {r : Rx} {o : Outstanding} {st : Status} (h : Completes x r o st) (hty : r.h.ty = 0x11)
    (hreq : o.req.ty = 1) (hmark : o.marked = false) (hroom : x.lpe.remote.length < remoteFrames) :
    x.serveCpl r =
      ((x.countOpened r.h).mod fun l =>
        { l with remote := (x.countOpened r.h).frameOf r o :: l.remote }).settle r (o.completed r st) st := by
  rw [Lx.serveCpl_met h]
  obtain ⟨-, hget, hseqs, hun, hk, hst, -⟩ := h
  have hyes : (decide (r.h.ty = 0x11) && decide (o.req.ty = 1) && !o.marked) = true := by simp [hty, hreq, hmark]
  have hput := Lx.putFrame_room (x := (x.countOpened r.h).modReq r.h.rtag (Outstanding.met r st))
    ((x.countOpened r.h).frameOf r o)
    (Eq.mpr (congrArg (fun l : Lpe => l.remote.length < remoteFrames) ((x.countOpened r.h).lpe_mod _)) hroom)
  unfold Lx.install
  rw [if_pos hyes]
  refine (congrArg (fun y => Lx.endReq y r.h.rtag) hput).trans (Lx.endReq_settle ?_ hseqs hun hk ?_)
  · rw [Lx.lpe_mod]
    dsimp only
    exact (Lx.modReq_get (x := x.countOpened r.h) _ hget).trans (congrArg some (Outstanding.met_eq r st hst))
  · unfold Lx.modReq
    rw [Lx.mod_mod, Lx.mod_mod, Lx.mod_mod]
    exact Lx.mod_congr (by dsimp only; rw [Tab.del_upd])

/-! ## AGG (R203, R204) -/

/-- A payload of two units is one record. -/
theorem split_record (a b : Unit64) : split 128 (unitBytes [a, b]) = [unitBytes [a, b]] := by
  have hlen : (unitBytes [a, b]).length = 128 := by simp [unitBytes]
  have hne : (unitBytes [a, b]).isEmpty = false := rfl
  unfold split
  rw [hlen]
  unfold pieces
  rw [hne, if_neg Bool.false_ne_true, List.take_of_length_le hlen.le, List.drop_eq_nil_of_le hlen.le]
  rfl

/-- A record that passes R181 for itself is served as an ATOMIC. -/
theorem Lx.aggRecord_passes {x y : Lx} {d : Bytes} {r : Rx} (hh : r.h = Hdr.read (BitVec.ofNat 256 (le (slice d 0 32))))
    (ht : r.h.ty = 0x04) (hc : r.h.pclass = 2) (hf : r.h.wellFormed 1 = true) (hd : r.h.dst = x.w.blk.self)
    (hm : r.h.multi = false)
    (ho : x.openRx (BitVec.ofNat 256 (le (slice d 0 32))) (slice d 32 64) (slice d 96 16) = (.ok r, y)) :
    x.aggRecord d = (y.countOpened r.h).serveAtomic r := by
  unfold Lx.aggRecord
  dsimp only
  rw [← hh, if_neg (by simp [ht, hc, hf, hd, hm]), ho]

/-- An AGG packet of one record whose fields agree with the packet's header serves the record. -/
theorem Lx.takeAgg_one {x : Lx} {p : RxPacket} {a b : Unit64} {d : Bytes} (hp : p.payload = [a, b]) (hd : d = unitBytes [a, b])
    (he : p.extra = 0) (hc : (Hdr.read p.hdr).pclass = 2) (hdst : (Hdr.read p.hdr).dst = x.w.blk.self)
    (hk : aggKey d = ((Hdr.read p.hdr).dst, (Hdr.read p.hdr).job, (Hdr.read p.hdr).dport, bfld d 32 8, bfld d 42 1)) :
    x.takeAgg p = x.aggRecord d := by
  have hs : split 128 (unitBytes p.payload) = [d] := by rw [hp, hd, split_record]
  unfold Lx.takeAgg
  dsimp only
  rw [hs, if_pos]
  · rfl
  · rw [hp]
    simp [hc, hdst, he, hk]

end Sys2Proof.Machine

namespace Sys2Proof.Proofs

open Sys2Proof Sys2Proof.Machine

/-- A payload that its kiln accepts is combined or accumulated. -/
theorem reducePacketsComplete : Parts.ReducePacketsComplete := by
  obtain ⟨-, -, -, -, -, hreduce, -⟩ := packetsMeetTheirRows
  intro s p acc r k h hk hlive hj hc hs hp ha
  have heq : (s.rxOpened p acc r).takeReduce r.h r.job.fn r.body =
      (s.rxOpened p acc r).applyReduce (RedBlock.read r.body) k r.body := Lx.takeReduce_ok hk hlive hj hc hs hp ha
  refine ⟨fun hx => ?_, fun v hx hv => ?_⟩
  · refine Eq.mp (congrArg (ServesPacket (.rxReduce p acc) s) (heq.trans ?_)) (hreduce s p acc r h)
    unfold Lx.applyReduce
    rw [hx, if_neg Bool.false_ne_true]
  · refine Eq.mp (congrArg (ServesPacket (.rxReduce p acc) s) (heq.trans ?_)) (hreduce s p acc r h)
    unfold Lx.applyReduce
    rw [hx, if_pos rfl]
    dsimp only
    rw [hv]

/-- A completion settles the request that it answers last. -/
theorem completionsComplete : Parts.CompletionsComplete := by
  obtain ⟨-, -, -, -, -, -, -, hcpl, hdata, hnc, -⟩ := packetsMeetTheirRows
  intro s p acc r o
  refine ⟨fun st h hc => ?_, fun h hc => ⟨fun hno => ?_, fun hreq hmark hroom => ?_⟩, fun h hm => ?_, fun h hc => ?_⟩
  · exact Lx.serveCpl_settles hc (by simp [h.ty]) ▸ hcpl s p acc r h
  · have hkeep : ¬(decide (r.h.ty = 0x11) && decide (o.req.ty = 1) && !o.marked) = true := by
      rcases hno with hn | hn
      · rw [decide_eq_false hn]
        simp
      · simp [hn]
    exact Lx.serveCpl_settles hc hkeep ▸ hdata s p acc r h
  · exact Lx.serveCpl_installs hc h.ty hreq hmark hroom ▸ hdata s p acc r h
  · refine Eq.mp (congrArg (ServesPacket (.rxCplData p acc) s) ?_) (hdata s p acc r h)
    exact if_pos hm
  · exact Lx.serveCpl_settles hc (by simp [h.ty]) ▸ hnc s p acc r h

/-- An AGG packet of one record serves its ATOMIC. -/
theorem aggregatesComplete : Parts.AggregatesComplete := by
  obtain ⟨-, -, -, -, -, -, -, -, -, -, -, -, -, -, hagg⟩ := packetsMeetTheirRows
  intro s p acc a b d r x o n k y hp ht hr hm hpay hd he hc hdst hk hh hty hcl hf hrd hmu hopen hhome hy hok
  have hone := Lx.takeAgg_one (x := s.rxStart p acc) hpay hd he hc hdst hk
  have hrec := Lx.aggRecord_passes hh hty hcl hf hrd hmu hopen
  exact (hone.trans (hrec.trans (Lx.serveAtomic_ok hhome hy hok))) ▸ hagg s p acc hp ht hr hm

/-- Settles O32: each row serves what opened by its TYPE, and each service, where its accesses end well, answers as the spec
says. -/
theorem packetsAreServed : Obligations.PacketsAreServed :=
  ⟨packetsMeetTheirRows, homePacketsComplete, reducePacketsComplete, completionsComplete, directoryPacketsComplete,
    aggregatesComplete⟩

end Sys2Proof.Proofs
end
